-- ==== Sys2Proof/Word.lean ====
section
/-! DEFINITION. The words of the frames and records (11.1), and tables with a fixed number of rows:
slot table, tag tables, window tables, pages. -/

namespace Sys2Proof

/-- One byte of a frame, of a page or of the configuration record. -/
abbrev Byte := BitVec 8
/-- A two-byte field (count, block index, list length). -/
abbrev Half := BitVec 16
/-- A four-byte field: an offset, a capacity, an epoch, one item of a list (R202). -/
abbrev Word := BitVec 32

/-- A table of exactly `n` rows: a row is read and written by its number. -/
structure Table (n : Nat) (α : Type) where
  rows : List α
  size : rows.length = n
deriving DecidableEq, Repr

namespace Table

variable {n : Nat} {α β : Type}

/-- The table whose every row is `x`. -/
def fill (n : Nat) (x : α) : Table n α := ⟨List.replicate n x, List.length_replicate⟩

/-- Row `i`. -/
def get (t : Table n α) (i : Fin n) : α := t.rows[i.val]'(by rw [t.size]; exact i.isLt)

/-- The table with row `i` replaced. -/
def set (t : Table n α) (i : Fin n) (x : α) : Table n α :=
  ⟨t.rows.set i.val x, by rw [List.length_set, t.size]⟩

/-- The table with row `i` changed by `f`. -/
def modify (t : Table n α) (i : Fin n) (f : α → α) : Table n α := t.set i (f (t.get i))

/-- The table whose first rows are those of a list, and `d` where the list has no more. -/
def ofList (n : Nat) (d : α) (l : List α) : Table n α :=
  ⟨(List.range n).map fun i => l.getD i d, by rw [List.length_map, List.length_range]⟩

end Table

end Sys2Proof
end

