-- ==== Sys2Proof/Config.lean ====
section
/-! DEFINITION. What one part fixes: the quantities of the scope file's section 7, the factory values, and the
free values, which are constants without a body: nothing can be proved of what they are. -/

namespace Sys2Proof.Config

/-- Bytes in a block and in a page (scope file, section 6). -/
def blockBytes : Nat := 4096
/-- Records in the hold table (R25). -/
def maxHolds : Nat := 48
/-- FIXED records in the hold table, and FIXED hold slots in a configuration record (R25, R159). -/
def maxFixed : Nat := 8
/-- Greatest hold id (R21). -/
def maxHoldId : Nat := 65535
/-- Greatest expiry of a hold, in seconds (R21). -/
def maxExpiry : Nat := 65535
/-- Greatest count of a READ or WRITE (R73). -/
def maxTransfer : Nat := 64
/-- Greatest count of a DISCARD (R73). -/
def maxDiscard : Nat := 65535
/-- Starvation count at which a port enters reservation (R95). -/
def starvationLimit : Nat := 4
/-- Entries in the refusal log (R193). -/
def logSize : Nat := 16
/-- Saturation value of the one-byte counts: overflow, recovery, persist failures (R193, R115, R192). -/
def saturate8 : Nat := 255
/-- Saturation value of the two-byte counts: frame checks, late completions (R48, R115). -/
def saturate16 : Nat := 65535
/-- Least capacity with which a START goes on (R174). -/
def minCapacity : Nat := 4096
/-- Greatest slot count with which an attempt succeeds (R134). -/
def maxSlots : Nat := 16
/-- Failed attempts in a row that fail a bring-up (R134). -/
def maxAttempts : Nat := 3
/-- The limit of one bring-up attempt, in ms (R134). -/
def attemptLimit : Nat := 200
/-- The abandon timer, in ms (R126, R127). -/
def abandonWait : Nat := 100
/-- P-link protocol revision (R50). -/
def revision : Byte := 1#8

/-- Factory media response timeout, in ms (R138); also the timeout of a read in START (R121). -/
def factoryResponse : Nat := 500
/-- Factory transfer timeout, in ms (R138). -/
def factoryTransfer : Nat := 200
/-- Factory drain limit, in ms (R138). -/
def factoryDrain : Nat := 2000
/-- Factory weight of each port (R173). -/
def factoryWeight : Nat := 4

/-- FREE VALUE (log entry 3). Whether the answer to the owner of a slot is sent before the consequences of the
slot's return to FREE (a hold's activation, the end of a drain) reach the port controllers. Chapter 10.1 and 7.6
leave the order open. -/
opaque answerFirst : Nat → Bool

/-- FREE VALUE (log entry 4). Whether the end of a drain is taken before the end of its owner's session when one
event brings both (R155: either may be taken first). -/
opaque drainEndFirst : Nat → Bool

/-- FREE VALUE (log entry 5). How many DATA frames of a DELIVERING read have gone out when its session ends or a
cold reset comes. The manual does not say when each frame goes out. -/
opaque framesSent : Nat → Nat

/-- FREE VALUE (log entry 17). Whether a bridge reset that waits for the writer reaches a port, given by its code, before
the RESET-BRIDGE of that port that waits behind it. R179 makes it an event of each port controller's own, and R180 lets
such a request come first. -/
opaque resetReaches : Nat → Nat → Bool

/-- FREE VALUE (log entry 17). Whether the OK to a RESET-BRIDGE that joins reaches its port controller before the reset
does (R180). -/
opaque joinAnswered : Nat → Bool

end Sys2Proof.Config
end

