-- ==== Sys2Proof/Syntax.lean ====
section
/-! DEFINITION. The commands: one constructor of `Instr` for each row of spec/opcode_table.json, with the operands
that the frame or event carries (chapter 11). -/

namespace Sys2Proof

/-- The three upstream ports. -/
inductive Port where
  | p0 | p1 | p2
deriving DecidableEq, Repr

/-- The ports in the order P0, P1, P2. -/
def Port.all : List Port := [.p0, .p1, .p2]

/-- One value for each port. -/
structure PerPort (α : Type) where
  p0 : α
  p1 : α
  p2 : α
deriving DecidableEq, Repr

namespace PerPort

variable {α β : Type}

/-- The same value at each port. -/
def same (x : α) : PerPort α := ⟨x, x, x⟩

/-- The value at port `p`. -/
def get (t : PerPort α) : Port → α
  | .p0 => t.p0
  | .p1 => t.p1
  | .p2 => t.p2

/-- The values with that of port `p` replaced. -/
def set (t : PerPort α) (p : Port) (x : α) : PerPort α :=
  match p with
  | .p0 => { t with p0 := x }
  | .p1 => { t with p1 := x }
  | .p2 => { t with p2 := x }

/-- The values with that of port `p` changed by `f`. -/
def modify (t : PerPort α) (p : Port) (f : α → α) : PerPort α := t.set p (f (t.get p))

/-- A function applied at each port. -/
def map (f : α → β) (t : PerPort α) : PerPort β := ⟨f t.p0, f t.p1, f t.p2⟩

end PerPort

/-- A request's tag, 0 to 31. -/
abbrev Tag := Fin 32
/-- A media slot, 0 to 15: the downstream tag. -/
abbrev SlotNo := Fin 16
/-- A window, W0 to W15. -/
abbrev WindowNo := Fin 16
/-- A page of the pool. -/
abbrev PageNo := Fin 256

/-- The form of `Block.bytes`: at most 4096 bytes, the last of them not zero. -/
abbrev Block.Canonical (bytes : List Byte) : Prop :=
  bytes.length ≤ Config.blockBytes ∧ bytes.getLast? ≠ some 0#8

/-- One block of 4096 bytes, held as its bytes up to the last one that is not zero: a byte beyond them is zero.
Equal blocks are equal data. -/
structure Block where
  bytes : List Byte
  canonical : Block.Canonical bytes
deriving DecidableEq, Repr

/-- The status of a COMPLETE (R114). -/
inductive MediaStatus where
  | ok | mediaError | range
deriving DecidableEq, Repr

/-- The request kinds of R200. -/
inductive ReqKind where
  | read | write | discard | flush | abort
  | mapRead | holdList | statusRead | logRead | logClear | resetBridge
  | holdPlace | holdRelease
  | stageBegin | stageWindow | stageDrop | stagePort | stageParams | stageRead | stageAbandon | commit
deriving DecidableEq, Repr

/-- Bytes 3 to 15 of a REQUEST header and the bytes that follow it (R200), less the reserved bits, which are not
examined (R199). -/
structure Header where
  target : Byte
  ordered : Bool
  durable : Bool
  count : Half
  offset : Word
  listLength : Half
  list : List Byte
deriving DecidableEq, Repr

/-- A REQUEST frame of a known kind: its tag, and its header, absent when the frame does not hold the whole
16-byte header (R201). -/
structure Request where
  tag : Tag
  header : Option Header
deriving DecidableEq, Repr

/-- A DATA frame from an initiator, by what it holds (R201). -/
inductive DataFrame where
  /-- too short to hold its tag -/
  | noTag
  /-- holds its tag, but its length is not 4100 -/
  | wrongLength (tag : Tag)
  /-- 4100 bytes: tag, block index, block -/
  | whole (tag : Tag) (index : Half) (block : Block)
deriving DecidableEq, Repr

/-- The commands of spec/opcode_table.json, in its order. A frame's command is the frame as received with a good
check value; a link report, a pin and a timer are events of their own. -/
inductive Instr where
  | coldReset
  | rstnRelease
  | plinkLinkUp (p : Port)
  | plinkLinkDown (p : Port)
  | plinkCheckFail (p : Port)
  | unknownKind (p : Port) (kind : Byte)
  | openFrame (p : Port) (revision : Option Byte)
  | closeFrame (p : Port)
  | dataFrame (p : Port) (d : DataFrame)
  | read (p : Port) (r : Request)
  | write (p : Port) (r : Request)
  | discard (p : Port) (r : Request)
  | flush (p : Port) (r : Request)
  | abort (p : Port) (r : Request)
  | mapRead (p : Port) (r : Request)
  | holdList (p : Port) (r : Request)
  | statusRead (p : Port) (r : Request)
  | logRead (p : Port) (r : Request)
  | logClear (p : Port) (r : Request)
  | resetBridge (p : Port) (r : Request)
  | holdPlace (p : Port) (r : Request)
  | holdRelease (p : Port) (r : Request)
  | stageBegin (p : Port) (r : Request)
  | stageWindow (p : Port) (r : Request)
  | stageDrop (p : Port) (r : Request)
  | stagePort (p : Port) (r : Request)
  | stageParams (p : Port) (r : Request)
  | stageRead (p : Port) (r : Request)
  | stageAbandon (p : Port) (r : Request)
  | commit (p : Port) (r : Request)
  | transferTimeout (p : Port) (tag : Tag)
  | lastDataFrameSent (p : Port) (tag : Tag)
  | mlinkLinkUp
  | mlinkLinkDown
  | mlinkCheckFail
  | linkReady
  | identifyReply (capacity : Word) (slots : Byte)
  | mediaData (slot : SlotNo) (index : Half) (block : Block)
  | complete (slot : SlotNo) (status : MediaStatus)
  | abandonAck (slot : SlotNo)
  | responseTimerExpiry (slot : SlotNo)
  | abandonTimerExpiry (slot : SlotNo)
  | attemptLimitExpiry
  | drainLimitExpiry
  | holdExpiry (id : Nat)
  | unknownMediaFrameKind (frame : List Byte)
  | unknownRequestKind (p : Port) (tag : Option Tag) (kind : Option Byte)
deriving DecidableEq, Repr

end Sys2Proof
end

