-- ==== Sys2Proof/WellFormed.lean ====
section
/-! DEFINITION. The form a command's operands have when the command can arise at all. A frame's own faults (a bad
target, a wrong length, a field out of range) are NOT ill-formed commands: the rules answer them. -/

namespace Sys2Proof

/-- The frame kinds an initiator sends (R200). -/
def initiatorKinds : List Byte := [0x01#8, 0x02#8, 0x03#8, 0x04#8]

/-- The request kind codes the P316 knows (R200). -/
def requestCodes : List Byte :=
  [0x01#8, 0x02#8, 0x03#8, 0x04#8, 0x08#8, 0x10#8, 0x11#8, 0x12#8, 0x13#8, 0x14#8, 0x15#8, 0x20#8, 0x21#8,
   0x30#8, 0x31#8, 0x32#8, 0x33#8, 0x34#8, 0x35#8, 0x36#8, 0x37#8]

/-- Whether a media frame, less its check value, has a kind the controller expects from the media, the length of
that kind, and a status of that kind (R203). -/
def mediaFrameKnown : List Byte → Bool
  | [] => false
  | k :: rest =>
    if k = 0x41#8 then rest.length = 0
    else if k = 0x42#8 then rest.length = 5
    else if k = 0x43#8 then rest.length = 2 && (rest.getD 1 0xFF#8).toNat ≤ 2
    else if k = 0x44#8 then rest.length = 3 + Config.blockBytes
    else if k = 0x45#8 then rest.length = 2 && rest.getD 1 0xFF#8 = 0#8
    else false

/-- Well-formed commands. UNKNOWN_KIND has a kind byte outside 01h to 04h (R201); UNKNOWN_REQUEST_KIND has a kind
outside R200, which it can only hold when it also holds its tag; UNKNOWN_MEDIA_FRAME_KIND is a frame with a kind byte
that is not one of R203's; a hold id lies in 1 to 65535 (R21). Every other command is well formed as it is. -/
def Instr.wf : Instr → Bool
  | .unknownKind _ kind => !initiatorKinds.contains kind
  | .unknownRequestKind _ none kind => kind.isNone
  | .unknownRequestKind _ (some _) (some k) => !requestCodes.contains k
  | .unknownRequestKind _ (some _) none => true
  | .holdExpiry id => 1 ≤ id && id ≤ Config.maxHoldId
  | .unknownMediaFrameKind frame => frame ≠ [] && !mediaFrameKnown frame
  | .coldReset | .rstnRelease | .plinkLinkUp _ | .plinkLinkDown _ | .plinkCheckFail _ | .openFrame _ _
  | .closeFrame _ | .dataFrame _ _ | .read _ _ | .write _ _ | .discard _ _ | .flush _ _ | .abort _ _
  | .mapRead _ _ | .holdList _ _ | .statusRead _ _ | .logRead _ _ | .logClear _ _ | .resetBridge _ _
  | .holdPlace _ _ | .holdRelease _ _ | .stageBegin _ _ | .stageWindow _ _ | .stageDrop _ _ | .stagePort _ _
  | .stageParams _ _ | .stageRead _ _ | .stageAbandon _ _ | .commit _ _ | .transferTimeout _ _
  | .lastDataFrameSent _ _ | .mlinkLinkUp | .mlinkLinkDown | .mlinkCheckFail | .linkReady | .identifyReply _ _
  | .mediaData _ _ _ | .complete _ _ | .abandonAck _ | .responseTimerExpiry _ | .abandonTimerExpiry _
  | .attemptLimitExpiry | .drainLimitExpiry => true

end Sys2Proof
end

