-- ==== Sys2Proof/Decode.lean ====
section
/-! DEFINITION. Bytes and commands. No row of spec/opcode_table.json gives bits, so `decodeTableWord` reads none.
The bytes of a received frame become a command by `decodePlink` and `decodeMlink` (R199 to R203); `encodePlink` and
`encodeMlink` write the same frames, as an initiator and the media send them. -/

namespace Sys2Proof

/-- The command that a word spells by the table's bits: the table gives bits to no row. -/
def decodeTableWord (_nbits _w : Nat) : Option Instr := none

/-! ### Bytes, most significant first (R199) -/

/-- The two bytes of a field. -/
def bytes16 (h : Half) : List Byte := [h.extractLsb' 8 8, h.extractLsb' 0 8]

/-- The four bytes of a field. -/
def bytes32 (w : Word) : List Byte :=
  [w.extractLsb' 24 8, w.extractLsb' 16 8, w.extractLsb' 8 8, w.extractLsb' 0 8]

/-- The field of two bytes. -/
def half (b1 b0 : Byte) : Half := b1 ++ b0

/-- The field of four bytes. -/
def word (b3 b2 b1 b0 : Byte) : Word := b3 ++ b2 ++ b1 ++ b0

/-- The items of a list: four bytes each; bytes that do not fill an item are no item (R202). -/
def items : List Byte → List Word
  | b3 :: b2 :: b1 :: b0 :: rest => word b3 b2 b1 b0 :: items rest
  | _ => []

/-- One bit into the check register (R199). -/
def checkBit (r : Word) (b : Bool) : Word :=
  if r.getLsbD 0 != b then (r >>> 1) ^^^ 0xEDB88320#32 else r >>> 1

/-- One byte into the check register, lowest bit first (R199). -/
def checkByte (r : Word) (x : Byte) : Word :=
  checkBit (checkBit (checkBit (checkBit (checkBit (checkBit (checkBit (checkBit r
    (x.getLsbD 0)) (x.getLsbD 1)) (x.getLsbD 2)) (x.getLsbD 3)) (x.getLsbD 4)) (x.getLsbD 5)) (x.getLsbD 6))
    (x.getLsbD 7)

/-- The check value over bytes (R199). -/
def checkValue (bs : List Byte) : Word := ~~~ bs.foldl checkByte 0xFFFFFFFF#32

/-- Bytes followed by their check value. -/
def withCheck (body : List Byte) : List Byte := body ++ bytes32 (checkValue body)

/-- The bytes before a good check value; none when the check fails or the frame cannot hold a kind byte and a check
value (R199). -/
def checked (frame : List Byte) : Option (List Byte) :=
  let body := frame.take (frame.length - 4)
  if 5 ≤ frame.length ∧ frame.drop (frame.length - 4) = bytes32 (checkValue body) then some body else none

/-- A list of bytes without the zeros at its end. -/
def trimZeros (l : List Byte) : List Byte := l.rdropWhile (· == 0#8)

/-- A block from its bytes: the first 4096, zeros where there are fewer. -/
def Block.ofBytes (l : List Byte) : Block where
  bytes := trimZeros (l.take Config.blockBytes)
  canonical := by
    constructor
    · exact (List.rdropWhile_prefix (p := (· == 0#8)) (l.take Config.blockBytes)).length_le.trans (List.length_take_le _ _)
    · intro h
      unfold trimZeros at h
      have hne : (l.take Config.blockBytes).rdropWhile (· == 0#8) ≠ [] := by
        intro h0; rw [h0] at h; simp at h
      have := List.rdropWhile_last_not (· == 0#8) _ hne
      rw [List.getLast?_eq_getLast_of_ne_nil hne] at h
      simp_all

/-- The 4096 bytes of a block. -/
def Block.toBytes (b : Block) : List Byte := b.bytes ++ List.replicate (Config.blockBytes - b.bytes.length) 0#8

/-- The block of 4096 zero bytes. -/
def Block.zero : Block := Block.ofBytes []

/-! ### Codes -/

/-- The request kind codes of R200. -/
def ReqKind.code : ReqKind → Byte
  | .read => 0x01#8 | .write => 0x02#8 | .discard => 0x03#8 | .flush => 0x04#8 | .abort => 0x08#8
  | .mapRead => 0x10#8 | .holdList => 0x11#8 | .statusRead => 0x12#8 | .logRead => 0x13#8 | .logClear => 0x14#8
  | .resetBridge => 0x15#8 | .holdPlace => 0x20#8 | .holdRelease => 0x21#8
  | .stageBegin => 0x30#8 | .stageWindow => 0x31#8 | .stageDrop => 0x32#8 | .stagePort => 0x33#8
  | .stageParams => 0x34#8 | .stageRead => 0x35#8 | .stageAbandon => 0x36#8 | .commit => 0x37#8

/-- Every request kind. -/
def ReqKind.all : List ReqKind :=
  [.read, .write, .discard, .flush, .abort, .mapRead, .holdList, .statusRead, .logRead, .logClear, .resetBridge,
   .holdPlace, .holdRelease, .stageBegin, .stageWindow, .stageDrop, .stagePort, .stageParams, .stageRead,
   .stageAbandon, .commit]

/-- The request kind of a code. -/
def ReqKind.ofCode (b : Byte) : Option ReqKind := ReqKind.all.find? fun k => k.code == b

/-- The command of a request kind. -/
def Instr.ofRequest (k : ReqKind) (p : Port) (r : Request) : Instr :=
  match k with
  | .read => .read p r | .write => .write p r | .discard => .discard p r | .flush => .flush p r
  | .abort => .abort p r | .mapRead => .mapRead p r | .holdList => .holdList p r | .statusRead => .statusRead p r
  | .logRead => .logRead p r | .logClear => .logClear p r | .resetBridge => .resetBridge p r
  | .holdPlace => .holdPlace p r | .holdRelease => .holdRelease p r | .stageBegin => .stageBegin p r
  | .stageWindow => .stageWindow p r | .stageDrop => .stageDrop p r | .stagePort => .stagePort p r
  | .stageParams => .stageParams p r | .stageRead => .stageRead p r | .stageAbandon => .stageAbandon p r
  | .commit => .commit p r

/-- The low five bits of a tag byte (R200; for DATA see log entry 18). -/
def tagOf (b : Byte) : Tag := ⟨b.toNat % 32, Nat.mod_lt _ (by decide)⟩

/-- The tag byte. -/
def tagByte (t : Tag) : Byte := BitVec.ofNat 8 t.val

/-- Bits 3 to 0 of a slot byte (R203). -/
def slotOf (b : Byte) : SlotNo := ⟨b.toNat % 16, Nat.mod_lt _ (by decide)⟩

/-- The slot byte. -/
def slotByte (s : SlotNo) : Byte := BitVec.ofNat 8 s.val

/-- The media status codes of R202. -/
def MediaStatus.code : MediaStatus → Byte
  | .ok => 0#8
  | .mediaError => 1#8
  | .range => 2#8

/-! ### P-link frames from an initiator (R200, R201) -/

/-- The header held in the bytes from byte 3 of a REQUEST on; none when they do not fill it. -/
def decodeHeader : List Byte → Option Header
  | target :: flags :: _ :: c1 :: c0 :: o3 :: o2 :: o1 :: o0 :: l1 :: l0 :: _ :: _ :: list =>
    some { target, ordered := flags.getLsbD 0, durable := flags.getLsbD 1, count := half c1 c0,
           offset := word o3 o2 o1 o0, listLength := half l1 l0, list }
  | _ => none

/-- A REQUEST frame, by the bytes after its kind byte. -/
def decodeRequest (p : Port) : List Byte → Instr
  | [] => .unknownRequestKind p none none
  | [t] => .unknownRequestKind p (some (tagOf t)) none
  | t :: k :: rest =>
    match ReqKind.ofCode k with
    | none => .unknownRequestKind p (some (tagOf t)) (some k)
    | some kind => .ofRequest kind p { tag := tagOf t, header := decodeHeader rest }

/-- A DATA frame, by the bytes after its kind byte. -/
def decodeData : List Byte → DataFrame
  | [] => .noTag
  | t :: i1 :: i0 :: block =>
    if block.length = Config.blockBytes then .whole (tagOf t) (half i1 i0) (Block.ofBytes block)
    else .wrongLength (tagOf t)
  | t :: _ => .wrongLength (tagOf t)

/-- The command of a P-link frame received at port `p`: check value first (R67), then kind (R201). -/
def decodePlink (p : Port) (frame : List Byte) : Instr :=
  match checked frame with
  | none => .plinkCheckFail p
  | some body =>
    match body with
    | [] => .plinkCheckFail p
    | kind :: rest =>
      if kind = 0x01#8 then .openFrame p rest.head?
      else if kind = 0x02#8 then .closeFrame p
      else if kind = 0x03#8 then decodeRequest p rest
      else if kind = 0x04#8 then .dataFrame p (decodeData rest)
      else .unknownKind p kind

/-- The bytes from byte 3 of a REQUEST on. -/
def encodeHeader (h : Header) : List Byte :=
  [h.target, BitVec.ofNat 8 (h.ordered.toNat + 2 * h.durable.toNat), 0#8] ++ bytes16 h.count ++ bytes32 h.offset ++
    bytes16 h.listLength ++ [0#8, 0#8] ++ h.list

/-- A REQUEST frame before its check value. -/
def encodeRequest (k : ReqKind) (r : Request) : List Byte :=
  0x03#8 :: tagByte r.tag :: k.code :: (r.header.map encodeHeader).getD []

/-- The frame an initiator sends for a P-link command; none for a command that is no P-link frame. A frame whose
check fails is written as no bytes at all. -/
def encodePlink : Instr → Option (List Byte)
  | .plinkCheckFail _ => some []
  | .unknownKind _ k => some (withCheck [k])
  | .openFrame _ rev => some (withCheck (0x01#8 :: rev.toList))
  | .closeFrame _ => some (withCheck [0x02#8])
  | .dataFrame _ .noTag => some (withCheck [0x04#8])
  | .dataFrame _ (.wrongLength t) => some (withCheck [0x04#8, tagByte t])
  | .dataFrame _ (.whole t i b) => some (withCheck (0x04#8 :: tagByte t :: (bytes16 i ++ b.toBytes)))
  | .read _ r => some (withCheck (encodeRequest .read r))
  | .write _ r => some (withCheck (encodeRequest .write r))
  | .discard _ r => some (withCheck (encodeRequest .discard r))
  | .flush _ r => some (withCheck (encodeRequest .flush r))
  | .abort _ r => some (withCheck (encodeRequest .abort r))
  | .mapRead _ r => some (withCheck (encodeRequest .mapRead r))
  | .holdList _ r => some (withCheck (encodeRequest .holdList r))
  | .statusRead _ r => some (withCheck (encodeRequest .statusRead r))
  | .logRead _ r => some (withCheck (encodeRequest .logRead r))
  | .logClear _ r => some (withCheck (encodeRequest .logClear r))
  | .resetBridge _ r => some (withCheck (encodeRequest .resetBridge r))
  | .holdPlace _ r => some (withCheck (encodeRequest .holdPlace r))
  | .holdRelease _ r => some (withCheck (encodeRequest .holdRelease r))
  | .stageBegin _ r => some (withCheck (encodeRequest .stageBegin r))
  | .stageWindow _ r => some (withCheck (encodeRequest .stageWindow r))
  | .stageDrop _ r => some (withCheck (encodeRequest .stageDrop r))
  | .stagePort _ r => some (withCheck (encodeRequest .stagePort r))
  | .stageParams _ r => some (withCheck (encodeRequest .stageParams r))
  | .stageRead _ r => some (withCheck (encodeRequest .stageRead r))
  | .stageAbandon _ r => some (withCheck (encodeRequest .stageAbandon r))
  | .commit _ r => some (withCheck (encodeRequest .commit r))
  | .unknownRequestKind _ t k =>
    some (withCheck (0x03#8 :: ((t.map tagByte).toList ++ k.toList)))
  | .coldReset | .rstnRelease | .plinkLinkUp _ | .plinkLinkDown _ | .transferTimeout _ _ | .lastDataFrameSent _ _
  | .mlinkLinkUp | .mlinkLinkDown | .mlinkCheckFail | .linkReady | .identifyReply _ _ | .mediaData _ _ _
  | .complete _ _ | .abandonAck _ | .responseTimerExpiry _ | .abandonTimerExpiry _ | .attemptLimitExpiry
  | .drainLimitExpiry | .holdExpiry _ | .unknownMediaFrameKind _ => none

/-- The port at which a P-link command arrives; P0 for any other command. -/
def Instr.portOf : Instr → Port
  | .plinkLinkUp p | .plinkLinkDown p | .plinkCheckFail p | .unknownKind p _ | .openFrame p _ | .closeFrame p
  | .dataFrame p _ | .read p _ | .write p _ | .discard p _ | .flush p _ | .abort p _ | .mapRead p _ | .holdList p _
  | .statusRead p _ | .logRead p _ | .logClear p _ | .resetBridge p _ | .holdPlace p _ | .holdRelease p _
  | .stageBegin p _ | .stageWindow p _ | .stageDrop p _ | .stagePort p _ | .stageParams p _ | .stageRead p _
  | .stageAbandon p _ | .commit p _ | .transferTimeout p _ | .lastDataFrameSent p _
  | .unknownRequestKind p _ _ => p
  | .coldReset | .rstnRelease | .mlinkLinkUp | .mlinkLinkDown | .mlinkCheckFail | .linkReady | .identifyReply _ _
  | .mediaData _ _ _ | .complete _ _ | .abandonAck _ | .responseTimerExpiry _ | .abandonTimerExpiry _
  | .attemptLimitExpiry | .drainLimitExpiry | .holdExpiry _ | .unknownMediaFrameKind _ => .p0

/-! ### M-link frames from the media (R203) -/

/-- The command of a media frame with a good check value. -/
def decodeMediaBody (body : List Byte) : Instr :=
  match body with
  | [k] => if k = 0x41#8 then .linkReady else .unknownMediaFrameKind body
  | [k, s, st] =>
    if k = 0x43#8 then
      if st = 0#8 then .complete (slotOf s) .ok
      else if st = 1#8 then .complete (slotOf s) .mediaError
      else if st = 2#8 then .complete (slotOf s) .range
      else .unknownMediaFrameKind body
    else if k = 0x45#8 ∧ st = 0#8 then .abandonAck (slotOf s)
    else .unknownMediaFrameKind body
  | [k, c3, c2, c1, c0, n] =>
    if k = 0x42#8 then .identifyReply (word c3 c2 c1 c0) n else .unknownMediaFrameKind body
  | k :: s :: i1 :: i0 :: block =>
    if k = 0x44#8 ∧ block.length = Config.blockBytes then .mediaData (slotOf s) (half i1 i0) (Block.ofBytes block)
    else .unknownMediaFrameKind body
  | _ => .unknownMediaFrameKind body

/-- The command of a media frame: check value first (R116). -/
def decodeMlink (frame : List Byte) : Instr :=
  match checked frame with
  | none => .mlinkCheckFail
  | some body => decodeMediaBody body

/-- The frame the media sends for an M-link command; none for a command that is no M-link frame. -/
def encodeMlink : Instr → Option (List Byte)
  | .mlinkCheckFail => some []
  | .linkReady => some (withCheck [0x41#8])
  | .identifyReply c n => some (withCheck (0x42#8 :: (bytes32 c ++ [n])))
  | .complete s st => some (withCheck [0x43#8, slotByte s, st.code])
  | .mediaData s i b => some (withCheck (0x44#8 :: slotByte s :: (bytes16 i ++ b.toBytes)))
  | .abandonAck s => some (withCheck [0x45#8, slotByte s, 0#8])
  | .unknownMediaFrameKind frame => some (withCheck frame)
  | .coldReset | .rstnRelease | .plinkLinkUp _ | .plinkLinkDown _ | .plinkCheckFail _ | .unknownKind _ _
  | .openFrame _ _ | .closeFrame _ | .dataFrame _ _ | .read _ _ | .write _ _ | .discard _ _ | .flush _ _
  | .abort _ _ | .mapRead _ _ | .holdList _ _ | .statusRead _ _ | .logRead _ _ | .logClear _ _ | .resetBridge _ _
  | .holdPlace _ _ | .holdRelease _ _ | .stageBegin _ _ | .stageWindow _ _ | .stageDrop _ _ | .stagePort _ _
  | .stageParams _ _ | .stageRead _ _ | .stageAbandon _ _ | .commit _ _ | .transferTimeout _ _
  | .lastDataFrameSent _ _ | .mlinkLinkUp | .mlinkLinkDown | .responseTimerExpiry _ | .abandonTimerExpiry _
  | .attemptLimitExpiry | .drainLimitExpiry | .holdExpiry _ | .unknownRequestKind _ _ _ => none

end Sys2Proof
end

