-- ==== Sys2Proof/Machine/State.lean ====
section
/-! DEFINITION. The state of the bridge, grouped by the block that owns it (00_scope.md section 2), the frames it
sends, and the machine right after reset. -/

namespace Sys2Proof.Machine

/-! ### Values -/

/-- The level of the RSTn pin (scope file, section 9). -/
inductive Level where
  | low | high
deriving DecidableEq, Repr

/-- A link, as it reports itself (R48, R115). -/
inductive LinkState where
  | down | up
deriving DecidableEq, Repr

/-- Why a session left OPEN (R48). -/
inductive CloseReason where
  | close | linkDown | reset
deriving DecidableEq, Repr

/-- A session (R48); `opened` is the manual's OPEN, and CLOSING holds the closing reason. -/
inductive Session where
  | down | opened | closing (reason : CloseReason)
deriving DecidableEq, Repr

/-- The notice flags (R68). -/
structure Flags where
  map : Bool
  holds : Bool
  media : Bool
deriving DecidableEq, Repr

/-- One of the notice flags. -/
inductive Flag where
  | map | holds | media
deriving DecidableEq, Repr

/-- The privilege levels (R182). -/
inductive Privilege where
  | user | admin
deriving DecidableEq, Repr

/-- First media block and number of blocks. -/
structure MediaRange where
  first : Nat
  count : Nat
deriving DecidableEq, Repr

/-- The rights of a port on a window (R3). -/
inductive Rights where
  | none | read | readWrite
deriving DecidableEq, Repr

/-- The discard field (R4). -/
inductive DiscardRule where
  | allowed | refused
deriving DecidableEq, Repr

/-- The durable field (R4). -/
inductive DurableRule where
  | onRequest | always
deriving DecidableEq, Repr

/-- A present window entry (R2). -/
structure Window where
  base : Word
  length : Word
  rights : PerPort Rights
  discard : DiscardRule
  durable : DurableRule
  quota : Option Nat
deriving DecidableEq, Repr

/-- Sixteen window entries, each absent or present (R1). -/
abbrev WindowMap := Table 16 (Option Window)

/-- A port table entry (R138). -/
structure PortEntry where
  privilege : Privilege
  weight : Nat
deriving DecidableEq, Repr

/-- The parameters, in ms (R138). -/
structure Params where
  response : Nat
  transfer : Nat
  drain : Nat
deriving DecidableEq, Repr

/-- What a commit installs and a configuration record carries: map, port table, parameters (R138). -/
structure Configuration where
  map : WindowMap
  ports : PerPort PortEntry
  params : Params
deriving DecidableEq, Repr

/-! ### Port controllers (R48, R58) -/

/-- The data request kinds. -/
inductive DataKind where
  | read | write | discard | flush
deriving DecidableEq, Repr

/-- The stage of a data request (R58). A GRANTED write has the blocks received so far, in ascending order, and what
is left of its transfer timer; an ABANDONING request names the ABORT that waits for the end; a DELIVERING read
holds its page list. -/
inductive Stage where
  | admitted
  | granted (slot : SlotNo) (received : List Nat) (timer : Nat)
  | issued (slot : SlotNo)
  | abandoning (slot : SlotNo) (abort : Tag)
  | delivering (pages : List PageNo)
deriving DecidableEq, Repr

/-- The record of an admitted data request (R58, R80): as received, the durable flag, the binding (window, verdicts
of steps 9 and 10, media range), and the stage. -/
structure DataRec where
  kind : DataKind
  window : WindowNo
  offset : Word
  count : Half
  ordered : Bool
  durableAsked : Bool
  durable : Bool
  rightsOk : Bool
  discardOk : Bool
  range : Option MediaRange
  stage : Stage
deriving DecidableEq, Repr

/-- A request record (R58): a data request, or an ABORT or management request in stage HANDED, with its parameters
and, for a management request, the privilege at arrival. -/
inductive Record where
  | data (d : DataRec)
  | handed (kind : ReqKind) (parameters : List Word) (privilege : Option Privilege)
deriving DecidableEq, Repr

/-- A port controller (R48). -/
structure PortCtl where
  link : LinkState
  session : Session
  tags : Table 32 (Option Record)
  inFlight : Nat
  flags : Flags
  delivered : Word
  checkFails : Nat
deriving DecidableEq, Repr

/-! ### Map unit (R1, R6, R16, R138, R139, R148) -/

/-- The usage counts of a window (R6). -/
structure Usage where
  queued : Nat
  inFlight : Nat
deriving DecidableEq, Repr

/-- Staging (R139); `opened` is the manual's OPEN. The owner is a session: the port it is open at. -/
inductive Staging where
  | empty
  | opened (owner : Port) (config : Configuration)
  | committing (owner : Option Port) (config : Configuration)
deriving DecidableEq, Repr

/-- What the commit controller keeps while a commit is under way (R148). -/
structure CommitInfo where
  session : Option Port
  tag : Option Tag
  persist : Bool
  changeSet : List WindowNo
deriving DecidableEq, Repr

/-- The commit controller (R139, R148). -/
inductive Commit where
  | idle
  | draining (info : CommitInfo) (remaining : Nat)
  | persisting (info : CommitInfo)
deriving DecidableEq, Repr

/-- The map unit. -/
structure MapUnit where
  active : Configuration
  epoch : Word
  usage : Table 16 Usage
  staging : Staging
  commit : Commit
deriving DecidableEq, Repr

/-! ### Hold unit (R21, R40) -/

/-- The class of a hold (R22). -/
inductive HoldClass where
  | session | power | fixed
deriving DecidableEq, Repr

/-- The scope of a hold (R23). -/
inductive HoldScope where
  | write | all
deriving DecidableEq, Repr

/-- The state of a hold (R24). A PENDING hold has its wait set, by media slot in ascending order (R32); an ACTIVE
hold with an expiry has its time remaining in ms. -/
inductive HoldState where
  | pending (waits : List SlotNo)
  | persisting
  | active (remaining : Option Nat)
deriving DecidableEq, Repr

/-- A hold record (R21), and the tag of the placement that waits for its answer at the owner's port: absent once
answered or once that session has ended (R33, R42). -/
structure Hold where
  id : Nat
  cls : HoldClass
  scope : HoldScope
  range : MediaRange
  owner : Port
  expiry : Option Nat
  state : HoldState
  answerTo : Option Tag
deriving DecidableEq, Repr

/-- The hold unit: the table, kept in ascending id, and the id counter. -/
structure HoldUnit where
  table : List Hold
  nextId : Nat
deriving DecidableEq, Repr

/-! ### Grant arbiter (R88 to R99) and page pool (R101) -/

/-- The grant arbiter. -/
structure Arbiter where
  queues : PerPort (List Tag)
  credit : PerPort Nat
  pointer : Port
  starvation : PerPort Nat
  reservation : List Port
  ordered : PerPort Bool
deriving DecidableEq, Repr

/-- The page pool: the free pages in ascending order (their number is the free count) and the contents. -/
structure PagePool where
  free : List PageNo
  content : Table 256 Block
deriving DecidableEq, Repr

/-! ### M-link controller (R115, R117) -/

/-- Why a slot is abandoned (R117). -/
inductive AbandonCause where
  | timeout | abort
deriving DecidableEq, Repr

/-- The state of a slot that is not FREE, with the timer of that state in ms (R117). -/
inductive SlotPhase where
  | taken
  | issued (remaining : Nat)
  | abandoning (cause : AbandonCause) (remaining : Nat)
deriving DecidableEq, Repr

/-- Who was granted a slot (R117). -/
inductive Holder where
  | port (p : Port)
  | configuration
deriving DecidableEq, Repr

/-- A slot record that is not FREE (R117). An absent page list is the empty list. -/
structure SlotRec where
  phase : SlotPhase
  holder : Holder
  owner : Option Tag
  op : DataKind
  window : Option WindowNo
  ordered : Bool
  range : Option MediaRange
  durable : Bool
  pages : List PageNo
  received : List Nat
deriving DecidableEq, Repr

/-- Where a bring-up attempt stands (R134): LINK-RESET not sent because the link is DOWN, LINK-RESET sent, or
IDENTIFY sent. -/
inductive AttemptStep where
  | awaitLinkUp | awaitReady | awaitReply
deriving DecidableEq, Repr

/-- The recovery phase (R115), with the attempt's step and what is left of its limit. -/
inductive BringUp where
  | idle
  | attempt (step : AttemptStep) (remaining : Nat)
deriving DecidableEq, Repr

/-- The M-link controller. A slot that is `none` is FREE. -/
structure MlinkCtl where
  link : LinkState
  capacity : Word
  slotCount : Nat
  bringUp : BringUp
  attempts : Nat
  lateCompletions : Nat
  recoveries : Nat
  checkFails : Nat
  slots : Table 16 (Option SlotRec)
deriving DecidableEq, Repr

/-! ### Configuration unit (R160) -/

/-- The bridge state (R169). -/
inductive BridgeState where
  | start | service | recover | fault
deriving DecidableEq, Repr

/-- The start-up step (R160). -/
inductive StartStep where
  | bringUp | readA | readB
deriving DecidableEq, Repr

/-- A copy of the configuration record (R159). -/
inductive Copy where
  | a | b
deriving DecidableEq, Repr

/-- A validity mark (R160). -/
inductive Mark where
  | unread | valid | invalid
deriving DecidableEq, Repr

/-- A persist job (R163). -/
inductive Job where
  | commit
  | hold (id : Nat)
deriving DecidableEq, Repr

/-- The writer (R164). While WRITING it has the job, the target copy and the generation written. -/
inductive Writer where
  | idle
  | awaitingSlot (job : Job)
  | writing (job : Job) (target : Copy) (generation : Word)
  | awaitingFree
deriving DecidableEq, Repr

/-- The configuration unit. -/
structure ConfigUnit where
  bridge : BridgeState
  step : Option StartStep
  current : Option Copy
  generation : Word
  markA : Mark
  markB : Mark
  areaA : Option Block
  areaB : Option Block
  queue : List Job
  writer : Writer
  resetMark : Bool
deriving DecidableEq, Repr

/-! ### Control function (R86, R87, R192, R193) -/

/-- The outcomes of R200, in code order. -/
inductive Outcome where
  | ok | badRequest | tagBusy | noSession | noWindow | mapBusy | noRights | notAllowed | outOfWindow | held
  | notPrivileged | tableFull | stagingBusy | notOwner | invalidMap | drainTimeout | persistFailed | notFound
  | fixed | released | tooLate | aborted | done | dataTimeout | mediaError | mediaTimeout | mediaReset | mediaFault
  | notReady
deriving DecidableEq, Repr

/-- A refusal log entry (R86). -/
structure LogEntry where
  port : Port
  tag : Tag
  kind : ReqKind
  window : Option WindowNo
  outcome : Outcome
  block : Option Nat
  stamp : Word
deriving DecidableEq, Repr

/-- The control function. -/
structure ControlFn where
  log : List LogEntry
  overflow : Nat
  logTime : Word
  persistFailures : Nat
deriving DecidableEq, Repr

/-! ### Frames the bridge sends (R200, R203) -/

/-- The reasons of a REJECT (R50). -/
inductive RejectReason where
  | badRevision | notReady | alreadyOpen
deriving DecidableEq, Repr

/-- A P-link frame from the bridge (R200). -/
inductive PFrame where
  | accept (privilege : Privilege) (flags : Flags) (bridge : BridgeState) (epoch : Word) (holdCount : Nat)
  | reject (reason : RejectReason)
  | closed (reason : CloseReason)
  | xferReady (tag : Tag) (count : Half)
  | data (tag : Tag) (index : Nat) (block : Block)
  | response (tag : Option Tag) (outcome : Outcome) (flags : Flags) (detail : List Word)
  | notice (flags : Flags)
deriving DecidableEq, Repr

/-- An M-link frame from the bridge (R203). -/
inductive MFrame where
  | linkReset
  | identify
  | command (slot : SlotNo) (op : DataKind) (durable : Bool) (block : Nat) (count : Nat)
  | data (slot : SlotNo) (index : Nat) (block : Block)
  | abandon (slot : SlotNo)
deriving DecidableEq, Repr

/-- One frame sent, and where. -/
inductive Sent where
  | toPort (p : Port) (f : PFrame)
  | toMedia (f : MFrame)
deriving DecidableEq, Repr

/-! ### The whole -/

/-- The blocks of the bridge, the frames sent so far (oldest first; log entry 10) and the index of the next free
value (log entry 11); the last two are the model's own. -/
structure Chip where
  ports : PerPort PortCtl
  map : MapUnit
  hold : HoldUnit
  arb : Arbiter
  pool : PagePool
  mlink : MlinkCtl
  cfg : ConfigUnit
  ctl : ControlFn
  sent : List Sent
  free : Nat
deriving DecidableEq, Repr

/-- The state: the RSTn pin, the blocks, and the commands that wait, first in first out. -/
structure State where
  rstn : Level
  chip : Chip
  pending : List Instr
deriving DecidableEq, Repr

/-- No command of the block stops the machine with a fault: the rules give every command an effect, or discard it. -/
inductive Fault where
deriving DecidableEq, Repr

/-- The one refusal is the dispatcher's own, for a command that has no meaning yet; no arm raises it now. It is safe:
nothing can be proved of a step that refuses. -/
inductive Refusal where
  | notModelled (mnemonic : String)
deriving DecidableEq, Repr

/-! ### Reset (R18, R47, R48, R97, R98, R101, R115, R139, R160, R178, R193) -/

/-- All notice flags clear. -/
def Flags.clear : Flags := ⟨false, false, false⟩

/-- The factory port table (R173). -/
def factoryPorts : PerPort PortEntry :=
  ⟨⟨.admin, Config.factoryWeight⟩, ⟨.user, Config.factoryWeight⟩, ⟨.user, Config.factoryWeight⟩⟩

/-- The factory parameters (R138). -/
def factoryParams : Params := ⟨Config.factoryResponse, Config.factoryTransfer, Config.factoryDrain⟩

/-- The factory configuration: no present window (R176). -/
def factory : Configuration := ⟨Table.fill 16 none, factoryPorts, factoryParams⟩

/-- A port controller after a cold reset (R48). -/
def PortCtl.reset : PortCtl where
  link := .down
  session := .down
  tags := Table.fill 32 none
  inFlight := 0
  flags := Flags.clear
  delivered := 0#32
  checkFails := 0

/-- The map unit after a cold reset (R18, R139). -/
def MapUnit.reset : MapUnit where
  active := factory
  epoch := 0#32
  usage := Table.fill 16 ⟨0, 0⟩
  staging := .empty
  commit := .idle

/-- The hold unit after a cold reset (R47). -/
def HoldUnit.reset : HoldUnit := ⟨[], 1⟩

/-- The arbiter after a cold reset (R113). -/
def Arbiter.reset : Arbiter where
  queues := PerPort.same []
  credit := PerPort.same 0
  pointer := .p0
  starvation := PerPort.same 0
  reservation := []
  ordered := PerPort.same false

/-- Every page number, ascending. -/
def allPages : List PageNo := (List.range 256).map (Fin.ofNat 256)

/-- The page pool after a cold reset (R101); contents: log entry 11. -/
def PagePool.reset : PagePool := ⟨allPages, Table.fill 256 Block.zero⟩

/-- The M-link controller after a cold reset (R115). -/
def MlinkCtl.reset : MlinkCtl where
  link := .down
  capacity := 0#32
  slotCount := 0
  bringUp := .idle
  attempts := 0
  lateCompletions := 0
  recoveries := 0
  checkFails := 0
  slots := Table.fill 16 none

/-- The configuration unit after a cold reset (R160). -/
def ConfigUnit.reset : ConfigUnit where
  bridge := .start
  step := some .bringUp
  current := none
  generation := 0#32
  markA := .unread
  markB := .unread
  areaA := none
  areaB := none
  queue := []
  writer := .idle
  resetMark := false

/-- The control function after a cold reset (R197, R192). -/
def ControlFn.reset : ControlFn := ⟨[], 0, 0#32, 0⟩

/-- The blocks after a cold reset. -/
def Chip.reset : Chip where
  ports := PerPort.same PortCtl.reset
  map := MapUnit.reset
  hold := HoldUnit.reset
  arb := Arbiter.reset
  pool := PagePool.reset
  mlink := MlinkCtl.reset
  cfg := ConfigUnit.reset
  ctl := ControlFn.reset
  sent := []
  free := 0

/-- The machine right after reset: RSTn is low until RSTN_RELEASE (R178; log entry 1), nothing is pending. -/
def State.reset : State := ⟨.low, Chip.reset, []⟩

end Sys2Proof.Machine
end

