-- ==== Sys2Proof/Machine/Ops.lean ====
section
/-! DEFINITION. The named operations over the state: one updater for each block, the frames sent, the tag table, the
usage record, the port queues, the page pool, the slot table and the refusal log. -/

namespace Sys2Proof.Machine

namespace Chip

/-- The port controller of `p` changed. -/
def modPort (c : Chip) (p : Port) (f : PortCtl → PortCtl) : Chip := { c with ports := c.ports.modify p f }

/-- The map unit changed. -/
def modMap (c : Chip) (f : MapUnit → MapUnit) : Chip := { c with map := f c.map }

/-- The hold unit changed. -/
def modHold (c : Chip) (f : HoldUnit → HoldUnit) : Chip := { c with hold := f c.hold }

/-- The arbiter changed. -/
def modArb (c : Chip) (f : Arbiter → Arbiter) : Chip := { c with arb := f c.arb }

/-- The page pool changed. -/
def modPool (c : Chip) (f : PagePool → PagePool) : Chip := { c with pool := f c.pool }

/-- The M-link controller changed. -/
def modMlink (c : Chip) (f : MlinkCtl → MlinkCtl) : Chip := { c with mlink := f c.mlink }

/-- The configuration unit changed. -/
def modCfg (c : Chip) (f : ConfigUnit → ConfigUnit) : Chip := { c with cfg := f c.cfg }

/-- The control function changed. -/
def modCtl (c : Chip) (f : ControlFn → ControlFn) : Chip := { c with ctl := f c.ctl }

/-- A frame put behind those already sent. -/
def emit (c : Chip) (x : Sent) : Chip := { c with sent := c.sent ++ [x] }

/-- One free value taken. -/
def takeFree (c : Chip) : Chip := { c with free := c.free + 1 }

end Chip

/-- An operation done at every port, in the order P0, P1, P2. -/
def eachPort (f : Port → Chip → Chip) (c : Chip) : Chip := f .p2 (f .p1 (f .p0 c))

/-- An operation done for each item of a list, first item first. -/
def each {α : Type} (f : α → Chip → Chip) (l : List α) (c : Chip) : Chip := l.foldl (fun c a => f a c) c

/-- A count that stays at its greatest value (scope file, section 7). -/
def saturatingSucc (greatest n : Nat) : Nat := min greatest (n + 1)

/-! ### Frames -/

/-- A frame to the initiator at `p`; dropped while the link is DOWN (R49). -/
def sendPort (p : Port) (f : PFrame) (c : Chip) : Chip :=
  match (c.ports.get p).link with
  | .up => c.emit (.toPort p f)
  | .down => c

/-- A frame to the media; lost while the M-link is DOWN (R132). -/
def sendMedia (f : MFrame) (c : Chip) : Chip :=
  match c.mlink.link with
  | .up => c.emit (.toMedia f)
  | .down => c

/-! ### Sessions and tags -/

/-- Whether the session of port `p` is OPEN. -/
def Chip.isOpen (c : Chip) (p : Port) : Bool := (c.ports.get p).session = .opened

/-- Whether a tag table is empty. -/
def PortCtl.noTags (pc : PortCtl) : Bool := pc.tags.rows.all Option.isNone

/-- The request record under tag `t` of port `p`. -/
def Chip.record (c : Chip) (p : Port) (t : Tag) : Option Record := (c.ports.get p).tags.get t

/-- The data request record under tag `t` of port `p`. -/
def Chip.dataRecord (c : Chip) (p : Port) (t : Tag) : Option DataRec :=
  match c.record p t with
  | some (.data d) => some d
  | some (.handed _ _ _) | none => none

/-- The tag table entry `t` of port `p` set. -/
def setRecord (p : Port) (t : Tag) (r : Option Record) (c : Chip) : Chip :=
  c.modPort p fun pc => { pc with tags := pc.tags.set t r }

/-- Tag `t` of port `p` freed. -/
def freeTag (p : Port) (t : Tag) (c : Chip) : Chip := setRecord p t none c

/-- A RESPONSE with the session's flags as they stand; no record is touched (R60, R63). -/
def reply (p : Port) (t : Tag) (o : Outcome) (detail : List Word) (c : Chip) : Chip :=
  sendPort p (.response (some t) o (c.ports.get p).flags detail) c

/-- The answer to a request that holds its tag: RESPONSE, and the tag is free in the same event (R59, R63). An answer
for a session that is not OPEN is discarded and frees nothing (R52, R54). -/
def respond (p : Port) (t : Tag) (o : Outcome) (detail : List Word) (c : Chip) : Chip :=
  if c.isOpen p then freeTag p t (reply p t o detail c) else c

/-- The NO-SESSION answer, its flags all clear (R56). -/
def noSession (p : Port) (t : Option Tag) (c : Chip) : Chip :=
  sendPort p (.response t .noSession Flags.clear []) c

/-! ### Usage record (R6) -/

/-- The usage counts of window `w` changed. -/
def modUsage (w : WindowNo) (f : Usage → Usage) (c : Chip) : Chip :=
  c.modMap fun m => { m with usage := m.usage.modify w f }

/-! ### Page pool (R101 to R103) -/

/-- A page number put in its place among the free ones. -/
def insertPage (x : PageNo) : List PageNo → List PageNo
  | [] => [x]
  | y :: ys => if x.val < y.val then x :: y :: ys else y :: insertPage x ys

/-- A page list dissolved: its pages are free again (R103). -/
def returnPages (pages : List PageNo) (c : Chip) : Chip :=
  c.modPool fun pool => { pool with free := pages.foldr insertPage pool.free }

/-- A block into a page (R65, R122). -/
def fillPage (page : PageNo) (b : Block) (c : Chip) : Chip :=
  c.modPool fun pool => { pool with content := pool.content.set page b }

/-- An index put in its place among the received ones. -/
def insertIndex (x : Nat) : List Nat → List Nat
  | [] => [x]
  | y :: ys => if x < y then x :: y :: ys else y :: insertIndex x ys

/-! ### Slot table (R117) -/

/-- The slot record of slot `i`; none when FREE. -/
def Chip.slot (c : Chip) (i : SlotNo) : Option SlotRec := c.mlink.slots.get i

/-- The slot record of slot `i` set. -/
def setSlot (i : SlotNo) (r : Option SlotRec) (c : Chip) : Chip :=
  c.modMlink fun m => { m with slots := m.slots.set i r }

/-- The slot numbers in ascending order. -/
def allSlots : List SlotNo := (List.range 16).map (Fin.ofNat 16)

/-- The tags in ascending order. -/
def allTags : List Tag := (List.range 32).map (Fin.ofNat 32)

/-- The window numbers in ascending order. -/
def allWindows : List WindowNo := (List.range 16).map (Fin.ofNat 16)

/-- The number of slots not FREE. -/
def Chip.slotsInUse (c : Chip) : Nat := (c.mlink.slots.rows.filter Option.isSome).length

/-- The slot that a request record holds. -/
def Stage.slot? : Stage → Option SlotNo
  | .granted i _ _ => some i
  | .issued i => some i
  | .abandoning i _ => some i
  | .admitted | .delivering _ => none

/-- Whether the record under a tag holds slot `i`. -/
def Record.holdsSlot (i : SlotNo) : Option Record → Bool
  | some (.data d) => d.stage.slot? = some i
  | some (.handed _ _ _) | none => false

/-- Whether a record of port `p` is kept for slot `i`: its session ended while the request was on the media (R53). -/
def Chip.keptRecord (c : Chip) (p : Port) (i : SlotNo) : Bool :=
  (c.ports.get p).tags.rows.any (Record.holdsSlot i)

/-- The records of a port that hold slot `i` are freed (R53, R125). -/
def freeKept (p : Port) (i : SlotNo) (c : Chip) : Chip :=
  each (fun t c => if Record.holdsSlot i (c.record p t) then freeTag p t c else c) allTags c

/-! ### Port queues (R88, R89) -/

/-- An entry leaves a port queue other than by grant (R89): the window's queued count falls, and when it was the head
the port's starvation count is 0 and the port leaves reservation. -/
def dequeue (p : Port) (t : Tag) (c : Chip) : Chip :=
  let queue := c.arb.queues.get p
  let c := match c.dataRecord p t with
    | some d => modUsage d.window (fun u => { u with queued := u.queued - 1 }) c
    | none => c
  c.modArb fun a =>
    let a := { a with queues := a.queues.set p (queue.erase t) }
    if queue.head? = some t then
      { a with starvation := a.starvation.set p 0, reservation := a.reservation.filter (· ≠ p) }
    else a

/-! ### Refusal log (R193, R194) -/

/-- A refusal stored with the log time; with 16 entries the oldest is removed and counted (R194). -/
def logRefusal (p : Port) (t : Tag) (kind : ReqKind) (w : Option WindowNo) (o : Outcome) (block : Option Nat)
    (c : Chip) : Chip :=
  c.modCtl fun f =>
    let entry : LogEntry := ⟨p, t, kind, w, o, block, f.logTime⟩
    if f.log.length < Config.logSize then { f with log := f.log ++ [entry] }
    else { f with log := f.log.tail ++ [entry], overflow := saturatingSucc Config.saturate8 f.overflow }

/-! ### Two orders -/

/-- Two parts of one event, `answers` and `consequences`, whose order the manual leaves open (10.1, 7.6; log entry 3).
They bring about the same state in either order; the frames they send may differ, and then a free value decides which
of the two sequences of frames has been sent. -/
def eitherOrder (answers consequences : Chip → Chip) (c : Chip) : Chip :=
  let first := consequences (answers c)
  let second := answers (consequences c)
  if first.sent = second.sent then first
  else { first with
    sent := if Config.answerFirst c.free then first.sent else second.sent
    free := first.free + 1 }

end Sys2Proof.Machine
end

