-- ==== Sys2Proof/Machine/Flags.lean ====
section
/-! DEFINITION. The notice flags MAP, HOLDS and MEDIA: when they are set and cleared, the NOTICE frame, and the
delivered epoch (R41, R68, R69, R187, R188). -/

namespace Sys2Proof.Machine

/-- One flag read. -/
def Flags.get (fs : Flags) : Flag → Bool
  | .map => fs.map
  | .holds => fs.holds
  | .media => fs.media

/-- One flag written. -/
def Flags.set (fs : Flags) (f : Flag) (b : Bool) : Flags :=
  match f with
  | .map => { fs with map := b }
  | .holds => { fs with holds := b }
  | .media => { fs with media := b }

/-- The flags of port `p` written. -/
def setFlags (p : Port) (fs : Flags) (c : Chip) : Chip := c.modPort p fun pc => { pc with flags := fs }

/-- A flag is set for an OPEN session (R68); going from clear to set with an empty tag table it sends a NOTICE with the
flags as they stand after the change (R69). -/
def raiseFlag (f : Flag) (p : Port) (c : Chip) : Chip :=
  let pc := c.ports.get p
  if pc.session = .opened ∧ pc.flags.get f = false then
    let fs := pc.flags.set f true
    if pc.noTags then sendPort p (.notice fs) (setFlags p fs c) else setFlags p fs c
  else c

/-- A flag is cleared. -/
def clearFlag (f : Flag) (p : Port) (c : Chip) : Chip := setFlags p ((c.ports.get p).flags.set f false) c

/-- MAP is set exactly when the map epoch differs from the delivered one (R68). -/
def compareEpoch (p : Port) (c : Chip) : Chip :=
  if (c.ports.get p).delivered = c.map.epoch then clearFlag .map p c else raiseFlag .map p c

/-- An answer gives port `p` the epoch `e` (R17, R68). -/
def deliver (p : Port) (e : Word) (c : Chip) : Chip :=
  compareEpoch p (c.modPort p fun pc => { pc with delivered := e })

/-- MEDIA is set for every OPEN session (R68). -/
def raiseMedia (c : Chip) : Chip := eachPort (raiseFlag .media) c

/-! ### Ranges and visibility -/

/-- Two ranges share a block (scope file, section 6). -/
def MediaRange.intersects (a b : MediaRange) : Bool := a.first < b.first + b.count && b.first < a.first + a.count

/-- The blocks of a window (R2). -/
def Window.blocks (w : Window) : MediaRange := ⟨w.base.toNat, w.length.toNat⟩

/-- Whether a range meets a present window where the port has READ or READ-WRITE (R41, R188). -/
def WindowMap.shows (m : WindowMap) (p : Port) (r : MediaRange) : Bool :=
  m.rows.any fun
    | some w => w.rights.get p ≠ .none && w.blocks.intersects r
    | none => false

/-- Whether a session of port `p` with privilege `v` may see a hold over range `r` (R41, R188). -/
def Chip.canSee (c : Chip) (p : Port) (v : Privilege) (r : MediaRange) : Bool :=
  v = .admin || c.map.active.map.shows p r

/-- The HOLDS notice for one port (R41). -/
def raiseHolds (r : MediaRange) (p : Port) (c : Chip) : Chip :=
  if c.canSee p (c.map.active.ports.get p).privilege r then raiseFlag .holds p c else c

/-- The HOLDS notice for a hold over range `r` (R41). -/
def holdsNotice (r : MediaRange) (c : Chip) : Chip := eachPort (raiseHolds r) c

end Sys2Proof.Machine
end

