-- ==== Sys2Proof/Machine/Operands.lean ====
section
/-! DEFINITION. Parameter lists and details (R200, R202): the code of every field, the parameters of each management
request with their form ranges, and the items of each answer. -/

namespace Sys2Proof.Machine

/-! ### Codes (R200, R202) -/

/-- The item of an absent value. -/
def absentItem : Word := 0xFFFFFFFF#32

/-- An unsigned number as an item. -/
def item (n : Nat) : Word := BitVec.ofNat 32 n

/-- An item that may be absent. -/
def optItem : Option Nat → Word
  | some n => item n
  | none => absentItem

/-- Rights. -/
def Rights.code : Rights → Nat
  | .none => 0
  | .read => 1
  | .readWrite => 2

/-- Rights of a code. -/
def Rights.ofCode : Nat → Option Rights
  | 0 => some .none
  | 1 => some .read
  | 2 => some .readWrite
  | _ => Option.none

/-- Discard field. -/
def DiscardRule.code : DiscardRule → Nat
  | .allowed => 0
  | .refused => 1

/-- Discard field of a code. -/
def DiscardRule.ofCode : Nat → Option DiscardRule
  | 0 => some .allowed
  | 1 => some .refused
  | _ => none

/-- Durable field. -/
def DurableRule.code : DurableRule → Nat
  | .onRequest => 0
  | .always => 1

/-- Durable field of a code. -/
def DurableRule.ofCode : Nat → Option DurableRule
  | 0 => some .onRequest
  | 1 => some .always
  | _ => none

/-- Hold class. -/
def HoldClass.code : HoldClass → Nat
  | .session => 0
  | .power => 1
  | .fixed => 2

/-- Hold class of a code. -/
def HoldClass.ofCode : Nat → Option HoldClass
  | 0 => some .session
  | 1 => some .power
  | 2 => some .fixed
  | _ => none

/-- Hold scope. -/
def HoldScope.code : HoldScope → Nat
  | .write => 0
  | .all => 1

/-- Hold scope of a code. -/
def HoldScope.ofCode : Nat → Option HoldScope
  | 0 => some .write
  | 1 => some .all
  | _ => none

/-- Hold state. -/
def HoldState.code : HoldState → Nat
  | .pending _ => 0
  | .persisting => 1
  | .active _ => 2

/-- Port. -/
def portCode : Port → Nat
  | .p0 => 0
  | .p1 => 1
  | .p2 => 2

/-- Port of a code. -/
def portOfCode : Nat → Option Port
  | 0 => some .p0
  | 1 => some .p1
  | 2 => some .p2
  | _ => none

/-- Privilege. -/
def Privilege.code : Privilege → Nat
  | .user => 0
  | .admin => 1

/-- Privilege of a code. -/
def Privilege.ofCode : Nat → Option Privilege
  | 0 => some .user
  | 1 => some .admin
  | _ => none

/-- Persist choice of a code. -/
def persistOfCode : Nat → Option Bool
  | 0 => some false
  | 1 => some true
  | _ => none

/-- Media status. -/
def statusCode : MediaStatus → Nat
  | .ok => 0
  | .mediaError => 1
  | .range => 2

/-- Copy. -/
def Copy.code : Copy → Nat
  | .a => 0
  | .b => 1

/-- Validity mark. -/
def Mark.code : Mark → Nat
  | .unread => 0
  | .valid => 1
  | .invalid => 2

/-- Bridge state (R200). -/
def BridgeState.code : BridgeState → Nat
  | .start => 0
  | .service => 1
  | .recover => 2
  | .fault => 3

/-- Outcome (R200). -/
def Outcome.code : Outcome → Nat
  | .ok => 0x00 | .badRequest => 0x01 | .tagBusy => 0x02 | .noSession => 0x03 | .noWindow => 0x04 | .mapBusy => 0x05
  | .noRights => 0x06 | .notAllowed => 0x07 | .outOfWindow => 0x08 | .held => 0x09 | .notPrivileged => 0x0A
  | .tableFull => 0x0B | .stagingBusy => 0x0C | .notOwner => 0x0D | .invalidMap => 0x0E | .drainTimeout => 0x0F
  | .persistFailed => 0x10 | .notFound => 0x11 | .fixed => 0x12 | .released => 0x13 | .tooLate => 0x14
  | .aborted => 0x15 | .done => 0x16 | .dataTimeout => 0x17 | .mediaError => 0x18 | .mediaTimeout => 0x19
  | .mediaReset => 0x1A | .mediaFault => 0x1B | .notReady => 0x1C

/-! ### Parameters -/

/-- A window number of a parameter list, when it lies in 0 to 15. -/
def windowOfItem (x : Word) : Option WindowNo := if h : x.toNat < 16 then some ⟨x.toNat, h⟩ else none

/-- A value that must satisfy a test to be in its form range. -/
def inForm (ok : Bool) : Option Unit := if ok then some () else none

/-- A quota: 0 stands for absent, 1 to 16 for itself (R142, R202). -/
def quotaOfCode (n : Nat) : Option (Option Nat) :=
  if n = 0 then some none else if n ≤ 16 then some (some n) else none

/-- The quota as a number. -/
def quotaCode (q : Option Nat) : Nat := q.getD 0

/-- A window entry from its fields, each in its form range (R2, R142, R161). -/
def windowOfFields (base length : Word) (r0 r1 r2 discard durable quota : Nat) : Option Window := do
  let r0 ← Rights.ofCode r0
  let r1 ← Rights.ofCode r1
  let r2 ← Rights.ofCode r2
  let discard ← DiscardRule.ofCode discard
  let durable ← DurableRule.ofCode durable
  let quota ← quotaOfCode quota
  let _ ← inForm (length ≠ 0#32)
  some { base, length, rights := ⟨r0, r1, r2⟩, discard, durable, quota }

/-- The parameters of HOLD-PLACE (R26). -/
structure PlaceParams where
  window : WindowNo
  offset : Word
  length : Word
  cls : HoldClass
  scope : HoldScope
  expiry : Option Nat
deriving DecidableEq, Repr

/-- An expiry given: 1 to 65535 seconds (R26). -/
def expiryOfItem (x : Word) : Option Nat :=
  if 1 ≤ x.toNat ∧ x.toNat ≤ Config.maxExpiry then some x.toNat else none

/-- HOLD-PLACE less its expiry. -/
def placeOfItems (w o l cls scope : Word) (expiry : Option Nat) : Option PlaceParams := do
  let window ← windowOfItem w
  let cls ← HoldClass.ofCode cls.toNat
  let scope ← HoldScope.ofCode scope.toNat
  let _ ← inForm (l ≠ 0#32)
  some { window, offset := o, length := l, cls, scope, expiry }

/-- HOLD-PLACE: five items, or six with an expiry (R26, R202). -/
def placeParams : List Word → Option PlaceParams
  | [w, o, l, c, s] => placeOfItems w o l c s none
  | [w, o, l, c, s, e] => do placeOfItems w o l c s (some (← expiryOfItem e))
  | _ => none

/-- HOLD-RELEASE: one item, not 0 (R35). -/
def releaseParams : List Word → Option Nat
  | [id] => if id = 0#32 then none else some id.toNat
  | _ => none

/-- STAGE-WINDOW (R142). -/
def stageWindowParams : List Word → Option (WindowNo × Window)
  | [w, base, length, r0, r1, r2, discard, durable, quota] => do
    let w ← windowOfItem w
    let entry ← windowOfFields base length r0.toNat r1.toNat r2.toNat discard.toNat durable.toNat quota.toNat
    some (w, entry)
  | _ => none

/-- STAGE-DROP (R143). -/
def stageDropParams : List Word → Option WindowNo
  | [w] => windowOfItem w
  | _ => none

/-- Whether a weight is 1 to 8 (R138). -/
def weightOk (n : Nat) : Bool := 1 ≤ n && n ≤ 8

/-- STAGE-PORT (R144). -/
def stagePortParams : List Word → Option (Port × PortEntry)
  | [p, v, w] => do
    let p ← portOfCode p.toNat
    let privilege ← Privilege.ofCode v.toNat
    let _ ← inForm (weightOk w.toNat)
    some (p, { privilege, weight := w.toNat })
  | _ => none

/-- Parameters in their ranges and steps (R138). -/
def paramsOfFields (response transfer drain : Nat) : Option Params :=
  if 10 ≤ response ∧ response ≤ 2550 ∧ response % 10 = 0 ∧ 10 ≤ transfer ∧ transfer ≤ 2550 ∧ transfer % 10 = 0 ∧
      100 ≤ drain ∧ drain ≤ 25500 ∧ drain % 100 = 0 then
    some ⟨response, transfer, drain⟩
  else none

/-- STAGE-PARAMS (R145). -/
def stageParamsParams : List Word → Option Params
  | [r, t, d] => paramsOfFields r.toNat t.toNat d.toNat
  | _ => none

/-- COMMIT (R148). -/
def commitParams : List Word → Option Bool
  | [x] => persistOfCode x.toNat
  | _ => none

/-- An empty parameter list (R140, R183). -/
def noParams : List Word → Option Unit
  | [] => some ()
  | _ => none

/-- ABORT: one item, a tag (R108). -/
def abortParams : List Word → Option Tag
  | [t] => if h : t.toNat < 32 then some ⟨t.toNat, h⟩ else none
  | _ => none

/-- The window that a refused management request's log entry shows (R86): the first item of STAGE-WINDOW and
STAGE-DROP when it lies in 0 to 15. -/
def loggedWindow (k : ReqKind) (l : List Word) : Option WindowNo :=
  if k = .stageWindow ∨ k = .stageDrop then l.head?.bind windowOfItem else none

/-! ### Details -/

/-- One window entry (MAP-READ, STAGE-READ). -/
def windowItems (n : WindowNo) (w : Window) : List Word :=
  [item n.val, w.base, w.length, item w.rights.p0.code, item w.rights.p1.code, item w.rights.p2.code,
   item w.discard.code, item w.durable.code, item (quotaCode w.quota)]

/-- The present entries of a map in ascending window number. -/
def WindowMap.entries (m : WindowMap) : List (WindowNo × Window) :=
  allWindows.filterMap fun n => (m.get n).map fun w => (n, w)

/-- Entry count and entries (R146, R186). -/
def mapItems (m : WindowMap) : List Word :=
  item m.entries.length :: m.entries.flatMap fun (n, w) => windowItems n w

/-- The whole of staging (R146). -/
def stagingItems (c : Configuration) : List Word :=
  mapItems c.map ++
    Port.all.flatMap (fun p => [item (c.ports.get p).privilege.code, item (c.ports.get p).weight]) ++
    [item c.params.response, item c.params.transfer, item c.params.drain]

/-- Time remaining in whole seconds rounded up, not less than 1 (R21, R189; log entry 21). -/
def secondsLeft (ms : Nat) : Nat := max 1 ((ms + 999) / 1000)

/-- The time remaining of a listing: 0 when absent (R202). -/
def HoldState.secondsLeft : HoldState → Nat
  | .active (some ms) => Machine.secondsLeft ms
  | .active none | .pending _ | .persisting => 0

/-- One hold record of HOLD-LIST (R189). -/
def holdItems (h : Hold) : List Word :=
  [item h.id, item h.cls.code, item h.scope.code, item h.range.first, item h.range.count, item (portCode h.owner),
   item (h.expiry.getD 0), item h.state.code, item h.state.secondsLeft]

/-- The detail of OK to HOLD-PLACE (R33). -/
def placedItems (h : Hold) : List Word :=
  [item h.id, item h.cls.code, item h.scope.code, item h.range.first, item h.range.count]

/-- One refusal log entry (R195). -/
def logItems (e : LogEntry) : List Word :=
  [item (portCode e.port), item e.tag.val, item e.kind.code.toNat, optItem (e.window.map Fin.val), item e.outcome.code,
   optItem e.block, e.stamp]

/-- The status items in the order of R190. -/
def statusItems (c : Chip) : List Word :=
  [item c.cfg.bridge.code, c.mlink.capacity, item c.mlink.slotCount, item c.slotsInUse, item c.pool.free.length,
   optItem (c.cfg.current.map Copy.code), c.cfg.generation, item c.cfg.markA.code, item c.cfg.markB.code,
   c.map.epoch, c.ctl.logTime, item c.mlink.lateCompletions, item c.mlink.recoveries, item c.mlink.checkFails,
   item c.ports.p0.checkFails, item c.ports.p1.checkFails, item c.ports.p2.checkFails, item c.ctl.persistFailures]

/-- A failure of COMMIT validation (R10, R148). -/
inductive MapFailure where
  | overlap (w1 w2 : WindowNo)
  | beyondMedia (w : WindowNo)
  | inConfigArea (w : WindowNo)
  | noAdmin
deriving DecidableEq, Repr

/-- The detail of INVALID-MAP (R202). -/
def MapFailure.items : MapFailure → List Word
  | .overlap w1 w2 => [1#32, item w1.val, item w2.val]
  | .beyondMedia w => [2#32, item w.val, absentItem]
  | .inConfigArea w => [3#32, item w.val, absentItem]
  | .noAdmin => [4#32, absentItem, absentItem]

end Sys2Proof.Machine
end

