-- ==== Sys2Proof/Machine/Record.lean ====
section
/-! DEFINITION. The map check (R10, R11) and the configuration record: its contents, its layout and the validity of a
copy (R159, R161, R204). -/

namespace Sys2Proof.Machine

/-! ### Map check -/

/-- The first block of the configuration area: CAP-2 (R159). -/
def Chip.areaStart (c : Chip) : Nat := c.mlink.capacity.toNat - 2

/-- The first pair of present windows that intersect, lower number first (R11). -/
def firstOverlap : List (WindowNo × Window) → Option MapFailure
  | [] => none
  | (n, w) :: rest =>
    match rest.find? fun x => w.blocks.intersects x.2.blocks with
    | some (m, _) => some (.overlap n m)
    | none => firstOverlap rest

/-- A window that reaches beyond the medium or into the configuration area (R10). -/
def placementFailure (cap : Nat) (n : WindowNo) (w : Window) : Option MapFailure :=
  if cap < w.base.toNat + w.length.toNat then some (.beyondMedia n)
  else if cap - 2 < w.base.toNat + w.length.toNat then some (.inConfigArea n)
  else none

/-- The map check: none is VALID (R11). -/
def mapCheck (cap : Nat) (m : WindowMap) : Option MapFailure :=
  (firstOverlap m.entries).or (m.entries.findSome? fun (n, w) => placementFailure cap n w)

/-- COMMIT validation: the map check, then at least one ADMIN port (R148). -/
def commitCheck (cap : Nat) (c : Configuration) : Option MapFailure :=
  (mapCheck cap c.map).or
    (if Port.all.any (fun p => (c.ports.get p).privilege = .admin) then none else some .noAdmin)

/-! ### The record -/

/-- A FIXED hold in a record (R159). -/
structure StoredHold where
  id : Nat
  scope : HoldScope
  range : MediaRange
  owner : Port
deriving DecidableEq, Repr

/-- The contents of a configuration record (R159). -/
structure ConfigRecord where
  generation : Word
  config : Configuration
  holds : List StoredHold
deriving DecidableEq, Repr

/-- A number as one byte. -/
def byte (n : Nat) : Byte := BitVec.ofNat 8 n

/-- Reserved bytes. -/
def zeros (n : Nat) : List Byte := List.replicate n 0#8

/-- A map slot (R204). -/
def encodeMapSlot : Option Window → List Byte
  | none => zeros 32
  | some w =>
    [1#8, byte w.rights.p0.code, byte w.rights.p1.code, byte w.rights.p2.code, byte w.discard.code,
     byte w.durable.code, byte (quotaCode w.quota), 0#8] ++ bytes32 w.base ++ bytes32 w.length ++ zeros 16

/-- A FIXED hold slot (R204). -/
def encodeHoldSlot : Option StoredHold → List Byte
  | none => zeros 24
  | some h =>
    [1#8, byte h.scope.code, byte (portCode h.owner), 0#8] ++ bytes16 (BitVec.ofNat 16 h.id) ++ zeros 2 ++
      bytes32 (item h.range.first) ++ bytes32 (item h.range.count) ++ zeros 8

/-- The eight hold slots, filled from slot 0 (R204). -/
def holdSlots (l : List StoredHold) : List (Option StoredHold) :=
  (l.map some ++ List.replicate Config.maxFixed none).take Config.maxFixed

/-- Bytes 0 to 735 (R204). -/
def encodeFields (r : ConfigRecord) : List Byte :=
  [0x50#8, 0x33#8, 0x31#8, 0x36#8] ++ bytes16 1#16 ++ zeros 2 ++ bytes32 r.generation ++
    bytes16 (BitVec.ofNat 16 r.config.params.response) ++ bytes16 (BitVec.ofNat 16 r.config.params.transfer) ++
    bytes16 (BitVec.ofNat 16 r.config.params.drain) ++
    Port.all.flatMap (fun p => [byte (r.config.ports.get p).privilege.code, byte (r.config.ports.get p).weight]) ++
    zeros 8 ++ r.config.map.rows.flatMap encodeMapSlot ++ (holdSlots r.holds).flatMap encodeHoldSlot

/-- The 4096 bytes of a record (R204). -/
def encodeRecord (r : ConfigRecord) : List Byte := withCheck (encodeFields r ++ zeros 3356)

/-- A map slot from its fields; a present mark other than 0 or 1 is an error (R161, R204). -/
def decodeMapSlot (mark r0 r1 r2 discard durable quota : Byte) (base length : Word) : Option (Option Window) :=
  if mark = 0#8 then some none
  else if mark = 1#8 then
    (windowOfFields base length r0.toNat r1.toNat r2.toNat discard.toNat durable.toNat quota.toNat).map some
  else none

/-- The map slots, and the bytes that follow them. -/
def decodeMapSlots : Nat → List Byte → Option (List (Option Window) × List Byte)
  | 0, bs => some ([], bs)
  | n + 1, m :: r0 :: r1 :: r2 :: d :: e :: q :: _ :: b3 :: b2 :: b1 :: b0 :: l3 :: l2 :: l1 :: l0 :: tail => do
    let w ← decodeMapSlot m r0 r1 r2 d e q (word b3 b2 b1 b0) (word l3 l2 l1 l0)
    let (ws, rest) ← decodeMapSlots n (tail.drop 16)
    some (w :: ws, rest)
  | _ + 1, _ => none

/-- A FIXED hold slot from its fields (R161, R204): a range of one block or more below `limit`. -/
def decodeHoldSlot (limit : Nat) (mark scope owner : Byte) (id : Half) (first length : Word) :
    Option (Option StoredHold) :=
  if mark = 0#8 then some none
  else if mark = 1#8 then do
    let scope ← HoldScope.ofCode scope.toNat
    let owner ← portOfCode owner.toNat
    let _ ← inForm (id ≠ 0#16 && length ≠ 0#32 && decide (first.toNat + length.toNat ≤ limit))
    some (some { id := id.toNat, scope, range := ⟨first.toNat, length.toNat⟩, owner })
  else none

/-- The hold slots that are present. -/
def decodeHoldSlots (limit : Nat) : Nat → List Byte → Option (List StoredHold)
  | 0, _ => some []
  | n + 1, m :: s :: o :: _ :: i1 :: i0 :: _ :: _ :: f3 :: f2 :: f1 :: f0 :: l3 :: l2 :: l1 :: l0 :: tail => do
    let h ← decodeHoldSlot limit m s o (half i1 i0) (word f3 f2 f1 f0) (word l3 l2 l1 l0)
    let hs ← decodeHoldSlots limit n (tail.drop 8)
    some (h.toList ++ hs)
  | _ + 1, _ => none

/-- A port table entry of a record. -/
def decodePortEntry (privilege weight : Byte) : Option PortEntry := do
  let privilege ← Privilege.ofCode privilege.toNat
  let _ ← inForm (weightOk weight.toNat)
  some { privilege, weight := weight.toNat }

/-- The fields of a record, each in its form range, with no two holds of one id, against a CAP (R161). -/
def decodeFields (cap : Nat) : List Byte → Option ConfigRecord
  | s0 :: s1 :: s2 :: s3 :: v1 :: v0 :: _ :: _ :: g3 :: g2 :: g1 :: g0 :: a1 :: a0 :: b1 :: b0 :: c1 :: c0 ::
      v0' :: w0 :: v1' :: w1 :: v2' :: w2 :: tail => do
    let _ ← inForm (decide ([s0, s1, s2, s3] = [0x50#8, 0x33#8, 0x31#8, 0x36#8]) && half v1 v0 == 1#16)
    let params ← paramsOfFields (half a1 a0).toNat (half b1 b0).toNat (half c1 c0).toNat
    let p0 ← decodePortEntry v0' w0
    let p1 ← decodePortEntry v1' w1
    let p2 ← decodePortEntry v2' w2
    let (windows, rest) ← decodeMapSlots 16 (tail.drop 8)
    let holds ← decodeHoldSlots (cap - 2) Config.maxFixed rest
    let map : WindowMap := Table.ofList 16 none windows
    let _ ← inForm ((mapCheck cap map).isNone && decide (holds.map StoredHold.id).Nodup)
    some { generation := word g3 g2 g1 g0, config := ⟨map, ⟨p0, p1, p2⟩, params⟩, holds }
  | _ => none

/-- The record in a copy, when the copy is valid against a CAP: the check value first, then the fields (R161, R204). -/
def readRecord (cap : Nat) (block : Block) : Option ConfigRecord :=
  let body := block.toBytes.take 4092
  if block.toBytes.drop 4092 = bytes32 (checkValue body) then decodeFields cap body else none

/-- The factory state as a record without a generation of its own (R176). -/
def factoryRecord : ConfigRecord := ⟨0#32, factory, []⟩

end Sys2Proof.Machine
end

