-- ==== Sys2Proof/Machine/Arbiter.lean ====
section
/-! DEFINITION. The grant arbiter: head eligibility, the three steps of a grant decision, the grant, the issue of a
command and the configuration unit's write (R90 to R105, R120, R121, R165). -/

namespace Sys2Proof.Machine

/-! ### Issue (R120, R121) -/

/-- A slot set to ISSUED with its response timer, and its COMMAND sent (R120); 0 and 0 without a media range. -/
def issueSlot (i : SlotNo) (r : SlotRec) (timeout : Nat) (c : Chip) : Chip :=
  let range := r.range.getD ⟨0, 0⟩
  sendMedia (.command i r.op r.durable range.first range.count)
    (setSlot i (some { r with phase := .issued timeout }) c)

/-- A write's DATA frames to the media, ascending index, each from its page (R120). -/
def sendWriteData (i : SlotNo) (pages : List PageNo) (c : Chip) : Chip :=
  each (fun (x : PageNo × Nat) c => sendMedia (.data i x.2 (c.pool.content.get x.1)) c) pages.zipIdx c

/-- The stage of a data request changed. -/
def setStage (p : Port) (t : Tag) (s : Stage) (c : Chip) : Chip :=
  match c.dataRecord p t with
  | some d => setRecord p t (some (.data { d with stage := s })) c
  | none => c

/-- A port request's command issued: slot, COMMAND, write data, response timer, stage ISSUED (R120). -/
def issuePort (p : Port) (t : Tag) (i : SlotNo) (r : SlotRec) (c : Chip) : Chip :=
  let c := setStage p t (.issued i) (issueSlot i r c.map.active.params.response c)
  if r.op = .write then sendWriteData i r.pages c else c

/-! ### Eligibility (R90 to R92) -/

/-- The pages a request needs (R90). -/
def DataRec.need (d : DataRec) : Nat :=
  match d.kind with
  | .read | .write => d.count.toNat
  | .discard | .flush => 0

/-- The head of a port queue. -/
def Chip.headOf (c : Chip) (p : Port) : Option (Tag × DataRec) :=
  match (c.arb.queues.get p).head? with
  | some t => (c.dataRecord p t).map fun d => (t, d)
  | none => none

/-- The lowest slot free for grant (R92). -/
def Chip.freeSlot (c : Chip) : Option SlotNo :=
  allSlots.find? fun i => decide (i.val < c.mlink.slotCount) && (c.slot i).isNone

/-- The ordering conditions (R91). -/
def Chip.orderOk (c : Chip) (p : Port) (d : DataRec) : Bool :=
  (!d.ordered || decide ((c.ports.get p).inFlight = 0)) && !c.arb.ordered.get p

/-- The quota condition (R5). -/
def Chip.quotaOk (c : Chip) (d : DataRec) : Bool :=
  match (c.map.active.map.get d.window).bind Window.quota with
  | some q => decide ((c.map.usage.get d.window).inFlight < q)
  | none => true

/-- Every condition of R90 but Pages. -/
def Chip.eligibleButPages (c : Chip) (p : Port) : Bool :=
  match c.headOf p with
  | some (_, d) =>
    c.isOpen p && decide (c.cfg.bridge = .service) && c.freeSlot.isSome && c.orderOk p d && c.quotaOk d
  | none => false

/-- The Pages condition (R90). -/
def Chip.pagesOk (c : Chip) (p : Port) : Bool :=
  match c.headOf p with
  | some (_, d) => decide (d.need ≤ c.pool.free.length)
  | none => true

/-- Whether the head of port `p` is eligible (R90). -/
def Chip.eligible (c : Chip) (p : Port) : Bool := c.eligibleButPages p && c.pagesOk p

/-- Whether the head of port `p` is page-short (R90). -/
def Chip.pageShort (c : Chip) (p : Port) : Bool := c.eligibleButPages p && !c.pagesOk p

/-! ### The grant (R96, R98, R99) -/

/-- The next port in the order P0, P1, P2, P0. -/
def nextPort : Port → Port
  | .p0 => .p1
  | .p1 => .p2
  | .p2 => .p0

/-- Credit and pointer after a grant of the third step (R96). -/
def spendCredit (p : Port) (a : Arbiter) : Arbiter :=
  let left := a.credit.get p - 1
  { a with credit := a.credit.set p left, pointer := if left = 0 then nextPort p else p }

/-- Starvation counts and reservation list after a grant to `p`, with the ports that were page-short at that decision
(R95, R98). -/
def starve (p : Port) (short : Port → Bool) (a : Arbiter) : Arbiter :=
  let raised : PerPort Nat :=
    ⟨if short .p0 then min Config.starvationLimit (a.starvation.p0 + 1) else a.starvation.p0,
     if short .p1 then min Config.starvationLimit (a.starvation.p1 + 1) else a.starvation.p1,
     if short .p2 then min Config.starvationLimit (a.starvation.p2 + 1) else a.starvation.p2⟩
  let kept := a.reservation.filter (· ≠ p)
  let joining := Port.all.filter fun q =>
    short q && decide (raised.get q = Config.starvationLimit) && !a.reservation.contains q
  { a with starvation := raised.set p 0, reservation := kept ++ joining }

/-- The slot record of a grant: TAKEN until its command is issued (R92, R117; log entry 20). -/
def slotOfGrant (p : Port) (t : Tag) (d : DataRec) (pages : List PageNo) : SlotRec where
  phase := .taken
  holder := .port p
  owner := some t
  op := d.kind
  window := some d.window
  ordered := d.ordered
  range := d.range
  durable := d.durable
  pages := pages
  received := []

/-- The grant of a head to slot `i` (R99): the entry leaves the queue, slot and pages are taken, the counts change; a
WRITE receives XFER-READY and its transfer timer, any other kind is issued. -/
def grantHead (reserved : Bool) (p : Port) (t : Tag) (d : DataRec) (i : SlotNo) (c : Chip) : Chip :=
  let short := fun q => decide (q ≠ p) && c.pageShort q
  let pages := c.pool.free.take d.need
  let r := slotOfGrant p t d pages
  let c := c.modArb fun a =>
    let a := starve p short (if reserved then a else spendCredit p a)
    { a with queues := a.queues.modify p List.tail, ordered := if d.ordered then a.ordered.set p true else a.ordered }
  let c := c.modPool fun pool => { pool with free := pool.free.drop d.need }
  let c := modUsage d.window (fun u => { queued := u.queued - 1, inFlight := u.inFlight + 1 }) c
  let c := c.modPort p fun pc => { pc with inFlight := pc.inFlight + 1 }
  if d.kind = .write then
    sendPort p (.xferReady t d.count) (setStage p t (.granted i [] c.map.active.params.transfer) (setSlot i (some r) c))
  else issuePort p t i r c

/-- The grant to port `p`, when it has a head and a slot is free. -/
def grantPort (reserved : Bool) (p : Port) (c : Chip) : Option Chip :=
  match c.headOf p, c.freeSlot with
  | some (t, d), some i => some (grantHead reserved p t d i c)
  | _, _ => none

/-! ### The write of a persist job (R94, R165) -/

/-- The copy that is not current: copy A when none is (R165). -/
def ConfigUnit.target (u : ConfigUnit) : Copy :=
  match u.current with
  | some .a => .b
  | some .b | none => .a

/-- The media block of a copy (R159). -/
def Chip.copyBlock (c : Chip) (x : Copy) : Nat := c.areaStart + x.code

/-- The record area of a copy set. -/
def setArea (x : Copy) (b : Option Block) (c : Chip) : Chip :=
  c.modCfg fun u =>
    match x with
    | .a => { u with areaA := b }
    | .b => { u with areaB := b }

/-- The record area of a copy. -/
def ConfigUnit.area (u : ConfigUnit) : Copy → Option Block
  | .a => u.areaA
  | .b => u.areaB

/-- The validity mark of a copy set. -/
def setMark (x : Copy) (m : Mark) (c : Chip) : Chip :=
  c.modCfg fun u =>
    match x with
    | .a => { u with markA := m }
    | .b => { u with markB := m }

/-- The validity mark of a copy. -/
def ConfigUnit.mark (u : ConfigUnit) : Copy → Mark
  | .a => u.markA
  | .b => u.markB

/-- The configuration a job writes (R163): staging for a commit job, else the active one. -/
def Chip.jobConfig (c : Chip) : Job → Configuration
  | .hold _ => c.map.active
  | .commit =>
    match c.map.staging with
    | .committing _ cfg => cfg
    | .empty | .opened _ _ => c.map.active

/-- Whether a hold goes into the record of a job: FIXED, and ACTIVE or the job's own (R165). -/
def Hold.inRecord (j : Job) (h : Hold) : Bool :=
  h.cls = .fixed &&
    match h.state with
    | .active _ => true
    | .pending _ | .persisting => j = .hold h.id

/-- The record of a job (R165): holds in ascending id, the generation after the current one. -/
def Chip.jobRecord (c : Chip) (j : Job) : ConfigRecord where
  generation := c.cfg.generation + 1
  config := c.jobConfig j
  holds := (c.hold.table.filter (Hold.inRecord j)).map fun h => ⟨h.id, h.scope, h.range, h.owner⟩

/-- The slot record of a configuration command (R121). -/
def configSlot (op : DataKind) (block : Nat) (durable : Bool) : SlotRec where
  phase := .taken
  holder := .configuration
  owner := none
  op := op
  window := none
  ordered := false
  range := some ⟨block, 1⟩
  durable := durable
  pages := []
  received := []

/-- A persist job receives slot `i`: the record is built and its write issued; the writer is WRITING (R94, R165). -/
def grantPersist (j : Job) (i : SlotNo) (c : Chip) : Chip :=
  let target := c.cfg.target
  let record := c.jobRecord j
  let block := Block.ofBytes (encodeRecord record)
  let c := setArea target (some block)
    (c.modCfg fun u => { u with writer := .writing j target record.generation })
  sendMedia (.data i 0 block)
    (issueSlot i (configSlot .write (c.copyBlock target) true) c.map.active.params.response c)

/-! ### Grant decisions (R93 to R97) -/

/-- Every credit set to its port's weight in the active port table (R97). -/
def reloadCredits (c : Chip) : Chip :=
  c.modArb fun a => { a with credit := c.map.active.ports.map PortEntry.weight }

/-- The first port from the pointer on whose head is eligible and whose credit is above 0 (R96). -/
def Chip.nextCredited (c : Chip) : Option Port :=
  let q := c.arb.pointer
  [q, nextPort q, nextPort (nextPort q)].find? fun p => c.eligible p && decide (0 < c.arb.credit.get p)

/-- The third step: weighted round-robin, with one reload (R96). -/
def roundRobin (c : Chip) : Option Chip :=
  match c.nextCredited with
  | some p => grantPort false p c
  | none =>
    if Port.all.any c.eligible then
      let c := reloadCredits c
      c.nextCredited.bind fun p => grantPort false p c
    else none

/-- One grant decision: none when it grants nothing (R93 to R96). -/
def grantDecision (c : Chip) : Option Chip :=
  if c.cfg.bridge = .service then
    match c.cfg.writer, c.freeSlot with
    | .awaitingSlot j, some i => some (grantPersist j i c)
    | _, _ =>
      match c.arb.reservation with
      | p :: _ => if c.eligible p then grantPort true p c else none
      | [] => roundRobin c
  else none

/-- Decisions one after the other until one grants nothing, at most `n` of them. -/
def decisions : Nat → Chip → Chip
  | 0, c => c
  | n + 1, c =>
    match grantDecision c with
    | some c' => decisions n c'
    | none => c

/-- The grant decisions of one event (R93). Every grant takes a slot, so no more than sixteen grant. -/
def arbitrate (c : Chip) : Chip := decisions 16 c

end Sys2Proof.Machine
end

