-- ==== Sys2Proof/Machine/Settle.lean ====
section
/-! DEFINITION. What follows when counts fall and slots free: the holds' waits, the drain of a commit, the swap, the
persist jobs and the writer, the test of a CLOSING session, and the return of a slot to FREE (R33, R34, R55, R119,
R150 to R153, R163 to R168). -/

namespace Sys2Proof.Machine

/-! ### Holds (R24, R33, R34, R41) -/

/-- The hold with an id. -/
def Chip.findHold (c : Chip) (id : Nat) : Option Hold := c.hold.table.find? fun h => h.id = id

/-- A hold record changed. -/
def setHold (h : Hold) (c : Chip) : Chip :=
  c.modHold fun u => { u with table := u.table.map fun x => if x.id = h.id then h else x }

/-- A hold record taken out of the table. -/
def dropHold (id : Nat) (c : Chip) : Chip := c.modHold fun u => { u with table := u.table.filter fun x => x.id ≠ id }

/-- A hold record removed, with the HOLDS notice (R41). -/
def removeHold (h : Hold) (c : Chip) : Chip := holdsNotice h.range (dropHold h.id c)

/-- The answer to the placement of a hold, when one is due (R33, R42). -/
def answerPlacement (h : Hold) (o : Outcome) (detail : List Word) (c : Chip) : Chip :=
  match h.answerTo with
  | some t => respond h.owner t o detail c
  | none => c

/-- A hold becomes ACTIVE: its timer starts, the HOLDS notice is set, and the placement is answered OK (R33, R34). -/
def activateHold (h : Hold) (c : Chip) : Chip :=
  answerPlacement h .ok (placedItems h)
    (holdsNotice h.range (setHold { h with state := .active (h.expiry.map (· * 1000)), answerTo := none } c))

/-- A job appended to the persist queue (R163). -/
def appendJob (j : Job) (c : Chip) : Chip := c.modCfg fun u => { u with queue := u.queue ++ [j] }

/-- The end of a hold's wait (R33, R34). -/
def endWait (h : Hold) (c : Chip) : Chip :=
  match h.cls with
  | .session | .power => activateHold h c
  | .fixed => appendJob (.hold h.id) (setHold { h with state := .persisting } c)

/-- Every PENDING hold whose wait set is empty ends its wait, in ascending id (R32, R163). -/
def endWaits (c : Chip) : Chip := each endWait (c.hold.table.filter fun h => h.state = .pending []) c

/-! ### Commit (R150 to R153) -/

/-- The answer to the COMMIT under way, when its session is still there (R153, R155). -/
def answerCommit (info : CommitInfo) (o : Outcome) (detail : List Word) (c : Chip) : Chip :=
  match info.session, info.tag with
  | some p, some t => respond p t o detail c
  | _, _ => c

/-- The epoch of the swap is delivered to the committer (R153). -/
def deliverCommit (info : CommitInfo) (c : Chip) : Chip :=
  match info.session with
  | some p => if c.isOpen p then deliver p c.map.epoch c else c
  | none => c

/-- The swap (R153): staging becomes active, the epoch goes up by one, MAP is compared at every OPEN session, staging
and controller are cleared, credits are reloaded (R97), and the COMMIT is answered OK with the new epoch. -/
def swap (info : CommitInfo) (c : Chip) : Chip :=
  match c.map.staging with
  | .committing _ cfg =>
    let c := c.modMap fun m => { m with active := cfg, epoch := m.epoch + 1, staging := .empty, commit := .idle }
    let c := eachPort (fun p c => if c.isOpen p then compareEpoch p c else c) (reloadCredits c)
    answerCommit info .ok [c.map.epoch] (deliverCommit info c)
  | .empty | .opened _ _ => c

/-- Whether both counts of every window of a change set are 0 (R150). -/
def Chip.drained (c : Chip) (changeSet : List WindowNo) : Bool :=
  changeSet.all fun w => c.map.usage.get w = ⟨0, 0⟩

/-- The end of a drain (R150, R152): the commit persists or swaps. -/
def drainEnd (info : CommitInfo) (c : Chip) : Chip :=
  if info.persist then appendJob .commit (c.modMap fun m => { m with commit := .persisting info })
  else swap info c

/-- The drain-end test (R150, R157). -/
def drainTest (c : Chip) : Chip :=
  match c.map.commit with
  | .draining info _ => if c.drained info.changeSet ∧ c.cfg.bridge ≠ .fault then drainEnd info c else c
  | .idle | .persisting _ => c

/-- Staging after a commit that ends without a swap: back to its owner, with its edits (R151, R152). -/
def reopenStaging (info : CommitInfo) (m : MapUnit) : Staging :=
  match info.session, m.staging with
  | some p, .committing _ cfg => .opened p cfg
  | _, _ => .empty

/-- A commit ends without a swap: the controller is IDLE (R151, R152, R157). -/
def endCommit (staging : Staging) (c : Chip) : Chip := c.modMap fun m => { m with staging := staging, commit := .idle }

/-- A commit job has failed (R152). -/
def commitFailed (info : CommitInfo) (c : Chip) : Chip :=
  let staging := if c.cfg.bridge = .fault then .empty else reopenStaging info c.map
  answerCommit info .persistFailed [] (endCommit staging c)

/-! ### Persist jobs (R163 to R168) -/

/-- A hold job has failed: the record is removed, with its notice, and the placement answered (R34). -/
def holdJobFailed (id : Nat) (c : Chip) : Chip :=
  match c.findHold id with
  | some h => answerPlacement h .persistFailed [item h.id] (removeHold h c)
  | none => c

/-- A job fails: counted, and reported to its owner (R167, R192). -/
def jobFailed (j : Job) (c : Chip) : Chip :=
  let c := c.modCtl fun f => { f with persistFailures := saturatingSucc Config.saturate8 f.persistFailures }
  match j with
  | .hold id => holdJobFailed id c
  | .commit =>
    match c.map.commit with
    | .persisting info => commitFailed info c
    | .idle | .draining _ _ => c

/-- A job succeeds: reported to its owner (R166). -/
def jobSucceeded (j : Job) (c : Chip) : Chip :=
  match j with
  | .hold id =>
    match c.findHold id with
    | some h => activateHold h c
    | none => c
  | .commit =>
    match c.map.commit with
    | .persisting info => swap info c
    | .idle | .draining _ _ => c

/-- The writer state set. -/
def setWriter (w : Writer) (c : Chip) : Chip := c.modCfg fun u => { u with writer := w }

/-- Whether the writer may take a job (R164). -/
def Chip.writerMayTake (c : Chip) : Bool :=
  c.cfg.writer = .idle && !c.cfg.resetMark && (c.cfg.bridge = .service || c.cfg.bridge = .recover)

/-- The writer takes the head job, or fails every job when no generation is left (R164). -/
def writerTake (c : Chip) : Chip :=
  if c.writerMayTake then
    if c.cfg.generation = 0xFFFFFFFF#32 then
      each jobFailed c.cfg.queue (c.modCfg fun u => { u with queue := [] })
    else
      match c.cfg.queue with
      | j :: rest => c.modCfg fun u => { u with queue := rest, writer := .awaitingSlot j }
      | [] => c
  else c

/-- A write has ended with an error: the target is INVALID, the writer goes on to `w`, the job fails (R167). -/
def writeFailed (w : Writer) (c : Chip) : Chip :=
  match c.cfg.writer with
  | .writing j target _ => jobFailed j (setWriter w (setMark target .invalid c))
  | .idle | .awaitingSlot _ | .awaitingFree => c

/-- A write has ended OK: its copy is current with the generation written, and the job succeeds (R166). -/
def writeSucceeded (c : Chip) : Chip :=
  match c.cfg.writer with
  | .writing j target g =>
    jobSucceeded j (setMark target .valid
      (c.modCfg fun u => { u with current := some target, generation := g, writer := .idle }))
  | .idle | .awaitingSlot _ | .awaitingFree => c

/-! ### Consequences of an event -/

/-- What the hold unit, the map unit and the configuration unit do after counts have fallen or slots have freed
(R119; order: log entry 9). -/
def settle (c : Chip) : Chip := writerTake (drainTest (endWaits c))

/-- A CLOSING session whose in-flight count is 0 goes to DOWN and sends CLOSED (R55). -/
def closeIfIdle (p : Port) (c : Chip) : Chip :=
  let pc := c.ports.get p
  match pc.session with
  | .closing reason =>
    if pc.inFlight = 0 then sendPort p (.closed reason) (c.modPort p fun pc => { pc with session := .down }) else c
  | .down | .opened => c

/-- The end of an event that has freed slots or emptied queue places: the owners' answers and the consequences, then
the test of every CLOSING session, then the grant decisions (R55, R93, R119; log entries 3, 9). -/
def conclude (answers : Chip → Chip) (c : Chip) : Chip :=
  arbitrate (eachPort closeIfIdle (eitherOrder answers settle c))

/-! ### The return of a slot to FREE (R119) -/

/-- Slot `i` leaves the wait set of every PENDING hold (R32). -/
def leaveWaits (i : SlotNo) (c : Chip) : Chip :=
  c.modHold fun u => { u with table := u.table.map fun h =>
    match h.state with
    | .pending waits => { h with state := .pending (waits.filter (· ≠ i)) }
    | .persisting | .active _ => h }

/-- The counts and marks of a port's slot record given back (R6, R48, R91). -/
def uncount (p : Port) (r : SlotRec) (c : Chip) : Chip :=
  let c := c.modPort p fun pc => { pc with inFlight := pc.inFlight - 1 }
  let c := if r.ordered then c.modArb fun a => { a with ordered := a.ordered.set p false } else c
  match r.window with
  | some w => modUsage w (fun u => { u with inFlight := u.inFlight - 1 }) c
  | none => c

/-- Slot `i` returns to FREE: its counts, its pages, its place in the wait sets, and the record kept for it by a
CLOSING session (R53, R119). -/
def freeSlot (i : SlotNo) (c : Chip) : Chip :=
  match c.slot i with
  | none => c
  | some r =>
    let c := leaveWaits i (setSlot i none c)
    match r.holder with
    | .configuration => c
    | .port p =>
      let c := returnPages r.pages (uncount p r c)
      if c.isOpen p then c else freeKept p i c

end Sys2Proof.Machine
end

