-- ==== Sys2Proof/Machine/SessionEnd.lean ====
section
/-! DEFINITION. The end of a session: CLOSE, link-down and the session end of a bridge reset (R42, R52 to R57, R155,
R179). -/

namespace Sys2Proof.Machine

/-- The slot of a request of the ended session has no owner from now on (R53, R117). -/
def disown (i : SlotNo) (c : Chip) : Chip := setSlot i ((c.slot i).map fun r => { r with owner := none }) c

/-- DATA frames of a read that had gone out before its delivery stopped: the first `n` of them (log entry 5). -/
def emitData (p : Port) (t : Tag) (pages : List PageNo) (n : Nat) (c : Chip) : Chip :=
  each (fun (x : PageNo × Nat) c => c.emit (.toPort p (.data t x.2 (c.pool.content.get x.1)))) (pages.zipIdx.take n) c

/-- A delivery that stops: a free number of its DATA frames, not all, had gone out (R53; log entry 5). -/
def stopDelivery (p : Port) (t : Tag) (pages : List PageNo) (c : Chip) : Chip :=
  (emitData p t pages (Config.framesSent c.free % pages.length) c).takeFree

/-- One record at the entry to CLOSING, by its stage (R53, R54). -/
def endRecord (p : Port) (t : Tag) (c : Chip) : Chip :=
  match c.record p t with
  | none => c
  | some (.handed _ _ _) => freeTag p t c
  | some (.data d) =>
    match d.stage with
    | .admitted => freeTag p t (dequeue p t c)
    | .granted i _ _ => freeTag p t (freeSlot i c)
    | .issued i => disown i c
    | .abandoning i _ => disown i c
    | .delivering pages => freeTag p t (returnPages pages (stopDelivery p t pages c))

/-- The hold unit at the end of the session of port `p` (R42). -/
def endSessionHolds (p : Port) (c : Chip) : Chip :=
  let c := each removeHold (c.hold.table.filter fun h => h.owner = p && h.cls = .session) c
  c.modHold fun u => { u with table := u.table.map fun h => if h.owner = p then { h with answerTo := none } else h }

/-- The session end is taken by the map unit (R155). -/
def endSessionStaging (p : Port) (c : Chip) : Chip :=
  match c.map.staging, c.map.commit with
  | .opened q _, _ => if q = p then endCommit .empty c else c
  | .committing (some q) cfg, .persisting info =>
    if q = p then
      c.modMap fun m =>
        { m with staging := .committing none cfg, commit := .persisting { info with session := none, tag := none } }
    else c
  | .committing (some q) _, .draining _ _ => if q = p then endCommit .empty c else c
  | _, _ => c

/-- When the cleanup itself has ended the drain of the session's own commit, a free value says which the map unit takes
first, the end of the drain or the end of the session (R155; log entry 4). The waits that the cleanup has ended come
before the end of the drain, so that hold jobs stand before the commit job (R163). -/
def drainBesideEnd (p : Port) (c : Chip) : Chip :=
  match c.map.commit with
  | .draining info _ =>
    if info.session = some p ∧ c.drained info.changeSet ∧ c.cfg.bridge ≠ .fault then
      let c' := c.takeFree
      if Config.drainEndFirst c.free then drainEnd info (endWaits c') else c'
    else c
  | .idle | .persisting _ => c

/-- An OPEN session goes to CLOSING: reason and flags (R48, R52). -/
def leaveOpen (reason : CloseReason) (p : Port) (c : Chip) : Chip :=
  c.modPort p fun pc => { pc with session := .closing reason, flags := Flags.clear }

/-- The cleanup at entry to CLOSING: records, starvation and reservation, holds, staging (R42, R53, R54, R89, R95, R98,
R155). -/
def cleanUp (p : Port) (c : Chip) : Chip :=
  let c := each (endRecord p) allTags c
  let c := c.modArb fun a =>
    { a with starvation := a.starvation.set p 0, reservation := a.reservation.filter (· ≠ p) }
  endSessionStaging p (drainBesideEnd p (endSessionHolds p c))

/-- The session of port `p` ends, if it is OPEN, with all that follows (R52, R55). -/
def closeSession (reason : CloseReason) (p : Port) (c : Chip) : Chip :=
  if c.isOpen p then conclude id (cleanUp p (leaveOpen reason p c)) else c

/-! ### The session end of a bridge reset (R57, R179) -/

/-- The bridge reset reaches the ports of a list: every one of their sessions that is OPEN leaves OPEN with reason RESET,
then each is cleaned up, with what follows. So no session that is reached receives an answer or a notice for what another
one's cleanup brings about, and no grant decision comes between them (R45, R57, R179, R198; order: log entry 9). -/
def resetPorts (ports : List Port) (c : Chip) : Chip :=
  let reached := ports.filter c.isOpen
  conclude id (each cleanUp reached (each (leaveOpen .reset) reached c))

end Sys2Proof.Machine
end

