-- ==== Sys2Proof/Machine/Startup.lean ====
section
/-! DEFINITION. The bridge states: entry to START, the bring-up, the reads of the copies, selection and load, entry to
FAULT, link recovery and the end of a bridge reset (R133 to R135, R171 to R180). -/

namespace Sys2Proof.Machine

/-! ### Bring-up attempts (R134) -/

/-- The recovery phase set. -/
def setBringUp (b : BringUp) (c : Chip) : Chip := c.modMlink fun m => { m with bringUp := b }

/-- Every slot that is not FREE returns to FREE, in ascending order. -/
def freeAllSlots (c : Chip) : Chip := each freeSlot allSlots c

/-- LINK-RESET sent; in START it returns every slot to FREE, without an answer (R137, R174). -/
def sendLinkReset (c : Chip) : Chip :=
  let c := sendMedia .linkReset c
  if c.cfg.bridge = .start then conclude id (freeAllSlots c) else c

/-- An attempt begins: LINK-RESET at once when the link is UP, else at link-up (R134). -/
def beginAttempt (c : Chip) : Chip :=
  match c.mlink.link with
  | .up => sendLinkReset (setBringUp (.attempt .awaitReady Config.attemptLimit) c)
  | .down => setBringUp (.attempt .awaitLinkUp Config.attemptLimit) c

/-- A bring-up begins with attempt count 0 (R133, R174). -/
def beginBringUp (c : Chip) : Chip := beginAttempt (c.modMlink fun m => { m with attempts := 0 })

/-! ### Entry to START (R16, R18, R19, R115, R173) -/

/-- Entry to START, and the bring-up that begins with it (R173, R174). The log time stops, as it does in START (R87). -/
def enterStart (c : Chip) : Chip :=
  let c := c.modCfg fun _ => ConfigUnit.reset
  let c := c.modMap fun m => { m with active := factory, epoch := 0#32, staging := .empty, commit := .idle }
  beginBringUp (c.modMlink fun m => { m with capacity := 0#32, slotCount := 0, bringUp := .idle })

/-! ### Entry to FAULT (R44, R112, R157, R171) -/

/-- Every entry of a port queue answered MEDIA-FAULT, head first (R112). -/
def faultQueue (p : Port) (c : Chip) : Chip :=
  each (fun t c => respond p t .mediaFault [] (dequeue p t c)) (c.arb.queues.get p) c

/-- Whether a hold is FIXED and not ACTIVE. -/
def Hold.unfinished (h : Hold) : Bool :=
  h.cls = .fixed &&
    match h.state with
    | .active _ => false
    | .pending _ | .persisting => true

/-- The FIXED holds not yet ACTIVE are removed with PERSIST-FAILED (R44; log entry 22). -/
def faultHolds (c : Chip) : Chip :=
  each (fun h c => answerPlacement h .persistFailed [item h.id] (removeHold h c)) (c.hold.table.filter Hold.unfinished) c

/-- The map unit takes the entry to FAULT (R157). -/
def faultMap (c : Chip) : Chip :=
  match c.map.commit with
  | .draining info _ => answerCommit info .mediaFault [] (endCommit .empty c)
  | .idle => endCommit .empty c
  | .persisting _ => c

/-- The job that the writer holds without a slot. -/
def Writer.waitingJob : Writer → List Job
  | .awaitingSlot j => [j]
  | .idle | .writing _ _ _ | .awaitingFree => []

/-- The log time is 0 at the end of a START (R87). -/
def restartLogTime (c : Chip) : Chip := c.modCtl fun f => { f with logTime := 0#32 }

/-- Entry to FAULT, in the order of R171: the state, the jobs, then the blocks (R171; log entry 9). That every block takes the
entry in this one step, so that no HOLD-PLACE of a run meets FAULT with the commit still under way and is answered MAP-BUSY
(R15, R157), is the model's choice (log entry 27). No slot is in use in FAULT: one that no LINK-RESET of a START has freed is
freed here (R44, R171; log entry 16). -/
def enterFault (c : Chip) : Chip :=
  let jobs := c.cfg.writer.waitingJob ++ c.cfg.queue
  let c := if c.cfg.bridge = .start then restartLogTime (conclude id (freeAllSlots c)) else c
  let c := c.modCfg fun u => { u with bridge := .fault, step := none, queue := [], writer := .idle }
  let c := raiseMedia (each jobFailed jobs c)
  let c := eachPort faultQueue c
  let c := c.modArb fun a => { a with reservation := [], starvation := PerPort.same 0 }
  let c := faultMap (faultHolds c)
  c.modMlink fun m => { m with bringUp := .idle, attempts := 0 }

/-! ### Reading the copies, selection and load (R46, R175 to R177) -/

/-- The read of a copy issued in slot 0 (R121, R175). -/
def readCopy (x : Copy) (c : Chip) : Chip :=
  issueSlot 0 (configSlot .read (c.copyBlock x) false) Config.factoryResponse c

/-- The copy that a step reads. -/
def StartStep.copy? : StartStep → Option Copy
  | .bringUp => none
  | .readA => some .a
  | .readB => some .b

/-- The start-up step set. -/
def setStep (s : StartStep) (c : Chip) : Chip := c.modCfg fun u => { u with step := some s }

/-- The id that follows (R40). -/
def idAfter (n : Nat) : Nat := if Config.maxHoldId ≤ n then 1 else n + 1

/-- A hold put in its place by id. -/
def insertHold (h : Hold) : List Hold → List Hold
  | [] => [h]
  | x :: xs => if h.id < x.id then h :: x :: xs else x :: insertHold h xs

/-- A FIXED hold as loaded (R46). -/
def StoredHold.loaded (s : StoredHold) : Hold where
  id := s.id
  cls := .fixed
  scope := s.scope
  range := s.range
  owner := s.owner
  expiry := none
  state := .active none
  answerTo := none

/-- A kept POWER record takes its place again, or is removed (R46). -/
def keepPower (limit : Nat) (fixedIds : List Nat) (table : List Hold) (h : Hold) : List Hold :=
  if !fixedIds.contains h.id && decide (h.range.first + h.range.count ≤ limit) &&
      decide (table.length < Config.maxHolds) then insertHold h table
  else table

/-- The hold table after a load: the record's FIXED holds, then the POWER records kept (R46). -/
def loadedTable (limit : Nat) (stored : List StoredHold) (old : List Hold) : List Hold :=
  (old.filter fun h => h.cls = .power).foldl (keepPower limit (stored.map StoredHold.id))
    (stored.foldr (fun s t => insertHold s.loaded t) [])

/-- The load of a record (R177). -/
def load (x : Option Copy) (r : ConfigRecord) (c : Chip) : Chip :=
  let c := c.modMap fun m => { m with active := r.config, epoch := 1#32 }
  let c := c.modHold fun u =>
    { table := loadedTable c.areaStart r.holds u.table, nextId := idAfter ((r.holds.map StoredHold.id).foldl max 0) }
  let c := reloadCredits (c.modArb fun a => { a with pointer := .p0 })
  let c := c.modCfg fun u => { u with current := x, generation := r.generation, step := none, bridge := .service }
  conclude id (restartLogTime c)

/-- The record of a copy marked VALID. -/
def Chip.validRecord (c : Chip) (x : Copy) : Option ConfigRecord :=
  if c.cfg.mark x = .valid then (c.cfg.area x).bind (readRecord c.mlink.capacity.toNat) else none

/-- Copy selection and load: the greater generation, A when they are equal, the factory state without a valid copy
(R176). -/
def selectCopy (c : Chip) : Chip :=
  match c.validRecord .a, c.validRecord .b with
  | some a, some b => if a.generation.toNat < b.generation.toNat then load (some .b) b c else load (some .a) a c
  | some a, none => load (some .a) a c
  | none, some b => load (some .b) b c
  | none, none => load none factoryRecord c

/-- The step that follows a read (R175). -/
def nextStartStep (c : Chip) : Chip :=
  match c.cfg.step with
  | some .readA => readCopy .b (setStep .readB c)
  | some .readB => selectCopy c
  | some .bringUp | none => c

/-- The mark of the copy being read becomes INVALID, if its read had not already ended (R175). -/
def readLost (c : Chip) : Chip :=
  match c.cfg.step.bind StartStep.copy? with
  | some x => if c.cfg.mark x = .unread then setMark x .invalid c else c
  | none => c

/-- The validity of a copy whose data has been received (R161, R175). -/
def judgeCopy (x : Copy) (c : Chip) : Chip :=
  let valid := ((c.cfg.area x).bind (readRecord c.mlink.capacity.toNat)).isSome
  setMark x (if valid then .valid else .invalid) c

/-- A link-down or abandon timer expiry between the first bring-up and the load runs a new bring-up (R175). -/
def bringUpAgain (c : Chip) : Chip := beginBringUp (readLost c)

/-! ### End of a bring-up (R134, R135, R174, R175) -/

/-- A bring-up has succeeded (R135, R174, R175; log entries 12, 13). -/
def bringUpDone (capacity : Word) (slots : Nat) (c : Chip) : Chip :=
  let c := c.modMlink fun m => { m with bringUp := .idle, attempts := 0, slotCount := slots }
  match c.cfg.bridge with
  | .start =>
    if c.cfg.step = some .bringUp then
      let c := c.modMlink fun m => { m with capacity := capacity }
      if capacity.toNat < Config.minCapacity then enterFault c else readCopy .a (setStep .readA c)
    else if capacity = c.mlink.capacity then nextStartStep c
    else enterFault c
  | .recover =>
    if capacity = c.mlink.capacity then
      let c := c.modMlink fun m => { m with recoveries := saturatingSucc Config.saturate8 m.recoveries }
      conclude id (c.modCfg fun u => { u with bridge := .service })
    else enterFault c
  | .service | .fault => c

/-- An attempt has failed: the next one begins at once, or the bring-up has failed (R134, R135, R174). -/
def attemptFailed (c : Chip) : Chip :=
  let c := c.modMlink fun m => { m with attempts := m.attempts + 1 }
  if c.mlink.attempts < Config.maxAttempts then beginAttempt c else enterFault c

/-! ### End of a bridge reset (R45, R158, R179) -/

/-- A job dropped from the queue (R179): no failure, no count. -/
def dropJob (j : Job) (c : Chip) : Chip :=
  match j with
  | .hold id =>
    match c.findHold id with
    | some h => removeHold h c
    | none => c
  | .commit => endCommit .empty c

/-- Steps 3 and 4 of the reset sequence (R45, R179): no session stays OPEN (R170), the queue is emptied, FIXED holds not
ACTIVE are removed, START begins. -/
def finishReset (c : Chip) : Chip :=
  let c := resetPorts Port.all c
  let c := each dropJob c.cfg.queue (c.modCfg fun u => { u with queue := [] })
  enterStart (each (fun h c => removeHold h c) (c.hold.table.filter Hold.unfinished) c)

/-- A bridge reset under way goes on when the writer is IDLE (R179, R180). -/
def resumeReset (c : Chip) : Chip := if c.cfg.resetMark ∧ c.cfg.writer = .idle then finishReset c else c

/-! ### Link recovery (R133) -/

/-- The ABORT that waits on the request that owns a slot (R110). -/
def Chip.waitingAbort (c : Chip) (r : SlotRec) : Option Tag :=
  match r.holder, r.owner with
  | .port p, some t =>
    match (c.dataRecord p t).map DataRec.stage with
    | some (.abandoning _ a) => some a
    | some .admitted | some (.granted _ _ _) | some (.issued _) | some (.delivering _) | none => none
  | _, _ => none

/-- The answer to an ABORT that has waited (R128, R133). -/
def answerAbort (p : Port) (o : Outcome) (abort : Option Tag) (c : Chip) : Chip :=
  match abort with
  | some a => respond p a o [] c
  | none => c

/-- The answer to the request that owns a slot, then the one to the ABORT that waits on it (R110, R128, R133). -/
def answerOwner (o : Outcome) (detail : List Word) (abortOutcome : Outcome) (abort : Option Tag) (r : SlotRec)
    (c : Chip) : Chip :=
  match r.holder, r.owner with
  | .port p, some t => answerAbort p abortOutcome abort (respond p t o detail c)
  | _, _ => c

/-- The writer after a recovery has freed its slot: a write fails with MEDIA-RESET, AWAITING-FREE ends (R167, R168). -/
def writerRecovers (c : Chip) : Chip :=
  match c.cfg.writer with
  | .writing _ _ _ => writeFailed .idle c
  | .awaitingFree => setWriter .idle c
  | .idle | .awaitingSlot _ => c

/-- A link recovery starts (R133): RECOVER, MEDIA, every slot FREE with its answers, then the first attempt; under the
reset mark START takes its place once the writer is IDLE (R180; log entry 15). A persist write's failure is reported,
with PERSIST-FAILED and HOLDS, before the answers of the ports' slots and what follows them, whatever the slot numbers:
the manual gives no order, this one is the model's choice (log entry 9). -/
def startRecovery (c : Chip) : Chip :=
  let owners := (allSlots.filterMap c.slot).map fun r => (r, c.waitingAbort r)
  let c := raiseMedia (c.modCfg fun u => { u with bridge := .recover })
  let c := writerRecovers (freeAllSlots c)
  let c := conclude (each (fun x => answerOwner .mediaReset [] .tooLate x.2 x.1) owners) c
  if c.cfg.resetMark ∧ c.cfg.writer = .idle then finishReset c else beginBringUp c

/-- A protocol error starts a recovery in SERVICE; in RECOVER, FAULT and START the frame is discarded (R131, R136,
R172, R174). -/
def protocolError (c : Chip) : Chip := if c.cfg.bridge = .service then startRecovery c else c

end Sys2Proof.Machine
end

