-- ==== Sys2Proof/Machine/Session.lean ====
section
/-! DEFINITION. The intake of a request (R56, R59, R60, R201), and management requests at the control function (R181 to
R184). -/

namespace Sys2Proof.Machine

/-! ### Intake (R56, R59, R60, R201) -/

/-- The data kinds, as requests. -/
def DataKind.request : DataKind → ReqKind
  | .read => .read
  | .write => .write
  | .discard => .discard
  | .flush => .flush

/-- The target byte of CONTROL (R200). -/
def controlTarget : Byte := 0xFF#8

/-- Steps 3 and 4 of intake for a data kind: the target is a window number, the list is empty, the length agrees
(R59, R201). -/
def Header.dataForm (h : Header) : Bool :=
  decide (h.target ≠ controlTarget) && decide (h.listLength = 0#16) && decide (h.list.length = 0)

/-- Steps 3 and 4 of intake for ABORT and the management kinds: the target is CONTROL, the length agrees, the list is
whole items (R59, R201). -/
def Header.controlForm (h : Header) : Bool :=
  decide (h.target = controlTarget) && decide (h.list.length = h.listLength.toNat) && decide (h.list.length % 4 = 0)

/-- A REQUEST at port `p`: nothing while the link is DOWN (log entry 8); NO-SESSION, TAG-BUSY and BAD-REQUEST as the
intake decides, without a record; otherwise `take` with its header (R56, R59, R60, R201). -/
def intake (p : Port) (r : Request) (form : Header → Bool) (take : Header → Chip → Chip) (c : Chip) : Chip :=
  let pc := c.ports.get p
  if pc.link = .down then c
  else if pc.session ≠ .opened then noSession p (some r.tag) c
  else if (pc.tags.get r.tag).isSome then reply p r.tag .tagBusy [] c
  else
    match r.header with
    | some h => if form h then take h c else reply p r.tag .badRequest [] c
    | none => reply p r.tag .badRequest [] c

/-! ### Management requests (R181 to R184) -/

/-- A management request as its owner takes it: port, tag, recorded privilege and parameters. -/
structure Asked where
  port : Port
  tag : Tag
  kind : ReqKind
  privilege : Privilege
  list : List Word
deriving DecidableEq, Repr

/-- The answer to a management request. -/
def Asked.answer (a : Asked) (o : Outcome) (detail : List Word) (c : Chip) : Chip := respond a.port a.tag o detail c

/-- The control function takes a management request: the record is HANDED with the privilege at arrival (R58, R181). -/
def toControl (kind : ReqKind) (p : Port) (r : Request) (take : Asked → Chip → Chip) (c : Chip) : Chip :=
  intake p r Header.controlForm (fun h c =>
    let a : Asked := ⟨p, r.tag, kind, (c.map.active.ports.get p).privilege, items h.list⟩
    take a (setRecord p r.tag (some (.handed kind a.list (some a.privilege))) c)) c

/-- The answer NOT-PRIVILEGED, logged (R86, R182). -/
def Asked.notPrivileged (a : Asked) (w : Option WindowNo) (c : Chip) : Chip :=
  a.answer .notPrivileged [] (logRefusal a.port a.tag a.kind w .notPrivileged none c)

/-- The privilege check of the ADMIN kinds, before any other check (R182). -/
def adminOnly (take : Asked → Chip → Chip) (a : Asked) (c : Chip) : Chip :=
  match a.privilege with
  | .admin => take a c
  | .user => a.notPrivileged (loggedWindow a.kind a.list) c

/-- The form check of the requests without parameters (R183). -/
def emptyList (take : Asked → Chip → Chip) (a : Asked) (c : Chip) : Chip :=
  if a.list = [] then take a c else a.answer .badRequest [] c

end Sys2Proof.Machine
end

