-- ==== Sys2Proof/Machine/Link.lean ====
section
/-! DEFINITION. The pin, the P-link reports and the frames that belong to the session itself: COLD_RESET, RSTN_RELEASE,
PLINK_LINK_UP, PLINK_LINK_DOWN, PLINK_CHECK_FAIL, UNKNOWN_KIND, OPEN, CLOSE, UNKNOWN_REQUEST_KIND. -/

namespace Sys2Proof.Machine

/-- What a command does to the blocks while RSTn is high; while it is low the bridge acts on none (R178). -/
def whenRunning (f : Chip → Chip) (s : State) : Host.Outcome State Fault Refusal :=
  match s.rstn with
  | .high => .next { s with chip := f s.chip }
  | .low => .next s

/-! ### Pin (R173, R178) -/

/-- Every delivery under way stops (R178; log entry 5). -/
def stopDeliveries (p : Port) (c : Chip) : Chip :=
  each (fun t c =>
    match (c.dataRecord p t).map DataRec.stage with
    | some (.delivering pages) => stopDelivery p t pages c
    | _ => c) allTags c

/-- The blocks after a cold reset; the log of frames sent and the index of the next free value are the model's own and
stay (R178; log entry 10). -/
def coldChip (c : Chip) : Chip :=
  let c := eachPort stopDeliveries c
  { Chip.reset with sent := c.sent, free := c.free }

/-- COLD_RESET (R178). -/
def execColdReset (s : State) : Host.Outcome State Fault Refusal :=
  .next { s with rstn := .low, chip := coldChip s.chip }

/-- RSTN_RELEASE (R173, R178): START begins; a release of a pin that is high is none. -/
def execRstnRelease (s : State) : Host.Outcome State Fault Refusal :=
  match s.rstn with
  | .low => .next { s with rstn := .high, chip := enterStart s.chip }
  | .high => .next s

/-! ### P-link reports (R49, R67) -/

/-- The link state of port `p` set. -/
def setLink (p : Port) (l : LinkState) (c : Chip) : Chip := c.modPort p fun pc => { pc with link := l }

/-- PLINK_LINK_UP (R49): no other effect. -/
def execPlinkLinkUp (p : Port) (s : State) : Host.Outcome State Fault Refusal := whenRunning (setLink p .up) s

/-- PLINK_LINK_DOWN (R49, R52): an OPEN session ends with reason LINK-DOWN. -/
def execPlinkLinkDown (p : Port) (s : State) : Host.Outcome State Fault Refusal :=
  whenRunning (fun c => closeSession .linkDown p (setLink p .down c)) s

/-- A frame at port `p` is taken only while the link is UP (R67; log entry 8). -/
def received (p : Port) (take : Chip → Chip) (c : Chip) : Chip := if (c.ports.get p).link = .up then take c else c

/-- PLINK_CHECK_FAIL (R67): counted, nothing else. -/
def execPlinkCheckFail (p : Port) (s : State) : Host.Outcome State Fault Refusal :=
  whenRunning (received p fun c =>
    c.modPort p fun pc => { pc with checkFails := saturatingSucc Config.saturate16 pc.checkFails }) s

/-- UNKNOWN_KIND (R201): discarded in every session state. -/
def execUnknownKind (_p : Port) (_kind : Byte) (s : State) : Host.Outcome State Fault Refusal := whenRunning id s

/-! ### OPEN and CLOSE (R50 to R52, R56) -/

/-- An accepted OPEN (R51). -/
def acceptOpen (p : Port) (c : Chip) : Chip :=
  let c := c.modPort p fun pc =>
    { pc with session := .opened, delivered := c.map.epoch, flags := Flags.clear }
  sendPort p (.accept (c.map.active.ports.get p).privilege Flags.clear c.cfg.bridge c.map.epoch c.hold.table.length) c

/-- The answer to an OPEN (R50); a missing revision byte is a revision other than 1 (R201). -/
def answerOpen (p : Port) (revision : Option Byte) (c : Chip) : Chip :=
  match (c.ports.get p).session with
  | .down =>
    if revision ≠ some Config.revision then sendPort p (.reject .badRevision) c
    else if c.cfg.bridge = .start ∨ c.cfg.resetMark then sendPort p (.reject .notReady) c
    else acceptOpen p c
  | .opened => sendPort p (.reject .alreadyOpen) c
  | .closing _ => sendPort p (.reject .notReady) c

/-- OPEN (R50). -/
def execOpenFrame (p : Port) (revision : Option Byte) (s : State) : Host.Outcome State Fault Refusal :=
  whenRunning (received p (answerOpen p revision)) s

/-- CLOSE (R52, R56). -/
def execCloseFrame (p : Port) (s : State) : Host.Outcome State Fault Refusal :=
  whenRunning (received p fun c => if c.isOpen p then closeSession .close p c else noSession p none c) s

/-- UNKNOWN_REQUEST_KIND (R59, R60, R201): TAG-BUSY, else BAD-REQUEST; a frame without its tag is discarded
(log entry 19). -/
def execUnknownRequestKind (p : Port) (tag : Option Tag) (_kind : Option Byte) (s : State) :
    Host.Outcome State Fault Refusal :=
  match tag with
  | some t => whenRunning (intake p ⟨t, none⟩ (fun _ => false) (fun _ c => c)) s
  | none => whenRunning id s

end Sys2Proof.Machine
end

