-- ==== Sys2Proof/Machine/Data.lean ====
section
/-! DEFINITION. Data requests: window lookup and admission, DATA frames, ABORT, the transfer timeout and the end of a
delivery (R13, R64 to R66, R70 to R84, R104 to R111). -/

namespace Sys2Proof.Machine

/-! ### Window lookup (R13) -/

/-- The answer of a window lookup. -/
inductive Lookup where
  | noWindow
  | busy
  | found (w : Window)
deriving DecidableEq, Repr

/-- Whether a window is in the change set of a commit that is DRAINING or PERSISTING (R13). -/
def Chip.changing (c : Chip) (n : WindowNo) : Bool :=
  match c.map.commit with
  | .idle => false
  | .draining info _ => info.changeSet.contains n
  | .persisting info => info.changeSet.contains n

/-- A window lookup: absent first, then busy (R13). -/
def Chip.lookup (c : Chip) (n : WindowNo) : Lookup :=
  match c.map.active.map.get n with
  | none => .noWindow
  | some w => if c.changing n then .busy else .found w

/-! ### Admission (R70 to R81) -/

/-- The kinds that rights permit (R3, R75). -/
def Rights.permits : Rights → DataKind → Bool
  | .none, _ => false
  | .read, .read => true
  | .read, .write => false
  | .read, .discard => false
  | .read, .flush => false
  | .readWrite, _ => true

/-- The kinds that a scope blocks (R23). -/
def HoldScope.blocks : HoldScope → DataKind → Bool
  | _, .flush => false
  | .write, .read => false
  | .all, .read => true
  | _, .write => true
  | _, .discard => true

/-- Whether a hold blocks a request (R23, R78); a FLUSH has no range and is not blocked. -/
def Hold.blocksRequest (h : Hold) (k : DataKind) (r : Option MediaRange) : Bool :=
  match r with
  | some r => h.scope.blocks k && h.range.intersects r
  | none => false

/-- The counts accepted for a kind (R73). -/
def DataKind.countOk : DataKind → Half → Bool
  | .read, n | .write, n => 1 ≤ n.toNat && n.toNat ≤ Config.maxTransfer
  | .discard, n => 1 ≤ n.toNat && n.toNat ≤ Config.maxDiscard
  | .flush, _ => true

/-- The window of a target byte, when it is 0 to 15 (R15, R73). -/
def windowOfTarget (b : Byte) : Option WindowNo := if h : b.toNat < 16 then some ⟨b.toNat, h⟩ else none

/-- The durable flag (R79). -/
def durableFlag (k : DataKind) (w : Window) (asked : Bool) : Bool :=
  match k, w.durable with
  | .write, .always | .discard, .always => true
  | _, _ => asked

/-- The media range of a request (R7, R77); none for FLUSH. -/
def mediaRange (k : DataKind) (w : Window) (h : Header) : Option MediaRange :=
  match k with
  | .read | .write | .discard => some ⟨w.base.toNat + h.offset.toNat, h.count.toNat⟩
  | .flush => none

/-- The record of an admitted request (R58, R79, R80). ORDERED is taken as set for FLUSH (R58). -/
def admittedRecord (k : DataKind) (n : WindowNo) (w : Window) (h : Header) : DataRec where
  kind := k
  window := n
  offset := h.offset
  count := h.count
  ordered := h.ordered || k = .flush
  durableAsked := h.durable
  durable := durableFlag k w h.durable
  rightsOk := true
  discardOk := true
  range := mediaRange k w h
  stage := .admitted

/-- The verdict of steps 9 to 12 on a window found: none admits, else the outcome and the media block of its log
entry (R71, R75 to R78). -/
def protectionVerdict (k : DataKind) (p : Port) (w : Window) (holds : List Hold) (h : Header) :
    Option (Outcome × Option Nat) :=
  if !(w.rights.get p).permits k then some (.noRights, none)
  else if k = .discard ∧ w.discard = .refused then some (.notAllowed, none)
  else if k ≠ .flush ∧ w.length.toNat < h.offset.toNat + h.count.toNat then some (.outOfWindow, none)
  else if holds.any fun x => x.blocksRequest k (mediaRange k w h) then
    some (.held, (mediaRange k w h).map MediaRange.first)
  else none

/-- A request becomes ADMITTED: record, tail of the queue, queued count, grant decisions (R80). -/
def enqueue (p : Port) (t : Tag) (d : DataRec) (c : Chip) : Chip :=
  let c := setRecord p t (some (.data d)) c
  let c := c.modArb fun a => { a with queues := a.queues.modify p (· ++ [t]) }
  arbitrate (modUsage d.window (fun u => { u with queued := u.queued + 1 }) c)

/-- Admission, steps 5 to 12 (R71). A refused request is answered in the same event and leaves no record (R81). -/
def admission (k : DataKind) (p : Port) (t : Tag) (h : Header) (c : Chip) : Chip :=
  match windowOfTarget h.target with
  | none => reply p t .badRequest [] c
  | some n =>
    if !k.countOk h.count then reply p t .badRequest [] c
    else if c.cfg.bridge = .fault then reply p t .mediaFault [] c
    else
      match c.lookup n with
      | .noWindow => reply p t .noWindow [] c
      | .busy => reply p t .mapBusy [] c
      | .found w =>
        match protectionVerdict k p w c.hold.table h with
        | some (o, block) => reply p t o [] (logRefusal p t k.request (some n) o block c)
        | none => enqueue p t (admittedRecord k n w h) c

/-- A data request from its frame to its verdict (R59, R71). -/
def dataRequest (k : DataKind) (p : Port) (r : Request) (c : Chip) : Chip :=
  intake p r Header.dataForm (admission k p r.tag) c

/-- READ (R71). -/
def execRead (p : Port) (r : Request) (s : State) : Host.Outcome State Fault Refusal :=
  whenRunning (dataRequest .read p r) s

/-- WRITE (R71). -/
def execWrite (p : Port) (r : Request) (s : State) : Host.Outcome State Fault Refusal :=
  whenRunning (dataRequest .write p r) s

/-- DISCARD (R71, R76). -/
def execDiscard (p : Port) (r : Request) (s : State) : Host.Outcome State Fault Refusal :=
  whenRunning (dataRequest .discard p r) s

/-- FLUSH (R71): no count, no range, no hold check. -/
def execFlush (p : Port) (r : Request) (s : State) : Host.Outcome State Fault Refusal :=
  whenRunning (dataRequest .flush p r) s

/-! ### DATA from an initiator (R56, R65, R105, R201) -/

/-- A block of a GRANTED write: into its page and marked received; the last missing one issues the command (R65,
R105). -/
def takeBlock (p : Port) (t : Tag) (index : Nat) (b : Block) (c : Chip) : Chip :=
  match c.dataRecord p t with
  | some d =>
    match d.kind, d.stage with
    | .write, .granted i blocks timer =>
      match c.slot i with
      | some r =>
        if index < d.count.toNat ∧ ¬ blocks.contains index then
          let c := match r.pages[index]? with
            | some page => fillPage page b c
            | none => c
          let blocks := insertIndex index blocks
          if blocks.length = d.count.toNat then issuePort p t i r c
          else setStage p t (.granted i blocks timer) c
        else c
      | none => c
    | _, _ => c
  | none => c

/-- A DATA frame by what it holds (R56, R65, R201; log entry 19). -/
def takeData (p : Port) (d : DataFrame) (c : Chip) : Chip :=
  match d with
  | .noTag => c
  | .wrongLength t => if c.isOpen p then c else noSession p (some t) c
  | .whole t index b => if c.isOpen p then takeBlock p t index.toNat b c else noSession p (some t) c

/-- DATA (R65). -/
def execDataFrame (p : Port) (d : DataFrame) (s : State) : Host.Outcome State Fault Refusal :=
  whenRunning (received p (takeData p d)) s

/-! ### ABORT (R108 to R111) -/

/-- A slot goes into abandon (R126, R127): ABANDON sent, its timer started. -/
def abandonSlot (i : SlotNo) (cause : AbandonCause) (c : Chip) : Chip :=
  sendMedia (.abandon i)
    (setSlot i ((c.slot i).map fun r => { r with phase := .abandoning cause Config.abandonWait }) c)

/-- The arbiter acts on the target by its stage (R109, R110). -/
def abortTarget (p : Port) (abort target : Tag) (c : Chip) : Chip :=
  let both := fun c => respond p abort .done [] (respond p target .aborted [] c)
  match (c.dataRecord p target).map DataRec.stage with
  | none => respond p abort .notFound [] c
  | some .admitted => conclude both (dequeue p target c)
  | some (.granted i _ _) => conclude both (freeSlot i c)
  | some (.issued i) => setStage p target (.abandoning i abort) (abandonSlot i .abort c)
  | some (.abandoning _ _) => respond p abort .notFound [] c
  | some (.delivering _) => respond p abort .tooLate [] c

/-- An ABORT that has passed intake (R108). -/
def takeAbort (p : Port) (t : Tag) (h : Header) (c : Chip) : Chip :=
  let c := setRecord p t (some (.handed .abort (items h.list) none)) c
  match abortParams (items h.list) with
  | some target => abortTarget p t target c
  | none => respond p t .badRequest [] c

/-- ABORT (R109). -/
def execAbort (p : Port) (r : Request) (s : State) : Host.Outcome State Fault Refusal :=
  whenRunning (intake p r Header.controlForm (takeAbort p r.tag)) s

/-! ### Transfer timeout and delivery (R66, R103, R106) -/

/-- The transfer timer of a write still GRANTED expires (R106). -/
def transferExpiry (p : Port) (t : Tag) (c : Chip) : Chip :=
  match (c.dataRecord p t).map DataRec.stage with
  | some (.granted i _ _) => conclude (respond p t .dataTimeout []) (freeSlot i c)
  | _ => c

/-- TRANSFER_TIMEOUT (R106; log entry 6). -/
def execTransferTimeout (p : Port) (tag : Tag) (s : State) : Host.Outcome State Fault Refusal :=
  whenRunning (transferExpiry p tag) s

/-- The last DATA frame of a DELIVERING read has been sent: its pages return, RESPONSE OK follows (R66, R103; log
entry 5). A session that is not OPEN delivers nothing (R53). -/
def deliveryDone (p : Port) (t : Tag) (c : Chip) : Chip :=
  match (c.dataRecord p t).map DataRec.stage with
  | some (.delivering pages) =>
    if c.isOpen p then arbitrate (respond p t .ok [] (returnPages pages (emitData p t pages pages.length c))) else c
  | _ => c

/-- LAST_DATA_FRAME_SENT (R66). -/
def execLastDataFrameSent (p : Port) (tag : Tag) (s : State) : Host.Outcome State Fault Refusal :=
  whenRunning (deliveryDone p tag) s

end Sys2Proof.Machine
end

