-- ==== Sys2Proof/Machine/Control.lean ====
section
/-! DEFINITION. The requests of the control function: MAP_READ, HOLD_LIST, STATUS_READ, LOG_READ, LOG_CLEAR,
RESET_BRIDGE (chapter 9, R179, R180). -/

namespace Sys2Proof.Machine

/-! ### MAP-READ, HOLD-LIST, STATUS-READ (R186 to R191) -/

/-- MAP-READ at the map unit: the entries and the epoch of one moment, and the epoch's delivery (R186, R187). -/
def takeMapRead (a : Asked) (c : Chip) : Chip :=
  a.answer .ok (c.map.epoch :: mapItems c.map.active.map) (deliver a.port c.map.epoch c)

/-- MAP_READ (R186). -/
def execMapRead (p : Port) (r : Request) (s : State) : Host.Outcome State Fault Refusal :=
  whenRunning (toControl .mapRead p r (emptyList takeMapRead)) s

/-- The records a request may see (R188). -/
def Chip.visibleHolds (c : Chip) (a : Asked) : List Hold := c.hold.table.filter fun h => c.canSee a.port a.privilege h.range

/-- HOLD-LIST at the hold unit: the listing, and the requester's HOLDS notice cleared (R189). -/
def takeHoldList (a : Asked) (c : Chip) : Chip :=
  let holds := c.visibleHolds a
  a.answer .ok (item holds.length :: holds.flatMap holdItems) (clearFlag .holds a.port c)

/-- HOLD_LIST (R189). -/
def execHoldList (p : Port) (r : Request) (s : State) : Host.Outcome State Fault Refusal :=
  whenRunning (toControl .holdList p r (emptyList takeHoldList)) s

/-- STATUS-READ: the items of one moment, and the requester's MEDIA notice cleared (R190, R191). -/
def takeStatusRead (a : Asked) (c : Chip) : Chip := a.answer .ok (statusItems c) (clearFlag .media a.port c)

/-- STATUS_READ (R190). -/
def execStatusRead (p : Port) (r : Request) (s : State) : Host.Outcome State Fault Refusal :=
  whenRunning (toControl .statusRead p r (emptyList takeStatusRead)) s

/-! ### The refusal log (R195, R196) -/

/-- LOG-READ (R195). -/
def takeLogRead (a : Asked) (c : Chip) : Chip :=
  a.answer .ok (item c.ctl.log.length :: item c.ctl.overflow :: c.ctl.log.flatMap logItems) c

/-- LOG_READ (R195). -/
def execLogRead (p : Port) (r : Request) (s : State) : Host.Outcome State Fault Refusal :=
  whenRunning (toControl .logRead p r (adminOnly (emptyList takeLogRead))) s

/-- LOG-CLEAR: the log is empty and its overflow count 0; the answer tells what was there (R196). -/
def takeLogClear (a : Asked) (c : Chip) : Chip :=
  a.answer .ok [item c.ctl.log.length, item c.ctl.overflow] (c.modCtl fun f => { f with log := [], overflow := 0 })

/-- LOG_CLEAR (R196). -/
def execLogClear (p : Port) (r : Request) (s : State) : Host.Outcome State Fault Refusal :=
  whenRunning (toControl .logClear p r (adminOnly (emptyList takeLogClear))) s

/-! ### RESET-BRIDGE (R57, R179, R198) -/

/-- A job in AWAITING-SLOT goes back to the head of the queue (R179 step 2). -/
def returnJob (c : Chip) : Chip :=
  match c.cfg.writer with
  | .awaitingSlot j => c.modCfg fun u => { u with queue := j :: u.queue, writer := .idle }
  | .idle | .writing _ _ _ | .awaitingFree => c

/-- A bridge reset begins (R95, R98, R179): the reset mark is set, every port leaves reservation, and the starvation count
of each that did is 0. -/
def beginReset (c : Chip) : Chip :=
  (c.modCfg fun u => { u with resetMark := true }).modArb fun a =>
    { a with reservation := [], starvation := a.reservation.foldl (fun counts p => counts.set p 0) a.starvation }

/-- Whether a RESET-BRIDGE of port `p` would be answered OK: the frame is taken, its form is good, its port ADMIN (R59,
R182, R183). -/
def Chip.wouldReset (c : Chip) (p : Port) (r : Request) : Bool :=
  (c.ports.get p).link = .up && c.isOpen p && ((c.ports.get p).tags.get r.tag).isNone &&
    (c.map.active.ports.get p).privilege = .admin &&
    match r.header with
    | some h => Header.controlForm h && items h.list = []
    | none => false

/-- The ports whose RESET-BRIDGE waits at the front of the queue, behind no other kind of command: the requests that can
join a reset (R180; log entry 17). -/
def Chip.joiners (c : Chip) : List Instr → List Port
  | .resetBridge p r :: rest => if c.wouldReset p r then p :: c.joiners rest else c.joiners rest
  | _ => []

/-- Whether every OPEN session is one whose RESET-BRIDGE can still join. -/
def Chip.onlyJoiners (c : Chip) (waiting : List Instr) : Bool :=
  Port.all.all fun q => !c.isOpen q || (c.joiners waiting).contains q

/-- The reset reaches the ports in the event in which it is asked for: the sender's (R198), every port without a
RESET-BRIDGE waiting that can join, and of those that have one the ports that a free value names (R179, R180; log entry
17). A swap among the consequences may take a joiner's privilege: then every session ends. -/
def reachPorts (waiting : List Instr) (sender : Port) (c : Chip) : Chip :=
  let joiners := c.joiners waiting
  let reached := Port.all.filter fun q =>
    q = sender || !joiners.contains q || Config.resetReaches c.free (portCode q)
  let c := resetPorts reached c.takeFree
  if c.onlyJoiners waiting then c else resetPorts Port.all c

/-- A RESET-BRIDGE under the mark joins: a free value says whether its OK reaches its port controller before the reset
does, or is discarded there (R180; log entry 17). Its session ends in either case. -/
def joinReset (a : Asked) (c : Chip) : Chip :=
  if Config.joinAnswered c.free then a.answer .ok [] c.takeFree else c.takeFree

/-- The bridge reset sequence (R179): OK, the reset mark, the ends of the sessions, then the writer finishes and START
begins, at once when the writer is IDLE. -/
def takeResetBridge (waiting : List Instr) (a : Asked) (c : Chip) : Chip :=
  let c := returnJob (if c.cfg.resetMark then joinReset a c else beginReset (a.answer .ok [] c))
  if c.cfg.writer = .idle then finishReset c else reachPorts waiting a.port c

/-- RESET_BRIDGE (R179, R198). The commands that wait behind it are read, for R180, and stay. -/
def execResetBridge (p : Port) (r : Request) (s : State) : Host.Outcome State Fault Refusal :=
  whenRunning (toControl .resetBridge p r (adminOnly (emptyList (takeResetBridge s.pending)))) s

end Sys2Proof.Machine
end

