-- ==== Sys2Proof/Machine/Holds.lean ====
section
/-! DEFINITION. HOLD_PLACE, HOLD_RELEASE and HOLD_EXPIRY (chapter 2). -/

namespace Sys2Proof.Machine

/-! ### Placement (R26 to R32, R40) -/

/-- The first id from `id` on that no record holds; a table of n records needs at most n steps (R40). -/
def freeId : Nat → Nat → List Hold → Nat
  | 0, id, _ => id
  | n + 1, id, table => if table.any fun h => h.id = id then freeId n (idAfter id) table else id

/-- The queued requests of port `p` that a new hold blocks, in queue order (R31; log entry 9). -/
def Chip.queuedConflicts (c : Chip) (h : Hold) (p : Port) : List (Port × Tag) :=
  ((c.arb.queues.get p).filter fun t =>
    match c.dataRecord p t with
    | some d => h.blocksRequest d.kind d.range
    | none => false).map fun t => (p, t)

/-- The wait set: the slots of the in-flight port requests that a new hold blocks (R32). -/
def Chip.waitSet (c : Chip) (h : Hold) : List SlotNo :=
  allSlots.filter fun i =>
    match c.slot i with
    | some r => decide (r.holder ≠ .configuration) && h.blocksRequest r.op r.range
    | none => false

/-- The media range of a placement (R8). -/
def PlaceParams.range (q : PlaceParams) (w : Window) : MediaRange :=
  ⟨w.base.toNat + q.offset.toNat, q.length.toNat⟩

/-- A new record: id, wait set and counter; queued conflicts removed and answered HELD; a hold that waits for nothing
ends its wait in the same event (R30 to R34, R40). The manual gives no order for several HELD answers of one creation:
P0, P1, P2, and each queue from its head on, is the model's choice (log entry 9). -/
def createHold (a : Asked) (q : PlaceParams) (w : Window) (c : Chip) : Chip :=
  let id := freeId c.hold.table.length c.hold.nextId c.hold.table
  let h : Hold :=
    { id, cls := q.cls, scope := q.scope, range := q.range w, owner := a.port, expiry := q.expiry,
      state := .pending [], answerTo := some a.tag }
  let h := { h with state := .pending (c.waitSet h) }
  let conflicts := Port.all.flatMap (c.queuedConflicts h)
  let c := c.modHold fun u => { table := insertHold h u.table, nextId := idAfter id }
  let c := each (fun x => dequeue x.1 x.2) conflicts c
  conclude (each (fun x => respond x.1 x.2 .held []) conflicts) c

/-- Step 1 of R27: an ADMIN port, or a SESSION hold on a present window where the port has READ-WRITE. -/
def Chip.mayPlace (c : Chip) (a : Asked) (q : PlaceParams) : Bool :=
  a.privilege = .admin ||
    (q.cls = .session &&
      match c.map.active.map.get q.window with
      | some w => w.rights.get a.port = .readWrite
      | none => false)

/-- Whether the table has no room for a class (R25, R27 step 4). -/
def Chip.holdsFull (c : Chip) (cls : HoldClass) : Bool :=
  decide (Config.maxHolds ≤ c.hold.table.length) ||
    (cls = .fixed && decide (Config.maxFixed ≤ (c.hold.table.filter fun h => h.cls = .fixed).length))

/-- Steps 3 to 5 of R27 on a window found: none passes (R27, R29). -/
def Chip.placeVerdict (c : Chip) (q : PlaceParams) (w : Window) : Option Outcome :=
  if w.length.toNat < q.offset.toNat + q.length.toNat then some .outOfWindow
  else if q.cls = .fixed ∧ q.expiry.isSome then some .badRequest
  else if c.holdsFull q.cls then some .tableFull
  else if c.cfg.bridge = .fault then some .mediaFault
  else if c.cfg.bridge = .recover ∧ q.cls = .fixed then some .notReady
  else none

/-- HOLD-PLACE at the hold unit (R26, R27). -/
def takeHoldPlace (a : Asked) (c : Chip) : Chip :=
  match placeParams a.list with
  | none => a.answer .badRequest [] c
  | some q =>
    if !c.mayPlace a q then a.notPrivileged (some q.window) c
    else
      match c.lookup q.window with
      | .noWindow => a.answer .noWindow [] c
      | .busy => a.answer .mapBusy [] c
      | .found w =>
        match c.placeVerdict q w with
        | some o => a.answer o [] c
        | none => createHold a q w c

/-- HOLD_PLACE (R27). -/
def execHoldPlace (p : Port) (r : Request) (s : State) : Host.Outcome State Fault Refusal :=
  whenRunning (toControl .holdPlace p r takeHoldPlace) s

/-! ### Release (R35, R36) -/

/-- Step 3 of R35. -/
def Hold.mayRelease (h : Hold) (a : Asked) : Bool :=
  a.privilege = .admin || (h.cls = .session && h.owner = a.port)

/-- A release that passes: RELEASED to a PENDING placement, then OK (R36). The manual gives no order for the HOLDS notice
and these answers: that the notice is set first, so that an OK or a RELEASED carries it where R41 reaches its port, is the
model's choice (log entry 9). -/
def releaseHold (a : Asked) (h : Hold) (c : Chip) : Chip :=
  let c := removeHold h c
  let c := match h.state with
    | .pending _ => answerPlacement h .released [item h.id] c
    | .persisting | .active _ => c
  a.answer .ok [] c

/-- HOLD-RELEASE at the hold unit (R35). -/
def takeHoldRelease (a : Asked) (c : Chip) : Chip :=
  match releaseParams a.list with
  | none => a.answer .badRequest [] c
  | some id =>
    match c.findHold id with
    | none => a.answer .notFound [] c
    | some h =>
      if h.cls = .fixed then a.answer .fixed [] c
      else if h.mayRelease a then releaseHold a h c
      else a.notPrivileged none c

/-- HOLD_RELEASE (R35). -/
def execHoldRelease (p : Port) (r : Request) (s : State) : Host.Outcome State Fault Refusal :=
  whenRunning (toControl .holdRelease p r takeHoldRelease) s

/-! ### Expiry (R39) -/

/-- The timer of an ACTIVE hold runs out (R39). -/
def expireHold (id : Nat) (c : Chip) : Chip :=
  match c.findHold id with
  | some h =>
    match h.state with
    | .active (some _) => removeHold h c
    | .active none | .pending _ | .persisting => c
  | none => c

/-- HOLD_EXPIRY (R39; log entry 6). -/
def execHoldExpiry (id : Nat) (s : State) : Host.Outcome State Fault Refusal := whenRunning (expireHold id) s

end Sys2Proof.Machine
end

