-- ==== Sys2Proof/Machine/Staging.lean ====
section
/-! DEFINITION. The staging requests, COMMIT and DRAIN_LIMIT_EXPIRY (chapter 7). -/

namespace Sys2Proof.Machine

/-- Staging set. -/
def setStaging (x : Staging) (c : Chip) : Chip := c.modMap fun m => { m with staging := x }

/-- Step 2 of R140. -/
def unlessFault (take : Asked → Chip → Chip) (a : Asked) (c : Chip) : Chip :=
  if c.cfg.bridge = .fault then a.answer .mediaFault [] c else take a c

/-- Step 3 of R140 for the kinds that edit or commit: the owner's OPEN staging, else the refusal. -/
def Staging.editable (x : Staging) (p : Port) : Except Outcome Configuration :=
  match x with
  | .empty => .error .notOwner
  | .opened q cfg => if q = p then .ok cfg else .error .notOwner
  | .committing owner _ => if owner = some p then .error .stagingBusy else .error .notOwner

/-- The requests that need the owner's OPEN staging, with their list taken last (R140). -/
def editing {α : Type} (parse : List Word → Option α) (take : α → Configuration → Asked → Chip → Chip) :
    Asked → Chip → Chip :=
  unlessFault fun a c =>
    match c.map.staging.editable a.port with
    | .error o => a.answer o [] c
    | .ok cfg =>
      match parse a.list with
      | none => a.answer .badRequest [] c
      | some x => take x cfg a c

/-- An edit: the staged configuration replaced, OK. -/
def edited (cfg : Configuration) (a : Asked) (c : Chip) : Chip := a.answer .ok [] (setStaging (.opened a.port cfg) c)

/-! ### The staging requests (R141 to R147) -/

/-- STAGE-BEGIN at the map unit (R140, R141). -/
def takeStageBegin : Asked → Chip → Chip :=
  unlessFault fun a c =>
    let mayBegin := match c.map.staging with
      | .empty => true
      | .opened q _ => q = a.port
      | .committing _ _ => false
    if !mayBegin then a.answer .stagingBusy [] c
    else if a.list ≠ [] then a.answer .badRequest [] c
    else edited c.map.active a c

/-- STAGE_BEGIN (R141). -/
def execStageBegin (p : Port) (r : Request) (s : State) : Host.Outcome State Fault Refusal :=
  whenRunning (toControl .stageBegin p r (adminOnly takeStageBegin)) s

/-- STAGE_WINDOW (R142): the whole entry replaced. -/
def execStageWindow (p : Port) (r : Request) (s : State) : Host.Outcome State Fault Refusal :=
  whenRunning (toControl .stageWindow p r (adminOnly (editing stageWindowParams fun x cfg =>
    edited { cfg with map := cfg.map.set x.1 (some x.2) }))) s

/-- STAGE_DROP (R143): the entry made absent. -/
def execStageDrop (p : Port) (r : Request) (s : State) : Host.Outcome State Fault Refusal :=
  whenRunning (toControl .stageDrop p r (adminOnly (editing stageDropParams fun w cfg =>
    edited { cfg with map := cfg.map.set w none }))) s

/-- STAGE_PORT (R144): the entry of one port replaced. -/
def execStagePort (p : Port) (r : Request) (s : State) : Host.Outcome State Fault Refusal :=
  whenRunning (toControl .stagePort p r (adminOnly (editing stagePortParams fun x cfg =>
    edited { cfg with ports := cfg.ports.set x.1 x.2 }))) s

/-- STAGE_PARAMS (R145): all three parameters replaced. -/
def execStageParams (p : Port) (r : Request) (s : State) : Host.Outcome State Fault Refusal :=
  whenRunning (toControl .stageParams p r (adminOnly (editing stageParamsParams fun x cfg =>
    edited { cfg with params := x }))) s

/-- The configuration that a session may read: its own staging, OPEN or COMMITTING (R140, R146). -/
def Staging.readable (x : Staging) (p : Port) : Option Configuration :=
  match x with
  | .empty => none
  | .opened q cfg => if q = p then some cfg else none
  | .committing owner cfg => if owner = some p then some cfg else none

/-- STAGE-READ at the map unit (R146). -/
def takeStageRead : Asked → Chip → Chip :=
  unlessFault fun a c =>
    match c.map.staging.readable a.port with
    | none => a.answer .notOwner [] c
    | some cfg => if a.list = [] then a.answer .ok (stagingItems cfg) c else a.answer .badRequest [] c

/-- STAGE_READ (R146). -/
def execStageRead (p : Port) (r : Request) (s : State) : Host.Outcome State Fault Refusal :=
  whenRunning (toControl .stageRead p r (adminOnly takeStageRead)) s

/-- STAGE_ABANDON (R147). -/
def execStageAbandon (p : Port) (r : Request) (s : State) : Host.Outcome State Fault Refusal :=
  whenRunning (toControl .stageAbandon p r (adminOnly (editing noParams fun _ _ a c =>
    a.answer .ok [] (setStaging .empty c)))) s

/-! ### COMMIT (R148 to R151) -/

/-- The change set (R149). -/
def changeSet (active staged : WindowMap) : List WindowNo := allWindows.filter fun w => active.get w ≠ staged.get w

/-- A COMMIT taken from the owner of OPEN staging: INVALID-MAP, or DRAINING with its change set; a drain whose
condition holds at entry ends in this event (R148 to R150). -/
def takeCommit (persist : Bool) (cfg : Configuration) (a : Asked) (c : Chip) : Chip :=
  match commitCheck c.mlink.capacity.toNat cfg with
  | some failure => a.answer .invalidMap failure.items c
  | none =>
    let info : CommitInfo :=
      { session := some a.port, tag := some a.tag, persist, changeSet := changeSet c.map.active.map cfg.map }
    conclude id (c.modMap fun m =>
      { m with staging := .committing (some a.port) cfg, commit := .draining info m.active.params.drain })

/-- COMMIT (R148). -/
def execCommit (p : Port) (r : Request) (s : State) : Host.Outcome State Fault Refusal :=
  whenRunning (toControl .commit p r (adminOnly (editing commitParams takeCommit))) s

/-- The drain limit runs out with the controller still DRAINING (R151). -/
def drainExpiry (c : Chip) : Chip :=
  match c.map.commit with
  | .draining info _ => answerCommit info .drainTimeout [] (endCommit (reopenStaging info c.map) c)
  | .idle | .persisting _ => c

/-- DRAIN_LIMIT_EXPIRY (R151; log entry 6). -/
def execDrainLimitExpiry (s : State) : Host.Outcome State Fault Refusal := whenRunning drainExpiry s

end Sys2Proof.Machine
end

