-- ==== Sys2Proof/Machine/Media.lean ====
section
/-! DEFINITION. The M-link: link reports, bring-up frames, media data, completion, abandon and their timers (chapter 6,
R174, R175). -/

namespace Sys2Proof.Machine

/-! ### Link reports and bring-up frames (R116, R132, R134, R175) -/

/-- The M-link state set. -/
def setMlink (l : LinkState) (c : Chip) : Chip := c.modMlink fun m => { m with link := l }

/-- M-link link-up: an attempt that waits for it sends LINK-RESET, within the same limit (R132, R134). -/
def mlinkUp (c : Chip) : Chip :=
  let c := setMlink .up c
  match c.mlink.bringUp with
  | .attempt .awaitLinkUp left => sendLinkReset (setBringUp (.attempt .awaitReady left) c)
  | .attempt .awaitReady _ | .attempt .awaitReply _ | .idle => c

/-- MLINK_LINK_UP (R132). -/
def execMlinkLinkUp (s : State) : Host.Outcome State Fault Refusal := whenRunning mlinkUp s

/-- M-link link-down, by bridge state: recovery; the attempt starts again; a new bring-up; nothing more (R132, R134,
R172, R175). -/
def mlinkDown (c : Chip) : Chip :=
  let c := setMlink .down c
  match c.cfg.bridge, c.mlink.bringUp with
  | .service, _ => startRecovery c
  | .recover, .attempt _ left | .start, .attempt _ left => setBringUp (.attempt .awaitLinkUp left) c
  | .start, .idle => bringUpAgain c
  | .recover, .idle | .fault, _ => c

/-- MLINK_LINK_DOWN (R132). -/
def execMlinkLinkDown (s : State) : Host.Outcome State Fault Refusal := whenRunning mlinkDown s

/-- MLINK_CHECK_FAIL (R116): counted, nothing else. -/
def execMlinkCheckFail (s : State) : Host.Outcome State Fault Refusal :=
  whenRunning (fun c => c.modMlink fun m => { m with checkFails := saturatingSucc Config.saturate16 m.checkFails }) s

/-- LINK-READY: an attempt that awaits it sends IDENTIFY (R134); discarded otherwise (R131). -/
def linkReadyTaken (c : Chip) : Chip :=
  match c.mlink.bringUp with
  | .attempt .awaitReady left => sendMedia .identify (setBringUp (.attempt .awaitReply left) c)
  | .attempt .awaitLinkUp _ | .attempt .awaitReply _ | .idle => c

/-- LINK_READY (R134). -/
def execLinkReady (s : State) : Host.Outcome State Fault Refusal := whenRunning linkReadyTaken s

/-- IDENTIFY-REPLY: ends an attempt that awaits it, in success with a slot count of 1 to 16 (R134); discarded
otherwise (R131). -/
def identifyTaken (capacity : Word) (slots : Byte) (c : Chip) : Chip :=
  match c.mlink.bringUp with
  | .attempt .awaitReply _ =>
    if 1 ≤ slots.toNat ∧ slots.toNat ≤ Config.maxSlots then bringUpDone capacity slots.toNat c else attemptFailed c
  | .attempt .awaitLinkUp _ | .attempt .awaitReady _ | .idle => c

/-- IDENTIFY_REPLY (R134). -/
def execIdentifyReply (capacity : Word) (slots : Byte) (s : State) : Host.Outcome State Fault Refusal :=
  whenRunning (identifyTaken capacity slots) s

/-- The limit of an attempt runs out (R134). -/
def attemptExpiry (c : Chip) : Chip :=
  match c.mlink.bringUp with
  | .attempt _ _ => attemptFailed c
  | .idle => c

/-- ATTEMPT_LIMIT_EXPIRY (R134; log entry 6). -/
def execAttemptLimitExpiry (s : State) : Host.Outcome State Fault Refusal := whenRunning attemptExpiry s

/-- UNKNOWN_MEDIA_FRAME_KIND (R131, R203): a protocol error. -/
def execUnknownMediaFrameKind (_frame : List Byte) (s : State) : Host.Outcome State Fault Refusal :=
  whenRunning protocolError s

/-- Frames of commands are taken in SERVICE and START only (R136, R172). -/
def Chip.takesCommandFrames (c : Chip) : Bool := c.cfg.bridge = .service || c.cfg.bridge = .start

/-! ### Media data (R122) -/

/-- A block into the place for its index: a page of the request, or the record buffer (R121, R122). -/
def placeBlock (r : SlotRec) (index : Nat) (b : Block) (c : Chip) : Chip :=
  match r.holder with
  | .port _ =>
    match r.pages[index]? with
    | some page => fillPage page b c
    | none => c
  | .configuration =>
    match c.cfg.step.bind StartStep.copy? with
    | some x => setArea x (some b) c
    | none => c

/-- A DATA frame from the media (R122). -/
def mediaDataTaken (i : SlotNo) (index : Nat) (b : Block) (c : Chip) : Chip :=
  if c.takesCommandFrames then
    match c.slot i with
    | some r =>
      if r.op ≠ .read ∨ r.phase = .taken ∨ (r.range.getD ⟨0, 0⟩).count ≤ index then protocolError c
      else if r.received.contains index then c
      else setSlot i (some { r with received := insertIndex index r.received }) (placeBlock r index b c)
    | none => protocolError c
  else c

/-- MEDIA_DATA (R122). -/
def execMediaData (slot : SlotNo) (index : Half) (block : Block) (s : State) : Host.Outcome State Fault Refusal :=
  whenRunning (mediaDataTaken slot index.toNat block) s

/-! ### Completion (R123 to R125, R128, R129) -/

/-- Whether a slot's READ has every block (R123). -/
def SlotRec.allReceived (r : SlotRec) : Bool := r.received.length = (r.range.getD ⟨0, 0⟩).count

/-- The outcome and detail that a COMPLETE gives its owner when no data is delivered (R123, R124). -/
def mediaOutcome (status : MediaStatus) (r : SlotRec) : Outcome × List Word :=
  if status = .ok ∧ (r.op ≠ .read ∨ r.allReceived) then (.ok, [])
  else (.mediaError, item (statusCode status) :: if r.op = .read then [item r.received.length] else [])

/-- A READ completed OK: its slot is FREE, its pages go with the record, which becomes DELIVERING; an ABORT that waits is
answered TOO-LATE (R66, R119, R123, R128). -/
def startDelivery (p : Port) (t : Tag) (i : SlotNo) (r : SlotRec) (c : Chip) : Chip :=
  let abort := c.waitingAbort r
  let c := setStage p t (.delivering r.pages) (freeSlot i (setSlot i (some { r with pages := [] }) c))
  conclude (answerAbort p .tooLate abort) c

/-- A port command ends with a media status (R123, R125, R128). -/
def portComplete (i : SlotNo) (status : MediaStatus) (p : Port) (r : SlotRec) (c : Chip) : Chip :=
  match r.owner with
  | none => conclude id (freeSlot i c)
  | some t =>
    if status = .ok ∧ r.op = .read ∧ r.allReceived then startDelivery p t i r c
    else
      let (o, detail) := mediaOutcome status r
      conclude (answerOwner o detail .tooLate (c.waitingAbort r) r) (freeSlot i c)

/-- A configuration command ends with a media status: a persist write (R166, R167), or the read of a copy (R175). -/
def configComplete (i : SlotNo) (status : MediaStatus) (r : SlotRec) (c : Chip) : Chip :=
  let c := freeSlot i c
  if r.op = .write then
    conclude id (resumeReset (if status = .ok then writeSucceeded c else writeFailed .idle c))
  else if c.mlink.bringUp = .idle then
    match c.cfg.step.bind StartStep.copy? with
    | some x => nextStartStep (if status = .ok ∧ r.allReceived then judgeCopy x c else setMark x .invalid c)
    | none => c
  else c

/-- A slot whose abandon had cause TIMEOUT is free: the writer leaves AWAITING-FREE (R168), a START goes on (R175). -/
def endTimeout (i : SlotNo) (r : SlotRec) (c : Chip) : Chip :=
  let c := freeSlot i c
  match r.holder with
  | .port _ => conclude id c
  | .configuration =>
    if r.op = .write then conclude id (resumeReset (setWriter .idle c))
    else if c.mlink.bringUp = .idle then nextStartStep c
    else c

/-- A late completion is counted for a port command whose request was answered MEDIA-TIMEOUT (R129; log entry 14). -/
def countLate (i : SlotNo) (r : SlotRec) (c : Chip) : Chip :=
  match r.holder with
  | .port p =>
    if c.keptRecord p i then c
    else c.modMlink fun m => { m with lateCompletions := saturatingSucc Config.saturate16 m.lateCompletions }
  | .configuration => c

/-- A command that has been issued, or whose abandon has cause ABORT, ends with a media status. -/
def commandComplete (i : SlotNo) (status : MediaStatus) (r : SlotRec) (c : Chip) : Chip :=
  match r.holder with
  | .port p => portComplete i status p r c
  | .configuration => configComplete i status r c

/-- A COMPLETE by the state of its slot (R123, R128, R131). -/
def completeTaken (i : SlotNo) (status : MediaStatus) (c : Chip) : Chip :=
  if c.takesCommandFrames then
    match c.slot i with
    | some r =>
      match r.phase with
      | .taken => protocolError c
      | .issued _ => commandComplete i status r c
      | .abandoning .abort _ => commandComplete i status r c
      | .abandoning .timeout _ => endTimeout i r (countLate i r c)
    | none => protocolError c
  else c

/-- COMPLETE (R123). -/
def execComplete (slot : SlotNo) (status : MediaStatus) (s : State) : Host.Outcome State Fault Refusal :=
  whenRunning (completeTaken slot status) s

/-- An ABANDON-ACK by the state of its slot (R128, R131). -/
def abandonAckTaken (i : SlotNo) (c : Chip) : Chip :=
  if c.takesCommandFrames then
    match c.slot i with
    | some r =>
      match r.phase with
      | .taken => protocolError c
      | .issued _ => protocolError c
      | .abandoning .abort _ => conclude (answerOwner .aborted [] .done (c.waitingAbort r) r) (freeSlot i c)
      | .abandoning .timeout _ => endTimeout i r c
    | none => protocolError c
  else c

/-- ABANDON_ACK (R128). -/
def execAbandonAck (slot : SlotNo) (s : State) : Host.Outcome State Fault Refusal :=
  whenRunning (abandonAckTaken slot) s

/-! ### Timers (R126, R130, R175) -/

/-- The response timer of an ISSUED slot runs out: abandon with cause TIMEOUT; the owner is answered MEDIA-TIMEOUT, a
persist write fails, a read of a copy is lost (R126, R167, R175). -/
def responseExpiry (i : SlotNo) (c : Chip) : Chip :=
  match c.slot i with
  | some r =>
    match r.phase with
    | .issued _ =>
      let c := abandonSlot i .timeout (disown i c)
      match r.holder, r.owner with
      | .port p, some t => respond p t .mediaTimeout [] c
      | .port _, none => c
      | .configuration, _ => if r.op = .write then writeFailed .awaitingFree c else readLost c
    | .taken | .abandoning _ _ => c
  | none => c

/-- RESPONSE_TIMER_EXPIRY (R126; log entry 6). -/
def execResponseTimerExpiry (slot : SlotNo) (s : State) : Host.Outcome State Fault Refusal :=
  whenRunning (responseExpiry slot) s

/-- The abandon timer of an ABANDONING slot runs out: a link recovery in SERVICE, a new bring-up in START for the read
of a copy (R130, R175; log entry 16). -/
def abandonExpiry (i : SlotNo) (c : Chip) : Chip :=
  match c.slot i with
  | some r =>
    match r.phase with
    | .abandoning _ _ =>
      if c.cfg.bridge = .service then startRecovery c
      else if c.cfg.bridge = .start ∧ r.holder = .configuration ∧ c.mlink.bringUp = .idle then bringUpAgain c
      else c
    | .taken | .issued _ => c
  | none => c

/-- ABANDON_TIMER_EXPIRY (R130; log entry 6). -/
def execAbandonTimerExpiry (slot : SlotNo) (s : State) : Host.Outcome State Fault Refusal :=
  whenRunning (abandonExpiry slot) s

end Sys2Proof.Machine
end

