-- ==== Sys2Proof/Machine/Timers.lean ====
section
/-! DEFINITION. One millisecond: what runs by itself (R38, R87, R104, R117, R127, R134, R150; log entry 2). -/

namespace Sys2Proof.Machine

/-- A running timer one millisecond later. -/
def Stage.tick : Stage → Stage
  | .granted i received timer => .granted i received (timer - 1)
  | .admitted => .admitted
  | .issued i => .issued i
  | .abandoning i a => .abandoning i a
  | .delivering pages => .delivering pages

/-- A request record one millisecond later. -/
def Record.tick : Record → Record
  | .data d => .data { d with stage := d.stage.tick }
  | .handed k l v => .handed k l v

/-- A slot one millisecond later. -/
def SlotPhase.tick : SlotPhase → SlotPhase
  | .taken => .taken
  | .issued left => .issued (left - 1)
  | .abandoning cause left => .abandoning cause (left - 1)

/-- A hold one millisecond later. -/
def HoldState.tick : HoldState → HoldState
  | .active left => .active (left.map (· - 1))
  | .pending waits => .pending waits
  | .persisting => .persisting

/-- A commit one millisecond later. -/
def Commit.tick : Commit → Commit
  | .draining info left => .draining info (left - 1)
  | .idle => .idle
  | .persisting info => .persisting info

/-- A bring-up one millisecond later. -/
def BringUp.tick : BringUp → BringUp
  | .attempt step left => .attempt step (left - 1)
  | .idle => .idle

/-- Every row of a table changed. -/
def tableMap {n : Nat} {α : Type} (f : α → α) (t : Table n α) : Table n α :=
  ⟨t.rows.map f, by rw [List.length_map, t.size]⟩

/-- The blocks one millisecond later, every timer at its new value. The log time stands in START (R87). -/
def tickChip (c : Chip) : Chip :=
  { c with
    ports := c.ports.map fun pc => { pc with tags := tableMap (Option.map Record.tick) pc.tags }
    map := { c.map with commit := c.map.commit.tick }
    hold := { c.hold with table := c.hold.table.map fun h => { h with state := h.state.tick } }
    mlink := { c.mlink with
      bringUp := c.mlink.bringUp.tick
      slots := tableMap (Option.map fun r => { r with phase := r.phase.tick }) c.mlink.slots }
    ctl := if c.cfg.bridge = .start then c.ctl else { c.ctl with logTime := c.ctl.logTime + 1 } }

/-- The transfer timers of port `p` that this millisecond ends. -/
def Chip.dueTransfers (c : Chip) (p : Port) : List Instr :=
  (allTags.filter fun t =>
    match (c.dataRecord p t).map DataRec.stage with
    | some (.granted _ _ timer) => timer = 1
    | _ => false).map (.transferTimeout p)

/-- The response timers that this millisecond ends. -/
def Chip.dueResponses (c : Chip) : List Instr :=
  (allSlots.filter fun i => (c.slot i).map SlotRec.phase = some (.issued 1)).map .responseTimerExpiry

/-- The abandon timers that this millisecond ends. -/
def Chip.dueAbandons (c : Chip) : List Instr :=
  (allSlots.filter fun i =>
    match (c.slot i).map SlotRec.phase with
    | some (.abandoning _ left) => left = 1
    | _ => false).map .abandonTimerExpiry

/-- The attempt limit, when this millisecond ends it. -/
def Chip.dueAttempt (c : Chip) : List Instr :=
  match c.mlink.bringUp with
  | .attempt _ 1 => [.attemptLimitExpiry]
  | _ => []

/-- The drain limit, when this millisecond ends it. -/
def Chip.dueDrain (c : Chip) : List Instr :=
  match c.map.commit with
  | .draining _ 1 => [.drainLimitExpiry]
  | _ => []

/-- The expiry timers of holds that this millisecond ends. -/
def Chip.dueHolds (c : Chip) : List Instr :=
  (c.hold.table.filter fun h => h.state = .active (some 1)).map fun h => .holdExpiry h.id

/-- The expiry commands of one millisecond, in one fixed order (log entry 2). -/
def Chip.due (c : Chip) : List Instr :=
  Port.all.flatMap c.dueTransfers ++ c.dueResponses ++ c.dueAbandons ++ c.dueAttempt ++ c.dueDrain ++ c.dueHolds

/-- One millisecond with no command waiting: the timers run, and the commands of those that end wait in the queue. While
RSTn is low nothing runs (R178). -/
def tick (s : State) : State :=
  match s.rstn with
  | .high => { s with chip := tickChip s.chip, pending := s.pending ++ s.chip.due }
  | .low => s

end Sys2Proof.Machine
end

