-- ==== Sys2Proof/Machine/Frames.lean ====
section
/-! DEFINITION. The bytes of the frames the bridge sends (R199, R200, R202, R203). -/

namespace Sys2Proof.Machine

/-- The notice flags byte (R200). -/
def Flags.toByte (fs : Flags) : Byte := byte (fs.map.toNat + 2 * fs.holds.toNat + 4 * fs.media.toNat)

/-- The closing reason (R200). -/
def CloseReason.code : CloseReason → Nat
  | .close => 0
  | .linkDown => 1
  | .reset => 2

/-- The reason of a REJECT (R200). -/
def RejectReason.code : RejectReason → Nat
  | .badRevision => 1
  | .notReady => 2
  | .alreadyOpen => 3

/-- The operation of a COMMAND (R203). -/
def DataKind.code : DataKind → Nat
  | .read => 1
  | .write => 2
  | .discard => 3
  | .flush => 4

/-- The tag byte of a RESPONSE: bit 7 set when the tag is absent (R200). The manual gives no value for bits 4 to 0 of a
byte without a tag: 0 is the model's choice (log entry 26). -/
def responseTag : Option Tag → Byte
  | some t => tagByte t
  | none => 0x80#8

/-- A P-link frame before its check value (R200). -/
def PFrame.body : PFrame → List Byte
  | .accept v fs b e n => [0x81#8, byte v.code, fs.toByte, byte b.code] ++ bytes32 e ++ [byte n]
  | .reject r => [0x82#8, byte r.code]
  | .closed r => [0x83#8, byte r.code]
  | .xferReady t n => [0x84#8, tagByte t] ++ bytes16 n
  | .data t i b => [0x85#8, tagByte t] ++ bytes16 (BitVec.ofNat 16 i) ++ b.toBytes
  | .response t o fs detail =>
    [0x86#8, responseTag t, byte o.code, fs.toByte] ++ bytes16 (BitVec.ofNat 16 (4 * detail.length)) ++ zeros 2 ++
      detail.flatMap bytes32
  | .notice fs => [0x87#8, fs.toByte]

/-- An M-link frame before its check value (R203). -/
def MFrame.body : MFrame → List Byte
  | .linkReset => [0x01#8]
  | .identify => [0x02#8]
  | .command s op durable block count =>
    [0x03#8, slotByte s, byte op.code, byte durable.toNat] ++ bytes32 (item block) ++
      bytes16 (BitVec.ofNat 16 count) ++ zeros 2
  | .data s i b => [0x04#8, slotByte s] ++ bytes16 (BitVec.ofNat 16 i) ++ b.toBytes
  | .abandon s => [0x05#8, slotByte s]

/-- The bytes on the link, with the check value (R199). -/
def PFrame.bytes (f : PFrame) : List Byte := withCheck f.body

/-- The bytes on the M-link, with the check value (R199). -/
def MFrame.bytes (f : MFrame) : List Byte := withCheck f.body

end Sys2Proof.Machine
end

