-- ==== Sys2Proof/Machine/Dispatch.lean ====
section
/-! DEFINITION. One arm per command: the meaning it calls. -/

namespace Sys2Proof.Machine

def exec (i : Instr) (s : State) : Host.Outcome State Fault Refusal :=
  match i with
  | .coldReset => Sys2Proof.Machine.execColdReset s
  | .rstnRelease => Sys2Proof.Machine.execRstnRelease s
  | .plinkLinkUp p => Sys2Proof.Machine.execPlinkLinkUp p s
  | .plinkLinkDown p => Sys2Proof.Machine.execPlinkLinkDown p s
  | .plinkCheckFail p => Sys2Proof.Machine.execPlinkCheckFail p s
  | .unknownKind p kind => Sys2Proof.Machine.execUnknownKind p kind s
  | .openFrame p revision => Sys2Proof.Machine.execOpenFrame p revision s
  | .closeFrame p => Sys2Proof.Machine.execCloseFrame p s
  | .dataFrame p d => Sys2Proof.Machine.execDataFrame p d s
  | .read p r => Sys2Proof.Machine.execRead p r s
  | .write p r => Sys2Proof.Machine.execWrite p r s
  | .discard p r => Sys2Proof.Machine.execDiscard p r s
  | .flush p r => Sys2Proof.Machine.execFlush p r s
  | .abort p r => Sys2Proof.Machine.execAbort p r s
  | .mapRead p r => Sys2Proof.Machine.execMapRead p r s
  | .holdList p r => Sys2Proof.Machine.execHoldList p r s
  | .statusRead p r => Sys2Proof.Machine.execStatusRead p r s
  | .logRead p r => Sys2Proof.Machine.execLogRead p r s
  | .logClear p r => Sys2Proof.Machine.execLogClear p r s
  | .resetBridge p r => Sys2Proof.Machine.execResetBridge p r s
  | .holdPlace p r => Sys2Proof.Machine.execHoldPlace p r s
  | .holdRelease p r => Sys2Proof.Machine.execHoldRelease p r s
  | .stageBegin p r => Sys2Proof.Machine.execStageBegin p r s
  | .stageWindow p r => Sys2Proof.Machine.execStageWindow p r s
  | .stageDrop p r => Sys2Proof.Machine.execStageDrop p r s
  | .stagePort p r => Sys2Proof.Machine.execStagePort p r s
  | .stageParams p r => Sys2Proof.Machine.execStageParams p r s
  | .stageRead p r => Sys2Proof.Machine.execStageRead p r s
  | .stageAbandon p r => Sys2Proof.Machine.execStageAbandon p r s
  | .commit p r => Sys2Proof.Machine.execCommit p r s
  | .transferTimeout p tag => Sys2Proof.Machine.execTransferTimeout p tag s
  | .lastDataFrameSent p tag => Sys2Proof.Machine.execLastDataFrameSent p tag s
  | .mlinkLinkUp => Sys2Proof.Machine.execMlinkLinkUp s
  | .mlinkLinkDown => Sys2Proof.Machine.execMlinkLinkDown s
  | .mlinkCheckFail => Sys2Proof.Machine.execMlinkCheckFail s
  | .linkReady => Sys2Proof.Machine.execLinkReady s
  | .identifyReply capacity slots => Sys2Proof.Machine.execIdentifyReply capacity slots s
  | .mediaData slot index block => Sys2Proof.Machine.execMediaData slot index block s
  | .complete slot status => Sys2Proof.Machine.execComplete slot status s
  | .abandonAck slot => Sys2Proof.Machine.execAbandonAck slot s
  | .responseTimerExpiry slot => Sys2Proof.Machine.execResponseTimerExpiry slot s
  | .abandonTimerExpiry slot => Sys2Proof.Machine.execAbandonTimerExpiry slot s
  | .attemptLimitExpiry => Sys2Proof.Machine.execAttemptLimitExpiry s
  | .drainLimitExpiry => Sys2Proof.Machine.execDrainLimitExpiry s
  | .holdExpiry id => Sys2Proof.Machine.execHoldExpiry id s
  | .unknownMediaFrameKind frame => Sys2Proof.Machine.execUnknownMediaFrameKind frame s
  | .unknownRequestKind p tag kind => Sys2Proof.Machine.execUnknownRequestKind p tag kind s

end Sys2Proof.Machine
end

