-- ==== Sys2Proof/Machine/Step.lean ====
section
/-! DEFINITION. One step: the command at the front of the queue, or one millisecond when none waits. -/

namespace Sys2Proof.Machine

/-- One step. With no command waiting, one millisecond passes (log entry 2). -/
def step (s : State) : Host.Outcome State Fault Refusal :=
  match s.pending with
  | [] => .next (tick s)
  | i :: rest => exec i { s with pending := rest }

/-- The command that a word spells put at the front of the queue. No row of the table gives bits, so no word spells a
command and the state is unchanged (log entry 24). -/
def State.withFetchWord (s : State) (nbits w : Nat) : State :=
  match decodeTableWord nbits w with
  | some i => { s with pending := i :: s.pending }
  | none => s

end Sys2Proof.Machine
end

