-- ==== Sys2Proof/Safety.lean ====
section
/-! DEFINITION. What every step keeps, and the words the obligations use: what a command does, when a port may ask, what
a request holds, what has been sent. -/

namespace Sys2Proof.Safety

open Sys2Proof.Machine

/-- RSTn is high, the link of port `p` is UP and its session is OPEN. -/
def Speaks (s : State) (p : Port) : Prop :=
  s.rstn = .high ∧ (s.chip.ports.get p).link = .up ∧ (s.chip.ports.get p).session = .opened

/-- Port `p` speaks and tag `t` is free: a REQUEST under it reaches the checks of its form (R59). -/
def Ready (s : State) (p : Port) (t : Tag) : Prop := Speaks s p ∧ (s.chip.ports.get p).tags.get t = none

/-- A REQUEST to CONTROL whose lengths agree and whose parameter list holds the items `ws` (R59, R201). -/
def Carries (r : Request) (ws : List Word) : Prop :=
  ∃ h, r.header = some h ∧ h.target = 0xFF#8 ∧ h.list.length = h.listLength.toNat ∧ h.list.length % 4 = 0 ∧
    items h.list = ws

/-- The privilege of port `p` in the active port table. -/
def privilegeOf (s : State) (p : Port) : Privilege := (s.chip.map.active.ports.get p).privilege

/-- While RSTn is low every block holds its cold-reset values (R178); the frames sent so far and the index of the next
free value are the model's own and keep theirs. -/
def QuietWhileLow (s : State) : Prop :=
  s.rstn = .low → s.chip = { Chip.reset with sent := s.chip.sent, free := s.chip.free }

/-- The refusal log holds at most 16 entries, and its counts stay in their ranges (R192, R193). -/
def LogInRange (s : State) : Prop :=
  s.chip.ctl.log.length ≤ 16 ∧ s.chip.ctl.overflow ≤ 255 ∧ s.chip.ctl.persistFailures ≤ 255

/-- The saturating counts of the port controllers and of the M-link controller stay in their ranges (R48, R115). -/
def CountsInRange (s : State) : Prop :=
  (∀ p, (s.chip.ports.get p).checkFails ≤ 65535) ∧ s.chip.mlink.lateCompletions ≤ 65535 ∧
    s.chip.mlink.recoveries ≤ 255 ∧ s.chip.mlink.checkFails ≤ 65535

/-- Outside OPEN every notice flag is clear (R68). -/
def FlagsOnlyInOpen (s : State) : Prop :=
  ∀ p, (s.chip.ports.get p).session ≠ .opened → (s.chip.ports.get p).flags = Flags.clear

/-- No session is OPEN in START or while RSTn is low, and a start-up step exists in START only (R50, R57, R160, R170). -/
def ClosedInStart (s : State) : Prop :=
  (s.chip.cfg.bridge = .start ∨ s.rstn = .low → ∀ p, (s.chip.ports.get p).session ≠ .opened) ∧
    (s.chip.cfg.step ≠ none → s.chip.cfg.bridge = .start)

/-- The MAP notice of an OPEN session is set exactly when the map epoch differs from the delivered one (R68). -/
def MapNoticeExact (s : State) : Prop :=
  ClosedInStart s ∧
    ∀ p, (s.chip.ports.get p).session = .opened →
      ((s.chip.ports.get p).flags.map = true ↔ s.chip.map.epoch ≠ (s.chip.ports.get p).delivered)

/-- The hold table holds at most 48 records and 8 FIXED ones, in strictly ascending id (R21, R25). -/
def HoldTableInRange (s : State) : Prop :=
  s.chip.hold.table.length ≤ 48 ∧ (s.chip.hold.table.filter fun h => h.cls = .fixed).length ≤ 8 ∧
    s.chip.hold.table.Pairwise fun a b => a.id < b.id

/-- Under the reset mark the writer is not in AWAITING-SLOT (R179), and a session is OPEN only while its port's
RESET-BRIDGE waits at the front of the queue, behind nothing but others of its kind, and would be taken (R57, R180; log
entry 17). -/
def ReachedUnderMark (s : State) : Prop :=
  s.chip.cfg.resetMark = true → (∀ j, s.chip.cfg.writer ≠ .awaitingSlot j) ∧
    ∀ q, (s.chip.ports.get q).session = .opened →
      ∃ before r after, s.pending = before ++ .resetBridge q r :: after ∧
        (∀ i ∈ before, ∃ p r', i = .resetBridge p r') ∧ Ready s q r.tag ∧ Carries r [] ∧ privilegeOf s q = .admin

/-- The slots that port `p` holds. -/
def heldSlots (c : Chip) (p : Port) : List SlotNo :=
  allSlots.filter fun i => (c.slot i).map SlotRec.holder = some (.port p)

/-- The slots that requests of window `w` hold. -/
def windowSlots (c : Chip) (w : WindowNo) : List SlotNo :=
  allSlots.filter fun i =>
    match c.slot i with
    | some r => decide (r.holder ≠ .configuration) && decide (r.window = some w)
    | none => false

/-- The slot table (R92, R115, R118, R174): in SERVICE every slot in use lies below the slot count and no attempt runs;
in RECOVER and FAULT every slot is FREE; in START every slot is FREE from LINK-RESET to the end of the attempt, and
between attempts only slot 0 is in use. The in-flight counts of ports and windows are the numbers of slots they hold (R6,
R48). -/
def SlotTableExact (s : State) : Prop :=
  (s.chip.cfg.step ≠ none → s.chip.cfg.bridge = .start) ∧
    (s.chip.cfg.bridge = .service →
      s.chip.mlink.bringUp = .idle ∧ ∀ i, s.chip.slot i ≠ none → i.val < s.chip.mlink.slotCount) ∧
    (s.chip.cfg.bridge = .recover ∨ s.chip.cfg.bridge = .fault → ∀ i, s.chip.slot i = none) ∧
    (s.chip.cfg.bridge = .fault → s.chip.mlink.bringUp = .idle) ∧
    (s.chip.cfg.bridge = .start →
      (∀ step left, s.chip.mlink.bringUp = .attempt step left → step ≠ .awaitLinkUp → ∀ i, s.chip.slot i = none) ∧
      (s.chip.mlink.bringUp = .idle → ∀ i, i ≠ 0 → s.chip.slot i = none)) ∧
    (∀ p, (s.chip.ports.get p).inFlight = (heldSlots s.chip p).length) ∧
    ∀ w, (s.chip.map.usage.get w).inFlight = (windowSlots s.chip w).length

/-- The pages on a page list: those of every slot and of every read that is DELIVERING (R101). -/
def heldPages (c : Chip) : List PageNo :=
  (allSlots.flatMap fun i => ((c.slot i).map SlotRec.pages).getD []) ++
    Port.all.flatMap fun p => allTags.flatMap fun t =>
      match (c.dataRecord p t).map DataRec.stage with
      | some (.delivering pages) => pages
      | _ => []

/-- No page is both free and on a page list, or on two page lists, and the free pages stand in ascending order (R101,
R102). -/
def PagesLentOnce (s : State) : Prop :=
  (s.chip.pool.free ++ heldPages s.chip).Nodup ∧ s.chip.pool.free.Pairwise fun a b => a.val < b.val

/-- The queued requests of port `p` on window `w`, by their tags. -/
def queuedTags (c : Chip) (p : Port) (w : WindowNo) : List Tag :=
  allTags.filter fun u => (c.dataRecord p u).any fun d => decide (d.stage = .admitted) && decide (d.window = w)

/-- The tags of port `p` whose answers other blocks keep: the ABORTs that wait for the end of an abandon (R110), the
placements that holds have still to answer (R33), the COMMIT under way (R148). -/
def awaitedTags (c : Chip) (p : Port) : List Tag :=
  (allSlots.filterMap fun i => (c.slot i).bind fun r => if r.holder = .port p then c.waitingAbort r else none) ++
    (c.hold.table.filterMap fun h => if h.owner = p then h.answerTo else none) ++
    match c.map.commit with
    | .draining info _ | .persisting info => if info.session = some p then info.tag.toList else []
    | .idle => []

/-- The port queues (R6, R88): each lists exactly the ADMITTED tags of its port, each once, and is empty outside OPEN (R53);
each window's queued count is the number of ADMITTED requests on it. And what keeps it so, that no other block answers an
ADMITTED tag: the owner of a slot names a record that holds this slot (R117); every tag whose answer another block keeps is
that of a management request or an ABORT, and is kept once; a commit under way is that of the owner of staging (R139). -/
def QueuesExact (s : State) : Prop :=
  let c := s.chip
  (∀ p, (c.arb.queues.get p).Nodup ∧
    (∀ u, u ∈ c.arb.queues.get p ↔ (c.dataRecord p u).map DataRec.stage = some .admitted) ∧
    ((c.ports.get p).session ≠ .opened → c.arb.queues.get p = []) ∧
    (∀ i r u, c.slot i = some r → r.holder = .port p → r.owner = some u →
      ((c.dataRecord p u).map DataRec.stage).bind Stage.slot? = some i) ∧
    (awaitedTags c p).Nodup ∧ ∀ u ∈ awaitedTags c p, ∃ k ws v, c.record p u = some (.handed k ws v)) ∧
  (∀ w, (c.map.usage.get w).queued = (Port.all.map fun p => (queuedTags c p w).length).sum) ∧
  ∀ info, c.map.commit = .persisting info ∨ (∃ left, c.map.commit = .draining info left) →
    ∃ cfg, c.map.staging = .committing info.session cfg

/-! ### The words of the obligations -/

/-- The command answers the next state whose blocks are `c`; the pin and the queue are as before. -/
def Does (i : Instr) (s : State) (c : Chip) : Prop := exec i s = .next { s with chip := c }

/-- A REQUEST to window `n` with header `h` and an empty parameter list (R59, R201). -/
def Names (r : Request) (n : WindowNo) (h : Header) : Prop :=
  r.header = some h ∧ h.target.toNat = n.val ∧ h.listLength = 0#16 ∧ h.list = []

/-- The blocks with one more frame sent to port `p`. -/
def told (p : Port) (f : PFrame) (c : Chip) : Chip := { c with sent := c.sent ++ [.toPort p f] }

/-- The blocks with one more frame sent to the media. -/
def toldMedia (f : MFrame) (c : Chip) : Chip := { c with sent := c.sent ++ [.toMedia f] }

/-- The blocks with one more RESPONSE sent, carrying the session's flags. -/
def answered (p : Port) (t : Tag) (o : Outcome) (detail : List Word) (c : Chip) : Chip :=
  told p (.response (some t) o (c.ports.get p).flags detail) c

/-- A RESPONSE to tag `t` of port `p` with outcome `o` and detail `d` is among the frames that `t'` has sent since `s`. -/
def Answered (s t' : State) (p : Port) (t : Tag) (o : Outcome) (d : List Word) : Prop :=
  ∃ fs before after, t'.chip.sent = s.chip.sent ++ before ++ [.toPort p (.response (some t) o fs d)] ++ after

/-- Two RESPONSES, the first before the second, are among the frames that `t'` has sent since `s`. -/
def AnsweredBoth (s t' : State) (p : Port) (t : Tag) (o : Outcome) (q : Port) (u : Tag) (o' : Outcome) : Prop :=
  ∃ fs fs' before between after, t'.chip.sent =
    s.chip.sent ++ before ++ [.toPort p (.response (some t) o fs [])] ++ between ++
      [.toPort q (.response (some u) o' fs' [])] ++ after

/-- As `AnsweredBoth`, the first with detail `d`. -/
def AnsweredInTurn (s t' : State) (p : Port) (t : Tag) (o : Outcome) (d : List Word) (u : Tag) (o' : Outcome) : Prop :=
  ∃ fs fs' before between after, t'.chip.sent =
    s.chip.sent ++ before ++ [.toPort p (.response (some t) o fs d)] ++ between ++
      [.toPort p (.response (some u) o' fs' [])] ++ after

/-- The kinds that need ADMIN (R182). -/
def adminKinds : List ReqKind :=
  [.logRead, .logClear, .resetBridge, .stageBegin, .stageWindow, .stageDrop, .stagePort, .stageParams, .stageRead,
   .stageAbandon, .commit]

/-- The refusal log with one more entry (R194). -/
def withEntry (e : LogEntry) (f : ControlFn) : ControlFn :=
  if f.log.length < 16 then { f with log := f.log ++ [e] }
  else { f with log := f.log.tail ++ [e], overflow := min 255 (f.overflow + 1) }

/-- The entry of a refusal at the log time of `s`, put into the log of its blocks (R86, R194). -/
def logged (p : Port) (t : Tag) (k : ReqKind) (w : Option WindowNo) (o : Outcome) (block : Option Nat)
    (c : Chip) : Chip :=
  { c with ctl := withEntry ⟨p, t, k, w, o, block, c.ctl.logTime⟩ c.ctl }

/-- Whether a request of kind `k` over a range meets a hold (R23, R78). -/
def Meets (k : DataKind) (first count : Nat) (h : Hold) : Prop :=
  (k = .write ∨ k = .discard ∨ (k = .read ∧ h.scope = .all)) ∧
    first < h.range.first + h.range.count ∧ h.range.first < first + count

/-- Whether window `n` is in the change set of a commit under way (R13). -/
def Changing (s : State) (n : WindowNo) : Prop :=
  (∃ info left, s.chip.map.commit = .draining info left ∧ n ∈ info.changeSet) ∨
    (∃ info, s.chip.map.commit = .persisting info ∧ n ∈ info.changeSet)

/-- The rights that a kind needs (R3). -/
def RightsPermit (r : Rights) (k : DataKind) : Prop := r = .readWrite ∨ (r = .read ∧ k = .read)

/-- The counts that a kind accepts (R73). -/
def CountOk (k : DataKind) (n : Nat) : Prop :=
  k = .flush ∨ (1 ≤ n ∧ (k = .discard ∨ n ≤ 64))

/-- A data request passes steps 5 to 8 of R71: its window is there, is not changing, and its count is good. -/
def Reaches (k : DataKind) (s : State) (n : WindowNo) (w : Window) (h : Header) : Prop :=
  CountOk k h.count.toNat ∧ s.chip.cfg.bridge ≠ .fault ∧ s.chip.map.active.map.get n = some w ∧ ¬ Changing s n

/-- A data request passes steps 9 to 12 of R71. -/
def Unprotected (k : DataKind) (s : State) (p : Port) (w : Window) (h : Header) : Prop :=
  RightsPermit (w.rights.get p) k ∧ ¬ (k = .discard ∧ w.discard = .refused) ∧
    (k = .flush ∨
      (h.offset.toNat + h.count.toNat ≤ w.length.toNat ∧
        ∀ x ∈ s.chip.hold.table, ¬ Meets k (w.base.toNat + h.offset.toNat) h.count.toNat x))

/-- The blocks with a data request ADMITTED (R58, R79, R80): its record, the tail of the queue, the queued count. -/
def admitted (k : DataKind) (p : Port) (t : Tag) (n : WindowNo) (w : Window) (h : Header) (c : Chip) : Chip :=
  let record : DataRec :=
    { kind := k, window := n, offset := h.offset, count := h.count, ordered := h.ordered || decide (k = .flush),
      durableAsked := h.durable,
      durable := h.durable || (decide (k = .write ∨ k = .discard) && decide (w.durable = .always)),
      rightsOk := true, discardOk := true,
      range := if k = .flush then none else some ⟨w.base.toNat + h.offset.toNat, h.count.toNat⟩,
      stage := .admitted }
  { c with
    ports := c.ports.modify p fun pc => { pc with tags := pc.tags.set t (some (.data record)) }
    arb := { c.arb with queues := c.arb.queues.modify p fun q => q ++ [t] }
    map := { c.map with usage := c.map.usage.modify n fun u => { u with queued := u.queued + 1 } } }

/-- No grant can be made: the bridge is outside SERVICE, or no slot below the slot count is FREE (R92, R93). -/
def NoGrant (c : Chip) : Prop :=
  c.cfg.bridge ≠ .service ∨ ∀ i : SlotNo, i.val < c.mlink.slotCount → c.slot i ≠ none

/-- Whether a hold would block the queued request under tag `u` of port `q` (R31). -/
def QueuedConflict (s : State) (scope : HoldScope) (first count : Nat) (q : Port) (u : Tag) : Prop :=
  u ∈ s.chip.arb.queues.get q ∧ ∃ d r, s.chip.dataRecord q u = some d ∧ d.range = some r ∧
    (d.kind = .write ∨ d.kind = .discard ∨ (d.kind = .read ∧ scope = .all)) ∧
    r.first < first + count ∧ first < r.first + r.count

/-- Whether slot `i` joins the wait set of a hold (R32). -/
def Waits (s : State) (scope : HoldScope) (first count : Nat) (i : SlotNo) : Prop :=
  ∃ rec q r, s.chip.slot i = some rec ∧ rec.holder = .port q ∧ rec.range = some r ∧
    (rec.op = .write ∨ rec.op = .discard ∨ (rec.op = .read ∧ scope = .all)) ∧
    r.first < first + count ∧ first < r.first + r.count

/-- The commands that a link recovery starts from in `s`: abandon timer expiry, M-link link-down, protocol error (R130
to R133). -/
def StartsRecovery (s : State) (i : Instr) : Prop :=
  i = .mlinkLinkDown ∨ (∃ frame, i = .unknownMediaFrameKind frame) ∨
    (∃ n r cause left, i = .abandonTimerExpiry n ∧ s.chip.slot n = some r ∧ r.phase = .abandoning cause left) ∨
    (∃ n status, i = .complete n status ∧
      (s.chip.slot n = none ∨ ∃ r, s.chip.slot n = some r ∧ r.phase = .taken)) ∨
    (∃ n, i = .abandonAck n ∧
      (s.chip.slot n = none ∨ ∃ r, s.chip.slot n = some r ∧ (r.phase = .taken ∨ ∃ left, r.phase = .issued left))) ∨
    (∃ n index block, i = .mediaData n index block ∧
      (s.chip.slot n = none ∨ ∃ r, s.chip.slot n = some r ∧ (r.phase = .taken ∨ r.op ≠ .read ∨
        ∃ range, r.range = some range ∧ range.count ≤ index.toNat)))

/-- The parameter list that spells a placement whose fields are in their form range (R26): five items, or six with an
expiry of 1 to 65535 seconds. -/
def PlaceList (ws : List Word) (q : PlaceParams) : Prop :=
  q.length ≠ 0#32 ∧
    ((q.expiry = none ∧
        ws = [item q.window.val, q.offset, q.length, item q.cls.code, item q.scope.code]) ∨
      ∃ e, q.expiry = some e ∧ 1 ≤ e ∧ e ≤ 65535 ∧
        ws = [item q.window.val, q.offset, q.length, item q.cls.code, item q.scope.code, item e])

/-- Step 1 of R27 passes: ADMIN, or a SESSION hold on a present window where the port has READ-WRITE. -/
def MayPlace (s : State) (p : Port) (q : PlaceParams) : Prop :=
  privilegeOf s p = .admin ∨
    (q.cls = .session ∧ ∃ w, s.chip.map.active.map.get q.window = some w ∧ w.rights.get p = .readWrite)

/-- The hold table has no room for a class (R25). -/
def HoldsFull (s : State) (cls : HoldClass) : Prop :=
  48 ≤ s.chip.hold.table.length ∨
    (cls = .fixed ∧ 8 ≤ (s.chip.hold.table.filter fun h => h.cls = .fixed).length)

/-- Whether the session of port `p` may see a hold over a range (R41, R188). -/
def Sees (s : State) (p : Port) (r : MediaRange) : Prop :=
  privilegeOf s p = .admin ∨
    ∃ n w, s.chip.map.active.map.get n = some w ∧ w.rights.get p ≠ .none ∧
      w.base.toNat < r.first + r.count ∧ r.first < w.base.toNat + w.length.toNat

/-- Setting flag `f` of port `p` sends a NOTICE (R69): its session is OPEN, the flag is clear, no tag is in use, and the
link is UP. -/
def NoticeDue (s : State) (p : Port) (f : Flag) : Prop :=
  (s.chip.ports.get p).session = .opened ∧ (s.chip.ports.get p).flags.get f = false ∧
    (∀ tag, s.chip.record p tag = none) ∧ (s.chip.ports.get p).link = .up

/-- A NOTICE with flag `f` set is among the frames that `t` has sent to port `p` since `s` (R69). -/
def Noticed (s t : State) (p : Port) (f : Flag) : Prop :=
  ∃ before fs after, t.chip.sent = s.chip.sent ++ before ++ [.toPort p (.notice fs)] ++ after ∧ fs.get f = true

/-- A change of a hold over range `r` sends port `p` a NOTICE (R41, R69). -/
def HoldNoticeDue (s : State) (p : Port) (r : MediaRange) : Prop := NoticeDue s p .holds ∧ Sees s p r

/-- HOLDS is set for every OPEN session that may see a hold over range `r`, with a NOTICE where one is due; `asker` is the
port whose request the change belongs to, and its tag is in use (R41, R69). -/
def HoldsTold (s t : State) (r : MediaRange) (asker : Option Port) : Prop :=
  ∀ q, (s.chip.ports.get q).session = .opened → Sees s q r →
    (t.chip.ports.get q).flags.holds = true ∧ (asker ≠ some q → HoldNoticeDue s q r → Noticed s t q .holds)

/-- The placement of a hold is answered, when an answer is due and its port speaks (R33, R34, R42). -/
def PlacementAnswered (s t : State) (h : Hold) (o : Outcome) (detail : List Word) : Prop :=
  ∀ u, h.answerTo = some u → Speaks s h.owner → t.chip.record h.owner u = none ∧ Answered s t h.owner u o detail

/-- A hold has become ACTIVE (R33, R34): its timer runs, HOLDS is told, its placement is answered OK. -/
def HoldActivated (s t : State) (h : Hold) (asker : Option Port) : Prop :=
  { h with state := .active (h.expiry.map (· * 1000)), answerTo := none } ∈ t.chip.hold.table ∧
    HoldsTold s t h.range asker ∧
    PlacementAnswered s t h .ok
      [item h.id, item h.cls.code, item h.scope.code, item h.range.first, item h.range.count]

/-- The job of a hold has failed (R34): no record, and its placement is answered PERSIST-FAILED. -/
def HoldFailed (s t : State) (h : Hold) : Prop :=
  (∀ x ∈ t.chip.hold.table, x.id ≠ h.id) ∧ PlacementAnswered s t h .persistFailed [item h.id]

/-- The COMMIT under way is answered, when its session is still there and speaks (R153, R155). -/
def CommitAnswered (s t : State) (info : CommitInfo) (o : Outcome) (detail : List Word) : Prop :=
  ∀ p u, info.session = some p → info.tag = some u → Speaks s p →
    t.chip.record p u = none ∧ Answered s t p u o detail

/-- A commit has swapped (R97, R153, R154): the staged configuration is active under the next epoch, staging is EMPTY, every
credit has been reloaded from the new weights before the grant decisions of the event, the COMMIT is answered OK with the
new epoch, which is delivered to its session, and every other OPEN session has MAP set exactly when its delivered epoch
differs (R68), with a NOTICE where one is due (R69). -/
def Swapped (s t : State) (info : CommitInfo) (cfg : Configuration) : Prop :=
  let epoch := s.chip.map.epoch + 1
  t.chip.map.active = cfg ∧ t.chip.map.epoch = epoch ∧ t.chip.map.staging = .empty ∧ t.chip.map.commit = .idle ∧
    (∃ c, t.chip = arbitrate c ∧ c.arb.pointer = s.chip.arb.pointer ∧
      ∀ p, c.arb.credit.get p = (cfg.ports.get p).weight) ∧
    CommitAnswered s t info .ok [epoch] ∧
    (∀ p, info.session = some p → (s.chip.ports.get p).session = .opened →
      (t.chip.ports.get p).delivered = epoch ∧ (t.chip.ports.get p).flags.map = false) ∧
    ∀ q, info.session ≠ some q → (s.chip.ports.get q).session = .opened →
      ((t.chip.ports.get q).flags.map = true ↔ (s.chip.ports.get q).delivered ≠ epoch) ∧
      ((s.chip.ports.get q).delivered ≠ epoch → NoticeDue s q .map → Noticed s t q .map)

/-- The job of a commit has failed (R152): nothing is installed, staging is its owner's again, or EMPTY without one, and the
COMMIT is answered PERSIST-FAILED. -/
def CommitFailed (s t : State) (info : CommitInfo) (cfg : Configuration) : Prop :=
  t.chip.map.commit = .idle ∧ t.chip.map.active = s.chip.map.active ∧ t.chip.map.epoch = s.chip.map.epoch ∧
    (∀ p, info.session = some p → t.chip.map.staging = .opened p cfg) ∧
    (info.session = none → t.chip.map.staging = .empty) ∧ CommitAnswered s t info .persistFailed []

/-- A window entry whose fields are in their form range (R2). -/
def WindowForm (w : Window) : Prop := w.length ≠ 0#32 ∧ (w.quota = none ∨ ∃ q, w.quota = some q ∧ 1 ≤ q ∧ q ≤ 16)

/-- Parameters in their ranges, whole numbers of their steps (R138). -/
def ParamsForm (q : Params) : Prop :=
  10 ≤ q.response ∧ q.response ≤ 2550 ∧ q.response % 10 = 0 ∧ 10 ≤ q.transfer ∧ q.transfer ≤ 2550 ∧
    q.transfer % 10 = 0 ∧ 100 ≤ q.drain ∧ q.drain ≤ 25500 ∧ q.drain % 100 = 0

/-- The blocks with other staging. -/
def staged (x : Staging) (c : Chip) : Chip := { c with map := { c.map with staging := x } }

/-- The requests that need the requester's own OPEN staging (R140). -/
def editKinds : List ReqKind := [.stageWindow, .stageDrop, .stagePort, .stageParams, .stageAbandon, .commit]

/-- The staging requests and COMMIT (R140). -/
def stagingKinds : List ReqKind := .stageBegin :: .stageRead :: editKinds

/-- A map that is valid against a capacity (R10): no two present windows intersect, and none reaches `cap - 2`. -/
def ValidMap (cap : Nat) (m : WindowMap) : Prop :=
  (∀ n k w v, n ≠ k → m.get n = some w → m.get k = some v →
      ¬ (w.base.toNat < v.base.toNat + v.length.toNat ∧ v.base.toNat < w.base.toNat + w.length.toNat)) ∧
    ∀ n w, m.get n = some w → w.base.toNat + w.length.toNat ≤ cap - 2

/-- A configuration that COMMIT accepts (R148). -/
def ValidConfiguration (cap : Nat) (c : Configuration) : Prop :=
  ValidMap cap c.map ∧ ∃ p, (c.ports.get p).privilege = .admin

/-- Both counts of every window that a staged map changes are 0 (R149, R150). -/
def Undemanded (s : State) (m : WindowMap) : Prop :=
  ∀ n, s.chip.map.active.map.get n ≠ m.get n → s.chip.map.usage.get n = ⟨0, 0⟩

/-- The contents of a record that the bridge can write against a capacity (R2, R159, R161): every field in its form
range, at most eight holds of different ids inside the medium, and a valid map. -/
def RecordInRange (cap : Nat) (r : ConfigRecord) : Prop :=
  cap < 4294967296 ∧ ParamsForm r.config.params ∧
    (∀ p, 1 ≤ (r.config.ports.get p).weight ∧ (r.config.ports.get p).weight ≤ 8) ∧
    (∀ n w, r.config.map.get n = some w → WindowForm w) ∧ ValidMap cap r.config.map ∧
    r.holds.length ≤ 8 ∧ (r.holds.map StoredHold.id).Nodup ∧
    ∀ h ∈ r.holds, 1 ≤ h.id ∧ h.id ≤ 65535 ∧ 1 ≤ h.range.count ∧ h.range.first + h.range.count ≤ cap - 2

/-- A timer that the next millisecond ends, and the command that says so (R38, R104, R117, R134, R150). -/
def TimerEnds (s : State) (i : Instr) : Prop :=
  (∃ p tag d n got, i = .transferTimeout p tag ∧ s.chip.dataRecord p tag = some d ∧ d.stage = .granted n got 1) ∨
    (∃ n r, i = .responseTimerExpiry n ∧ s.chip.slot n = some r ∧ r.phase = .issued 1) ∨
    (∃ n r cause, i = .abandonTimerExpiry n ∧ s.chip.slot n = some r ∧ r.phase = .abandoning cause 1) ∨
    (∃ step, i = .attemptLimitExpiry ∧ s.chip.mlink.bringUp = .attempt step 1) ∨
    (∃ info, i = .drainLimitExpiry ∧ s.chip.map.commit = .draining info 1) ∨
    ∃ h ∈ s.chip.hold.table, i = .holdExpiry h.id ∧ h.state = .active (some 1)

/-- One grant decision after the other, each against the state that the one before left, until one grants nothing (R93). -/
inductive Decides : Chip → Chip → Prop
  | done {c : Chip} : grantDecision c = none → Decides c c
  | more {c d e : Chip} : grantDecision c = some d → Decides d e → Decides c e

/-- The persist jobs in their order: the writer's, then the queue (R163, R164). -/
def jobsOf (u : ConfigUnit) : List Job :=
  match u.writer with
  | .awaitingSlot j | .writing j _ _ => j :: u.queue
  | .idle | .awaitingFree => u.queue

/-- The writer may take a job (R164): it is IDLE, the reset mark is clear, the bridge is in SERVICE or RECOVER. -/
def MayTake (s : State) : Prop :=
  s.chip.cfg.writer = .idle ∧ s.chip.cfg.resetMark = false ∧
    (s.chip.cfg.bridge = .service ∨ s.chip.cfg.bridge = .recover)

/-- A writer that may take a job leaves none in the queue (R164). -/
def WriterServed (s : State) : Prop := MayTake s → s.chip.cfg.queue = []

/-- A job that is appended now fails at once with cause GENERATION (R164, R167). -/
def Exhausted (s : State) : Prop := s.chip.cfg.generation = 0xFFFFFFFF#32 ∧ MayTake s

/-- The wait of a hold has ended (R33, R34, R164): a SESSION or POWER hold is ACTIVE; a FIXED hold is PERSISTING with its job
in the queue or at the writer, or its job has failed for want of a generation. -/
def WaitEnded (s t : State) (h : Hold) (asker : Option Port) : Prop :=
  (h.cls ≠ .fixed → HoldActivated s t h asker) ∧
    (h.cls = .fixed → (¬ Exhausted s → { h with state := .persisting } ∈ t.chip.hold.table ∧
        .hold h.id ∈ jobsOf t.chip.cfg) ∧
      (Exhausted s → HoldFailed s t h))

/-- The drain of a commit has ended (R150, R152, R164): without persist it has swapped; with persist it is PERSISTING with
its job in the queue or at the writer, or its job has failed for want of a generation. -/
def DrainEnded (s t : State) (info : CommitInfo) (owner : Option Port) (cfg : Configuration) : Prop :=
  (info.persist = false → Swapped s t info cfg) ∧
    (info.persist = true → (¬ Exhausted s → t.chip.map.active = s.chip.map.active ∧
        t.chip.map.epoch = s.chip.map.epoch ∧ t.chip.map.staging = .committing owner cfg ∧
        t.chip.map.commit = .persisting info ∧ .commit ∈ jobsOf t.chip.cfg) ∧
      (Exhausted s → CommitFailed s t info cfg))

/-- What follows when an event has left the blocks at `c`, slots free and counts fallen (R32 to R34, R119, R150, R163): a hold
whose wait set is empty ends its wait, any other stays; a DRAINING commit ends its drain when both counts of every window
of its change set are 0, else it goes on; the jobs that this appends stand behind the earlier ones, hold jobs in
ascending id, then the commit job; and the writer leaves none that it may take. -/
def CountsFell (s t : State) (c : Chip) : Prop :=
  HoldTableInRange s → WriterServed s →
    (∀ h ∈ c.hold.table, h.state = .pending [] → WaitEnded s t h none) ∧
    (∀ h ∈ c.hold.table, h.state ≠ .pending [] → h ∈ t.chip.hold.table) ∧
    (∀ info left owner cfg, c.map.commit = .draining info left → c.map.staging = .committing owner cfg →
      let drained := ∀ n ∈ info.changeSet, c.map.usage.get n = ⟨0, 0⟩
      (drained → c.cfg.bridge ≠ .fault → DrainEnded s t info owner cfg) ∧
      (¬ drained → t.chip.map.active = c.map.active ∧ t.chip.map.epoch = c.map.epoch ∧
        t.chip.map.staging = c.map.staging ∧ t.chip.map.commit = c.map.commit)) ∧
    (¬ Exhausted s → ∃ last, (last = [] ∨ last = [.commit]) ∧ jobsOf t.chip.cfg = jobsOf c.cfg ++
      ((c.hold.table.filter fun h => h.cls = .fixed ∧ h.state = .pending []).map fun h => .hold h.id) ++ last) ∧
    WriterServed t

/-- The conditions of R90 but Pages, for a head `d` of port `p`: its session is OPEN, the bridge in SERVICE, a slot free for
grant (R92), the port's in-flight count 0 if the head is ORDERED, no ORDERED request of the port in flight (R91), and the
window's in-flight count below its quota, when it has one (R5). -/
def Grantable (c : Chip) (p : Port) (d : DataRec) : Prop :=
  (c.ports.get p).session = .opened ∧ c.cfg.bridge = .service ∧
    (∃ i : SlotNo, i.val < c.mlink.slotCount ∧ c.slot i = none) ∧
    (d.ordered = true → (c.ports.get p).inFlight = 0) ∧ c.arb.ordered.get p = false ∧
    ∀ w quota, c.map.active.map.get d.window = some w → w.quota = some quota →
      (c.map.usage.get d.window).inFlight < quota

/-- The pages that a head needs (R90): its count for a READ or a WRITE, none for a DISCARD or a FLUSH. -/
def pagesNeeded (d : DataRec) : Nat := if d.kind = .read ∨ d.kind = .write then d.count.toNat else 0

/-- Port `p` is the first in the order P0, P1, P2, P0, from the pointer on, whose head is eligible and whose credit is
above 0 (R96). -/
def FirstInTurn (c : Chip) (credit : PerPort Nat) (p : Port) : Prop :=
  let may := fun q => c.eligible q = true ∧ 0 < credit.get q
  let first := c.arb.pointer
  may p ∧ (p = first ∨ (p = nextPort first ∧ ¬ may first) ∨
    (p = nextPort (nextPort first) ∧ ¬ may first ∧ ¬ may (nextPort first)))

/-- The configuration that job `j` writes, as far as the rules give one (R163). -/
def JobWrites (c : Chip) (j : Job) (cfg : Configuration) : Prop :=
  ((∃ id, j = .hold id) ∧ cfg = c.map.active) ∨ (j = .commit ∧ ∃ owner, c.map.staging = .committing owner cfg)

/-- The write of job `j` has been issued in slot `i` (R94, R121, R165): the target is the copy that is not current, A when
none is. The record has the next generation, the job's configuration, and the ACTIVE FIXED holds with the job's own. A
WRITE of one block, durable, goes to the target's block, with one DATA frame. The current copy and the marks stay. -/
def WriteIssued (j : Job) (i : SlotNo) (c g : Chip) : Prop :=
  let target := if c.cfg.current = some .a then Copy.b else Copy.a
  let block := c.mlink.capacity.toNat - 2 + target.code
  ∃ record : ConfigRecord, record.generation = c.cfg.generation + 1 ∧
    (∀ cfg, JobWrites c j cfg → record.config = cfg) ∧
    (∀ z, z ∈ record.holds ↔ ∃ h ∈ c.hold.table, h.cls = .fixed ∧
      ((∃ left, h.state = .active left) ∨ j = .hold h.id) ∧ z = ⟨h.id, h.scope, h.range, h.owner⟩) ∧
    g.cfg = { c.cfg with
      writer := .writing j target (c.cfg.generation + 1)
      areaA := if target = .a then some (Block.ofBytes (encodeRecord record)) else c.cfg.areaA
      areaB := if target = .b then some (Block.ofBytes (encodeRecord record)) else c.cfg.areaB } ∧
    (∃ r, g.slot i = some r ∧ r.holder = .configuration ∧ r.op = .write ∧ r.range = some ⟨block, 1⟩ ∧
      r.durable = true ∧ r.phase = .issued c.map.active.params.response) ∧
    (∀ n, n ≠ i → g.slot n = c.slot n) ∧ g.map = c.map ∧ g.hold = c.hold ∧ g.arb = c.arb ∧ g.pool = c.pool ∧
    g.ports = c.ports ∧ g.ctl = c.ctl ∧
    (c.mlink.link = .up → g.sent = c.sent ++ [.toMedia (.command i .write true block 1),
      .toMedia (.data i 0 (Block.ofBytes (encodeRecord record)))])

/-- The failure of a persist job has reached its owner (R34, R41, R152). A hold job: the hold's record is gone, HOLDS is
told, and its placement is answered PERSIST-FAILED. The commit job: the commit is over. -/
def FailureReported (s t : State) (j : Job) : Prop :=
  (∀ h ∈ s.chip.hold.table, j = .hold h.id → HoldTableInRange s → HoldFailed s t h ∧ HoldsTold s t h.range none) ∧
  ∀ info owner cfg, j = .commit → s.chip.map.commit = .persisting info → s.chip.map.staging = .committing owner cfg →
    CommitFailed s t info cfg

/-- A failed attempt of the configuration unit to write a copy (R167): its mark is INVALID, the current copy and
generation stay, the failure is counted and reported. -/
def WriteFailed (s t : State) (j : Job) (target : Copy) : Prop :=
  t.chip.cfg.mark target = .invalid ∧ t.chip.cfg.current = s.chip.cfg.current ∧
    t.chip.cfg.generation = s.chip.cfg.generation ∧
    t.chip.ctl.persistFailures = min 255 (s.chip.ctl.persistFailures + 1) ∧ FailureReported s t j

/-- The record of copy `x`, when the configuration unit marks it VALID (R161). -/
def ValidCopy (cap : Nat) (u : ConfigUnit) (x : Copy) (rec : ConfigRecord) : Prop :=
  u.mark x = .valid ∧ ∃ b, u.area x = some b ∧ readRecord cap b = some rec

/-- The copy that START selects, and what it loads: the greater generation, A when they are equal, the one that is valid,
the factory state when neither is (R176). -/
def Selected (cap : Nat) (u : ConfigUnit) (x : Option Copy) (rec : ConfigRecord) : Prop :=
  (x = some .a ∧ ValidCopy cap u .a rec ∧
      (u.mark .b ≠ .valid ∨ ∃ b, ValidCopy cap u .b b ∧ b.generation.toNat ≤ rec.generation.toNat)) ∨
    (x = some .b ∧ ValidCopy cap u .b rec ∧
      (u.mark .a ≠ .valid ∨ ∃ a, ValidCopy cap u .a a ∧ a.generation.toNat < rec.generation.toNat)) ∨
    (x = none ∧ rec = ⟨0#32, factory, []⟩ ∧ u.mark .a ≠ .valid ∧ u.mark .b ≠ .valid)

/-- A FIXED hold as a record gives it (R46). -/
def loadedHold (z : StoredHold) : Hold := ⟨z.id, .fixed, z.scope, z.range, z.owner, none, .active none, none⟩

/-- The POWER holds that a load keeps, in ascending id (R46): the id is not loaded, the range ends below the configuration
area, and the table has fewer than 48 records. -/
def keptPower (cap : Nat) (rec : ConfigRecord) (table : List Hold) : List Hold :=
  (table.filter fun h => h.cls = .power ∧ h.range.first + h.range.count ≤ cap - 2 ∧ ∀ z ∈ rec.holds, z.id ≠ h.id).take
    (48 - rec.holds.length)

/-- The id of a new hold (R40): the first one that no record holds, from the counter on; the counter goes to the one after
it. -/
def IdGiven (s t : State) (id : Nat) : Prop :=
  (∀ x ∈ s.chip.hold.table, x.id ≠ id) ∧
    ∃ k, id = idAfter^[k] s.chip.hold.nextId ∧
      (∀ j < k, ∃ x ∈ s.chip.hold.table, x.id = idAfter^[j] s.chip.hold.nextId) ∧
      t.chip.hold.nextId = if id < 65535 then id + 1 else 1

/-- A configuration has been loaded (R40, R46, R87, R97, R177): bridge state SERVICE, the current copy and generation, the
map, port table and parameters, epoch 1, credits and pointer, the FIXED holds of the record, the POWER holds that are kept
and no SESSION hold, the id counter, log time 0. -/
def Loaded (s t : State) (u : ConfigUnit) (x : Option Copy) (rec : ConfigRecord) : Prop :=
  t.chip.cfg = { u with current := x, generation := rec.generation, step := none, bridge := .service } ∧
    t.chip.map.active = rec.config ∧ t.chip.map.epoch = 1#32 ∧ t.chip.arb.pointer = .p0 ∧
    (∀ p, t.chip.arb.credit.get p = (rec.config.ports.get p).weight) ∧
    (∀ h, h ∈ t.chip.hold.table ∧ h.cls = .fixed ↔ ∃ z ∈ rec.holds, h = loadedHold z) ∧
    (∀ h ∈ t.chip.hold.table, h.cls ≠ .session) ∧
    (HoldTableInRange s → (∀ h ∈ t.chip.hold.table, h.cls = .power →
        ∃ k ∈ keptPower s.chip.mlink.capacity.toNat rec s.chip.hold.table, k.id = h.id) ∧
      ∀ k ∈ keptPower s.chip.mlink.capacity.toNat rec s.chip.hold.table,
        (∃ h ∈ t.chip.hold.table, h.cls = .power ∧ h.id = k.id) ∧
          ((∀ waits, k.state ≠ .pending waits) → k ∈ t.chip.hold.table)) ∧
    (rec.holds = [] → t.chip.hold.nextId = 1) ∧
    (∀ z ∈ rec.holds, (∀ y ∈ rec.holds, y.id ≤ z.id) →
      t.chip.hold.nextId = if z.id < 65535 then z.id + 1 else 1) ∧
    t.chip.ctl = { s.chip.ctl with logTime := 0#32 }

/-- What every START has (R45, R170, R173): no OPEN session, no commit, no job, a writer that is IDLE, no FIXED hold that
is not ACTIVE. -/
def QuietStart (s : State) : Prop :=
  s.rstn = .high ∧ s.chip.cfg.bridge = .start ∧ s.chip.map.commit = .idle ∧ s.chip.cfg.queue = [] ∧
    s.chip.cfg.writer = .idle ∧ (∀ h ∈ s.chip.hold.table, h.cls = .fixed → ∃ left, h.state = .active left) ∧
    ∀ q, (s.chip.ports.get q).session ≠ .opened

/-- What follows a read of a copy, with the marks of `u` (R175 to R177): after READ-A the read of copy B at CAP-1 is issued
in slot 0; after READ-B the copy is selected and loaded. -/
def GoesOn (s t : State) (u : ConfigUnit) : Prop :=
  (u.step = some .readA → s.chip.mlink.link = .up → 4096 ≤ s.chip.mlink.capacity.toNat →
    t.chip.cfg = { u with step := some .readB } ∧
    (∃ rec, t.chip.slot 0 = some rec ∧ rec.holder = .configuration ∧ rec.op = .read ∧
      rec.range = some ⟨s.chip.mlink.capacity.toNat - 1, 1⟩ ∧ rec.phase = .issued 500) ∧
    t.chip.sent = s.chip.sent ++ [.toMedia (.command 0 .read false (s.chip.mlink.capacity.toNat - 1) 1)]) ∧
  (u.step = some .readB → ∀ x rec, Selected s.chip.mlink.capacity.toNat u x rec → Loaded s t u x rec)

/-- The configuration unit with the mark of copy `x` written. -/
def marked (x : Copy) (m : Mark) (u : ConfigUnit) : ConfigUnit :=
  match x with
  | .a => { u with markA := m }
  | .b => { u with markB := m }

/-- The configuration unit after the read of its step is lost: the mark is INVALID, if the read had not already ended
(R175). -/
def readEnded (u : ConfigUnit) : ConfigUnit :=
  match u.step with
  | some .readA => if u.markA = .unread then { u with markA := .invalid } else u
  | some .readB => if u.markB = .unread then { u with markB := .invalid } else u
  | some .bringUp | none => u

/-- The bridge has entered FAULT (R44, R112, R171): no job, no queued request, no reservation, no FIXED hold that is not
ACTIVE, no attempt, and MEDIA set for every OPEN session. -/
def InFault (c : Chip) : Prop :=
  c.cfg.bridge = .fault ∧ c.cfg.step = none ∧ c.cfg.queue = [] ∧ c.cfg.writer = .idle ∧
    (∀ q, c.arb.queues.get q = [] ∧ c.arb.starvation.get q = 0) ∧ c.arb.reservation = [] ∧
    (∀ h ∈ c.hold.table, h.cls = .fixed → ∃ left, h.state = .active left) ∧
    c.mlink.bringUp = .idle ∧ c.mlink.attempts = 0 ∧
    ∀ q, (c.ports.get q).session = .opened → (c.ports.get q).flags.media = true

/-- FAULT has been entered from RECOVER or START (R171): `InFault`, and MEDIA is told with a NOTICE where one is due (R69).
From RECOVER, where there is something to act on: every job has failed, the writer's first, and is counted (R167); every
FIXED hold that is not ACTIVE is gone, HOLDS told, its placement answered PERSIST-FAILED (R44); every queued request is
answered MEDIA-FAULT, credits and pointer stay (R112); the commit is IDLE and staging EMPTY, a DRAINING COMMIT is answered
MEDIA-FAULT (R157), a PERSISTING one whose job has failed PERSIST-FAILED (R152); map and epoch stay. -/
def EntersFault (s t : State) : Prop :=
  InFault t.chip ∧ (∀ q, NoticeDue s q .media → Noticed s t q .media) ∧
    (s.chip.cfg.bridge = .recover →
      let jobs := s.chip.cfg.writer.waitingJob ++ s.chip.cfg.queue
      (LogInRange s → t.chip.ctl.persistFailures = min 255 (s.chip.ctl.persistFailures + jobs.length)) ∧
      (HoldTableInRange s → ∀ h ∈ s.chip.hold.table, h.cls = .fixed → (∀ left, h.state ≠ .active left) →
        HoldFailed s t h ∧ HoldsTold s t h.range none) ∧
      (∀ q u, u ∈ s.chip.arb.queues.get q → Speaks s q →
        t.chip.record q u = none ∧ Answered s t q u .mediaFault []) ∧
      t.chip.arb.credit = s.chip.arb.credit ∧ t.chip.arb.pointer = s.chip.arb.pointer ∧
      t.chip.map.active = s.chip.map.active ∧ t.chip.map.epoch = s.chip.map.epoch ∧
      (s.chip.map.commit = .idle → t.chip.map.commit = .idle ∧ t.chip.map.staging = .empty) ∧
      (∀ info left, s.chip.map.commit = .draining info left →
        t.chip.map.commit = .idle ∧ t.chip.map.staging = .empty ∧ CommitAnswered s t info .mediaFault []) ∧
      ∀ info, s.chip.map.commit = .persisting info → .commit ∈ jobs →
        t.chip.map.commit = .idle ∧ t.chip.map.staging = .empty ∧ CommitAnswered s t info .persistFailed [])

/-- Nothing else waits on slot `i`: no drain, no hold that waits for it alone, no persist job, no queued request, no
CLOSING session whose count is 0. What follows the slot's return to FREE is then nothing but the answers. -/
def Calm (c : Chip) (i : SlotNo) : Prop :=
  (∀ info left, c.map.commit ≠ .draining info left) ∧
    (∀ h ∈ c.hold.table, ∀ waits, h.state = .pending waits → ∃ j ∈ waits, j ≠ i) ∧
    c.cfg.queue = [] ∧ (∀ j, c.cfg.writer ≠ .awaitingSlot j) ∧ (∀ q, c.arb.queues.get q = []) ∧
    ∀ q reason, (c.ports.get q).session = .closing reason → (c.ports.get q).inFlight ≠ 0

/-- A hold record that slot `i` no longer keeps waiting. -/
def noLonger (i : SlotNo) (h : Hold) : Hold :=
  match h.state with
  | .pending waits => { h with state := .pending (waits.filter (· ≠ i)) }
  | .persisting | .active _ => h

/-- The blocks with a port's slot back at FREE, for a request that was in flight in window `w` (R119): no slot record,
the counts one lower, the ordered mark and the pages given back, the slot out of every wait set. -/
def released (i : SlotNo) (p : Port) (w : WindowNo) (r : SlotRec) (c : Chip) : Chip :=
  { c with
    mlink := { c.mlink with slots := c.mlink.slots.set i none }
    hold := { c.hold with table := c.hold.table.map (noLonger i) }
    ports := c.ports.modify p fun pc => { pc with inFlight := pc.inFlight - 1 }
    arb := if r.ordered then { c.arb with ordered := c.arb.ordered.set p false } else c.arb
    map := { c.map with usage := c.map.usage.modify w fun u => { u with inFlight := u.inFlight - 1 } }
    pool := { c.pool with free := r.pages.foldr insertPage c.pool.free } }

/-- Nothing is about to follow: no commit drains, no hold has an empty wait set, no persist job waits in the queue, and
every CLOSING session has a request in flight. -/
def Still (c : Chip) : Prop :=
  (∀ info left, c.map.commit ≠ .draining info left) ∧ (∀ h ∈ c.hold.table, h.state ≠ .pending []) ∧
    c.cfg.queue = [] ∧ ∀ q reason, (c.ports.get q).session = .closing reason → (c.ports.get q).inFlight ≠ 0

/-- The blocks with an entry of window `w` out of its queue, other than by grant (R89): the window's queued count one
lower and, when it was the head, the port's starvation count 0 and the port out of reservation. -/
def unqueued (p : Port) (t : Tag) (w : WindowNo) (c : Chip) : Chip :=
  let left := { c.arb with queues := c.arb.queues.set p ((c.arb.queues.get p).erase t) }
  { c with
    map := { c.map with usage := c.map.usage.modify w fun u => { u with queued := u.queued - 1 } }
    arb := if (c.arb.queues.get p).head? = some t then
        { left with starvation := c.arb.starvation.set p 0, reservation := c.arb.reservation.filter (· ≠ p) }
      else left }

/-- The DATA frames of a page list, index ascending, each with the contents of its page (R66, R120). -/
def pageFrames (frame : Nat → Block → Sent) (pages : List PageNo) (content : Table 256 Block) : List Sent :=
  pages.zipIdx.map fun x => frame x.2 (content.get x.1)

/-- What the return of slot `i` to FREE is for the CLOSING session that holds it (R53, R55, R119, R125): the record kept for
it is freed, nothing is answered, and the session is DOWN, with a CLOSED frame on a link that is UP, when this was its last
request in flight. Where nothing else waits on the slot, exactly what the slot held comes back. -/
def EndsForClosing (s t : State) (i : SlotNo) (p : Port) (w : WindowNo) (r : SlotRec) (reason : CloseReason) : Prop :=
  let last := (s.chip.ports.get p).inFlight ≤ 1
  (∀ tag d, s.chip.dataRecord p tag = some d → d.stage.slot? = some i → t.chip.record p tag = none) ∧
    (t.chip.ports.get p).session = (if last then .down else .closing reason) ∧
    (∃ frames, t.chip.sent = s.chip.sent ++ frames ∧
      (∀ tag o fs detail, .toPort p (.response tag o fs detail) ∉ frames) ∧
      (.toPort p (.closed reason) ∈ frames ↔ last ∧ (s.chip.ports.get p).link = .up)) ∧
    (Calm s.chip i → (t.chip.ports.get p).inFlight = (s.chip.ports.get p).inFlight - 1 ∧
      t.chip.sent = s.chip.sent ++
        (if last ∧ (s.chip.ports.get p).link = .up then [.toPort p (.closed reason)] else []) ∧
      t.chip.mlink.slots = s.chip.mlink.slots.set i none ∧ t.chip.hold = (released i p w r s.chip).hold ∧
      t.chip.arb = (released i p w r s.chip).arb ∧ t.chip.map = (released i p w r s.chip).map ∧
      t.chip.pool = (released i p w r s.chip).pool)

/-- The slots of the writes of port `p` that wait for data (R107). -/
def grantedSlots (c : Chip) (p : Port) : List SlotNo :=
  allSlots.filter fun i => allTags.any fun u =>
    match (c.dataRecord p u).map DataRec.stage with
    | some (.granted n _ _) => n = i
    | _ => false

/-- What the end of the session of port `p` gives back, before the grant decisions (R53, R89, R103, R119): the slots and
pages of its writes that wait for data, the pages of its reads that are DELIVERING, and the counts of both and of its
queued requests. A request on the media keeps its slot and has no owner. -/
def GivenBack (s : State) (p : Port) (c : Chip) : Prop :=
  (∀ n ∈ grantedSlots s.chip p, c.slot n = none) ∧
    (∀ n, n ∉ grantedSlots s.chip p → (c.slot n).map (fun r => { r with owner := none }) =
      (s.chip.slot n).map fun r => { r with owner := none }) ∧
    (∀ u d n r, s.chip.dataRecord p u = some d → d.stage = .issued n ∨ (∃ a, d.stage = .abandoning n a) →
      c.slot n = some r → r.owner = none) ∧
    (∀ n ∈ grantedSlots s.chip p, ∀ r, s.chip.slot n = some r → r.holder = .port p → ∀ x ∈ r.pages, x ∈ c.pool.free) ∧
    (∀ u d pages, s.chip.dataRecord p u = some d → d.stage = .delivering pages → ∀ x ∈ pages, x ∈ c.pool.free) ∧
    (c.ports.get p).inFlight = (s.chip.ports.get p).inFlight -
      ((grantedSlots s.chip p).filter fun n => (s.chip.slot n).map SlotRec.holder = some (.port p)).length ∧
    ∀ w, c.map.usage.get w =
      ⟨(s.chip.map.usage.get w).queued - (queuedTags s.chip p w).length,
       (s.chip.map.usage.get w).inFlight - ((grantedSlots s.chip p).filter fun n =>
         (s.chip.slot n).any fun r => decide (r.holder ≠ .configuration) && decide (r.window = some w)).length⟩

/-- A hold as the end of the session of port `p` leaves it (R32, R42, R119): the slots `freed` are out of its wait set, and
a placement of the port is answered no more. -/
def orphaned (p : Port) (freed : List SlotNo) (h : Hold) : Hold :=
  { h with
    state :=
      match h.state with
      | .pending waits => .pending (waits.filter (· ∉ freed))
      | .persisting | .active _ => h.state
    answerTo := if h.owner = p then none else h.answerTo }

/-- What the cleanup of the session of port `p` leaves to the hold unit and the map unit (R33, R34, R42, R53, R150, R155), with
the counts of `usage`: the session is CLOSING, its SESSION holds are gone, the slots of its waiting writes are out of every
wait set. Staging of the port's own, with its commit, is left out: its end is stated by itself. -/
def leftBy (s : State) (p : Port) (reason : CloseReason) (usage : Table 16 Usage) : State :=
  let freed := (grantedSlots s.chip p).filter fun i => (s.chip.slot i).isSome
  { s with chip := { s.chip with
      ports := s.chip.ports.modify p fun pc => { pc with session := .closing reason, flags := ⟨false, false, false⟩ }
      hold := { s.chip.hold with table :=
        (s.chip.hold.table.filter fun h => h.owner ≠ p ∨ h.cls ≠ .session).map (orphaned p freed) }
      map :=
        match s.chip.map.staging with
        | .opened q _ | .committing (some q) _ =>
          if q = p then { s.chip.map with usage := usage, staging := .empty, commit := .idle }
          else { s.chip.map with usage := usage }
        | .committing none _ | .empty => { s.chip.map with usage := usage } } }

/-- A commit is over without a swap: map and epoch as they were, staging EMPTY, the controller IDLE (R155). -/
def Abandoned (s t : State) : Prop :=
  t.chip.map.active = s.chip.map.active ∧ t.chip.map.epoch = s.chip.map.epoch ∧ t.chip.map.staging = .empty ∧
    t.chip.map.commit = .idle

/-- Steps 3 and 4 of a bridge reset (R45, R57, R158, R173, R174, R179, R180): no session stays OPEN, the configuration unit
is at its values at entry to START, with no job and the mark clear, the map, port table and parameters are the factory
ones, epoch 0, no staging, no commit, and the first attempt has begun. The counts that a bridge reset keeps are kept. A port
that was not OPEN has been sent nothing but the CLOSED of its CLOSING session. No FIXED hold but an ACTIVE one and no
SESSION hold of a session that has ended is left; every POWER hold stays. On a link that is UP, LINK-RESET goes out and
frees every slot; then every session is DOWN, and a PENDING POWER hold is ACTIVE. -/
def StartBegun (s t : State) : Prop :=
  t.chip.cfg = ConfigUnit.reset ∧ t.chip.map.active = factory ∧ t.chip.map.epoch = 0#32 ∧
    t.chip.map.staging = .empty ∧ t.chip.map.commit = .idle ∧
    t.chip.mlink.capacity = 0#32 ∧ t.chip.mlink.slotCount = 0 ∧ t.chip.mlink.attempts = 0 ∧
    t.chip.mlink.bringUp = .attempt (if t.chip.mlink.link = .up then .awaitReady else .awaitLinkUp) 200 ∧
    t.chip.mlink.lateCompletions = s.chip.mlink.lateCompletions ∧ t.chip.mlink.recoveries = s.chip.mlink.recoveries ∧
    t.chip.mlink.checkFails = s.chip.mlink.checkFails ∧
    (∀ q, (t.chip.ports.get q).session ≠ .opened ∧
      (t.chip.ports.get q).checkFails = (s.chip.ports.get q).checkFails) ∧
    (∃ frames, t.chip.sent = s.chip.sent ++ frames ∧ (t.chip.mlink.link = .up → .toMedia .linkReset ∈ frames) ∧
      ∀ q f, (s.chip.ports.get q).session ≠ .opened → .toPort q f ∈ frames →
        ∃ reason, (s.chip.ports.get q).session = .closing reason ∧ f = .closed reason) ∧
    (∀ h ∈ t.chip.hold.table, (h.cls = .fixed → ∃ left, h.state = .active left) ∧
      (h.cls = .session → (s.chip.ports.get h.owner).session ≠ .opened)) ∧
    (HoldTableInRange s → ∀ h ∈ s.chip.hold.table, h.cls = .power → .hold h.id ∉ jobsOf s.chip.cfg →
      (∃ x ∈ t.chip.hold.table, x.id = h.id ∧ x.cls = .power) ∧
      ((∀ waits, h.state ≠ .pending waits) → ∃ a, { h with answerTo := a } ∈ t.chip.hold.table)) ∧
    (t.chip.mlink.link = .up → ∀ n, t.chip.slot n = none) ∧
    ((∀ n, t.chip.slot n = none) →
      (SlotTableExact s → ∀ q, (t.chip.ports.get q).session = .down) ∧
      (HoldTableInRange s → ∀ h ∈ s.chip.hold.table, ∀ waits, h.cls = .power → .hold h.id ∉ jobsOf s.chip.cfg →
        h.state = .pending waits → (∀ n ∈ waits, s.chip.slot n ≠ none) →
        { h with state := .active (h.expiry.map (· * 1000)), answerTo := none } ∈ t.chip.hold.table))

/-- The check at COMMIT finds no two present windows that intersect (R11 step 1). -/
def NoOverlap (m : WindowMap) : Prop :=
  ∀ n k w v, n ≠ k → m.get n = some w → m.get k = some v → w.blocks.intersects v.blocks = false

/-- Every present window below `n` ends within the medium and below the configuration area (R11 step 2). -/
def PlacedBelow (cap : Nat) (m : WindowMap) (n : WindowNo) : Prop :=
  ∀ k w, k.val < n.val → m.get k = some w → w.base.toNat + w.length.toNat ≤ cap - 2

/-- The record under tag `t` of port `p` written. -/
def withRecord (p : Port) (t : Tag) (x : Option Record) (c : Chip) : Chip :=
  { c with ports := c.ports.modify p fun pc => { pc with tags := pc.tags.set t x } }

end Sys2Proof.Safety
end

