-- ==== Sys2Proof/Certificates/Slice0/Obligations.lean ====
section
/-! DEFINITION. The statements for the provers. Each is about every state and every operand that meets its premises. -/

open Sys2Proof Sys2Proof.Machine Sys2Proof.Safety

/-! ### The step -/

/-- A step takes the command at the front of the queue and runs it on the state with the queue's rest. -/
def Obligations.StepRunsTheFrontCommand : Prop :=
  ∀ (c : Instr) (s : State), step { s with pending := c :: s.pending } = exec c s

/-- With no command waiting one millisecond passes (the model's choice, log entry 2). With RSTn low nothing runs. Otherwise
the log time advances outside START (R87), every running timer counts down (R38, R104, R117, R127, R134, R150), the timers
that end put their expiry commands into the queue, and nothing else changes and no frame is sent. -/
def Obligations.EmptyQueueStepIsOneMillisecond : Prop :=
  ∀ s : State, s.pending = [] →
    (s.rstn = .low → step s = .next s) ∧
    (s.rstn = .high →
      ∃ t, step s = .next t ∧ t.rstn = .high ∧ t.chip.sent = s.chip.sent ∧ t.chip.arb = s.chip.arb ∧
        t.chip.pool = s.chip.pool ∧ t.chip.cfg = s.chip.cfg ∧
        t.chip.ctl = { s.chip.ctl with
          logTime := if s.chip.cfg.bridge = .start then s.chip.ctl.logTime else s.chip.ctl.logTime + 1 } ∧
        t.chip.map = { s.chip.map with
          commit :=
            match s.chip.map.commit with
            | .draining info left => .draining info (left - 1)
            | .idle | .persisting _ => s.chip.map.commit } ∧
        t.chip.hold = { s.chip.hold with table := s.chip.hold.table.map fun h =>
          match h.state with
          | .active (some ms) => { h with state := .active (some (ms - 1)) }
          | .active none | .pending _ | .persisting => h } ∧
        (∀ p tag, t.chip.record p tag =
          match s.chip.record p tag with
          | some (.data d) =>
            match d.stage with
            | .granted n got left => some (.data { d with stage := .granted n got (left - 1) })
            | .admitted | .issued _ | .abandoning _ _ | .delivering _ => some (.data d)
          | some (.handed k ws v) => some (.handed k ws v)
          | none => none) ∧
        (∀ p, { t.chip.ports.get p with tags := (s.chip.ports.get p).tags } = s.chip.ports.get p) ∧
        (∀ n, t.chip.slot n = (s.chip.slot n).map fun r =>
          match r.phase with
          | .issued left => { r with phase := .issued (left - 1) }
          | .abandoning cause left => { r with phase := .abandoning cause (left - 1) }
          | .taken => r) ∧
        { t.chip.mlink with slots := s.chip.mlink.slots } = { s.chip.mlink with bringUp :=
          match s.chip.mlink.bringUp with
          | .attempt stage left => .attempt stage (left - 1)
          | .idle => .idle } ∧
        ∀ i, i ∈ t.pending ↔ TimerEnds s i)

/-- No command stops the machine: each answers a next state with the queue as it was, and only the two commands of the
pin change the pin. -/
def Obligations.EveryCommandAnswersANextState : Prop :=
  ∀ (i : Instr) (s : State), ∃ t, exec i s = .next t ∧ t.pending = s.pending ∧
    (i ≠ .coldReset → i ≠ .rstnRelease → t.rstn = s.rstn)

/-! ### What every step keeps -/

/-- The invariants hold right after reset. -/
def Obligations.ResetSatisfiesTheInvariants : Prop :=
  QuietWhileLow State.reset ∧ LogInRange State.reset ∧ CountsInRange State.reset ∧ FlagsOnlyInOpen State.reset ∧
    ReachedUnderMark State.reset ∧ MapNoticeExact State.reset ∧ HoldTableInRange State.reset ∧ WriterServed State.reset ∧
    SlotTableExact State.reset ∧ QueuesExact State.reset ∧ PagesLentOnce State.reset

/-- While RSTn is low every block holds its cold-reset values: every step keeps it so. -/
def Obligations.StepKeepsResetValuesWhileRstnIsLow : Prop :=
  ∀ s t : State, QuietWhileLow s → step s = .next t → QuietWhileLow t

/-- The refusal log and every saturating count stay in range. -/
def Obligations.StepKeepsLogAndCountsInRange : Prop :=
  ∀ s t : State, step s = .next t → (LogInRange s → LogInRange t) ∧ (CountsInRange s → CountsInRange t)

/-- No notice flag is set outside OPEN. Under the reset mark the writer waits for no slot (R179), and no session is OPEN but
one whose RESET-BRIDGE is about to join (R57; that it may still be OPEN then is the model's choice, log entry 17): so every
session has ended when the write that the reset waits for ends (R19, R45, R158, R166). -/
def Obligations.StepKeepsFlagsClearOutsideOpen : Prop :=
  ∀ s t : State, step s = .next t →
    (FlagsOnlyInOpen s → FlagsOnlyInOpen t) ∧ (ReachedUnderMark s → ReachedUnderMark t)

/-- The MAP notice of an OPEN session says exactly whether the epoch differs from the delivered one. -/
def Obligations.StepKeepsMapNoticeExact : Prop :=
  ∀ s t : State, MapNoticeExact s → step s = .next t → MapNoticeExact t

/-- The hold table keeps its limits and its order, and no job waits for a writer that may take it (R164). -/
def Obligations.StepKeepsHoldTableInRangeAndWriterServed : Prop :=
  ∀ s t : State, step s = .next t → (HoldTableInRange s → HoldTableInRange t) ∧ (WriterServed s → WriterServed t)

/-- The slot table stays exact, with the in-flight counts of ports and windows. Each port queue goes on to list exactly the
ADMITTED tags of its port, each once, and each window's queued count to be their number (R6, R88). No page is ever on two
page lists, or on one and free. -/
def Obligations.StepKeepsSlotTableAndQueuesExactAndLendsNoPageTwice : Prop :=
  ∀ s t : State, step s = .next t → (SlotTableExact s → SlotTableExact t) ∧
    (HoldTableInRange s → QueuesExact s → QueuesExact t) ∧ (PagesLentOnce s → PagesLentOnce t)

/-! ### Formats -/

/-- Every well-formed P-link command is read back from the frame that carries it. -/
def Obligations.PlinkFrameReadsBack : Prop :=
  ∀ (i : Instr) (frame : List Byte), i.wf = true → encodePlink i = some frame → decodePlink i.portOf frame = i

/-- Every well-formed M-link command is read back from the frame that carries it. -/
def Obligations.MlinkFrameReadsBack : Prop :=
  ∀ (i : Instr) (frame : List Byte), i.wf = true → encodeMlink i = some frame → decodeMlink frame = i

/-- A record whose items are in range is read back whole from the block it is written into. -/
def Obligations.ConfigurationRecordReadsBack : Prop :=
  ∀ (cap : Nat) (r : ConfigRecord), RecordInRange cap r → readRecord cap (Block.ofBytes (encodeRecord r)) = some r

/-! ### The pin and the P-link reports -/

/-- COLD_RESET: every block at its cold-reset values, RSTn low; nothing is sent, but for the DATA frames of deliveries that
had gone out before it: of each DELIVERING read the first frames, never all. The model's own choices in it: those DATA
frames are recorded in this step, their number is a free value (log entry 5), ports and tags ascend (log entry 9), the list
of frames sent is kept (log entry 10), and the pages' contents are zero (log entry 11). -/
def Obligations.ColdResetSetsEveryBlock : Prop :=
  ∀ s : State, ∃ (t : State) (gone : Port → Tag → Nat), exec .coldReset s = .next t ∧ t.rstn = .low ∧
    t.pending = s.pending ∧
    t.chip = { Chip.reset with
      sent := s.chip.sent ++ [Port.p0, .p1, .p2].flatMap fun p => allTags.flatMap fun tag =>
        match (s.chip.dataRecord p tag).map DataRec.stage with
        | some (.delivering pages) =>
          (pageFrames (fun k x => .toPort p (.data tag k x)) pages s.chip.pool.content).take (gone p tag)
        | _ => []
      free := t.chip.free } ∧
    ∀ p tag d pages, s.chip.dataRecord p tag = some d → d.stage = .delivering pages → pages ≠ [] →
      gone p tag < pages.length

/-- RSTN_RELEASE from low, the blocks at their cold-reset values: START with its first attempt, which waits for the
M-link; on a pin that is high, nothing (deduced by the model, log entry 7). -/
def Obligations.RstnReleaseBeginsStart : Prop :=
  ∀ s : State,
    (s.rstn = .low → QuietWhileLow s →
      exec .rstnRelease s = .next { s with
        rstn := .high
        chip := { s.chip with mlink := { s.chip.mlink with bringUp := .attempt .awaitLinkUp 200 } } } ∧
      s.chip.cfg.bridge = .start ∧ s.chip.cfg.step = some .bringUp) ∧
    (s.rstn = .high → exec .rstnRelease s = .next s)

/-- While RSTn is low no command but those of the pin has an effect: frames and timers, and link reports too, which the
model deduces (log entry 7). -/
def Obligations.NothingActsWhileRstnIsLow : Prop :=
  ∀ (i : Instr) (s : State), s.rstn = .low → i ≠ .coldReset → i ≠ .rstnRelease → exec i s = .next s

/-- P-link reports and discarded frames: link-up sets the link alone; link-down outside OPEN sets the link alone (R49); a
frame whose check fails raises the port's count, saturating, while the link is UP (R67), and does nothing at a link that is
DOWN (deduced by the model, log entry 8); an unknown kind changes nothing (R201). -/
def Obligations.PlinkReportsChangeTheLinkAlone : Prop :=
  ∀ (s : State) (p : Port), s.rstn = .high →
    Does (.plinkLinkUp p) s { s.chip with ports := s.chip.ports.modify p fun pc => { pc with link := .up } } ∧
    ((s.chip.ports.get p).session ≠ .opened →
      Does (.plinkLinkDown p) s { s.chip with ports := s.chip.ports.modify p fun pc => { pc with link := .down } }) ∧
    ((s.chip.ports.get p).link = .up →
      Does (.plinkCheckFail p) s { s.chip with
        ports := s.chip.ports.modify p fun pc => { pc with checkFails := min 65535 (pc.checkFails + 1) } }) ∧
    ((s.chip.ports.get p).link = .down → Does (.plinkCheckFail p) s s.chip) ∧
    (∀ kind, Does (.unknownKind p kind) s s.chip)

/-! ### Sessions -/

/-- OPEN is answered by the session, the revision, the bridge state and the reset mark, in that order. ACCEPT: the session
is OPEN, the epoch is delivered, the flags are clear, and nothing else changes. REJECT changes nothing. -/
def Obligations.OpenIsAnswered : Prop :=
  ∀ (s : State) (p : Port) (revision : Option Byte), s.rstn = .high → (s.chip.ports.get p).link = .up →
    ((s.chip.ports.get p).session = .down →
      (revision ≠ some 1#8 → Does (.openFrame p revision) s (told p (.reject .badRevision) s.chip)) ∧
      (revision = some 1#8 → s.chip.cfg.bridge = .start ∨ s.chip.cfg.resetMark = true →
        Does (.openFrame p revision) s (told p (.reject .notReady) s.chip)) ∧
      (revision = some 1#8 →
        s.chip.cfg.bridge = .service ∨ s.chip.cfg.bridge = .recover ∨ s.chip.cfg.bridge = .fault →
        s.chip.cfg.resetMark = false →
        Does (.openFrame p revision) s
          (told p
            (.accept (privilegeOf s p) ⟨false, false, false⟩ s.chip.cfg.bridge s.chip.map.epoch
              s.chip.hold.table.length)
            { s.chip with ports := s.chip.ports.modify p fun pc =>
              { pc with session := .opened, delivered := s.chip.map.epoch, flags := ⟨false, false, false⟩ } }))) ∧
    ((s.chip.ports.get p).session = .opened →
      Does (.openFrame p revision) s (told p (.reject .alreadyOpen) s.chip)) ∧
    (∀ reason, (s.chip.ports.get p).session = .closing reason →
      Does (.openFrame p revision) s (told p (.reject .notReady) s.chip))

/-- CLOSE and link-down end an OPEN session: its flags are clear, only requests on the media keep their records, its queue
is empty, its SESSION holds are gone, its other placements go on unanswered, and it is DOWN exactly when nothing of it is
in flight. No frame goes to its port but CLOSED with the reason, when it is DOWN on a link that is UP (R55), and of each
DELIVERING read the first DATA frames, never all, which had gone out before (log entry 5); that those of several reads stand
in ascending tag is the model's choice (log entry 9). Each SESSION hold that goes sets HOLDS for every other OPEN session that
may see it, with a NOTICE where one is due (R41, R42, R69). Slots, pages and counts come
back, and the grant decisions follow (R53, R89, R103). What they bring about for PENDING holds and for the drain of another
session's commit follows too (R33, R34, R42, R150). Staging that it owns (R155): OPEN becomes EMPTY; a DRAINING commit is
abandoned, unless the counts that came back have ended its drain and that end is taken first (log entry 4), and then it swaps
or is PERSISTING without an owner; a PERSISTING one goes on without an owner. OPEN staging of another session stays. -/
def Obligations.SessionEndCleansUp : Prop :=
  ∀ (s : State) (p : Port) (i : Instr) (reason : CloseReason), s.rstn = .high →
    (s.chip.ports.get p).session = .opened →
    (i = .closeFrame p ∧ reason = .close ∧ (s.chip.ports.get p).link = .up) ∨
      (i = .plinkLinkDown p ∧ reason = .linkDown) →
    (s.chip.arb.queues.get p).Nodup →
    (∀ u ∈ s.chip.arb.queues.get p, ∃ d, s.chip.dataRecord p u = some d ∧ d.stage = .admitted) →
    ∃ t c, exec i s = .next t ∧ t.chip = arbitrate c ∧ GivenBack s p c ∧
      (t.chip.ports.get p).inFlight = (c.ports.get p).inFlight ∧
      (t.chip.ports.get p).flags = ⟨false, false, false⟩ ∧
      (t.chip.ports.get p).session = (if (t.chip.ports.get p).inFlight = 0 then .down else .closing reason) ∧
      (∃ (gone : Tag → Nat) (after : List Sent), t.chip.sent = s.chip.sent ++ allTags.flatMap (fun tag =>
          match (s.chip.dataRecord p tag).map DataRec.stage with
          | some (.delivering pages) =>
            (pageFrames (fun k x => .toPort p (.data tag k x)) pages s.chip.pool.content).take (gone tag)
          | _ => []) ++ after ∧
        (∀ tag d pages, s.chip.dataRecord p tag = some d → d.stage = .delivering pages → pages ≠ [] →
          gone tag < pages.length) ∧
        (∀ f, .toPort p f ∈ after → f = .closed reason) ∧
        (.toPort p (.closed reason) ∈ after ↔ (t.chip.ports.get p).inFlight = 0 ∧ i = .closeFrame p)) ∧
      (∀ u record, t.chip.record p u = some record →
        ∃ d n, record = .data d ∧ (d.stage = .issued n ∨ ∃ a, d.stage = .abandoning n a)) ∧
      (∀ h ∈ t.chip.hold.table, h.owner = p → h.cls ≠ .session ∧ h.answerTo = none) ∧
      t.chip.arb.queues.get p = [] ∧
      (∀ cfg, s.chip.map.staging = .opened p cfg → t.chip.map.staging = .empty) ∧
      (∀ q cfg, s.chip.map.staging = .opened q cfg → q ≠ p → s.chip.map.commit = .idle →
        t.chip.map.staging = s.chip.map.staging) ∧
      (∀ h ∈ s.chip.hold.table, h.owner = p → h.cls = .session →
        HoldsTold (leftBy s p reason c.map.usage) t h.range none) ∧
      (HoldTableInRange s → let left := leftBy s p reason c.map.usage
        CountsFell left t left.chip) ∧
      (∀ cfg info left, s.chip.map.staging = .committing (some p) cfg → s.chip.map.commit = .draining info left →
        ((∃ n ∈ info.changeSet, c.map.usage.get n ≠ ⟨0, 0⟩) → Abandoned s t) ∧
        (Abandoned s t ∨ (info.persist = false ∧ Swapped (leftBy s p reason c.map.usage) t info cfg) ∨
          (info.persist = true ∧ ¬ Exhausted s ∧ t.chip.map.active = s.chip.map.active ∧
            t.chip.map.epoch = s.chip.map.epoch ∧ t.chip.map.staging = .committing none cfg ∧
            t.chip.map.commit = .persisting { info with session := none, tag := none } ∧
            .commit ∈ jobsOf t.chip.cfg))) ∧
      (∀ cfg info, s.chip.map.staging = .committing (some p) cfg → s.chip.map.commit = .persisting info →
        WriterServed s →
        t.chip.map.active = s.chip.map.active ∧ t.chip.map.epoch = s.chip.map.epoch ∧
          t.chip.map.staging = .committing none cfg ∧
          t.chip.map.commit = .persisting { info with session := none, tag := none })

/-- In DOWN and CLOSING every frame but OPEN that has a tag, or is a CLOSE, is answered NO-SESSION with clear flags, and
nothing changes. -/
def Obligations.FramesWithoutSessionAreAnsweredNoSession : Prop :=
  ∀ (s : State) (p : Port), s.rstn = .high → (s.chip.ports.get p).link = .up →
    (s.chip.ports.get p).session ≠ .opened →
    (∀ (k : ReqKind) (r : Request), Does (Instr.ofRequest k p r) s
      (told p (.response (some r.tag) .noSession ⟨false, false, false⟩ []) s.chip)) ∧
    (∀ tag kind, Does (.unknownRequestKind p (some tag) kind) s
      (told p (.response (some tag) .noSession ⟨false, false, false⟩ []) s.chip)) ∧
    (∀ tag index block, Does (.dataFrame p (.whole tag index block)) s
      (told p (.response (some tag) .noSession ⟨false, false, false⟩ []) s.chip)) ∧
    (∀ tag, Does (.dataFrame p (.wrongLength tag)) s
      (told p (.response (some tag) .noSession ⟨false, false, false⟩ []) s.chip)) ∧
    Does (.closeFrame p) s (told p (.response none .noSession ⟨false, false, false⟩ []) s.chip)

/-! ### Intake -/

/-- A REQUEST whose tag is in use is answered TAG-BUSY, and nothing changes. -/
def Obligations.BusyTagIsAnsweredTagBusy : Prop :=
  ∀ (s : State) (p : Port) (tag : Tag), Speaks s p → (s.chip.ports.get p).tags.get tag ≠ none →
    (∀ (k : ReqKind) (r : Request), r.tag = tag → Does (Instr.ofRequest k p r) s (answered p tag .tagBusy [] s.chip)) ∧
    (∀ kind, Does (.unknownRequestKind p (some tag) kind) s (answered p tag .tagBusy [] s.chip))

/-- On a free tag: a request without its whole header, a data kind to CONTROL or with a parameter list, any other kind to
a window or with lengths that disagree, and an unknown kind are answered BAD-REQUEST; a frame without its tag is
discarded. Nothing changes. -/
def Obligations.MalformedRequestIsAnsweredBadRequest : Prop :=
  ∀ (s : State) (p : Port) (tag : Tag), Ready s p tag →
    (∀ k : ReqKind, Does (Instr.ofRequest k p ⟨tag, none⟩) s (answered p tag .badRequest [] s.chip)) ∧
    (∀ (k : DataKind) (h : Header), h.target = 0xFF#8 ∨ h.listLength ≠ 0#16 ∨ h.list ≠ [] →
      Does (Instr.ofRequest k.request p ⟨tag, some h⟩) s (answered p tag .badRequest [] s.chip)) ∧
    (∀ (k : ReqKind) (h : Header), (∀ d : DataKind, k ≠ d.request) →
      h.target ≠ 0xFF#8 ∨ h.list.length ≠ h.listLength.toNat ∨ h.list.length % 4 ≠ 0 →
      Does (Instr.ofRequest k p ⟨tag, some h⟩) s (answered p tag .badRequest [] s.chip)) ∧
    (∀ kind, Does (.unknownRequestKind p (some tag) kind) s (answered p tag .badRequest [] s.chip)) ∧
    (∀ kind, Does (.unknownRequestKind p none kind) s s.chip)

/-! ### Admission -/

/-- A READ, WRITE, DISCARD or FLUSH that passes every check is ADMITTED with its binding and durable flag, at the tail of
its queue; the grant decisions follow, and where none can grant it simply waits. -/
def Obligations.DataRequestIsAdmitted : Prop :=
  ∀ (s : State) (p : Port) (k : DataKind) (r : Request) (n : WindowNo) (w : Window) (h : Header),
    Ready s p r.tag → Names r n h → Reaches k s n w h → Unprotected k s p w h →
    Does (Instr.ofRequest k.request p r) s (arbitrate (admitted k p r.tag n w h s.chip)) ∧
    (NoGrant s.chip → Does (Instr.ofRequest k.request p r) s (admitted k p r.tag n w h s.chip))

/-- Steps 5 to 8: BAD-REQUEST for a window beyond 15 or a bad count, then MEDIA-FAULT, then NO-WINDOW, then MAP-BUSY; none
is logged and nothing changes. -/
def Obligations.DataRequestIsRefusedUnlogged : Prop :=
  ∀ (s : State) (p : Port) (k : DataKind) (r : Request) (h : Header), Ready s p r.tag → r.header = some h →
    h.target ≠ 0xFF#8 → h.listLength = 0#16 → h.list = [] →
    (16 ≤ h.target.toNat ∨ ¬ CountOk k h.count.toNat →
      Does (Instr.ofRequest k.request p r) s (answered p r.tag .badRequest [] s.chip)) ∧
    (∀ n : WindowNo, h.target.toNat = n.val → CountOk k h.count.toNat →
      (s.chip.cfg.bridge = .fault →
        Does (Instr.ofRequest k.request p r) s (answered p r.tag .mediaFault [] s.chip)) ∧
      (s.chip.cfg.bridge ≠ .fault → s.chip.map.active.map.get n = none →
        Does (Instr.ofRequest k.request p r) s (answered p r.tag .noWindow [] s.chip)) ∧
      (s.chip.cfg.bridge ≠ .fault → s.chip.map.active.map.get n ≠ none → Changing s n →
        Does (Instr.ofRequest k.request p r) s (answered p r.tag .mapBusy [] s.chip)))

/-- Steps 9 to 12: NO-RIGHTS, NOT-ALLOWED, OUT-OF-WINDOW, HELD, in that order, each with one entry in the refusal log; only
HELD names a media block. Nothing else changes. -/
def Obligations.ProtectionRefusalIsLogged : Prop :=
  ∀ (s : State) (p : Port) (k : DataKind) (r : Request) (n : WindowNo) (w : Window) (h : Header),
    Ready s p r.tag → Names r n h → Reaches k s n w h →
    (¬ RightsPermit (w.rights.get p) k →
      Does (Instr.ofRequest k.request p r) s
        (answered p r.tag .noRights [] (logged p r.tag k.request (some n) .noRights none s.chip))) ∧
    (RightsPermit (w.rights.get p) k → k = .discard → w.discard = .refused →
      Does (Instr.ofRequest k.request p r) s
        (answered p r.tag .notAllowed [] (logged p r.tag k.request (some n) .notAllowed none s.chip))) ∧
    (RightsPermit (w.rights.get p) k → ¬ (k = .discard ∧ w.discard = .refused) → k ≠ .flush →
      (w.length.toNat < h.offset.toNat + h.count.toNat →
        Does (Instr.ofRequest k.request p r) s
          (answered p r.tag .outOfWindow [] (logged p r.tag k.request (some n) .outOfWindow none s.chip))) ∧
      (h.offset.toNat + h.count.toNat ≤ w.length.toNat →
        (∃ x ∈ s.chip.hold.table, Meets k (w.base.toNat + h.offset.toNat) h.count.toNat x) →
        Does (Instr.ofRequest k.request p r) s
          (answered p r.tag .held []
            (logged p r.tag k.request (some n) .held (some (w.base.toNat + h.offset.toNat)) s.chip))))

/-! ### Grants and slots -/

/-- A head is eligible exactly when the conditions of R90 hold, and page-short when only Pages fails; the ORDERED condition
reads the port's in-flight mark (R5, R90, R91). A grant decision gives the lowest-numbered slot that is FREE and below the
slot count, and to whom: nobody outside SERVICE; in SERVICE a waiting persist job first, and nobody while it waits for a slot; then the first reserving port, or
nobody; then the ports in turn, from the pointer on, the first whose head is eligible and whose credit is above 0, after a
reload of the credits from the weights when no port with an eligible head has credit left (R92 to R96). The grant to a
persist job issues its write (R94, R165). The decisions of an event follow one another until one grants nothing (R93). -/
def Obligations.GrantTakesTheLowestFreeSlot : Prop :=
  ∀ c : Chip,
    (∀ i : SlotNo, c.freeSlot = some i ↔
      i.val < c.mlink.slotCount ∧ c.slot i = none ∧ ∀ j : SlotNo, j.val < i.val → c.slot j ≠ none) ∧
    (∀ p tag d, c.headOf p = some (tag, d) ↔
      (c.arb.queues.get p).head? = some tag ∧ c.dataRecord p tag = some d) ∧
    (∀ p, c.eligible p = true ↔ ∃ tag d, c.headOf p = some (tag, d) ∧ Grantable c p d ∧
      pagesNeeded d ≤ c.pool.free.length) ∧
    (∀ p, c.pageShort p = true ↔ ∃ tag d, c.headOf p = some (tag, d) ∧ Grantable c p d ∧
      c.pool.free.length < pagesNeeded d) ∧
    (c.cfg.bridge ≠ .service → grantDecision c = none) ∧
    (∀ j i, WriteIssued j i c (grantPersist j i c)) ∧ Decides c (arbitrate c) ∧
    (c.cfg.bridge = .service →
      (∀ j, c.cfg.writer = .awaitingSlot j →
        (∀ i, c.freeSlot = some i → grantDecision c = some (grantPersist j i c)) ∧
        (c.freeSlot = none → grantDecision c = none)) ∧
      ((∀ j, c.cfg.writer ≠ .awaitingSlot j) → ∀ p rest, c.arb.reservation = p :: rest →
        (c.eligible p = false → grantDecision c = none) ∧
        (c.eligible p = true → ∃ tag d i, c.headOf p = some (tag, d) ∧ c.freeSlot = some i ∧
          grantDecision c = some (grantHead true p tag d i c))) ∧
      ((∀ j, c.cfg.writer ≠ .awaitingSlot j) → c.arb.reservation = [] →
        ((∀ p, c.eligible p = false) → grantDecision c = none) ∧
        (∀ p, FirstInTurn c c.arb.credit p → ∃ tag d i, c.headOf p = some (tag, d) ∧ c.freeSlot = some i ∧
          grantDecision c = some (grantHead false p tag d i c)) ∧
        ((∀ p, c.eligible p = true → c.arb.credit.get p = 0) →
          ∀ weights : PerPort Nat, (∀ p, weights.get p = (c.map.active.ports.get p).weight) →
          ∀ p, FirstInTurn c weights p → ∃ tag d i, c.headOf p = some (tag, d) ∧ c.freeSlot = some i ∧
            grantDecision c = some (grantHead false p tag d i { c with arb := { c.arb with credit := weights } }))))

/-- What a grant takes and counts, for a head at the front of its queue: the entry, the slot with its record (R117, R120), the
lowest pages, the counts, the ordered mark; a WRITE receives XFER-READY and waits for its data, any other kind is issued with COMMAND, first block
and count 0 for a FLUSH (R64, R99, R120). A frame to a link that is DOWN is not sent. Credit and pointer change, unless the grant was
made under reservation (R96); every other port whose head was page-short comes nearer to reservation, and the port granted
leaves it (R95, R98). -/
def Obligations.GrantTakesEntrySlotAndPages : Prop :=
  ∀ (reserved : Bool) (p : Port) (tag : Tag) (d : DataRec) (i : SlotNo) (c : Chip),
    c.dataRecord p tag = some d →
    let need := pagesNeeded d
    let g := grantHead reserved p tag d i c
    g.arb.queues = c.arb.queues.modify p List.tail ∧
      g.pool.free = c.pool.free.drop need ∧
      (g.ports.get p).inFlight = (c.ports.get p).inFlight + 1 ∧
      g.map.usage = c.map.usage.modify d.window (fun u => ⟨u.queued - 1, u.inFlight + 1⟩) ∧
      (d.ordered = true → g.arb.ordered.get p = true) ∧
      (∃ r, g.slot i = some r ∧ r.holder = .port p ∧ r.owner = some tag ∧ r.op = d.kind ∧ r.window = some d.window ∧
        r.ordered = d.ordered ∧ r.range = d.range ∧ r.durable = d.durable ∧ r.received = [] ∧ r.pages = c.pool.free.take need ∧
        r.phase = (if d.kind = .write then .taken else .issued c.map.active.params.response)) ∧
      g.dataRecord p tag = some { d with
        stage := if d.kind = .write then Stage.granted i [] c.map.active.params.transfer else Stage.issued i } ∧
      (∀ j, j ≠ i → g.slot j = c.slot j) ∧
      (d.kind = .write → g.sent = c.sent ++
        if (c.ports.get p).link = .up then [.toPort p (.xferReady tag d.count)] else []) ∧
      (d.kind ≠ .write → g.sent = c.sent ++
        if c.mlink.link = .up then
          [.toMedia (.command i d.kind d.durable (d.range.getD ⟨0, 0⟩).first (d.range.getD ⟨0, 0⟩).count)]
        else []) ∧
      (reserved = true → g.arb.credit = c.arb.credit ∧ g.arb.pointer = c.arb.pointer) ∧
      (reserved = false → g.arb.credit = c.arb.credit.set p (c.arb.credit.get p - 1) ∧
        g.arb.pointer = if c.arb.credit.get p ≤ 1 then nextPort p else p) ∧
      g.arb.starvation.get p = 0 ∧
      (∀ q, q ≠ p → g.arb.starvation.get q =
        if c.pageShort q = true then min 4 (c.arb.starvation.get q + 1) else c.arb.starvation.get q) ∧
      g.arb.reservation = (c.arb.reservation.filter fun q => q ≠ p) ++ [Port.p0, .p1, .p2].filter fun q =>
        q ≠ p ∧ c.pageShort q = true ∧ 3 ≤ c.arb.starvation.get q ∧ q ∉ c.arb.reservation

/-- A port's slot returning to FREE gives back its counts, its mark and its pages, and leaves every wait set. -/
def Obligations.FreedSlotGivesBackWhatItHeld : Prop :=
  ∀ (i : SlotNo) (c : Chip) (p : Port) (r : SlotRec) (w : WindowNo), c.slot i = some r → r.holder = .port p →
    r.window = some w →
    let f := freeSlot i c
    f.slot i = none ∧ (∀ j, j ≠ i → f.slot j = c.slot j) ∧
      (f.ports.get p).inFlight = (c.ports.get p).inFlight - 1 ∧
      f.map.usage = c.map.usage.modify w (fun u => { u with inFlight := u.inFlight - 1 }) ∧
      f.arb.ordered.get p = (if r.ordered then false else c.arb.ordered.get p) ∧
      f.pool.free.length = c.pool.free.length + r.pages.length ∧
      (∀ x ∈ f.hold.table, ∀ waits, x.state = .pending waits → i ∉ waits) ∧ f.sent = c.sent

/-! ### DATA, ABORT, transfer timeout, delivery -/

/-- A block of a GRANTED write that is not the last goes into its page and is marked received; nothing else changes. The
last missing block makes the write ISSUED with its response timer, and COMMAND goes out, then the write's DATA frames in
ascending index, each with the contents of its page (R65, R105, R120). -/
def Obligations.WriteBlockIsTaken : Prop :=
  ∀ (s : State) (p : Port) (tag : Tag) (index : Half) (b : Block) (d : DataRec) (n : SlotNo) (got : List Nat)
    (timer : Nat) (r : SlotRec) (page : PageNo),
    Speaks s p → s.chip.dataRecord p tag = some d → d.kind = .write → d.stage = .granted n got timer →
    s.chip.slot n = some r → r.pages[index.toNat]? = some page → index.toNat < d.count.toNat →
    index.toNat ∉ got →
    let content := s.chip.pool.content.set page b
    (got.length + 1 < d.count.toNat →
      Does (.dataFrame p (.whole tag index b)) s { s.chip with
        pool := { s.chip.pool with content := content }
        ports := s.chip.ports.modify p fun pc => { pc with
          tags := pc.tags.set tag (some (.data { d with stage := .granted n (insertIndex index.toNat got) timer })) } }) ∧
    (∀ range, got.length + 1 = d.count.toNat → r.op = .write → r.range = some range → s.chip.mlink.link = .up →
      Does (.dataFrame p (.whole tag index b)) s { s.chip with
        pool := { s.chip.pool with content := content }
        ports := s.chip.ports.modify p fun pc => { pc with
          tags := pc.tags.set tag (some (.data { d with stage := .issued n })) }
        mlink := { s.chip.mlink with
          slots := s.chip.mlink.slots.set n (some { r with phase := .issued s.chip.map.active.params.response }) }
        sent := s.chip.sent ++ [.toMedia (.command n .write r.durable range.first range.count)] ++
          pageFrames (fun k x => .toMedia (.data n k x)) r.pages content })

/-- Discarded DATA frames: without a tag, of a wrong length, for a tag that is free or holds no GRANTED write, beyond the
count, or received already. -/
def Obligations.OtherDataFramesAreDiscarded : Prop :=
  ∀ (s : State) (p : Port), Speaks s p →
    Does (.dataFrame p .noTag) s s.chip ∧ (∀ tag, Does (.dataFrame p (.wrongLength tag)) s s.chip) ∧
    (∀ tag index b, s.chip.dataRecord p tag = none → Does (.dataFrame p (.whole tag index b)) s s.chip) ∧
    (∀ tag index b d, s.chip.dataRecord p tag = some d →
      d.kind ≠ .write ∨ (∀ n got timer, d.stage ≠ .granted n got timer) →
      Does (.dataFrame p (.whole tag index b)) s s.chip) ∧
    (∀ tag (index : Half) b d n got timer, s.chip.dataRecord p tag = some d → d.stage = .granted n got timer →
      d.count.toNat ≤ index.toNat ∨ index.toNat ∈ got → Does (.dataFrame p (.whole tag index b)) s s.chip)

/-- ABORT of a target that is not queued and not waiting for data: NOT-FOUND, TOO-LATE, or the slot goes into abandon and
the ABORT waits. A list that is not one tag is answered BAD-REQUEST. -/
def Obligations.AbortActsOnTheTargetsStage : Prop :=
  ∀ (s : State) (p : Port) (r : Request) (ws : List Word), Ready s p r.tag → Carries r ws →
    (ws.length ≠ 1 → Does (.abort p r) s (answered p r.tag .badRequest [] s.chip)) ∧
    (∀ x, ws = [x] → 32 ≤ x.toNat → Does (.abort p r) s (answered p r.tag .badRequest [] s.chip)) ∧
    (∀ (x : Word) (target : Tag), ws = [x] → x.toNat = target.val →
      (s.chip.dataRecord p target = none → Does (.abort p r) s (answered p r.tag .notFound [] s.chip)) ∧
      (∀ d n a, s.chip.dataRecord p target = some d → d.stage = .abandoning n a →
        Does (.abort p r) s (answered p r.tag .notFound [] s.chip)) ∧
      (∀ d pages, s.chip.dataRecord p target = some d → d.stage = .delivering pages →
        Does (.abort p r) s (answered p r.tag .tooLate [] s.chip)) ∧
      (∀ d n rec, s.chip.dataRecord p target = some d → d.stage = .issued n → s.chip.slot n = some rec →
        s.chip.mlink.link = .up →
        Does (.abort p r) s (toldMedia (.abandon n) { s.chip with
          mlink := { s.chip.mlink with slots := s.chip.mlink.slots.set n (some { rec with phase := .abandoning .abort 100 }) }
          ports := s.chip.ports.modify p fun pc => { pc with
            tags := (pc.tags.set r.tag (some (.handed .abort ws none))).set target
              (some (.data { d with stage := .abandoning n r.tag })) } })))

/-- ABORT of a queued request or of a write that waits for data: the target is answered ABORTED, then the ABORT DONE, and
both tags are free. A queued entry has left its queue: where no grant can be made and nothing else follows, exactly that
has happened, with the counts of R89. A waiting write gives back its slot, its pages and its counts (R106, R107): where
nothing else waits on the slot, exactly that has happened. In any case what the fallen counts bring about follows (R33, R34,
R150). -/
def Obligations.AbortTakesBackQueuedAndWaitingRequests : Prop :=
  ∀ (s : State) (p : Port) (r : Request) (x : Word) (target : Tag) (d : DataRec), Ready s p r.tag → Carries r [x] →
    x.toNat = target.val → s.chip.dataRecord p target = some d →
    d.stage = .admitted ∨ (∃ n got timer, d.stage = .granted n got timer) →
    ∃ t, exec (.abort p r) s = .next t ∧ t.chip.record p target = none ∧ t.chip.record p r.tag = none ∧
      AnsweredBoth s t p target .aborted p r.tag .done ∧ (t.chip.ports.get p).session = .opened ∧
      (d.stage = .admitted → (s.chip.arb.queues.get p).Nodup → target ∉ t.chip.arb.queues.get p) ∧
      (d.stage = .admitted → CountsFell s t (unqueued p target d.window s.chip)) ∧
      (d.stage = .admitted → NoGrant s.chip → Still s.chip →
        t.rstn = s.rstn ∧ t.pending = s.pending ∧ t.chip = answered p r.tag .done []
          (answered p target .aborted [] (withRecord p target none (unqueued p target d.window s.chip)))) ∧
      ∀ n got timer rec w, d.stage = .granted n got timer → s.chip.slot n = some rec →
        rec.holder = .port p → rec.window = some w →
        CountsFell s t (released n p w rec s.chip) ∧
        (Calm s.chip n → t.rstn = s.rstn ∧ t.pending = s.pending ∧ t.chip = answered p r.tag .done []
          (answered p target .aborted [] (withRecord p target none (released n p w rec s.chip))))

/-- The transfer timer of a GRANTED write expires: DATA-TIMEOUT and a free tag; where nothing else waits on the slot, its
slot, pages and counts are back and nothing more has changed; in any case what the fallen counts bring about follows. It acts whatever is left of the timer, and for any other
record nothing happens (the model's choice, log entry 6). -/
def Obligations.TransferTimeoutEndsAWaitingWrite : Prop :=
  ∀ (s : State) (p : Port) (tag : Tag),
    (∀ d n got timer, Speaks s p → s.chip.dataRecord p tag = some d → d.stage = .granted n got timer →
      (∃ t, exec (.transferTimeout p tag) s = .next t ∧ t.chip.record p tag = none ∧ Answered s t p tag .dataTimeout [] ∧
        ∀ r w, s.chip.slot n = some r → r.holder = .port p → r.window = some w →
          CountsFell s t (released n p w r s.chip)) ∧
      (∀ r w, Calm s.chip n → s.chip.slot n = some r → r.holder = .port p → r.window = some w →
        Does (.transferTimeout p tag) s
          (answered p tag .dataTimeout [] (withRecord p tag none (released n p w r s.chip))))) ∧
    (s.rstn = .high → (∀ d n got timer, s.chip.dataRecord p tag = some d → d.stage ≠ .granted n got timer) →
      Does (.transferTimeout p tag) s s.chip)

/-- The last DATA frame of a DELIVERING read has been sent: the read's DATA frames, one a block in ascending index, each with
the contents of its page, then the pages return, RESPONSE OK goes out, the tag is free, and the grant decisions follow
(R66, R103). That all its DATA frames are recorded in this step, and that for any other record nothing happens, are the
model's choices (log entries 5 and 6). -/
def Obligations.LastDataFrameEndsTheDelivery : Prop :=
  ∀ (s : State) (p : Port) (tag : Tag),
    (∀ d pages, Speaks s p → s.chip.dataRecord p tag = some d → d.stage = .delivering pages →
      Does (.lastDataFrameSent p tag) s (arbitrate { s.chip with
        pool := { s.chip.pool with free := pages.foldr insertPage s.chip.pool.free }
        ports := s.chip.ports.modify p fun pc => { pc with tags := pc.tags.set tag none }
        sent := s.chip.sent ++ pageFrames (fun k x => .toPort p (.data tag k x)) pages s.chip.pool.content ++
          [.toPort p (.response (some tag) .ok (s.chip.ports.get p).flags [])] })) ∧
    (s.rstn = .high → (∀ d pages, s.chip.dataRecord p tag = some d → d.stage ≠ .delivering pages) →
      Does (.lastDataFrameSent p tag) s s.chip)

/-! ### Management requests -/

/-- MAP-READ, HOLD-LIST, STATUS-READ and, from ADMIN, LOG-READ answer OK with the state of one moment; the first three
clear the requester's own notice, MAP-READ delivers the epoch, and nothing else changes. -/
def Obligations.ReadRequestsAnswerTheStateOfOneMoment : Prop :=
  ∀ (s : State) (p : Port) (r : Request), Ready s p r.tag → Carries r [] →
    Does (.mapRead p r) s
      (answered p r.tag .ok (s.chip.map.epoch :: mapItems s.chip.map.active.map)
        { s.chip with ports := s.chip.ports.modify p fun pc =>
          { pc with delivered := s.chip.map.epoch, flags := { pc.flags with map := false } } }) ∧
    (∀ seen : Hold → Bool, (∀ h, seen h = true ↔ Sees s p h.range) →
      Does (.holdList p r) s
        (answered p r.tag .ok
          (item (s.chip.hold.table.filter seen).length :: (s.chip.hold.table.filter seen).flatMap holdItems)
          { s.chip with ports := s.chip.ports.modify p fun pc =>
            { pc with flags := { pc.flags with holds := false } } })) ∧
    Does (.statusRead p r) s
      (answered p r.tag .ok
        [item s.chip.cfg.bridge.code, s.chip.mlink.capacity, item s.chip.mlink.slotCount,
         item (s.chip.mlink.slots.rows.filter Option.isSome).length, item s.chip.pool.free.length,
         optItem (s.chip.cfg.current.map Copy.code), s.chip.cfg.generation, item s.chip.cfg.markA.code,
         item s.chip.cfg.markB.code, s.chip.map.epoch, s.chip.ctl.logTime, item s.chip.mlink.lateCompletions,
         item s.chip.mlink.recoveries, item s.chip.mlink.checkFails, item s.chip.ports.p0.checkFails,
         item s.chip.ports.p1.checkFails, item s.chip.ports.p2.checkFails, item s.chip.ctl.persistFailures]
        { s.chip with ports := s.chip.ports.modify p fun pc => { pc with flags := { pc.flags with media := false } } }) ∧
    (privilegeOf s p = .admin →
      Does (.logRead p r) s
        (answered p r.tag .ok
          (item s.chip.ctl.log.length :: item s.chip.ctl.overflow :: s.chip.ctl.log.flatMap logItems) s.chip))

/-- LOG-CLEAR from ADMIN empties the log and answers what was there; the log time and the persist-failure count stay, the
next refusal starts the new log, and a refused LOG-CLEAR leaves the log as it was but for its own entry. -/
def Obligations.LogClearEmptiesTheLog : Prop :=
  ∀ (s : State) (p : Port) (r : Request) (ws : List Word), Ready s p r.tag → Carries r ws →
    (privilegeOf s p = .admin → ws = [] →
      Does (.logClear p r) s
        (answered p r.tag .ok [item s.chip.ctl.log.length, item s.chip.ctl.overflow]
          { s.chip with ctl := { s.chip.ctl with log := [], overflow := 0 } }) ∧
      (LogInRange s → (item s.chip.ctl.log.length).toNat = s.chip.ctl.log.length ∧ s.chip.ctl.log.length ≤ 16 ∧
        (item s.chip.ctl.overflow).toNat = s.chip.ctl.overflow ∧ s.chip.ctl.overflow ≤ 255) ∧
      (∀ q t k w o block,
        (logRefusal q t k w o block { s.chip with ctl := { s.chip.ctl with log := [], overflow := 0 } }).ctl =
          { s.chip.ctl with log := [⟨q, t, k, w, o, block, s.chip.ctl.logTime⟩], overflow := 0 })) ∧
    (privilegeOf s p = .user →
      Does (.logClear p r) s
        (answered p r.tag .notPrivileged [] (logged p r.tag .logClear none .notPrivileged none s.chip)))

/-- A parameter list with any item is a bad form of the requests that take none. -/
def Obligations.RequestsWithoutParametersRefuseAList : Prop :=
  ∀ (s : State) (p : Port) (r : Request) (ws : List Word), Ready s p r.tag → Carries r ws → ws ≠ [] →
    (∀ k ∈ [ReqKind.mapRead, .holdList, .statusRead],
      Does (Instr.ofRequest k p r) s (answered p r.tag .badRequest [] s.chip)) ∧
    (privilegeOf s p = .admin → ∀ k ∈ [ReqKind.logRead, .logClear, .resetBridge],
      Does (Instr.ofRequest k p r) s (answered p r.tag .badRequest [] s.chip))

/-- An ADMIN kind from a USER port is answered NOT-PRIVILEGED whatever its list, with one log entry, which names the window
of a STAGE-WINDOW or STAGE-DROP when its first item is 0 to 15 (of lists too short or too long: log entry 23). -/
def Obligations.UserIsRefusedTheAdminKinds : Prop :=
  ∀ (s : State) (p : Port) (r : Request) (ws : List Word) (k : ReqKind) (w : Option WindowNo), Ready s p r.tag →
    Carries r ws → privilegeOf s p = .user → k ∈ adminKinds →
    (∀ n : WindowNo, w = some n ↔
      (k = .stageWindow ∨ k = .stageDrop) ∧ ∃ x rest, ws = x :: rest ∧ x.toNat = n.val) →
    Does (Instr.ofRequest k p r) s
      (answered p r.tag .notPrivileged [] (logged p r.tag k w .notPrivileged none s.chip))

/-- RESET-BRIDGE is answered OK, and its sender's session ends with that answer as its last (R179, R198). With no write
under way every session ends and START begins, the log kept. With a write under way the mark is set and the writer goes on;
the end of that write, of the abandon of its slot, or a link recovery then begins START (PersistWriteSucceedsOrFails,
ResponseTimerAbandonsTheSlot, LinkRecoveryFreesEverySlot). No port whose own
RESET-BRIDGE does not wait in the queue stays OPEN or receives an answer (R57). One that joins a reset under way is answered
OK or, when the reset reaches its port first, not at all (R180; free values of log entry 17). -/
def Obligations.ResetBridgeEndsSessionsAndBeginsStart : Prop :=
  ∀ (s : State) (p : Port) (r : Request), Ready s p r.tag → privilegeOf s p = .admin → Carries r [] →
    ∃ t after, exec (.resetBridge p r) s = .next t ∧
      (t.chip.sent = s.chip.sent ++ [.toPort p (.response (some r.tag) .ok (s.chip.ports.get p).flags [])] ++ after ∨
        (s.chip.cfg.resetMark = true ∧ t.chip.sent = s.chip.sent ++ after)) ∧
      (∀ q tag o fs d, q = p ∨ (∀ r', .resetBridge q r' ∉ s.pending) →
        .toPort q (.response tag o fs d) ∉ after ∧ (t.chip.ports.get q).session ≠ .opened) ∧
      (∀ q, (t.chip.ports.get q).session = .opened → (s.chip.ports.get q).session = .opened) ∧
      t.chip.ctl = s.chip.ctl ∧
      (s.chip.cfg.writer = .idle ∨ (∃ j, s.chip.cfg.writer = .awaitingSlot j) →
        StartBegun s t ∧ (s.chip.cfg.resetMark = false → t.chip.arb.reservation = [])) ∧
      ((∃ j target g, s.chip.cfg.writer = .writing j target g) ∨ s.chip.cfg.writer = .awaitingFree →
        t.chip.cfg.bridge = s.chip.cfg.bridge ∧ t.chip.cfg.resetMark = true ∧
        t.chip.cfg.writer = s.chip.cfg.writer)

/-! ### Holds -/

/-- A refused HOLD-PLACE creates no record: the form, then the five checks in their order; only NOT-PRIVILEGED is
logged. -/
def Obligations.HoldPlaceIsRefusedInOrder : Prop :=
  ∀ (s : State) (p : Port) (r : Request) (ws : List Word), Ready s p r.tag → Carries r ws →
    ((∀ q, ¬ PlaceList ws q) → Does (.holdPlace p r) s (answered p r.tag .badRequest [] s.chip)) ∧
    (∀ q, PlaceList ws q →
      (¬ MayPlace s p q → Does (.holdPlace p r) s
        (answered p r.tag .notPrivileged [] (logged p r.tag .holdPlace (some q.window) .notPrivileged none s.chip))) ∧
      (MayPlace s p q → s.chip.map.active.map.get q.window = none →
        Does (.holdPlace p r) s (answered p r.tag .noWindow [] s.chip)) ∧
      (∀ w, MayPlace s p q → s.chip.map.active.map.get q.window = some w →
        (Changing s q.window → Does (.holdPlace p r) s (answered p r.tag .mapBusy [] s.chip)) ∧
        (¬ Changing s q.window →
          (w.length.toNat < q.offset.toNat + q.length.toNat →
            Does (.holdPlace p r) s (answered p r.tag .outOfWindow [] s.chip)) ∧
          (q.offset.toNat + q.length.toNat ≤ w.length.toNat →
            (q.cls = .fixed → q.expiry ≠ none → Does (.holdPlace p r) s (answered p r.tag .badRequest [] s.chip)) ∧
            (q.cls ≠ .fixed ∨ q.expiry = none →
              (HoldsFull s q.cls → Does (.holdPlace p r) s (answered p r.tag .tableFull [] s.chip)) ∧
              (¬ HoldsFull s q.cls → s.chip.cfg.bridge = .fault →
                Does (.holdPlace p r) s (answered p r.tag .mediaFault [] s.chip)) ∧
              (¬ HoldsFull s q.cls → s.chip.cfg.bridge = .recover → q.cls = .fixed →
                Does (.holdPlace p r) s (answered p r.tag .notReady [] s.chip)))))))

/-- A HOLD-PLACE that passes creates one record over the media range of its window, with the first id free from the
counter on; the counter goes to the id after it (R40). Queued requests that it blocks are removed and answered HELD. It
waits for the requests in flight that it blocks; with none, a SESSION or POWER hold is ACTIVE at once, its timer running,
HOLDS is set for every session that may see it, with a NOTICE to one that holds no tag (R33, R41, R69), and the placement
is answered OK. A FIXED hold that waits for nothing is PERSISTING, its job behind the earlier ones, and an IDLE writer takes
the first of them (R34, R163, R164); without a generation left for an IDLE writer the job fails at once, the record is gone
and the placement answered PERSIST-FAILED (R164, R167). -/
def Obligations.HoldPlaceCreatesAHold : Prop :=
  ∀ (s : State) (p : Port) (r : Request) (ws : List Word) (q : PlaceParams) (w : Window), Ready s p r.tag →
    Carries r ws → PlaceList ws q → MayPlace s p q → s.chip.map.active.map.get q.window = some w →
    ¬ Changing s q.window → q.offset.toNat + q.length.toNat ≤ w.length.toNat →
    q.cls ≠ .fixed ∨ q.expiry = none → ¬ HoldsFull s q.cls → s.chip.cfg.bridge ≠ .fault →
    s.chip.cfg.bridge ≠ .recover ∨ q.cls ≠ .fixed → HoldTableInRange s → WriterServed s →
    let first := w.base.toNat + q.offset.toNat
    let waits := ∃ i, Waits s q.scope first q.length.toNat i
    (q.cls ≠ .fixed ∨ waits ∨ ¬ Exhausted s →
    ∃ t h, exec (.holdPlace p r) s = .next t ∧ h ∈ t.chip.hold.table ∧ IdGiven s t h.id ∧
      h.cls = q.cls ∧ h.scope = q.scope ∧ h.range = ⟨first, q.length.toNat⟩ ∧ h.owner = p ∧ h.expiry = q.expiry ∧
      ((Exhausted s → Still s.chip) →
        t.chip.hold.table.length = s.chip.hold.table.length + 1 ∧ t.chip.ctl = s.chip.ctl) ∧
      (∀ x ∈ s.chip.hold.table, x.state ≠ .pending [] → x ∈ t.chip.hold.table) ∧
      (∀ o u, QueuedConflict s q.scope first q.length.toNat o u →
        u ∉ t.chip.arb.queues.get o ∧ (Speaks s o → t.chip.record o u = none ∧ Answered s t o u .held [])) ∧
      WriterServed t ∧
      (waits → h.answerTo = some r.tag ∧
        ∃ waits, h.state = .pending waits ∧ ∀ i, i ∈ waits ↔ Waits s q.scope first q.length.toNat i) ∧
      (¬ waits →
        (q.cls = .fixed → h.state = .persisting ∧ h.answerTo = some r.tag ∧
          ((∀ x ∈ s.chip.hold.table, x.state ≠ .pending []) → ∃ last, (last = [] ∨ last = [.commit]) ∧
            jobsOf t.chip.cfg = jobsOf s.chip.cfg ++ .hold h.id :: last)) ∧
        (q.cls ≠ .fixed → h.state = .active (q.expiry.map (· * 1000)) ∧ h.answerTo = none ∧
          HoldsTold s t h.range (some p) ∧
          Answered s t p r.tag .ok
            [item h.id, item q.cls.code, item q.scope.code, item first, item q.length.toNat]))) ∧
    (q.cls = .fixed → ¬ waits → Exhausted s →
      ∃ t id, exec (.holdPlace p r) s = .next t ∧ IdGiven s t id ∧ (∀ x ∈ t.chip.hold.table, x.id ≠ id) ∧
        t.chip.record p r.tag = none ∧ Answered s t p r.tag .persistFailed [item id] ∧
        (Still s.chip → t.chip.hold.table = s.chip.hold.table ∧ t.chip.cfg = s.chip.cfg ∧
          t.chip.ctl = { s.chip.ctl with persistFailures := min 255 (s.chip.ctl.persistFailures + 1) }))

/-- HOLD-RELEASE: the form, the three checks in their order (R35), and a release that passes (R36), which removes the record,
sets HOLDS for every session that may see it, with a NOTICE where one is due (R41, R69), and is answered OK. The placement of
a PENDING hold is answered RELEASED before the OK, unless its session has ended; no other answer is sent. -/
def Obligations.HoldReleaseChecksAndRemoves : Prop :=
  ∀ (s : State) (p : Port) (r : Request) (ws : List Word), Ready s p r.tag → Carries r ws → HoldTableInRange s →
    (ws = [0#32] ∨ ws.length ≠ 1 → Does (.holdRelease p r) s (answered p r.tag .badRequest [] s.chip)) ∧
    (∀ x, ws = [x] → x ≠ 0#32 →
      ((∀ h ∈ s.chip.hold.table, h.id ≠ x.toNat) →
        Does (.holdRelease p r) s (answered p r.tag .notFound [] s.chip)) ∧
      (∀ h ∈ s.chip.hold.table, h.id = x.toNat →
        (h.cls = .fixed → Does (.holdRelease p r) s (answered p r.tag .fixed [] s.chip)) ∧
        (h.cls ≠ .fixed → privilegeOf s p = .user → h.cls = .power ∨ h.owner ≠ p →
          Does (.holdRelease p r) s
            (answered p r.tag .notPrivileged [] (logged p r.tag .holdRelease none .notPrivileged none s.chip))) ∧
        (h.cls ≠ .fixed → privilegeOf s p = .admin ∨ (h.cls = .session ∧ h.owner = p) →
          ∃ t, exec (.holdRelease p r) s = .next t ∧ Answered s t p r.tag .ok [] ∧
            t.chip.hold = { s.chip.hold with table := s.chip.hold.table.filter fun y => y.id ≠ h.id } ∧
            t.chip.map = s.chip.map ∧ t.chip.arb = s.chip.arb ∧ t.chip.pool = s.chip.pool ∧
            t.chip.mlink = s.chip.mlink ∧ t.chip.cfg = s.chip.cfg ∧ t.chip.ctl = s.chip.ctl ∧
            HoldsTold s t h.range (some p) ∧
            ((∀ waits, h.state ≠ .pending waits) ∨ h.answerTo = none ∨
                (s.chip.ports.get h.owner).session ≠ .opened →
              ∃ frames, t.chip.sent = s.chip.sent ++ frames ∧ ∀ q tag o fs d,
                .toPort q (.response tag o fs d) ∈ frames → q = p ∧ tag = some r.tag ∧ o = .ok) ∧
            (∀ waits u, h.state = .pending waits → h.answerTo = some u → Speaks s h.owner →
              t.chip.record h.owner u = none ∧
              ∃ fs fs' before between after, t.chip.sent = s.chip.sent ++ before ++
                [.toPort h.owner (.response (some u) .released fs [item h.id])] ++ between ++
                [.toPort p (.response (some r.tag) .ok fs' [])] ++ after))))

/-- The timer of an ACTIVE hold runs out: the record is removed and HOLDS is set for every session that may see it; where the
flag was clear and the port holds no tag a NOTICE goes out with the flags as they stand then (R41, R69), and nothing else is
sent. For any other id nothing happens (the model's choice, log entry 6). -/
def Obligations.HoldExpiryRemovesTheHold : Prop :=
  ∀ (s : State) (id : Nat), s.rstn = .high → HoldTableInRange s →
    (∀ h ∈ s.chip.hold.table, ∀ ms, h.id = id → h.state = .active (some ms) →
      ∃ t frames, exec (.holdExpiry id) s = .next t ∧
        t.chip.hold = { s.chip.hold with table := s.chip.hold.table.filter fun y => y.id ≠ id } ∧
        t.chip.map = s.chip.map ∧ t.chip.arb = s.chip.arb ∧ t.chip.pool = s.chip.pool ∧
        t.chip.mlink = s.chip.mlink ∧ t.chip.cfg = s.chip.cfg ∧ t.chip.ctl = s.chip.ctl ∧
        (∀ q, (s.chip.ports.get q).session = .opened → Sees s q h.range →
          (t.chip.ports.get q).flags.holds = true) ∧
        (∀ q u, t.chip.record q u = s.chip.record q u) ∧
        t.chip.sent = s.chip.sent ++ frames ∧ ∀ x, x ∈ frames ↔ ∃ q, HoldNoticeDue s q h.range ∧
          x = .toPort q (.notice { (s.chip.ports.get q).flags with holds := true })) ∧
    ((∀ h ∈ s.chip.hold.table, h.id = id → ∀ ms, h.state ≠ .active (some ms)) → Does (.holdExpiry id) s s.chip)

/-! ### Staging and commit -/

/-- The refusals of the staging requests and of COMMIT from ADMIN: MEDIA-FAULT in FAULT, then the owner check. Nothing
changes. -/
def Obligations.StagingIsRefusedInOrder : Prop :=
  ∀ (s : State) (p : Port) (r : Request) (ws : List Word), Ready s p r.tag → Carries r ws →
    privilegeOf s p = .admin →
    (s.chip.cfg.bridge = .fault → ∀ k ∈ stagingKinds,
      Does (Instr.ofRequest k p r) s (answered p r.tag .mediaFault [] s.chip)) ∧
    (s.chip.cfg.bridge ≠ .fault →
      ((∃ q cfg, s.chip.map.staging = .opened q cfg ∧ q ≠ p) ∨ (∃ o cfg, s.chip.map.staging = .committing o cfg) →
        Does (.stageBegin p r) s (answered p r.tag .stagingBusy [] s.chip)) ∧
      (s.chip.map.staging = .empty ∨ (∃ q cfg, s.chip.map.staging = .opened q cfg ∧ q ≠ p) ∨
          (∃ o cfg, s.chip.map.staging = .committing o cfg ∧ o ≠ some p) →
        ∀ k ∈ ReqKind.stageRead :: editKinds,
          Does (Instr.ofRequest k p r) s (answered p r.tag .notOwner [] s.chip)) ∧
      ((∃ cfg, s.chip.map.staging = .committing (some p) cfg) →
        ∀ k ∈ editKinds, Does (Instr.ofRequest k p r) s (answered p r.tag .stagingBusy [] s.chip)))

/-- STAGE-BEGIN copies the active configuration, STAGE-READ lists the requester's own staging, STAGE-ABANDON empties it;
each refuses a list, and nothing but staging changes. -/
def Obligations.StagingBeginsReadsAndEnds : Prop :=
  ∀ (s : State) (p : Port) (r : Request) (ws : List Word), Ready s p r.tag → Carries r ws →
    privilegeOf s p = .admin → s.chip.cfg.bridge ≠ .fault →
    (s.chip.map.staging = .empty ∨ (∃ cfg, s.chip.map.staging = .opened p cfg) →
      (ws = [] → Does (.stageBegin p r) s
        (answered p r.tag .ok [] (staged (.opened p s.chip.map.active) s.chip))) ∧
      (ws ≠ [] → Does (.stageBegin p r) s (answered p r.tag .badRequest [] s.chip))) ∧
    (∀ cfg, s.chip.map.staging = .opened p cfg ∨ s.chip.map.staging = .committing (some p) cfg →
      (ws = [] → Does (.stageRead p r) s (answered p r.tag .ok (stagingItems cfg) s.chip)) ∧
      (ws ≠ [] → Does (.stageRead p r) s (answered p r.tag .badRequest [] s.chip))) ∧
    (∀ cfg, s.chip.map.staging = .opened p cfg →
      (ws = [] → Does (.stageAbandon p r) s (answered p r.tag .ok [] (staged .empty s.chip))) ∧
      (ws ≠ [] → Does (.stageAbandon p r) s (answered p r.tag .badRequest [] s.chip)))

/-- STAGE-WINDOW replaces a whole entry, STAGE-DROP makes one absent, STAGE-PORT replaces one port's entry; a list out of
its form is answered BAD-REQUEST, and nothing but staging changes. -/
def Obligations.StagingEditsChangeStagingAlone : Prop :=
  ∀ (s : State) (p : Port) (r : Request) (ws : List Word) (cfg : Configuration), Ready s p r.tag → Carries r ws →
    privilegeOf s p = .admin → s.chip.cfg.bridge ≠ .fault → s.chip.map.staging = .opened p cfg →
    (∀ n w, WindowForm w → ws = windowItems n w → Does (.stageWindow p r) s
      (answered p r.tag .ok [] (staged (.opened p { cfg with map := cfg.map.set n (some w) }) s.chip))) ∧
    ((∀ n w, WindowForm w → ws ≠ windowItems n w) →
      Does (.stageWindow p r) s (answered p r.tag .badRequest [] s.chip)) ∧
    (∀ n : WindowNo, ws = [item n.val] → Does (.stageDrop p r) s
      (answered p r.tag .ok [] (staged (.opened p { cfg with map := cfg.map.set n none }) s.chip))) ∧
    ((∀ n : WindowNo, ws ≠ [item n.val]) → Does (.stageDrop p r) s (answered p r.tag .badRequest [] s.chip)) ∧
    (∀ q v x, 1 ≤ x → x ≤ 8 → ws = [item (portCode q), item (Privilege.code v), item x] → Does (.stagePort p r) s
      (answered p r.tag .ok [] (staged (.opened p { cfg with ports := cfg.ports.set q ⟨v, x⟩ }) s.chip))) ∧
    ((∀ q v x, 1 ≤ x → x ≤ 8 → ws ≠ [item (portCode q), item (Privilege.code v), item x]) →
      Does (.stagePort p r) s (answered p r.tag .badRequest [] s.chip))

/-- STAGE-PARAMS replaces all three parameters or, when one is out of its range or step, none. -/
def Obligations.StageParamsReplacesAllThree : Prop :=
  ∀ (s : State) (p : Port) (r : Request) (ws : List Word) (cfg : Configuration), Ready s p r.tag → Carries r ws →
    privilegeOf s p = .admin → s.chip.cfg.bridge ≠ .fault → s.chip.map.staging = .opened p cfg →
    (∀ a b c, ws = [a, b, c] → ParamsForm ⟨a.toNat, b.toNat, c.toNat⟩ → Does (.stageParams p r) s
      (answered p r.tag .ok []
        (staged (.opened p { cfg with params := ⟨a.toNat, b.toNat, c.toNat⟩ }) s.chip))) ∧
    ((∀ a b c, ws = [a, b, c] → ¬ ParamsForm ⟨a.toNat, b.toNat, c.toNat⟩) →
      Does (.stageParams p r) s (answered p r.tag .badRequest [] s.chip))

/-- The check at COMMIT finds a failure exactly when the configuration is not valid, and the first one (R11, R148): OVERLAP
names the first pair of present windows that intersect, lower number first; without such a pair, BEYOND-MEDIA and
IN-CONFIG-AREA name the first window, in ascending number, that ends above CAP-2; without one, NO-ADMIN. -/
def Obligations.CommitCheckFindsTheFirstFault : Prop :=
  ∀ (cap : Nat) (c : Configuration),
    (commitCheck cap c = none ↔ ValidConfiguration cap c) ∧
    (commitCheck cap c = some .noAdmin ↔ ValidMap cap c.map ∧ ∀ p, (c.ports.get p).privilege ≠ .admin) ∧
    (∀ n m, commitCheck cap c = some (.overlap n m) ↔
      n.val < m.val ∧ ∃ w v, c.map.get n = some w ∧ c.map.get m = some v ∧ w.blocks.intersects v.blocks = true ∧
        ∀ n' m' w' v', n'.val < m'.val → c.map.get n' = some w' → c.map.get m' = some v' →
          w'.blocks.intersects v'.blocks = true → n.val < n'.val ∨ (n = n' ∧ m.val ≤ m'.val)) ∧
    (∀ n, commitCheck cap c = some (.beyondMedia n) ↔
      NoOverlap c.map ∧ PlacedBelow cap c.map n ∧ ∃ w, c.map.get n = some w ∧ cap < w.base.toNat + w.length.toNat) ∧
    (∀ n, commitCheck cap c = some (.inConfigArea n) ↔
      NoOverlap c.map ∧ PlacedBelow cap c.map n ∧
        ∃ w, c.map.get n = some w ∧ w.base.toNat + w.length.toNat ≤ cap ∧ cap - 2 < w.base.toNat + w.length.toNat)

/-- COMMIT from the owner of OPEN staging: BAD-REQUEST; INVALID-MAP with the failure; else DRAINING with the drain limit
and the windows that differ, when one of them is in use; else the drain ends at once, and the commit swaps (R153, R154) or,
with persist chosen, is PERSISTING, its job behind the earlier ones, and an IDLE writer takes the first of them (R152, R163,
R164). Without a generation left for an IDLE writer the job fails at once (R164, R167): nothing is installed, staging is its
owner's again, and the COMMIT is answered PERSIST-FAILED. -/
def Obligations.CommitIsRefusedDrainsOrSwaps : Prop :=
  ∀ (s : State) (p : Port) (r : Request) (ws : List Word) (cfg : Configuration), Ready s p r.tag → Carries r ws →
    privilegeOf s p = .admin → s.chip.cfg.bridge ≠ .fault → s.chip.map.staging = .opened p cfg →
    (ws ≠ [0#32] → ws ≠ [1#32] → Does (.commit p r) s (answered p r.tag .badRequest [] s.chip)) ∧
    (∀ persist : Bool, ws = [item persist.toNat] →
      (∀ failure, commitCheck s.chip.mlink.capacity.toNat cfg = some failure →
        Does (.commit p r) s (answered p r.tag .invalidMap failure.items s.chip)) ∧
      (ValidConfiguration s.chip.mlink.capacity.toNat cfg →
        ∃ t changes, exec (.commit p r) s = .next t ∧ WriterServed t ∧
          (∀ n, n ∈ changes ↔ s.chip.map.active.map.get n ≠ cfg.map.get n) ∧
          (¬ Undemanded s cfg.map →
            t.chip.map.active = s.chip.map.active ∧ t.chip.map.epoch = s.chip.map.epoch ∧
            t.chip.map.staging = .committing (some p) cfg ∧
            t.chip.map.commit = .draining ⟨some p, some r.tag, persist, changes⟩ s.chip.map.active.params.drain) ∧
          (Undemanded s cfg.map → persist = true → ¬ Exhausted s →
            t.chip.map.active = s.chip.map.active ∧ t.chip.map.epoch = s.chip.map.epoch ∧
            t.chip.map.staging = .committing (some p) cfg ∧
            t.chip.map.commit = .persisting ⟨some p, some r.tag, true, changes⟩ ∧
            ((∀ x ∈ s.chip.hold.table, x.state ≠ .pending []) →
              jobsOf t.chip.cfg = jobsOf s.chip.cfg ++ [.commit])) ∧
          (Undemanded s cfg.map → persist = true → Exhausted s →
            CommitFailed s t ⟨some p, some r.tag, true, changes⟩ cfg ∧ t.chip.cfg = { s.chip.cfg with queue := [] } ∧
            ((∀ x ∈ s.chip.hold.table, x.state ≠ .pending []) → t.chip.ctl.persistFailures =
              min 255 (s.chip.ctl.persistFailures + (s.chip.cfg.queue.length + 1)))) ∧
          (Undemanded s cfg.map → persist = false → Swapped s t ⟨some p, some r.tag, false, changes⟩ cfg)))

/-- The drain limit runs out while DRAINING: DRAIN-TIMEOUT, and staging goes back to its owner with its edits. In any
other state of the commit controller nothing happens (the model's choice, log entry 6). -/
def Obligations.DrainLimitReturnsStaging : Prop :=
  ∀ s : State, s.rstn = .high →
    (∀ p tag persist changes left owner cfg, Speaks s p →
      s.chip.map.commit = .draining ⟨some p, some tag, persist, changes⟩ left →
      s.chip.map.staging = .committing owner cfg →
      Does .drainLimitExpiry s (answered p tag .drainTimeout []
        (withRecord p tag none
          { s.chip with map := { s.chip.map with staging := .opened p cfg, commit := .idle } }))) ∧
    ((∀ info left, s.chip.map.commit ≠ .draining info left) → Does .drainLimitExpiry s s.chip)

/-! ### The M-link -/

/-- M-link reports that start no recovery, and LINK-READY: a bad frame is counted; an attempt that waits for the link sends
LINK-RESET at link-up and waits again after link-down; LINK-READY is answered with IDENTIFY by an attempt that awaits it
and is discarded otherwise. -/
def Obligations.MlinkReportsMoveTheAttempt : Prop :=
  ∀ s : State, s.rstn = .high →
    Does .mlinkCheckFail s
      { s.chip with mlink := { s.chip.mlink with checkFails := min 65535 (s.chip.mlink.checkFails + 1) } } ∧
    ((∀ left, s.chip.mlink.bringUp ≠ .attempt .awaitLinkUp left) →
      Does .mlinkLinkUp s { s.chip with mlink := { s.chip.mlink with link := .up } }) ∧
    (∀ left, s.chip.mlink.bringUp = .attempt .awaitLinkUp left →
      (s.chip.cfg.bridge ≠ .start → Does .mlinkLinkUp s (toldMedia .linkReset
        { s.chip with mlink := { s.chip.mlink with link := .up, bringUp := .attempt .awaitReady left } })) ∧
      (s.chip.cfg.bridge = .start → ∃ t after, exec .mlinkLinkUp s = .next t ∧ t.chip.mlink.link = .up ∧
        t.chip.mlink.bringUp = .attempt .awaitReady left ∧ (∀ i, t.chip.slot i = none) ∧
        t.chip.sent = s.chip.sent ++ [.toMedia .linkReset] ++ after)) ∧
    (∀ step left, s.chip.cfg.bridge = .recover ∨ s.chip.cfg.bridge = .start →
      s.chip.mlink.bringUp = .attempt step left →
      Does .mlinkLinkDown s
        { s.chip with mlink := { s.chip.mlink with link := .down, bringUp := .attempt .awaitLinkUp left } }) ∧
    (s.chip.cfg.bridge = .fault →
      Does .mlinkLinkDown s { s.chip with mlink := { s.chip.mlink with link := .down } }) ∧
    (∀ left, s.chip.mlink.bringUp = .attempt .awaitReady left → s.chip.mlink.link = .up →
      Does .linkReady s (toldMedia .identify
        { s.chip with mlink := { s.chip.mlink with bringUp := .attempt .awaitReply left } })) ∧
    ((∀ left, s.chip.mlink.bringUp ≠ .attempt .awaitReady left) → Does .linkReady s s.chip)

/-- An attempt ends: in success by an IDENTIFY-REPLY with a slot count of 1 to 16, which ends a recovery in SERVICE or goes
on with START; in failure by any other count or by its limit, and the next of three attempts begins, or FAULT is entered.
An IDENTIFY-REPLY outside its place is discarded (R131). That ATTEMPT_LIMIT_EXPIRY acts whatever is left of the limit, and
does nothing outside an attempt, is the model's choice (log entry 6). A later success of the same START is in
StartReadsTheCopiesAndLoads. -/
def Obligations.AttemptSucceedsOrFails : Prop :=
  ∀ s : State, s.rstn = .high →
    (∀ cap n, (∀ left, s.chip.mlink.bringUp ≠ .attempt .awaitReply left) → Does (.identifyReply cap n) s s.chip) ∧
    (s.chip.mlink.bringUp = .idle → Does .attemptLimitExpiry s s.chip) ∧
    (∀ i step left, s.chip.mlink.bringUp = .attempt step left →
      i = .attemptLimitExpiry ∨
        (step = .awaitReply ∧ ∃ cap n, i = .identifyReply cap n ∧ (n.toNat = 0 ∨ 16 < n.toNat)) →
      ∃ t, exec i s = .next t ∧
        (s.chip.mlink.attempts + 1 < 3 → t.chip.cfg.bridge = s.chip.cfg.bridge ∧
          t.chip.mlink.attempts = s.chip.mlink.attempts + 1 ∧
          t.chip.mlink.bringUp =
            .attempt (if s.chip.mlink.link = .up then .awaitReady else .awaitLinkUp) 200) ∧
        (3 ≤ s.chip.mlink.attempts + 1 → EntersFault s t)) ∧
    (∀ cap n left, s.chip.mlink.bringUp = .attempt .awaitReply left → 1 ≤ n.toNat → n.toNat ≤ 16 →
      ∃ t, exec (.identifyReply cap n) s = .next t ∧
        (s.chip.cfg.bridge = .recover → cap = s.chip.mlink.capacity →
          t.chip.cfg.bridge = .service ∧ t.chip.mlink.slotCount = n.toNat ∧ t.chip.mlink.bringUp = .idle ∧
          t.chip.mlink.attempts = 0 ∧ t.chip.mlink.recoveries = min 255 (s.chip.mlink.recoveries + 1) ∧
          WriterServed t ∧ ∃ c, t.chip = arbitrate c) ∧
        (s.chip.cfg.bridge = .recover → cap ≠ s.chip.mlink.capacity → EntersFault s t) ∧
        (s.chip.cfg.bridge = .start → s.chip.cfg.step = some .bringUp → cap.toNat < 4096 → EntersFault s t) ∧
        (s.chip.cfg.bridge = .start → s.chip.cfg.step = some .bringUp → 4096 ≤ cap.toNat →
          s.chip.mlink.link = .up →
          t.chip.cfg = { s.chip.cfg with step := some .readA } ∧ t.chip.mlink.capacity = cap ∧
          t.chip.mlink.slotCount = n.toNat ∧ t.chip.mlink.bringUp = .idle ∧
          (∃ rec, t.chip.slot 0 = some rec ∧ rec.holder = .configuration ∧ rec.op = .read ∧
            rec.range = some ⟨cap.toNat - 2, 1⟩ ∧ rec.phase = .issued 500) ∧
          t.chip.sent = s.chip.sent ++ [.toMedia (.command 0 .read false (cap.toNat - 2) 1)]))

/-- START reads both copies, selects one and loads it (R161, R174 to R177). A COMPLETE of the read of a copy marks it VALID
when it ended OK with its block received and its record is valid, else INVALID, and START goes on: the read of copy B, or
the selection and the load. At the read's response timer the slot abandons and the copy is INVALID; START goes on when the
slot is FREE. Link-down or the abandon timer runs a new bring-up, with the copy INVALID if its read had not ended; its
success with the same capacity goes on, one with another capacity ends in FAULT. That the start-up step stays READ-A or
READ-B while that bring-up runs is deduced by the model (log entry 12). -/
def Obligations.StartReadsTheCopiesAndLoads : Prop :=
  ∀ (s : State) (i : SlotNo) (r : SlotRec) (x : Copy), QuietStart s →
    s.chip.cfg.step = some (match x with | .a => .readA | .b => .readB) →
    (s.chip.mlink.bringUp = .idle → s.chip.slot i = some r → r.holder = .configuration → r.op = .read →
      (∀ left, r.phase = .issued left →
        (∀ b rec, r.range = some ⟨b, 1⟩ → r.received.length = 1 → s.chip.cfg.area x = some rec →
          ∃ t, exec (.complete i .ok) s = .next t ∧
            ((∃ y, readRecord s.chip.mlink.capacity.toNat rec = some y) → GoesOn s t (marked x .valid s.chip.cfg)) ∧
            (readRecord s.chip.mlink.capacity.toNat rec = none → GoesOn s t (marked x .invalid s.chip.cfg))) ∧
        (∀ b status, r.range = some ⟨b, 1⟩ → status ≠ .ok ∨ r.received.length ≠ 1 →
          ∃ t, exec (.complete i status) s = .next t ∧ GoesOn s t (marked x .invalid s.chip.cfg)) ∧
        (s.chip.mlink.link = .up → Does (.responseTimerExpiry i) s (toldMedia (.abandon i) { s.chip with
          mlink := { s.chip.mlink with
            slots := s.chip.mlink.slots.set i (some { r with owner := none, phase := .abandoning .timeout 100 }) }
          cfg := readEnded s.chip.cfg }))) ∧
      (∀ left k, r.phase = .abandoning .timeout left → k = .abandonAck i ∨ (∃ status, k = .complete i status) →
        ∃ t, exec k s = .next t ∧ GoesOn s t s.chip.cfg) ∧
      (∀ cause left, r.phase = .abandoning cause left → ∃ t, exec (.abandonTimerExpiry i) s = .next t ∧
        t.chip.cfg = readEnded s.chip.cfg ∧ t.chip.mlink.attempts = 0 ∧
        t.chip.mlink.bringUp = .attempt (if s.chip.mlink.link = .up then .awaitReady else .awaitLinkUp) 200 ∧
        (s.chip.mlink.link = .up → ∀ n, t.chip.slot n = none))) ∧
    (s.chip.mlink.bringUp = .idle → Does .mlinkLinkDown s { s.chip with
      mlink := { s.chip.mlink with link := .down, attempts := 0, bringUp := .attempt .awaitLinkUp 200 }
      cfg := readEnded s.chip.cfg }) ∧
    (∀ cap n left, s.chip.mlink.bringUp = .attempt .awaitReply left → 1 ≤ n.toNat → n.toNat ≤ 16 →
      ∃ t, exec (.identifyReply cap n) s = .next t ∧
        (cap = s.chip.mlink.capacity → GoesOn s t s.chip.cfg) ∧
        (cap ≠ s.chip.mlink.capacity → EntersFault s t))

/-- A block of a READ goes into its page, or into the record area of the copy being read, once; a second block of the same
index is discarded. -/
def Obligations.MediaDataGoesToItsPlace : Prop :=
  ∀ (s : State) (i : SlotNo) (index : Half) (b : Block) (r : SlotRec) (g : MediaRange), s.rstn = .high →
    s.chip.cfg.bridge = .service ∨ s.chip.cfg.bridge = .start → s.chip.slot i = some r → r.op = .read →
    r.phase ≠ .taken → r.range = some g → index.toNat < g.count →
    let slots := s.chip.mlink.slots.set i (some { r with received := insertIndex index.toNat r.received })
    (index.toNat ∈ r.received → Does (.mediaData i index b) s s.chip) ∧
    (∀ p page, index.toNat ∉ r.received → r.holder = .port p → r.pages[index.toNat]? = some page →
      Does (.mediaData i index b) s { s.chip with
        mlink := { s.chip.mlink with slots := slots }
        pool := { s.chip.pool with content := s.chip.pool.content.set page b } }) ∧
    (index.toNat ∉ r.received → r.holder = .configuration →
      (s.chip.cfg.step = some .readA → Does (.mediaData i index b) s { s.chip with
        mlink := { s.chip.mlink with slots := slots }, cfg := { s.chip.cfg with areaA := some b } }) ∧
      (s.chip.cfg.step = some .readB → Does (.mediaData i index b) s { s.chip with
        mlink := { s.chip.mlink with slots := slots }, cfg := { s.chip.cfg with areaB := some b } }))

/-- COMPLETE for an ISSUED request: its slot frees, and what the fallen counts bring about follows (R32 to R34, R119, R150).
An OPEN session is answered OK, MEDIA-ERROR with the status and, for a READ, the blocks
received, or the delivery of a READ begins that has every block, its pages with it (R66, R124). Where nothing else waits on
the slot, exactly that has happened, and the slot is FREE. For a request of a CLOSING session nothing is answered, its kept record is freed, and the
session is DOWN with CLOSED when it was the last one in flight (R53, R55, R125). -/
def Obligations.CompleteAnswersTheOwner : Prop :=
  ∀ (s : State) (i : SlotNo) (status : MediaStatus) (r : SlotRec) (p : Port) (left : Nat) (w : WindowNo),
    s.rstn = .high → s.chip.cfg.bridge = .service → s.chip.slot i = some r → r.phase = .issued left →
    r.holder = .port p → r.window = some w →
    let whole := ∃ g, r.range = some g ∧ r.received.length = g.count
    (∃ t, exec (.complete i status) s = .next t ∧ CountsFell s t (released i p w r s.chip)) ∧
    (∀ tag d, Speaks s p → r.owner = some tag → s.chip.dataRecord p tag = some d → d.stage = .issued i →
      (∀ o detail,
        (status = .ok ∧ r.op ≠ .read ∧ o = .ok ∧ detail = []) ∨
          (status ≠ .ok ∧ r.op ≠ .read ∧ o = .mediaError ∧ detail = [item (statusCode status)]) ∨
          (r.op = .read ∧ (status ≠ .ok ∨ (r.range ≠ none ∧ ¬ whole)) ∧ o = .mediaError ∧
            detail = [item (statusCode status), item r.received.length]) →
        (∃ t, exec (.complete i status) s = .next t ∧ t.chip.record p tag = none ∧ Answered s t p tag o detail) ∧
        (Calm s.chip i → Does (.complete i status) s
          (answered p tag o detail (withRecord p tag none (released i p w r s.chip))))) ∧
      (status = .ok → r.op = .read → whole →
        (QueuesExact s → ∃ t, exec (.complete i status) s = .next t ∧
          t.chip.dataRecord p tag = some { d with stage := .delivering r.pages }) ∧
        (Calm s.chip i → Does (.complete i status) s
          (withRecord p tag (some (.data { d with stage := .delivering r.pages }))
            (released i p w { r with pages := [] } s.chip))))) ∧
    (∀ reason, r.owner = none → (s.chip.ports.get p).session = .closing reason →
      ∃ t, exec (.complete i status) s = .next t ∧ EndsForClosing s t i p w r reason)

/-- The end of an abandon (R128, R129). Cause ABORT: ABANDON-ACK gives ABORTED and DONE; a COMPLETE gives the media outcome
and TOO-LATE, and a READ that has every block with status OK is DELIVERING. Cause TIMEOUT: no answer; only a COMPLETE is
counted as a late completion. Where nothing else waits on the slot, exactly that has happened, and the slot is FREE. For a
request of a CLOSING session either end of the abandon, whatever its cause, answers nothing, frees the record kept for it
and ends the session with CLOSED when it was the last one in flight (R53, R55, R125); a completion whose record was kept is
not counted as late (deduced by the model, log entry 14). Either end frees the slot, and what the fallen counts bring about
follows (R119). -/
def Obligations.AbandonEndsByAckOrCompletion : Prop :=
  ∀ (s : State) (i : SlotNo) (r : SlotRec) (p : Port) (w : WindowNo) (left : Nat), s.rstn = .high →
    s.chip.cfg.bridge = .service → s.chip.slot i = some r → r.holder = .port p → r.window = some w →
    let whole := ∃ g, r.range = some g ∧ r.received.length = g.count
    (∀ cause k, r.phase = .abandoning cause left → k = .abandonAck i ∨ (∃ status, k = .complete i status) →
      ∃ t, exec k s = .next t ∧ CountsFell s t (released i p w r s.chip)) ∧
    (∀ tag a d, r.phase = .abandoning .abort left → Speaks s p → r.owner = some tag →
      s.chip.dataRecord p tag = some d → d.stage = .abandoning i a →
      (∃ t, exec (.abandonAck i) s = .next t ∧ t.chip.record p tag = none ∧ t.chip.record p a = none ∧
        AnsweredBoth s t p tag .aborted p a .done ∧
        (Calm s.chip i → t.chip = answered p a .done [] (answered p tag .aborted []
          (withRecord p a none (withRecord p tag none (released i p w r s.chip)))))) ∧
      (∀ status o detail,
        (status = .ok ∧ r.op ≠ .read ∧ o = .ok ∧ detail = []) ∨
          (status ≠ .ok ∧ r.op ≠ .read ∧ o = .mediaError ∧ detail = [item (statusCode status)]) ∨
          (r.op = .read ∧ (status ≠ .ok ∨ (r.range ≠ none ∧ ¬ whole)) ∧ o = .mediaError ∧
            detail = [item (statusCode status), item r.received.length]) →
        ∃ t, exec (.complete i status) s = .next t ∧ t.chip.record p tag = none ∧ t.chip.record p a = none ∧
          AnsweredInTurn s t p tag o detail a .tooLate ∧
          (Calm s.chip i → t.chip = answered p a .tooLate [] (answered p tag o detail
            (withRecord p a none (withRecord p tag none (released i p w r s.chip)))))) ∧
      (r.op = .read → whole → ∃ t, exec (.complete i .ok) s = .next t ∧ t.chip.record p a = none ∧
        Answered s t p a .tooLate [] ∧
        (QueuesExact s → t.chip.dataRecord p tag = some { d with stage := .delivering r.pages }) ∧
        (Calm s.chip i → t.chip = answered p a .tooLate []
          (withRecord p a none (withRecord p tag (some (.data { d with stage := .delivering r.pages }))
            (released i p w { r with pages := [] } s.chip)))))) ∧
    (r.phase = .abandoning .timeout left → (s.chip.ports.get p).session = .opened →
      (∀ u d, s.chip.dataRecord p u = some d → d.stage.slot? ≠ some i) →
      (∃ t, exec (.abandonAck i) s = .next t ∧ t.chip.mlink.lateCompletions = s.chip.mlink.lateCompletions ∧
        (Calm s.chip i → t.chip = released i p w r s.chip)) ∧
      (∀ status, ∃ t, exec (.complete i status) s = .next t ∧
        t.chip.mlink.lateCompletions = min 65535 (s.chip.mlink.lateCompletions + 1) ∧
        (Calm s.chip i → t.chip = released i p w r { s.chip with
          mlink := { s.chip.mlink with lateCompletions := min 65535 (s.chip.mlink.lateCompletions + 1) } }))) ∧
    (∀ cause reason k, r.phase = .abandoning cause left → r.owner = none →
      (s.chip.ports.get p).session = .closing reason → k = .abandonAck i ∨ (∃ status, k = .complete i status) →
      ∃ t, exec k s = .next t ∧ EndsForClosing s t i p w r reason ∧
        ((∃ tag d, s.chip.dataRecord p tag = some d ∧ d.stage.slot? = some i) →
          t.chip.mlink.lateCompletions = s.chip.mlink.lateCompletions))

/-- The response timer of an ISSUED slot runs out: ABANDON, MEDIA-TIMEOUT to the owner, whose tag is free, and the slot
ABANDONING without an owner (the order of the two frames: log entry 9). For the write of a persist job the writer waits in
AWAITING-FREE and the job has failed (R167, R168). When the abandon ends, nothing is counted, and the writer is IDLE and
takes the next job; where nothing else waits exactly that has happened. Under the reset mark START begins instead (R179).
A slot that is FREE or in another phase: nothing (the model's choice,
log entry 6). -/
def Obligations.ResponseTimerAbandonsTheSlot : Prop :=
  ∀ (s : State) (i : SlotNo), s.rstn = .high →
    (∀ r left p, s.chip.slot i = some r → r.phase = .issued left → r.holder = .port p → s.chip.mlink.link = .up →
      let given : Chip := { s.chip with mlink := { s.chip.mlink with
        slots := s.chip.mlink.slots.set i (some { r with owner := none, phase := .abandoning .timeout 100 }) } }
      (∀ tag, r.owner = some tag → Speaks s p → Does (.responseTimerExpiry i) s
        (answered p tag .mediaTimeout [] (withRecord p tag none (toldMedia (.abandon i) given)))) ∧
      (r.owner = none → Does (.responseTimerExpiry i) s (toldMedia (.abandon i) given))) ∧
    (∀ r left j target g, s.chip.slot i = some r → r.phase = .issued left → r.holder = .configuration →
      r.op = .write → s.chip.cfg.writer = .writing j target g → s.chip.cfg.bridge = .service →
      s.chip.mlink.link = .up →
      ∃ t after, exec (.responseTimerExpiry i) s = .next t ∧
        t.chip.slot i = some { r with owner := none, phase := .abandoning .timeout 100 } ∧
        t.chip.cfg.writer = .awaitingFree ∧ WriteFailed s t j target ∧
        t.chip.sent = s.chip.sent ++ [.toMedia (.abandon i)] ++ after) ∧
    (∀ r left k, s.chip.slot i = some r → r.phase = .abandoning .timeout left → r.holder = .configuration →
      r.op = .write → s.chip.cfg.writer = .awaitingFree → s.chip.cfg.bridge = .service →
      k = .abandonAck i ∨ (∃ status, k = .complete i status) →
      (s.chip.cfg.resetMark = false → ∃ t, exec k s = .next t ∧ WriterServed t ∧
        t.chip.mlink.lateCompletions = s.chip.mlink.lateCompletions ∧
        (s.chip.cfg.generation ≠ 0xFFFFFFFF#32 → ∃ new, jobsOf t.chip.cfg = s.chip.cfg.queue ++ new)) ∧
      (s.chip.cfg.resetMark = false → Calm s.chip i → Does k s { s.chip with
        mlink := { s.chip.mlink with slots := s.chip.mlink.slots.set i none }
        hold := { s.chip.hold with table := s.chip.hold.table.map (noLonger i) }
        cfg := { s.chip.cfg with writer := .idle } }) ∧
      (s.chip.cfg.resetMark = true → ∃ t, exec k s = .next t ∧ StartBegun s t ∧ t.chip.ctl = s.chip.ctl)) ∧
    ((∀ r left, s.chip.slot i = some r → r.phase ≠ .issued left) → Does (.responseTimerExpiry i) s s.chip)

/-- A link recovery, whatever starts it: RECOVER, every slot FREE with its pages back in the pool, the first attempt, MEDIA
set for every OPEN session, and MEDIA-RESET to every request that held a slot, then TOO-LATE to the ABORT that waited on it
(R128, R133). MEDIA is told first: a NOTICE goes to a port without a tag (R69), and every answer of the event carries MEDIA
(R133). A persist write that was under way has failed (R167), a writer in AWAITING-FREE is IDLE (R168), and an IDLE writer
takes the next job (R164). Under the reset mark START takes the recovery's place in the same event (R180). The in-flight counts are 0, CLOSING sessions are DOWN, every
PENDING hold ends its wait (R43), and a DRAINING commit without a queued request in its change set ends its drain (R156). -/
def Obligations.LinkRecoveryFreesEverySlot : Prop :=
  ∀ (s : State) (i : Instr), s.rstn = .high → s.chip.cfg.bridge = .service → StartsRecovery s i →
    (s.chip.cfg.resetMark = true → (∀ j, s.chip.cfg.writer ≠ .awaitingSlot j) →
      ∃ t, exec i s = .next t ∧ StartBegun s t ∧
        t.chip.ctl = (match s.chip.cfg.writer with
          | .writing _ _ _ =>
            { s.chip.ctl with persistFailures := min 255 (s.chip.ctl.persistFailures + 1) }
          | .idle | .awaitingSlot _ | .awaitingFree => s.chip.ctl) ∧
        t.chip.mlink.link = (if i = .mlinkLinkDown then .down else s.chip.mlink.link)) ∧
    (s.chip.cfg.resetMark = false → ∃ t, exec i s = .next t ∧ t.chip.cfg.bridge = .recover ∧ (∀ n, t.chip.slot n = none) ∧
      t.chip.mlink.attempts = 0 ∧
      t.chip.mlink.link = (if i = .mlinkLinkDown then .down else s.chip.mlink.link) ∧
      t.chip.mlink.bringUp =
        .attempt (if t.chip.mlink.link = .up then .awaitReady else .awaitLinkUp) 200 ∧
      (∀ q, (s.chip.ports.get q).session = .opened → (t.chip.ports.get q).flags.media = true) ∧
      (∀ p tag d n rec, Speaks s p → s.chip.dataRecord p tag = some d → d.stage.slot? = some n →
        s.chip.slot n = some rec → rec.holder = .port p → rec.owner = some tag →
        t.chip.record p tag = none ∧ Answered s t p tag .mediaReset [] ∧
        ∀ a, d.stage = .abandoning n a → t.chip.record p a = none ∧ AnsweredBoth s t p tag .mediaReset p a .tooLate) ∧
      (∀ n rec p, s.chip.slot n = some rec → rec.holder = .port p → ∀ x ∈ rec.pages, x ∈ t.chip.pool.free) ∧
      (∀ j target g, s.chip.cfg.writer = .writing j target g → s.chip.cfg.generation ≠ 0xFFFFFFFF#32 →
        WriteFailed s t j target) ∧
      ((t.chip.cfg.writer = .idle ∧ t.chip.cfg.queue = []) ∨ ∃ j, t.chip.cfg.writer = .awaitingSlot j) ∧
      (s.chip.cfg.generation ≠ 0xFFFFFFFF#32 → ∃ new,
        jobsOf t.chip.cfg = s.chip.cfg.writer.waitingJob ++ s.chip.cfg.queue ++ new) ∧
      (s.chip.cfg.generation = 0xFFFFFFFF#32 → (∀ j, s.chip.cfg.writer ≠ .awaitingSlot j) →
        t.chip.cfg.writer = .idle) ∧
      (∀ q, NoticeDue s q .media → Noticed s t q .media) ∧
      (∃ frames, t.chip.sent = s.chip.sent ++ frames ∧
        (∀ q tag o fs d, .toPort q (.response tag o fs d) ∈ frames → fs.media = true) ∧
        (SlotTableExact s → ∀ q reason, (s.chip.ports.get q).session = .closing reason →
          (t.chip.ports.get q).session = .down ∧
          ((s.chip.ports.get q).link = .up → .toPort q (.closed reason) ∈ frames))) ∧
      (SlotTableExact s → (∀ q, (t.chip.ports.get q).inFlight = 0) ∧ ∀ n, (t.chip.map.usage.get n).inFlight = 0) ∧
      (HoldTableInRange s → WriterServed s → (s.chip.cfg.generation = 0xFFFFFFFF#32 → MayTake s) →
        (∀ h ∈ s.chip.hold.table, ∀ waits, h.state = .pending waits → (∀ n ∈ waits, s.chip.slot n ≠ none) →
          (∀ target g, s.chip.cfg.writer ≠ .writing (.hold h.id) target g) → WaitEnded s t h none) ∧
        ∀ info left owner cfg, SlotTableExact s → s.chip.map.commit = .draining info left →
          s.chip.map.staging = .committing owner cfg → (∀ n ∈ info.changeSet, (s.chip.map.usage.get n).queued = 0) →
          DrainEnded s t info owner cfg))

/-- Media frames of commands are discarded in RECOVER and FAULT, and a protocol error or an abandon timer starts no recovery
there; nor does a protocol error in START. -/
def Obligations.MediaFramesAreDiscardedOutsideService : Prop :=
  ∀ (s : State) (i : SlotNo), s.rstn = .high →
    (s.chip.cfg.bridge = .recover ∨ s.chip.cfg.bridge = .fault →
      (∀ index b, Does (.mediaData i index b) s s.chip) ∧ (∀ status, Does (.complete i status) s s.chip) ∧
      Does (.abandonAck i) s s.chip ∧ (∀ frame, Does (.unknownMediaFrameKind frame) s s.chip) ∧
      Does (.abandonTimerExpiry i) s s.chip) ∧
    (s.chip.cfg.bridge = .start → s.chip.slot i = none →
      (∀ index b, Does (.mediaData i index b) s s.chip) ∧ (∀ status, Does (.complete i status) s s.chip) ∧
      Does (.abandonAck i) s s.chip ∧ (∀ frame, Does (.unknownMediaFrameKind frame) s s.chip))

/-- The write of a persist job ends. OK: its copy is current and VALID with the generation written, and the job has
succeeded. The hold is ACTIVE, HOLDS is set for every session that may see it, with a NOTICE to one that holds no tag, and
its placement is answered OK with id, class, scope and range (R34, R41, R69). Or the commit has swapped (R97, R153, R154,
R166). Otherwise its copy is INVALID, the current copy stays, the failure is counted, and it is reported to the job's owner
(R34, R152, R167). Either way the writer takes the next job (R164), or every job left fails when the generation written was
the last. Under the reset mark START begins instead, and only a failure is counted (R166, R167, R179). -/
def Obligations.PersistWriteSucceedsOrFails : Prop :=
  ∀ (s : State) (i : SlotNo) (r : SlotRec) (left : Nat) (j : Job) (target : Copy) (g : Word), s.rstn = .high →
    s.chip.cfg.bridge = .service → s.chip.slot i = some r → r.phase = .issued left →
    r.holder = .configuration → r.op = .write → s.chip.cfg.writer = .writing j target g →
    let alone := (∀ info left, s.chip.map.commit ≠ .draining info left) ∧
      ∀ h ∈ s.chip.hold.table, ∀ waits, h.state = .pending waits → ∃ n ∈ waits, n ≠ i
    (s.chip.cfg.resetMark = true → ∀ status, ∃ t, exec (.complete i status) s = .next t ∧ StartBegun s t ∧
      t.chip.ctl = if status = .ok then s.chip.ctl
        else { s.chip.ctl with persistFailures := min 255 (s.chip.ctl.persistFailures + 1) }) ∧
    (s.chip.cfg.resetMark = false → ∃ t, exec (.complete i .ok) s = .next t ∧ t.chip.cfg.current = some target ∧ t.chip.cfg.generation = g ∧
      t.chip.cfg.mark target = .valid ∧ WriterServed t ∧
      (alone → g ≠ 0xFFFFFFFF#32 → jobsOf t.chip.cfg = s.chip.cfg.queue) ∧
      (alone → g = 0xFFFFFFFF#32 → jobsOf t.chip.cfg = [] ∧ (LogInRange s → t.chip.ctl.persistFailures =
        min 255 (s.chip.ctl.persistFailures + s.chip.cfg.queue.length))) ∧
      (∀ h ∈ s.chip.hold.table, HoldTableInRange s → j = .hold h.id → h.state = .persisting →
        (g = 0xFFFFFFFF#32 → .hold h.id ∉ s.chip.cfg.queue) →
        HoldActivated s t h none) ∧
      (∀ info owner cfg, j = .commit → s.chip.map.commit = .persisting info →
        s.chip.map.staging = .committing owner cfg →
        Swapped s t info cfg)) ∧
    (s.chip.cfg.resetMark = false → ∀ status, status ≠ .ok → s.chip.cfg.generation ≠ 0xFFFFFFFF#32 →
      ∃ t, exec (.complete i status) s = .next t ∧ WriteFailed s t j target ∧ WriterServed t ∧
        (alone → jobsOf t.chip.cfg = s.chip.cfg.queue))
end

