-- ==== Sys2Proof/Laws/State.lean ====
section
/-! SUPPORT. One lemma for each block and each updater, and the reads after writes of the tables: no proof unfolds a
record update. -/

namespace Sys2Proof.Laws

open Sys2Proof.Machine

variable {n : Nat} {α : Type}

@[simp] theorem PerPort.get_set_self (t : PerPort α) (p : Port) (x : α) : (t.set p x).get p = x := by cases p <;> rfl

theorem PerPort.get_set_ne (t : PerPort α) {p q : Port} (x : α) (h : q ≠ p) : (t.set p x).get q = t.get q := by
  cases p <;> cases q <;> first | rfl | exact absurd rfl h

theorem PerPort.get_set (t : PerPort α) (p q : Port) (x : α) :
    (t.set p x).get q = if q = p then x else t.get q := by cases p <;> cases q <;> rfl

@[simp] theorem PerPort.get_modify_self (t : PerPort α) (p : Port) (f : α → α) :
    (t.modify p f).get p = f (t.get p) := by cases p <;> rfl

theorem PerPort.get_modify_ne (t : PerPort α) {p q : Port} (f : α → α) (h : q ≠ p) :
    (t.modify p f).get q = t.get q := by
  cases p <;> cases q <;> first | rfl | exact absurd rfl h

theorem PerPort.get_modify (t : PerPort α) (p q : Port) (f : α → α) :
    (t.modify p f).get q = if q = p then f (t.get q) else t.get q := by cases p <;> cases q <;> rfl

@[simp] theorem PerPort.get_same (x : α) (p : Port) : (PerPort.same x).get p = x := by cases p <;> rfl

@[simp] theorem Table.get_set_self (t : Table n α) (i : Fin n) (x : α) : (t.set i x).get i = x := by
  simp [Table.get, Table.set]

theorem Table.get_set_ne (t : Table n α) {i j : Fin n} (x : α) (h : j ≠ i) : (t.set i x).get j = t.get j := by
  simp [Table.get, Table.set, Fin.val_ne_of_ne h.symm]

theorem Table.get_set (t : Table n α) (i j : Fin n) (x : α) : (t.set i x).get j = if j = i then x else t.get j := by
  by_cases h : j = i
  · subst h; simp
  · simp [h, Table.get_set_ne t x h]

@[simp] theorem Table.get_modify_self (t : Table n α) (i : Fin n) (f : α → α) :
    (t.modify i f).get i = f (t.get i) := by simp [Table.modify]

theorem Table.get_modify_ne (t : Table n α) {i j : Fin n} (f : α → α) (h : j ≠ i) :
    (t.modify i f).get j = t.get j := by simp [Table.modify, Table.get_set_ne _ _ h]

@[simp] theorem Table.get_fill (x : α) (i : Fin n) : (Table.fill n x).get i = x := by simp [Table.get, Table.fill]

@[simp] theorem modPort_ports (c : Chip) (p : Port) (f : PortCtl → PortCtl) : (c.modPort p f).ports = c.ports.modify p f := rfl
@[simp] theorem modPort_map (c : Chip) (p : Port) (f : PortCtl → PortCtl) : (c.modPort p f).map = c.map := rfl
@[simp] theorem modPort_hold (c : Chip) (p : Port) (f : PortCtl → PortCtl) : (c.modPort p f).hold = c.hold := rfl
@[simp] theorem modPort_arb (c : Chip) (p : Port) (f : PortCtl → PortCtl) : (c.modPort p f).arb = c.arb := rfl
@[simp] theorem modPort_pool (c : Chip) (p : Port) (f : PortCtl → PortCtl) : (c.modPort p f).pool = c.pool := rfl
@[simp] theorem modPort_mlink (c : Chip) (p : Port) (f : PortCtl → PortCtl) : (c.modPort p f).mlink = c.mlink := rfl
@[simp] theorem modPort_cfg (c : Chip) (p : Port) (f : PortCtl → PortCtl) : (c.modPort p f).cfg = c.cfg := rfl
@[simp] theorem modPort_ctl (c : Chip) (p : Port) (f : PortCtl → PortCtl) : (c.modPort p f).ctl = c.ctl := rfl
@[simp] theorem modPort_sent (c : Chip) (p : Port) (f : PortCtl → PortCtl) : (c.modPort p f).sent = c.sent := rfl
@[simp] theorem modPort_free (c : Chip) (p : Port) (f : PortCtl → PortCtl) : (c.modPort p f).free = c.free := rfl

@[simp] theorem modMap_ports (c : Chip) (f : MapUnit → MapUnit) : (c.modMap f).ports = c.ports := rfl
@[simp] theorem modMap_map (c : Chip) (f : MapUnit → MapUnit) : (c.modMap f).map = f c.map := rfl
@[simp] theorem modMap_hold (c : Chip) (f : MapUnit → MapUnit) : (c.modMap f).hold = c.hold := rfl
@[simp] theorem modMap_arb (c : Chip) (f : MapUnit → MapUnit) : (c.modMap f).arb = c.arb := rfl
@[simp] theorem modMap_pool (c : Chip) (f : MapUnit → MapUnit) : (c.modMap f).pool = c.pool := rfl
@[simp] theorem modMap_mlink (c : Chip) (f : MapUnit → MapUnit) : (c.modMap f).mlink = c.mlink := rfl
@[simp] theorem modMap_cfg (c : Chip) (f : MapUnit → MapUnit) : (c.modMap f).cfg = c.cfg := rfl
@[simp] theorem modMap_ctl (c : Chip) (f : MapUnit → MapUnit) : (c.modMap f).ctl = c.ctl := rfl
@[simp] theorem modMap_sent (c : Chip) (f : MapUnit → MapUnit) : (c.modMap f).sent = c.sent := rfl
@[simp] theorem modMap_free (c : Chip) (f : MapUnit → MapUnit) : (c.modMap f).free = c.free := rfl

@[simp] theorem modHold_ports (c : Chip) (f : HoldUnit → HoldUnit) : (c.modHold f).ports = c.ports := rfl
@[simp] theorem modHold_map (c : Chip) (f : HoldUnit → HoldUnit) : (c.modHold f).map = c.map := rfl
@[simp] theorem modHold_hold (c : Chip) (f : HoldUnit → HoldUnit) : (c.modHold f).hold = f c.hold := rfl
@[simp] theorem modHold_arb (c : Chip) (f : HoldUnit → HoldUnit) : (c.modHold f).arb = c.arb := rfl
@[simp] theorem modHold_pool (c : Chip) (f : HoldUnit → HoldUnit) : (c.modHold f).pool = c.pool := rfl
@[simp] theorem modHold_mlink (c : Chip) (f : HoldUnit → HoldUnit) : (c.modHold f).mlink = c.mlink := rfl
@[simp] theorem modHold_cfg (c : Chip) (f : HoldUnit → HoldUnit) : (c.modHold f).cfg = c.cfg := rfl
@[simp] theorem modHold_ctl (c : Chip) (f : HoldUnit → HoldUnit) : (c.modHold f).ctl = c.ctl := rfl
@[simp] theorem modHold_sent (c : Chip) (f : HoldUnit → HoldUnit) : (c.modHold f).sent = c.sent := rfl
@[simp] theorem modHold_free (c : Chip) (f : HoldUnit → HoldUnit) : (c.modHold f).free = c.free := rfl

@[simp] theorem modArb_ports (c : Chip) (f : Arbiter → Arbiter) : (c.modArb f).ports = c.ports := rfl
@[simp] theorem modArb_map (c : Chip) (f : Arbiter → Arbiter) : (c.modArb f).map = c.map := rfl
@[simp] theorem modArb_hold (c : Chip) (f : Arbiter → Arbiter) : (c.modArb f).hold = c.hold := rfl
@[simp] theorem modArb_arb (c : Chip) (f : Arbiter → Arbiter) : (c.modArb f).arb = f c.arb := rfl
@[simp] theorem modArb_pool (c : Chip) (f : Arbiter → Arbiter) : (c.modArb f).pool = c.pool := rfl
@[simp] theorem modArb_mlink (c : Chip) (f : Arbiter → Arbiter) : (c.modArb f).mlink = c.mlink := rfl
@[simp] theorem modArb_cfg (c : Chip) (f : Arbiter → Arbiter) : (c.modArb f).cfg = c.cfg := rfl
@[simp] theorem modArb_ctl (c : Chip) (f : Arbiter → Arbiter) : (c.modArb f).ctl = c.ctl := rfl
@[simp] theorem modArb_sent (c : Chip) (f : Arbiter → Arbiter) : (c.modArb f).sent = c.sent := rfl
@[simp] theorem modArb_free (c : Chip) (f : Arbiter → Arbiter) : (c.modArb f).free = c.free := rfl

@[simp] theorem modPool_ports (c : Chip) (f : PagePool → PagePool) : (c.modPool f).ports = c.ports := rfl
@[simp] theorem modPool_map (c : Chip) (f : PagePool → PagePool) : (c.modPool f).map = c.map := rfl
@[simp] theorem modPool_hold (c : Chip) (f : PagePool → PagePool) : (c.modPool f).hold = c.hold := rfl
@[simp] theorem modPool_arb (c : Chip) (f : PagePool → PagePool) : (c.modPool f).arb = c.arb := rfl
@[simp] theorem modPool_pool (c : Chip) (f : PagePool → PagePool) : (c.modPool f).pool = f c.pool := rfl
@[simp] theorem modPool_mlink (c : Chip) (f : PagePool → PagePool) : (c.modPool f).mlink = c.mlink := rfl
@[simp] theorem modPool_cfg (c : Chip) (f : PagePool → PagePool) : (c.modPool f).cfg = c.cfg := rfl
@[simp] theorem modPool_ctl (c : Chip) (f : PagePool → PagePool) : (c.modPool f).ctl = c.ctl := rfl
@[simp] theorem modPool_sent (c : Chip) (f : PagePool → PagePool) : (c.modPool f).sent = c.sent := rfl
@[simp] theorem modPool_free (c : Chip) (f : PagePool → PagePool) : (c.modPool f).free = c.free := rfl

@[simp] theorem modMlink_ports (c : Chip) (f : MlinkCtl → MlinkCtl) : (c.modMlink f).ports = c.ports := rfl
@[simp] theorem modMlink_map (c : Chip) (f : MlinkCtl → MlinkCtl) : (c.modMlink f).map = c.map := rfl
@[simp] theorem modMlink_hold (c : Chip) (f : MlinkCtl → MlinkCtl) : (c.modMlink f).hold = c.hold := rfl
@[simp] theorem modMlink_arb (c : Chip) (f : MlinkCtl → MlinkCtl) : (c.modMlink f).arb = c.arb := rfl
@[simp] theorem modMlink_pool (c : Chip) (f : MlinkCtl → MlinkCtl) : (c.modMlink f).pool = c.pool := rfl
@[simp] theorem modMlink_mlink (c : Chip) (f : MlinkCtl → MlinkCtl) : (c.modMlink f).mlink = f c.mlink := rfl
@[simp] theorem modMlink_cfg (c : Chip) (f : MlinkCtl → MlinkCtl) : (c.modMlink f).cfg = c.cfg := rfl
@[simp] theorem modMlink_ctl (c : Chip) (f : MlinkCtl → MlinkCtl) : (c.modMlink f).ctl = c.ctl := rfl
@[simp] theorem modMlink_sent (c : Chip) (f : MlinkCtl → MlinkCtl) : (c.modMlink f).sent = c.sent := rfl
@[simp] theorem modMlink_free (c : Chip) (f : MlinkCtl → MlinkCtl) : (c.modMlink f).free = c.free := rfl

@[simp] theorem modCfg_ports (c : Chip) (f : ConfigUnit → ConfigUnit) : (c.modCfg f).ports = c.ports := rfl
@[simp] theorem modCfg_map (c : Chip) (f : ConfigUnit → ConfigUnit) : (c.modCfg f).map = c.map := rfl
@[simp] theorem modCfg_hold (c : Chip) (f : ConfigUnit → ConfigUnit) : (c.modCfg f).hold = c.hold := rfl
@[simp] theorem modCfg_arb (c : Chip) (f : ConfigUnit → ConfigUnit) : (c.modCfg f).arb = c.arb := rfl
@[simp] theorem modCfg_pool (c : Chip) (f : ConfigUnit → ConfigUnit) : (c.modCfg f).pool = c.pool := rfl
@[simp] theorem modCfg_mlink (c : Chip) (f : ConfigUnit → ConfigUnit) : (c.modCfg f).mlink = c.mlink := rfl
@[simp] theorem modCfg_cfg (c : Chip) (f : ConfigUnit → ConfigUnit) : (c.modCfg f).cfg = f c.cfg := rfl
@[simp] theorem modCfg_ctl (c : Chip) (f : ConfigUnit → ConfigUnit) : (c.modCfg f).ctl = c.ctl := rfl
@[simp] theorem modCfg_sent (c : Chip) (f : ConfigUnit → ConfigUnit) : (c.modCfg f).sent = c.sent := rfl
@[simp] theorem modCfg_free (c : Chip) (f : ConfigUnit → ConfigUnit) : (c.modCfg f).free = c.free := rfl

@[simp] theorem modCtl_ports (c : Chip) (f : ControlFn → ControlFn) : (c.modCtl f).ports = c.ports := rfl
@[simp] theorem modCtl_map (c : Chip) (f : ControlFn → ControlFn) : (c.modCtl f).map = c.map := rfl
@[simp] theorem modCtl_hold (c : Chip) (f : ControlFn → ControlFn) : (c.modCtl f).hold = c.hold := rfl
@[simp] theorem modCtl_arb (c : Chip) (f : ControlFn → ControlFn) : (c.modCtl f).arb = c.arb := rfl
@[simp] theorem modCtl_pool (c : Chip) (f : ControlFn → ControlFn) : (c.modCtl f).pool = c.pool := rfl
@[simp] theorem modCtl_mlink (c : Chip) (f : ControlFn → ControlFn) : (c.modCtl f).mlink = c.mlink := rfl
@[simp] theorem modCtl_cfg (c : Chip) (f : ControlFn → ControlFn) : (c.modCtl f).cfg = c.cfg := rfl
@[simp] theorem modCtl_ctl (c : Chip) (f : ControlFn → ControlFn) : (c.modCtl f).ctl = f c.ctl := rfl
@[simp] theorem modCtl_sent (c : Chip) (f : ControlFn → ControlFn) : (c.modCtl f).sent = c.sent := rfl
@[simp] theorem modCtl_free (c : Chip) (f : ControlFn → ControlFn) : (c.modCtl f).free = c.free := rfl

@[simp] theorem emit_ports (c : Chip) (x : Sent) : (c.emit x).ports = c.ports := rfl
@[simp] theorem emit_map (c : Chip) (x : Sent) : (c.emit x).map = c.map := rfl
@[simp] theorem emit_hold (c : Chip) (x : Sent) : (c.emit x).hold = c.hold := rfl
@[simp] theorem emit_arb (c : Chip) (x : Sent) : (c.emit x).arb = c.arb := rfl
@[simp] theorem emit_pool (c : Chip) (x : Sent) : (c.emit x).pool = c.pool := rfl
@[simp] theorem emit_mlink (c : Chip) (x : Sent) : (c.emit x).mlink = c.mlink := rfl
@[simp] theorem emit_cfg (c : Chip) (x : Sent) : (c.emit x).cfg = c.cfg := rfl
@[simp] theorem emit_ctl (c : Chip) (x : Sent) : (c.emit x).ctl = c.ctl := rfl
@[simp] theorem emit_sent (c : Chip) (x : Sent) : (c.emit x).sent = c.sent ++ [x] := rfl
@[simp] theorem emit_free (c : Chip) (x : Sent) : (c.emit x).free = c.free := rfl

@[simp] theorem takeFree_ports (c : Chip) : (c.takeFree).ports = c.ports := rfl
@[simp] theorem takeFree_map (c : Chip) : (c.takeFree).map = c.map := rfl
@[simp] theorem takeFree_hold (c : Chip) : (c.takeFree).hold = c.hold := rfl
@[simp] theorem takeFree_arb (c : Chip) : (c.takeFree).arb = c.arb := rfl
@[simp] theorem takeFree_pool (c : Chip) : (c.takeFree).pool = c.pool := rfl
@[simp] theorem takeFree_mlink (c : Chip) : (c.takeFree).mlink = c.mlink := rfl
@[simp] theorem takeFree_cfg (c : Chip) : (c.takeFree).cfg = c.cfg := rfl
@[simp] theorem takeFree_ctl (c : Chip) : (c.takeFree).ctl = c.ctl := rfl
@[simp] theorem takeFree_sent (c : Chip) : (c.takeFree).sent = c.sent := rfl
@[simp] theorem takeFree_free (c : Chip) : (c.takeFree).free = c.free + 1 := rfl

end Sys2Proof.Laws
end

