-- ==== Sys2Proof/Laws/Frame.lean ====
section
/-! SUPPORT. What each shared operation leaves alone: one lemma for each block it does not change. -/

set_option linter.unusedTactic false
set_option linter.unnecessarySeqFocus false
set_option linter.unreachableTactic false
set_option linter.unusedSimpArgs false

namespace Sys2Proof.Laws

-- One theorem after the other: the threads of many at once reserve more memory than a check may use.
set_option Elab.async false

open Sys2Proof.Machine

/-- What every item keeps, the whole list keeps. -/
theorem each_proj {α β : Type} (g : Chip → β) (f : α → Chip → Chip) (h : ∀ a c, g (f a c) = g c) (l : List α)
    (c : Chip) : g (each f l c) = g c := by
  unfold each
  induction l generalizing c with
  | nil => rfl
  | cons a l ih => rw [List.foldl_cons, ih, h]

/-- What every port keeps, all three keep. -/
theorem eachPort_proj {β : Type} (g : Chip → β) (f : Port → Chip → Chip) (h : ∀ p c, g (f p c) = g c) (c : Chip) :
    g (eachPort f c) = g c := by
  unfold eachPort; rw [h, h, h]

@[simp] theorem sendPort_ports (p : Port) (f : PFrame) (c : Chip) : (sendPort p f c).ports = c.ports := by
  unfold sendPort; (try dsimp only); (repeat' split) <;> simp
@[simp] theorem sendPort_map (p : Port) (f : PFrame) (c : Chip) : (sendPort p f c).map = c.map := by
  unfold sendPort; (try dsimp only); (repeat' split) <;> simp
@[simp] theorem sendPort_hold (p : Port) (f : PFrame) (c : Chip) : (sendPort p f c).hold = c.hold := by
  unfold sendPort; (try dsimp only); (repeat' split) <;> simp
@[simp] theorem sendPort_arb (p : Port) (f : PFrame) (c : Chip) : (sendPort p f c).arb = c.arb := by
  unfold sendPort; (try dsimp only); (repeat' split) <;> simp
@[simp] theorem sendPort_pool (p : Port) (f : PFrame) (c : Chip) : (sendPort p f c).pool = c.pool := by
  unfold sendPort; (try dsimp only); (repeat' split) <;> simp
@[simp] theorem sendPort_mlink (p : Port) (f : PFrame) (c : Chip) : (sendPort p f c).mlink = c.mlink := by
  unfold sendPort; (try dsimp only); (repeat' split) <;> simp
@[simp] theorem sendPort_cfg (p : Port) (f : PFrame) (c : Chip) : (sendPort p f c).cfg = c.cfg := by
  unfold sendPort; (try dsimp only); (repeat' split) <;> simp
@[simp] theorem sendPort_ctl (p : Port) (f : PFrame) (c : Chip) : (sendPort p f c).ctl = c.ctl := by
  unfold sendPort; (try dsimp only); (repeat' split) <;> simp
@[simp] theorem sendPort_free (p : Port) (f : PFrame) (c : Chip) : (sendPort p f c).free = c.free := by
  unfold sendPort; (try dsimp only); (repeat' split) <;> simp

@[simp] theorem sendMedia_ports (f : MFrame) (c : Chip) : (sendMedia f c).ports = c.ports := by
  unfold sendMedia; (try dsimp only); (repeat' split) <;> simp
@[simp] theorem sendMedia_map (f : MFrame) (c : Chip) : (sendMedia f c).map = c.map := by
  unfold sendMedia; (try dsimp only); (repeat' split) <;> simp
@[simp] theorem sendMedia_hold (f : MFrame) (c : Chip) : (sendMedia f c).hold = c.hold := by
  unfold sendMedia; (try dsimp only); (repeat' split) <;> simp
@[simp] theorem sendMedia_arb (f : MFrame) (c : Chip) : (sendMedia f c).arb = c.arb := by
  unfold sendMedia; (try dsimp only); (repeat' split) <;> simp
@[simp] theorem sendMedia_pool (f : MFrame) (c : Chip) : (sendMedia f c).pool = c.pool := by
  unfold sendMedia; (try dsimp only); (repeat' split) <;> simp
@[simp] theorem sendMedia_mlink (f : MFrame) (c : Chip) : (sendMedia f c).mlink = c.mlink := by
  unfold sendMedia; (try dsimp only); (repeat' split) <;> simp
@[simp] theorem sendMedia_cfg (f : MFrame) (c : Chip) : (sendMedia f c).cfg = c.cfg := by
  unfold sendMedia; (try dsimp only); (repeat' split) <;> simp
@[simp] theorem sendMedia_ctl (f : MFrame) (c : Chip) : (sendMedia f c).ctl = c.ctl := by
  unfold sendMedia; (try dsimp only); (repeat' split) <;> simp
@[simp] theorem sendMedia_free (f : MFrame) (c : Chip) : (sendMedia f c).free = c.free := by
  unfold sendMedia; (try dsimp only); (repeat' split) <;> simp

@[simp] theorem setRecord_map (p : Port) (t : Tag) (r : Option Record) (c : Chip) : (setRecord p t r c).map = c.map := by
  unfold setRecord; rfl
@[simp] theorem setRecord_hold (p : Port) (t : Tag) (r : Option Record) (c : Chip) : (setRecord p t r c).hold = c.hold := by
  unfold setRecord; rfl
@[simp] theorem setRecord_arb (p : Port) (t : Tag) (r : Option Record) (c : Chip) : (setRecord p t r c).arb = c.arb := by
  unfold setRecord; rfl
@[simp] theorem setRecord_pool (p : Port) (t : Tag) (r : Option Record) (c : Chip) : (setRecord p t r c).pool = c.pool := by
  unfold setRecord; rfl
@[simp] theorem setRecord_mlink (p : Port) (t : Tag) (r : Option Record) (c : Chip) : (setRecord p t r c).mlink = c.mlink := by
  unfold setRecord; rfl
@[simp] theorem setRecord_cfg (p : Port) (t : Tag) (r : Option Record) (c : Chip) : (setRecord p t r c).cfg = c.cfg := by
  unfold setRecord; rfl
@[simp] theorem setRecord_ctl (p : Port) (t : Tag) (r : Option Record) (c : Chip) : (setRecord p t r c).ctl = c.ctl := by
  unfold setRecord; rfl
@[simp] theorem setRecord_sent (p : Port) (t : Tag) (r : Option Record) (c : Chip) : (setRecord p t r c).sent = c.sent := by
  unfold setRecord; rfl
@[simp] theorem setRecord_free (p : Port) (t : Tag) (r : Option Record) (c : Chip) : (setRecord p t r c).free = c.free := by
  unfold setRecord; rfl

@[simp] theorem freeTag_map (p : Port) (t : Tag) (c : Chip) : (freeTag p t c).map = c.map := by
  unfold freeTag; rfl
@[simp] theorem freeTag_hold (p : Port) (t : Tag) (c : Chip) : (freeTag p t c).hold = c.hold := by
  unfold freeTag; rfl
@[simp] theorem freeTag_arb (p : Port) (t : Tag) (c : Chip) : (freeTag p t c).arb = c.arb := by
  unfold freeTag; rfl
@[simp] theorem freeTag_pool (p : Port) (t : Tag) (c : Chip) : (freeTag p t c).pool = c.pool := by
  unfold freeTag; rfl
@[simp] theorem freeTag_mlink (p : Port) (t : Tag) (c : Chip) : (freeTag p t c).mlink = c.mlink := by
  unfold freeTag; rfl
@[simp] theorem freeTag_cfg (p : Port) (t : Tag) (c : Chip) : (freeTag p t c).cfg = c.cfg := by
  unfold freeTag; rfl
@[simp] theorem freeTag_ctl (p : Port) (t : Tag) (c : Chip) : (freeTag p t c).ctl = c.ctl := by
  unfold freeTag; rfl
@[simp] theorem freeTag_sent (p : Port) (t : Tag) (c : Chip) : (freeTag p t c).sent = c.sent := by
  unfold freeTag; rfl
@[simp] theorem freeTag_free (p : Port) (t : Tag) (c : Chip) : (freeTag p t c).free = c.free := by
  unfold freeTag; rfl

@[simp] theorem reply_ports (p : Port) (t : Tag) (o : Outcome) (d : List Word) (c : Chip) : (reply p t o d c).ports = c.ports := by
  unfold reply; (try dsimp only); (repeat' split) <;> simp
@[simp] theorem reply_map (p : Port) (t : Tag) (o : Outcome) (d : List Word) (c : Chip) : (reply p t o d c).map = c.map := by
  unfold reply; (try dsimp only); (repeat' split) <;> simp
@[simp] theorem reply_hold (p : Port) (t : Tag) (o : Outcome) (d : List Word) (c : Chip) : (reply p t o d c).hold = c.hold := by
  unfold reply; (try dsimp only); (repeat' split) <;> simp
@[simp] theorem reply_arb (p : Port) (t : Tag) (o : Outcome) (d : List Word) (c : Chip) : (reply p t o d c).arb = c.arb := by
  unfold reply; (try dsimp only); (repeat' split) <;> simp
@[simp] theorem reply_pool (p : Port) (t : Tag) (o : Outcome) (d : List Word) (c : Chip) : (reply p t o d c).pool = c.pool := by
  unfold reply; (try dsimp only); (repeat' split) <;> simp
@[simp] theorem reply_mlink (p : Port) (t : Tag) (o : Outcome) (d : List Word) (c : Chip) : (reply p t o d c).mlink = c.mlink := by
  unfold reply; (try dsimp only); (repeat' split) <;> simp
@[simp] theorem reply_cfg (p : Port) (t : Tag) (o : Outcome) (d : List Word) (c : Chip) : (reply p t o d c).cfg = c.cfg := by
  unfold reply; (try dsimp only); (repeat' split) <;> simp
@[simp] theorem reply_ctl (p : Port) (t : Tag) (o : Outcome) (d : List Word) (c : Chip) : (reply p t o d c).ctl = c.ctl := by
  unfold reply; (try dsimp only); (repeat' split) <;> simp
@[simp] theorem reply_free (p : Port) (t : Tag) (o : Outcome) (d : List Word) (c : Chip) : (reply p t o d c).free = c.free := by
  unfold reply; (try dsimp only); (repeat' split) <;> simp

@[simp] theorem respond_map (p : Port) (t : Tag) (o : Outcome) (d : List Word) (c : Chip) : (respond p t o d c).map = c.map := by
  unfold respond; (try dsimp only); (repeat' split) <;> simp
@[simp] theorem respond_hold (p : Port) (t : Tag) (o : Outcome) (d : List Word) (c : Chip) : (respond p t o d c).hold = c.hold := by
  unfold respond; (try dsimp only); (repeat' split) <;> simp
@[simp] theorem respond_arb (p : Port) (t : Tag) (o : Outcome) (d : List Word) (c : Chip) : (respond p t o d c).arb = c.arb := by
  unfold respond; (try dsimp only); (repeat' split) <;> simp
@[simp] theorem respond_pool (p : Port) (t : Tag) (o : Outcome) (d : List Word) (c : Chip) : (respond p t o d c).pool = c.pool := by
  unfold respond; (try dsimp only); (repeat' split) <;> simp
@[simp] theorem respond_mlink (p : Port) (t : Tag) (o : Outcome) (d : List Word) (c : Chip) : (respond p t o d c).mlink = c.mlink := by
  unfold respond; (try dsimp only); (repeat' split) <;> simp
@[simp] theorem respond_cfg (p : Port) (t : Tag) (o : Outcome) (d : List Word) (c : Chip) : (respond p t o d c).cfg = c.cfg := by
  unfold respond; (try dsimp only); (repeat' split) <;> simp
@[simp] theorem respond_ctl (p : Port) (t : Tag) (o : Outcome) (d : List Word) (c : Chip) : (respond p t o d c).ctl = c.ctl := by
  unfold respond; (try dsimp only); (repeat' split) <;> simp
@[simp] theorem respond_free (p : Port) (t : Tag) (o : Outcome) (d : List Word) (c : Chip) : (respond p t o d c).free = c.free := by
  unfold respond; (try dsimp only); (repeat' split) <;> simp

@[simp] theorem noSession_ports (p : Port) (t : Option Tag) (c : Chip) : (noSession p t c).ports = c.ports := by
  unfold noSession; (try dsimp only); (repeat' split) <;> simp
@[simp] theorem noSession_map (p : Port) (t : Option Tag) (c : Chip) : (noSession p t c).map = c.map := by
  unfold noSession; (try dsimp only); (repeat' split) <;> simp
@[simp] theorem noSession_hold (p : Port) (t : Option Tag) (c : Chip) : (noSession p t c).hold = c.hold := by
  unfold noSession; (try dsimp only); (repeat' split) <;> simp
@[simp] theorem noSession_arb (p : Port) (t : Option Tag) (c : Chip) : (noSession p t c).arb = c.arb := by
  unfold noSession; (try dsimp only); (repeat' split) <;> simp
@[simp] theorem noSession_pool (p : Port) (t : Option Tag) (c : Chip) : (noSession p t c).pool = c.pool := by
  unfold noSession; (try dsimp only); (repeat' split) <;> simp
@[simp] theorem noSession_mlink (p : Port) (t : Option Tag) (c : Chip) : (noSession p t c).mlink = c.mlink := by
  unfold noSession; (try dsimp only); (repeat' split) <;> simp
@[simp] theorem noSession_cfg (p : Port) (t : Option Tag) (c : Chip) : (noSession p t c).cfg = c.cfg := by
  unfold noSession; (try dsimp only); (repeat' split) <;> simp
@[simp] theorem noSession_ctl (p : Port) (t : Option Tag) (c : Chip) : (noSession p t c).ctl = c.ctl := by
  unfold noSession; (try dsimp only); (repeat' split) <;> simp
@[simp] theorem noSession_free (p : Port) (t : Option Tag) (c : Chip) : (noSession p t c).free = c.free := by
  unfold noSession; (try dsimp only); (repeat' split) <;> simp

@[simp] theorem modUsage_ports (w : WindowNo) (f : Usage → Usage) (c : Chip) : (modUsage w f c).ports = c.ports := by
  unfold modUsage; rfl
@[simp] theorem modUsage_hold (w : WindowNo) (f : Usage → Usage) (c : Chip) : (modUsage w f c).hold = c.hold := by
  unfold modUsage; rfl
@[simp] theorem modUsage_arb (w : WindowNo) (f : Usage → Usage) (c : Chip) : (modUsage w f c).arb = c.arb := by
  unfold modUsage; rfl
@[simp] theorem modUsage_pool (w : WindowNo) (f : Usage → Usage) (c : Chip) : (modUsage w f c).pool = c.pool := by
  unfold modUsage; rfl
@[simp] theorem modUsage_mlink (w : WindowNo) (f : Usage → Usage) (c : Chip) : (modUsage w f c).mlink = c.mlink := by
  unfold modUsage; rfl
@[simp] theorem modUsage_cfg (w : WindowNo) (f : Usage → Usage) (c : Chip) : (modUsage w f c).cfg = c.cfg := by
  unfold modUsage; rfl
@[simp] theorem modUsage_ctl (w : WindowNo) (f : Usage → Usage) (c : Chip) : (modUsage w f c).ctl = c.ctl := by
  unfold modUsage; rfl
@[simp] theorem modUsage_sent (w : WindowNo) (f : Usage → Usage) (c : Chip) : (modUsage w f c).sent = c.sent := by
  unfold modUsage; rfl
@[simp] theorem modUsage_free (w : WindowNo) (f : Usage → Usage) (c : Chip) : (modUsage w f c).free = c.free := by
  unfold modUsage; rfl

@[simp] theorem returnPages_ports (l : List PageNo) (c : Chip) : (returnPages l c).ports = c.ports := by
  unfold returnPages; rfl
@[simp] theorem returnPages_map (l : List PageNo) (c : Chip) : (returnPages l c).map = c.map := by
  unfold returnPages; rfl
@[simp] theorem returnPages_hold (l : List PageNo) (c : Chip) : (returnPages l c).hold = c.hold := by
  unfold returnPages; rfl
@[simp] theorem returnPages_arb (l : List PageNo) (c : Chip) : (returnPages l c).arb = c.arb := by
  unfold returnPages; rfl
@[simp] theorem returnPages_mlink (l : List PageNo) (c : Chip) : (returnPages l c).mlink = c.mlink := by
  unfold returnPages; rfl
@[simp] theorem returnPages_cfg (l : List PageNo) (c : Chip) : (returnPages l c).cfg = c.cfg := by
  unfold returnPages; rfl
@[simp] theorem returnPages_ctl (l : List PageNo) (c : Chip) : (returnPages l c).ctl = c.ctl := by
  unfold returnPages; rfl
@[simp] theorem returnPages_sent (l : List PageNo) (c : Chip) : (returnPages l c).sent = c.sent := by
  unfold returnPages; rfl
@[simp] theorem returnPages_free (l : List PageNo) (c : Chip) : (returnPages l c).free = c.free := by
  unfold returnPages; rfl

@[simp] theorem fillPage_ports (x : PageNo) (b : Block) (c : Chip) : (fillPage x b c).ports = c.ports := by
  unfold fillPage; rfl
@[simp] theorem fillPage_map (x : PageNo) (b : Block) (c : Chip) : (fillPage x b c).map = c.map := by
  unfold fillPage; rfl
@[simp] theorem fillPage_hold (x : PageNo) (b : Block) (c : Chip) : (fillPage x b c).hold = c.hold := by
  unfold fillPage; rfl
@[simp] theorem fillPage_arb (x : PageNo) (b : Block) (c : Chip) : (fillPage x b c).arb = c.arb := by
  unfold fillPage; rfl
@[simp] theorem fillPage_mlink (x : PageNo) (b : Block) (c : Chip) : (fillPage x b c).mlink = c.mlink := by
  unfold fillPage; rfl
@[simp] theorem fillPage_cfg (x : PageNo) (b : Block) (c : Chip) : (fillPage x b c).cfg = c.cfg := by
  unfold fillPage; rfl
@[simp] theorem fillPage_ctl (x : PageNo) (b : Block) (c : Chip) : (fillPage x b c).ctl = c.ctl := by
  unfold fillPage; rfl
@[simp] theorem fillPage_sent (x : PageNo) (b : Block) (c : Chip) : (fillPage x b c).sent = c.sent := by
  unfold fillPage; rfl
@[simp] theorem fillPage_free (x : PageNo) (b : Block) (c : Chip) : (fillPage x b c).free = c.free := by
  unfold fillPage; rfl

@[simp] theorem setSlot_ports (i : SlotNo) (r : Option SlotRec) (c : Chip) : (setSlot i r c).ports = c.ports := by
  unfold setSlot; rfl
@[simp] theorem setSlot_map (i : SlotNo) (r : Option SlotRec) (c : Chip) : (setSlot i r c).map = c.map := by
  unfold setSlot; rfl
@[simp] theorem setSlot_hold (i : SlotNo) (r : Option SlotRec) (c : Chip) : (setSlot i r c).hold = c.hold := by
  unfold setSlot; rfl
@[simp] theorem setSlot_arb (i : SlotNo) (r : Option SlotRec) (c : Chip) : (setSlot i r c).arb = c.arb := by
  unfold setSlot; rfl
@[simp] theorem setSlot_pool (i : SlotNo) (r : Option SlotRec) (c : Chip) : (setSlot i r c).pool = c.pool := by
  unfold setSlot; rfl
@[simp] theorem setSlot_cfg (i : SlotNo) (r : Option SlotRec) (c : Chip) : (setSlot i r c).cfg = c.cfg := by
  unfold setSlot; rfl
@[simp] theorem setSlot_ctl (i : SlotNo) (r : Option SlotRec) (c : Chip) : (setSlot i r c).ctl = c.ctl := by
  unfold setSlot; rfl
@[simp] theorem setSlot_sent (i : SlotNo) (r : Option SlotRec) (c : Chip) : (setSlot i r c).sent = c.sent := by
  unfold setSlot; rfl
@[simp] theorem setSlot_free (i : SlotNo) (r : Option SlotRec) (c : Chip) : (setSlot i r c).free = c.free := by
  unfold setSlot; rfl

@[simp] theorem freeKept_map (p : Port) (i : SlotNo) (c : Chip) : (freeKept p i c).map = c.map := by
  unfold freeKept; exact each_proj (fun c => c.map) _ (by intro a c; (try dsimp only); (repeat' split) <;> simp) _ _
@[simp] theorem freeKept_hold (p : Port) (i : SlotNo) (c : Chip) : (freeKept p i c).hold = c.hold := by
  unfold freeKept; exact each_proj (fun c => c.hold) _ (by intro a c; (try dsimp only); (repeat' split) <;> simp) _ _
@[simp] theorem freeKept_arb (p : Port) (i : SlotNo) (c : Chip) : (freeKept p i c).arb = c.arb := by
  unfold freeKept; exact each_proj (fun c => c.arb) _ (by intro a c; (try dsimp only); (repeat' split) <;> simp) _ _
@[simp] theorem freeKept_pool (p : Port) (i : SlotNo) (c : Chip) : (freeKept p i c).pool = c.pool := by
  unfold freeKept; exact each_proj (fun c => c.pool) _ (by intro a c; (try dsimp only); (repeat' split) <;> simp) _ _
@[simp] theorem freeKept_mlink (p : Port) (i : SlotNo) (c : Chip) : (freeKept p i c).mlink = c.mlink := by
  unfold freeKept; exact each_proj (fun c => c.mlink) _ (by intro a c; (try dsimp only); (repeat' split) <;> simp) _ _
@[simp] theorem freeKept_cfg (p : Port) (i : SlotNo) (c : Chip) : (freeKept p i c).cfg = c.cfg := by
  unfold freeKept; exact each_proj (fun c => c.cfg) _ (by intro a c; (try dsimp only); (repeat' split) <;> simp) _ _
@[simp] theorem freeKept_ctl (p : Port) (i : SlotNo) (c : Chip) : (freeKept p i c).ctl = c.ctl := by
  unfold freeKept; exact each_proj (fun c => c.ctl) _ (by intro a c; (try dsimp only); (repeat' split) <;> simp) _ _
@[simp] theorem freeKept_sent (p : Port) (i : SlotNo) (c : Chip) : (freeKept p i c).sent = c.sent := by
  unfold freeKept; exact each_proj (fun c => c.sent) _ (by intro a c; (try dsimp only); (repeat' split) <;> simp) _ _
@[simp] theorem freeKept_free (p : Port) (i : SlotNo) (c : Chip) : (freeKept p i c).free = c.free := by
  unfold freeKept; exact each_proj (fun c => c.free) _ (by intro a c; (try dsimp only); (repeat' split) <;> simp) _ _

@[simp] theorem dequeue_ports (p : Port) (t : Tag) (c : Chip) : (dequeue p t c).ports = c.ports := by
  unfold dequeue; (try dsimp only); (repeat' split) <;> simp
@[simp] theorem dequeue_hold (p : Port) (t : Tag) (c : Chip) : (dequeue p t c).hold = c.hold := by
  unfold dequeue; (try dsimp only); (repeat' split) <;> simp
@[simp] theorem dequeue_pool (p : Port) (t : Tag) (c : Chip) : (dequeue p t c).pool = c.pool := by
  unfold dequeue; (try dsimp only); (repeat' split) <;> simp
@[simp] theorem dequeue_mlink (p : Port) (t : Tag) (c : Chip) : (dequeue p t c).mlink = c.mlink := by
  unfold dequeue; (try dsimp only); (repeat' split) <;> simp
@[simp] theorem dequeue_cfg (p : Port) (t : Tag) (c : Chip) : (dequeue p t c).cfg = c.cfg := by
  unfold dequeue; (try dsimp only); (repeat' split) <;> simp
@[simp] theorem dequeue_ctl (p : Port) (t : Tag) (c : Chip) : (dequeue p t c).ctl = c.ctl := by
  unfold dequeue; (try dsimp only); (repeat' split) <;> simp
@[simp] theorem dequeue_sent (p : Port) (t : Tag) (c : Chip) : (dequeue p t c).sent = c.sent := by
  unfold dequeue; (try dsimp only); (repeat' split) <;> simp
@[simp] theorem dequeue_free (p : Port) (t : Tag) (c : Chip) : (dequeue p t c).free = c.free := by
  unfold dequeue; (try dsimp only); (repeat' split) <;> simp

@[simp] theorem logRefusal_ports (p : Port) (t : Tag) (k : ReqKind) (w : Option WindowNo) (o : Outcome) (b : Option Nat) (c : Chip) : (logRefusal p t k w o b c).ports = c.ports := by
  unfold logRefusal; rfl
@[simp] theorem logRefusal_map (p : Port) (t : Tag) (k : ReqKind) (w : Option WindowNo) (o : Outcome) (b : Option Nat) (c : Chip) : (logRefusal p t k w o b c).map = c.map := by
  unfold logRefusal; rfl
@[simp] theorem logRefusal_hold (p : Port) (t : Tag) (k : ReqKind) (w : Option WindowNo) (o : Outcome) (b : Option Nat) (c : Chip) : (logRefusal p t k w o b c).hold = c.hold := by
  unfold logRefusal; rfl
@[simp] theorem logRefusal_arb (p : Port) (t : Tag) (k : ReqKind) (w : Option WindowNo) (o : Outcome) (b : Option Nat) (c : Chip) : (logRefusal p t k w o b c).arb = c.arb := by
  unfold logRefusal; rfl
@[simp] theorem logRefusal_pool (p : Port) (t : Tag) (k : ReqKind) (w : Option WindowNo) (o : Outcome) (b : Option Nat) (c : Chip) : (logRefusal p t k w o b c).pool = c.pool := by
  unfold logRefusal; rfl
@[simp] theorem logRefusal_mlink (p : Port) (t : Tag) (k : ReqKind) (w : Option WindowNo) (o : Outcome) (b : Option Nat) (c : Chip) : (logRefusal p t k w o b c).mlink = c.mlink := by
  unfold logRefusal; rfl
@[simp] theorem logRefusal_cfg (p : Port) (t : Tag) (k : ReqKind) (w : Option WindowNo) (o : Outcome) (b : Option Nat) (c : Chip) : (logRefusal p t k w o b c).cfg = c.cfg := by
  unfold logRefusal; rfl
@[simp] theorem logRefusal_sent (p : Port) (t : Tag) (k : ReqKind) (w : Option WindowNo) (o : Outcome) (b : Option Nat) (c : Chip) : (logRefusal p t k w o b c).sent = c.sent := by
  unfold logRefusal; rfl
@[simp] theorem logRefusal_free (p : Port) (t : Tag) (k : ReqKind) (w : Option WindowNo) (o : Outcome) (b : Option Nat) (c : Chip) : (logRefusal p t k w o b c).free = c.free := by
  unfold logRefusal; rfl

@[simp] theorem setFlags_map (p : Port) (fs : Flags) (c : Chip) : (setFlags p fs c).map = c.map := by
  unfold setFlags; rfl
@[simp] theorem setFlags_hold (p : Port) (fs : Flags) (c : Chip) : (setFlags p fs c).hold = c.hold := by
  unfold setFlags; rfl
@[simp] theorem setFlags_arb (p : Port) (fs : Flags) (c : Chip) : (setFlags p fs c).arb = c.arb := by
  unfold setFlags; rfl
@[simp] theorem setFlags_pool (p : Port) (fs : Flags) (c : Chip) : (setFlags p fs c).pool = c.pool := by
  unfold setFlags; rfl
@[simp] theorem setFlags_mlink (p : Port) (fs : Flags) (c : Chip) : (setFlags p fs c).mlink = c.mlink := by
  unfold setFlags; rfl
@[simp] theorem setFlags_cfg (p : Port) (fs : Flags) (c : Chip) : (setFlags p fs c).cfg = c.cfg := by
  unfold setFlags; rfl
@[simp] theorem setFlags_ctl (p : Port) (fs : Flags) (c : Chip) : (setFlags p fs c).ctl = c.ctl := by
  unfold setFlags; rfl
@[simp] theorem setFlags_sent (p : Port) (fs : Flags) (c : Chip) : (setFlags p fs c).sent = c.sent := by
  unfold setFlags; rfl
@[simp] theorem setFlags_free (p : Port) (fs : Flags) (c : Chip) : (setFlags p fs c).free = c.free := by
  unfold setFlags; rfl

@[simp] theorem raiseFlag_map (f : Flag) (p : Port) (c : Chip) : (raiseFlag f p c).map = c.map := by
  unfold raiseFlag; (try dsimp only); (repeat' split) <;> simp
@[simp] theorem raiseFlag_hold (f : Flag) (p : Port) (c : Chip) : (raiseFlag f p c).hold = c.hold := by
  unfold raiseFlag; (try dsimp only); (repeat' split) <;> simp
@[simp] theorem raiseFlag_arb (f : Flag) (p : Port) (c : Chip) : (raiseFlag f p c).arb = c.arb := by
  unfold raiseFlag; (try dsimp only); (repeat' split) <;> simp
@[simp] theorem raiseFlag_pool (f : Flag) (p : Port) (c : Chip) : (raiseFlag f p c).pool = c.pool := by
  unfold raiseFlag; (try dsimp only); (repeat' split) <;> simp
@[simp] theorem raiseFlag_mlink (f : Flag) (p : Port) (c : Chip) : (raiseFlag f p c).mlink = c.mlink := by
  unfold raiseFlag; (try dsimp only); (repeat' split) <;> simp
@[simp] theorem raiseFlag_cfg (f : Flag) (p : Port) (c : Chip) : (raiseFlag f p c).cfg = c.cfg := by
  unfold raiseFlag; (try dsimp only); (repeat' split) <;> simp
@[simp] theorem raiseFlag_ctl (f : Flag) (p : Port) (c : Chip) : (raiseFlag f p c).ctl = c.ctl := by
  unfold raiseFlag; (try dsimp only); (repeat' split) <;> simp
@[simp] theorem raiseFlag_free (f : Flag) (p : Port) (c : Chip) : (raiseFlag f p c).free = c.free := by
  unfold raiseFlag; (try dsimp only); (repeat' split) <;> simp

@[simp] theorem clearFlag_map (f : Flag) (p : Port) (c : Chip) : (clearFlag f p c).map = c.map := by
  unfold clearFlag; rfl
@[simp] theorem clearFlag_hold (f : Flag) (p : Port) (c : Chip) : (clearFlag f p c).hold = c.hold := by
  unfold clearFlag; rfl
@[simp] theorem clearFlag_arb (f : Flag) (p : Port) (c : Chip) : (clearFlag f p c).arb = c.arb := by
  unfold clearFlag; rfl
@[simp] theorem clearFlag_pool (f : Flag) (p : Port) (c : Chip) : (clearFlag f p c).pool = c.pool := by
  unfold clearFlag; rfl
@[simp] theorem clearFlag_mlink (f : Flag) (p : Port) (c : Chip) : (clearFlag f p c).mlink = c.mlink := by
  unfold clearFlag; rfl
@[simp] theorem clearFlag_cfg (f : Flag) (p : Port) (c : Chip) : (clearFlag f p c).cfg = c.cfg := by
  unfold clearFlag; rfl
@[simp] theorem clearFlag_ctl (f : Flag) (p : Port) (c : Chip) : (clearFlag f p c).ctl = c.ctl := by
  unfold clearFlag; rfl
@[simp] theorem clearFlag_sent (f : Flag) (p : Port) (c : Chip) : (clearFlag f p c).sent = c.sent := by
  unfold clearFlag; rfl
@[simp] theorem clearFlag_free (f : Flag) (p : Port) (c : Chip) : (clearFlag f p c).free = c.free := by
  unfold clearFlag; rfl

@[simp] theorem compareEpoch_map (p : Port) (c : Chip) : (compareEpoch p c).map = c.map := by
  unfold compareEpoch; (try dsimp only); (repeat' split) <;> simp
@[simp] theorem compareEpoch_hold (p : Port) (c : Chip) : (compareEpoch p c).hold = c.hold := by
  unfold compareEpoch; (try dsimp only); (repeat' split) <;> simp
@[simp] theorem compareEpoch_arb (p : Port) (c : Chip) : (compareEpoch p c).arb = c.arb := by
  unfold compareEpoch; (try dsimp only); (repeat' split) <;> simp
@[simp] theorem compareEpoch_pool (p : Port) (c : Chip) : (compareEpoch p c).pool = c.pool := by
  unfold compareEpoch; (try dsimp only); (repeat' split) <;> simp
@[simp] theorem compareEpoch_mlink (p : Port) (c : Chip) : (compareEpoch p c).mlink = c.mlink := by
  unfold compareEpoch; (try dsimp only); (repeat' split) <;> simp
@[simp] theorem compareEpoch_cfg (p : Port) (c : Chip) : (compareEpoch p c).cfg = c.cfg := by
  unfold compareEpoch; (try dsimp only); (repeat' split) <;> simp
@[simp] theorem compareEpoch_ctl (p : Port) (c : Chip) : (compareEpoch p c).ctl = c.ctl := by
  unfold compareEpoch; (try dsimp only); (repeat' split) <;> simp
@[simp] theorem compareEpoch_free (p : Port) (c : Chip) : (compareEpoch p c).free = c.free := by
  unfold compareEpoch; (try dsimp only); (repeat' split) <;> simp

@[simp] theorem deliver_map (p : Port) (e : Word) (c : Chip) : (deliver p e c).map = c.map := by
  unfold deliver; (try dsimp only); (repeat' split) <;> simp
@[simp] theorem deliver_hold (p : Port) (e : Word) (c : Chip) : (deliver p e c).hold = c.hold := by
  unfold deliver; (try dsimp only); (repeat' split) <;> simp
@[simp] theorem deliver_arb (p : Port) (e : Word) (c : Chip) : (deliver p e c).arb = c.arb := by
  unfold deliver; (try dsimp only); (repeat' split) <;> simp
@[simp] theorem deliver_pool (p : Port) (e : Word) (c : Chip) : (deliver p e c).pool = c.pool := by
  unfold deliver; (try dsimp only); (repeat' split) <;> simp
@[simp] theorem deliver_mlink (p : Port) (e : Word) (c : Chip) : (deliver p e c).mlink = c.mlink := by
  unfold deliver; (try dsimp only); (repeat' split) <;> simp
@[simp] theorem deliver_cfg (p : Port) (e : Word) (c : Chip) : (deliver p e c).cfg = c.cfg := by
  unfold deliver; (try dsimp only); (repeat' split) <;> simp
@[simp] theorem deliver_ctl (p : Port) (e : Word) (c : Chip) : (deliver p e c).ctl = c.ctl := by
  unfold deliver; (try dsimp only); (repeat' split) <;> simp
@[simp] theorem deliver_free (p : Port) (e : Word) (c : Chip) : (deliver p e c).free = c.free := by
  unfold deliver; (try dsimp only); (repeat' split) <;> simp

@[simp] theorem raiseMedia_map (c : Chip) : (raiseMedia c).map = c.map := by
  unfold raiseMedia; exact eachPort_proj (fun c => c.map) _ (by intro a c; simp) _
@[simp] theorem raiseMedia_hold (c : Chip) : (raiseMedia c).hold = c.hold := by
  unfold raiseMedia; exact eachPort_proj (fun c => c.hold) _ (by intro a c; simp) _
@[simp] theorem raiseMedia_arb (c : Chip) : (raiseMedia c).arb = c.arb := by
  unfold raiseMedia; exact eachPort_proj (fun c => c.arb) _ (by intro a c; simp) _
@[simp] theorem raiseMedia_pool (c : Chip) : (raiseMedia c).pool = c.pool := by
  unfold raiseMedia; exact eachPort_proj (fun c => c.pool) _ (by intro a c; simp) _
@[simp] theorem raiseMedia_mlink (c : Chip) : (raiseMedia c).mlink = c.mlink := by
  unfold raiseMedia; exact eachPort_proj (fun c => c.mlink) _ (by intro a c; simp) _
@[simp] theorem raiseMedia_cfg (c : Chip) : (raiseMedia c).cfg = c.cfg := by
  unfold raiseMedia; exact eachPort_proj (fun c => c.cfg) _ (by intro a c; simp) _
@[simp] theorem raiseMedia_ctl (c : Chip) : (raiseMedia c).ctl = c.ctl := by
  unfold raiseMedia; exact eachPort_proj (fun c => c.ctl) _ (by intro a c; simp) _
@[simp] theorem raiseMedia_free (c : Chip) : (raiseMedia c).free = c.free := by
  unfold raiseMedia; exact eachPort_proj (fun c => c.free) _ (by intro a c; simp) _

@[simp] theorem raiseHolds_map (r : MediaRange) (p : Port) (c : Chip) : (raiseHolds r p c).map = c.map := by
  unfold raiseHolds; (try dsimp only); (repeat' split) <;> simp
@[simp] theorem raiseHolds_hold (r : MediaRange) (p : Port) (c : Chip) : (raiseHolds r p c).hold = c.hold := by
  unfold raiseHolds; (try dsimp only); (repeat' split) <;> simp
@[simp] theorem raiseHolds_arb (r : MediaRange) (p : Port) (c : Chip) : (raiseHolds r p c).arb = c.arb := by
  unfold raiseHolds; (try dsimp only); (repeat' split) <;> simp
@[simp] theorem raiseHolds_pool (r : MediaRange) (p : Port) (c : Chip) : (raiseHolds r p c).pool = c.pool := by
  unfold raiseHolds; (try dsimp only); (repeat' split) <;> simp
@[simp] theorem raiseHolds_mlink (r : MediaRange) (p : Port) (c : Chip) : (raiseHolds r p c).mlink = c.mlink := by
  unfold raiseHolds; (try dsimp only); (repeat' split) <;> simp
@[simp] theorem raiseHolds_cfg (r : MediaRange) (p : Port) (c : Chip) : (raiseHolds r p c).cfg = c.cfg := by
  unfold raiseHolds; (try dsimp only); (repeat' split) <;> simp
@[simp] theorem raiseHolds_ctl (r : MediaRange) (p : Port) (c : Chip) : (raiseHolds r p c).ctl = c.ctl := by
  unfold raiseHolds; (try dsimp only); (repeat' split) <;> simp
@[simp] theorem raiseHolds_free (r : MediaRange) (p : Port) (c : Chip) : (raiseHolds r p c).free = c.free := by
  unfold raiseHolds; (try dsimp only); (repeat' split) <;> simp

@[simp] theorem holdsNotice_map (r : MediaRange) (c : Chip) : (holdsNotice r c).map = c.map := by
  unfold holdsNotice; exact eachPort_proj (fun c => c.map) _ (by intro a c; simp) _
@[simp] theorem holdsNotice_hold (r : MediaRange) (c : Chip) : (holdsNotice r c).hold = c.hold := by
  unfold holdsNotice; exact eachPort_proj (fun c => c.hold) _ (by intro a c; simp) _
@[simp] theorem holdsNotice_arb (r : MediaRange) (c : Chip) : (holdsNotice r c).arb = c.arb := by
  unfold holdsNotice; exact eachPort_proj (fun c => c.arb) _ (by intro a c; simp) _
@[simp] theorem holdsNotice_pool (r : MediaRange) (c : Chip) : (holdsNotice r c).pool = c.pool := by
  unfold holdsNotice; exact eachPort_proj (fun c => c.pool) _ (by intro a c; simp) _
@[simp] theorem holdsNotice_mlink (r : MediaRange) (c : Chip) : (holdsNotice r c).mlink = c.mlink := by
  unfold holdsNotice; exact eachPort_proj (fun c => c.mlink) _ (by intro a c; simp) _
@[simp] theorem holdsNotice_cfg (r : MediaRange) (c : Chip) : (holdsNotice r c).cfg = c.cfg := by
  unfold holdsNotice; exact eachPort_proj (fun c => c.cfg) _ (by intro a c; simp) _
@[simp] theorem holdsNotice_ctl (r : MediaRange) (c : Chip) : (holdsNotice r c).ctl = c.ctl := by
  unfold holdsNotice; exact eachPort_proj (fun c => c.ctl) _ (by intro a c; simp) _
@[simp] theorem holdsNotice_free (r : MediaRange) (c : Chip) : (holdsNotice r c).free = c.free := by
  unfold holdsNotice; exact eachPort_proj (fun c => c.free) _ (by intro a c; simp) _

@[simp] theorem issueSlot_ports (i : SlotNo) (r : SlotRec) (t : Nat) (c : Chip) : (issueSlot i r t c).ports = c.ports := by
  unfold issueSlot; (try dsimp only); (repeat' split) <;> simp
@[simp] theorem issueSlot_map (i : SlotNo) (r : SlotRec) (t : Nat) (c : Chip) : (issueSlot i r t c).map = c.map := by
  unfold issueSlot; (try dsimp only); (repeat' split) <;> simp
@[simp] theorem issueSlot_hold (i : SlotNo) (r : SlotRec) (t : Nat) (c : Chip) : (issueSlot i r t c).hold = c.hold := by
  unfold issueSlot; (try dsimp only); (repeat' split) <;> simp
@[simp] theorem issueSlot_arb (i : SlotNo) (r : SlotRec) (t : Nat) (c : Chip) : (issueSlot i r t c).arb = c.arb := by
  unfold issueSlot; (try dsimp only); (repeat' split) <;> simp
@[simp] theorem issueSlot_pool (i : SlotNo) (r : SlotRec) (t : Nat) (c : Chip) : (issueSlot i r t c).pool = c.pool := by
  unfold issueSlot; (try dsimp only); (repeat' split) <;> simp
@[simp] theorem issueSlot_cfg (i : SlotNo) (r : SlotRec) (t : Nat) (c : Chip) : (issueSlot i r t c).cfg = c.cfg := by
  unfold issueSlot; (try dsimp only); (repeat' split) <;> simp
@[simp] theorem issueSlot_ctl (i : SlotNo) (r : SlotRec) (t : Nat) (c : Chip) : (issueSlot i r t c).ctl = c.ctl := by
  unfold issueSlot; (try dsimp only); (repeat' split) <;> simp
@[simp] theorem issueSlot_free (i : SlotNo) (r : SlotRec) (t : Nat) (c : Chip) : (issueSlot i r t c).free = c.free := by
  unfold issueSlot; (try dsimp only); (repeat' split) <;> simp

@[simp] theorem sendWriteData_ports (i : SlotNo) (l : List PageNo) (c : Chip) : (sendWriteData i l c).ports = c.ports := by
  unfold sendWriteData; exact each_proj (fun c => c.ports) _ (by intro a c; (try dsimp only); (repeat' split) <;> simp) _ _
@[simp] theorem sendWriteData_map (i : SlotNo) (l : List PageNo) (c : Chip) : (sendWriteData i l c).map = c.map := by
  unfold sendWriteData; exact each_proj (fun c => c.map) _ (by intro a c; (try dsimp only); (repeat' split) <;> simp) _ _
@[simp] theorem sendWriteData_hold (i : SlotNo) (l : List PageNo) (c : Chip) : (sendWriteData i l c).hold = c.hold := by
  unfold sendWriteData; exact each_proj (fun c => c.hold) _ (by intro a c; (try dsimp only); (repeat' split) <;> simp) _ _
@[simp] theorem sendWriteData_arb (i : SlotNo) (l : List PageNo) (c : Chip) : (sendWriteData i l c).arb = c.arb := by
  unfold sendWriteData; exact each_proj (fun c => c.arb) _ (by intro a c; (try dsimp only); (repeat' split) <;> simp) _ _
@[simp] theorem sendWriteData_pool (i : SlotNo) (l : List PageNo) (c : Chip) : (sendWriteData i l c).pool = c.pool := by
  unfold sendWriteData; exact each_proj (fun c => c.pool) _ (by intro a c; (try dsimp only); (repeat' split) <;> simp) _ _
@[simp] theorem sendWriteData_mlink (i : SlotNo) (l : List PageNo) (c : Chip) : (sendWriteData i l c).mlink = c.mlink := by
  unfold sendWriteData; exact each_proj (fun c => c.mlink) _ (by intro a c; (try dsimp only); (repeat' split) <;> simp) _ _
@[simp] theorem sendWriteData_cfg (i : SlotNo) (l : List PageNo) (c : Chip) : (sendWriteData i l c).cfg = c.cfg := by
  unfold sendWriteData; exact each_proj (fun c => c.cfg) _ (by intro a c; (try dsimp only); (repeat' split) <;> simp) _ _
@[simp] theorem sendWriteData_ctl (i : SlotNo) (l : List PageNo) (c : Chip) : (sendWriteData i l c).ctl = c.ctl := by
  unfold sendWriteData; exact each_proj (fun c => c.ctl) _ (by intro a c; (try dsimp only); (repeat' split) <;> simp) _ _
@[simp] theorem sendWriteData_free (i : SlotNo) (l : List PageNo) (c : Chip) : (sendWriteData i l c).free = c.free := by
  unfold sendWriteData; exact each_proj (fun c => c.free) _ (by intro a c; (try dsimp only); (repeat' split) <;> simp) _ _

@[simp] theorem setStage_map (p : Port) (t : Tag) (s : Stage) (c : Chip) : (setStage p t s c).map = c.map := by
  unfold setStage; (try dsimp only); (repeat' split) <;> simp
@[simp] theorem setStage_hold (p : Port) (t : Tag) (s : Stage) (c : Chip) : (setStage p t s c).hold = c.hold := by
  unfold setStage; (try dsimp only); (repeat' split) <;> simp
@[simp] theorem setStage_arb (p : Port) (t : Tag) (s : Stage) (c : Chip) : (setStage p t s c).arb = c.arb := by
  unfold setStage; (try dsimp only); (repeat' split) <;> simp
@[simp] theorem setStage_pool (p : Port) (t : Tag) (s : Stage) (c : Chip) : (setStage p t s c).pool = c.pool := by
  unfold setStage; (try dsimp only); (repeat' split) <;> simp
@[simp] theorem setStage_mlink (p : Port) (t : Tag) (s : Stage) (c : Chip) : (setStage p t s c).mlink = c.mlink := by
  unfold setStage; (try dsimp only); (repeat' split) <;> simp
@[simp] theorem setStage_cfg (p : Port) (t : Tag) (s : Stage) (c : Chip) : (setStage p t s c).cfg = c.cfg := by
  unfold setStage; (try dsimp only); (repeat' split) <;> simp
@[simp] theorem setStage_ctl (p : Port) (t : Tag) (s : Stage) (c : Chip) : (setStage p t s c).ctl = c.ctl := by
  unfold setStage; (try dsimp only); (repeat' split) <;> simp
@[simp] theorem setStage_sent (p : Port) (t : Tag) (s : Stage) (c : Chip) : (setStage p t s c).sent = c.sent := by
  unfold setStage; (try dsimp only); (repeat' split) <;> simp
@[simp] theorem setStage_free (p : Port) (t : Tag) (s : Stage) (c : Chip) : (setStage p t s c).free = c.free := by
  unfold setStage; (try dsimp only); (repeat' split) <;> simp

@[simp] theorem issuePort_map (p : Port) (t : Tag) (i : SlotNo) (r : SlotRec) (c : Chip) : (issuePort p t i r c).map = c.map := by
  unfold issuePort; (try dsimp only); (repeat' split) <;> simp
@[simp] theorem issuePort_hold (p : Port) (t : Tag) (i : SlotNo) (r : SlotRec) (c : Chip) : (issuePort p t i r c).hold = c.hold := by
  unfold issuePort; (try dsimp only); (repeat' split) <;> simp
@[simp] theorem issuePort_arb (p : Port) (t : Tag) (i : SlotNo) (r : SlotRec) (c : Chip) : (issuePort p t i r c).arb = c.arb := by
  unfold issuePort; (try dsimp only); (repeat' split) <;> simp
@[simp] theorem issuePort_pool (p : Port) (t : Tag) (i : SlotNo) (r : SlotRec) (c : Chip) : (issuePort p t i r c).pool = c.pool := by
  unfold issuePort; (try dsimp only); (repeat' split) <;> simp
@[simp] theorem issuePort_cfg (p : Port) (t : Tag) (i : SlotNo) (r : SlotRec) (c : Chip) : (issuePort p t i r c).cfg = c.cfg := by
  unfold issuePort; (try dsimp only); (repeat' split) <;> simp
@[simp] theorem issuePort_ctl (p : Port) (t : Tag) (i : SlotNo) (r : SlotRec) (c : Chip) : (issuePort p t i r c).ctl = c.ctl := by
  unfold issuePort; (try dsimp only); (repeat' split) <;> simp
@[simp] theorem issuePort_free (p : Port) (t : Tag) (i : SlotNo) (r : SlotRec) (c : Chip) : (issuePort p t i r c).free = c.free := by
  unfold issuePort; (try dsimp only); (repeat' split) <;> simp

@[simp] theorem setArea_ports (x : Copy) (b : Option Block) (c : Chip) : (setArea x b c).ports = c.ports := by
  unfold setArea; (try dsimp only); (repeat' split) <;> simp
@[simp] theorem setArea_map (x : Copy) (b : Option Block) (c : Chip) : (setArea x b c).map = c.map := by
  unfold setArea; (try dsimp only); (repeat' split) <;> simp
@[simp] theorem setArea_hold (x : Copy) (b : Option Block) (c : Chip) : (setArea x b c).hold = c.hold := by
  unfold setArea; (try dsimp only); (repeat' split) <;> simp
@[simp] theorem setArea_arb (x : Copy) (b : Option Block) (c : Chip) : (setArea x b c).arb = c.arb := by
  unfold setArea; (try dsimp only); (repeat' split) <;> simp
@[simp] theorem setArea_pool (x : Copy) (b : Option Block) (c : Chip) : (setArea x b c).pool = c.pool := by
  unfold setArea; (try dsimp only); (repeat' split) <;> simp
@[simp] theorem setArea_mlink (x : Copy) (b : Option Block) (c : Chip) : (setArea x b c).mlink = c.mlink := by
  unfold setArea; (try dsimp only); (repeat' split) <;> simp
@[simp] theorem setArea_ctl (x : Copy) (b : Option Block) (c : Chip) : (setArea x b c).ctl = c.ctl := by
  unfold setArea; (try dsimp only); (repeat' split) <;> simp
@[simp] theorem setArea_sent (x : Copy) (b : Option Block) (c : Chip) : (setArea x b c).sent = c.sent := by
  unfold setArea; (try dsimp only); (repeat' split) <;> simp
@[simp] theorem setArea_free (x : Copy) (b : Option Block) (c : Chip) : (setArea x b c).free = c.free := by
  unfold setArea; (try dsimp only); (repeat' split) <;> simp

@[simp] theorem setMark_ports (x : Copy) (m : Mark) (c : Chip) : (setMark x m c).ports = c.ports := by
  unfold setMark; (try dsimp only); (repeat' split) <;> simp
@[simp] theorem setMark_map (x : Copy) (m : Mark) (c : Chip) : (setMark x m c).map = c.map := by
  unfold setMark; (try dsimp only); (repeat' split) <;> simp
@[simp] theorem setMark_hold (x : Copy) (m : Mark) (c : Chip) : (setMark x m c).hold = c.hold := by
  unfold setMark; (try dsimp only); (repeat' split) <;> simp
@[simp] theorem setMark_arb (x : Copy) (m : Mark) (c : Chip) : (setMark x m c).arb = c.arb := by
  unfold setMark; (try dsimp only); (repeat' split) <;> simp
@[simp] theorem setMark_pool (x : Copy) (m : Mark) (c : Chip) : (setMark x m c).pool = c.pool := by
  unfold setMark; (try dsimp only); (repeat' split) <;> simp
@[simp] theorem setMark_mlink (x : Copy) (m : Mark) (c : Chip) : (setMark x m c).mlink = c.mlink := by
  unfold setMark; (try dsimp only); (repeat' split) <;> simp
@[simp] theorem setMark_ctl (x : Copy) (m : Mark) (c : Chip) : (setMark x m c).ctl = c.ctl := by
  unfold setMark; (try dsimp only); (repeat' split) <;> simp
@[simp] theorem setMark_sent (x : Copy) (m : Mark) (c : Chip) : (setMark x m c).sent = c.sent := by
  unfold setMark; (try dsimp only); (repeat' split) <;> simp
@[simp] theorem setMark_free (x : Copy) (m : Mark) (c : Chip) : (setMark x m c).free = c.free := by
  unfold setMark; (try dsimp only); (repeat' split) <;> simp

@[simp] theorem reloadCredits_ports (c : Chip) : (reloadCredits c).ports = c.ports := by
  unfold reloadCredits; rfl
@[simp] theorem reloadCredits_map (c : Chip) : (reloadCredits c).map = c.map := by
  unfold reloadCredits; rfl
@[simp] theorem reloadCredits_hold (c : Chip) : (reloadCredits c).hold = c.hold := by
  unfold reloadCredits; rfl
@[simp] theorem reloadCredits_pool (c : Chip) : (reloadCredits c).pool = c.pool := by
  unfold reloadCredits; rfl
@[simp] theorem reloadCredits_mlink (c : Chip) : (reloadCredits c).mlink = c.mlink := by
  unfold reloadCredits; rfl
@[simp] theorem reloadCredits_cfg (c : Chip) : (reloadCredits c).cfg = c.cfg := by
  unfold reloadCredits; rfl
@[simp] theorem reloadCredits_ctl (c : Chip) : (reloadCredits c).ctl = c.ctl := by
  unfold reloadCredits; rfl
@[simp] theorem reloadCredits_sent (c : Chip) : (reloadCredits c).sent = c.sent := by
  unfold reloadCredits; rfl
@[simp] theorem reloadCredits_free (c : Chip) : (reloadCredits c).free = c.free := by
  unfold reloadCredits; rfl

@[simp] theorem grantHead_hold (r : Bool) (p : Port) (t : Tag) (d : DataRec) (i : SlotNo) (c : Chip) : (grantHead r p t d i c).hold = c.hold := by
  unfold grantHead; (try dsimp only); (repeat' split) <;> simp
@[simp] theorem grantHead_cfg (r : Bool) (p : Port) (t : Tag) (d : DataRec) (i : SlotNo) (c : Chip) : (grantHead r p t d i c).cfg = c.cfg := by
  unfold grantHead; (try dsimp only); (repeat' split) <;> simp
@[simp] theorem grantHead_ctl (r : Bool) (p : Port) (t : Tag) (d : DataRec) (i : SlotNo) (c : Chip) : (grantHead r p t d i c).ctl = c.ctl := by
  unfold grantHead; (try dsimp only); (repeat' split) <;> simp
@[simp] theorem grantHead_free (r : Bool) (p : Port) (t : Tag) (d : DataRec) (i : SlotNo) (c : Chip) : (grantHead r p t d i c).free = c.free := by
  unfold grantHead; (try dsimp only); (repeat' split) <;> simp

@[simp] theorem grantPersist_ports (j : Job) (i : SlotNo) (c : Chip) : (grantPersist j i c).ports = c.ports := by
  unfold grantPersist; (try dsimp only); (repeat' split) <;> simp
@[simp] theorem grantPersist_map (j : Job) (i : SlotNo) (c : Chip) : (grantPersist j i c).map = c.map := by
  unfold grantPersist; (try dsimp only); (repeat' split) <;> simp
@[simp] theorem grantPersist_hold (j : Job) (i : SlotNo) (c : Chip) : (grantPersist j i c).hold = c.hold := by
  unfold grantPersist; (try dsimp only); (repeat' split) <;> simp
@[simp] theorem grantPersist_arb (j : Job) (i : SlotNo) (c : Chip) : (grantPersist j i c).arb = c.arb := by
  unfold grantPersist; (try dsimp only); (repeat' split) <;> simp
@[simp] theorem grantPersist_pool (j : Job) (i : SlotNo) (c : Chip) : (grantPersist j i c).pool = c.pool := by
  unfold grantPersist; (try dsimp only); (repeat' split) <;> simp
@[simp] theorem grantPersist_ctl (j : Job) (i : SlotNo) (c : Chip) : (grantPersist j i c).ctl = c.ctl := by
  unfold grantPersist; (try dsimp only); (repeat' split) <;> simp
@[simp] theorem grantPersist_free (j : Job) (i : SlotNo) (c : Chip) : (grantPersist j i c).free = c.free := by
  unfold grantPersist; (try dsimp only); (repeat' split) <;> simp

@[simp] theorem setHold_ports (h : Hold) (c : Chip) : (setHold h c).ports = c.ports := by
  unfold setHold; rfl
@[simp] theorem setHold_map (h : Hold) (c : Chip) : (setHold h c).map = c.map := by
  unfold setHold; rfl
@[simp] theorem setHold_arb (h : Hold) (c : Chip) : (setHold h c).arb = c.arb := by
  unfold setHold; rfl
@[simp] theorem setHold_pool (h : Hold) (c : Chip) : (setHold h c).pool = c.pool := by
  unfold setHold; rfl
@[simp] theorem setHold_mlink (h : Hold) (c : Chip) : (setHold h c).mlink = c.mlink := by
  unfold setHold; rfl
@[simp] theorem setHold_cfg (h : Hold) (c : Chip) : (setHold h c).cfg = c.cfg := by
  unfold setHold; rfl
@[simp] theorem setHold_ctl (h : Hold) (c : Chip) : (setHold h c).ctl = c.ctl := by
  unfold setHold; rfl
@[simp] theorem setHold_sent (h : Hold) (c : Chip) : (setHold h c).sent = c.sent := by
  unfold setHold; rfl
@[simp] theorem setHold_free (h : Hold) (c : Chip) : (setHold h c).free = c.free := by
  unfold setHold; rfl

@[simp] theorem dropHold_ports (id : Nat) (c : Chip) : (dropHold id c).ports = c.ports := by
  unfold dropHold; rfl
@[simp] theorem dropHold_map (id : Nat) (c : Chip) : (dropHold id c).map = c.map := by
  unfold dropHold; rfl
@[simp] theorem dropHold_arb (id : Nat) (c : Chip) : (dropHold id c).arb = c.arb := by
  unfold dropHold; rfl
@[simp] theorem dropHold_pool (id : Nat) (c : Chip) : (dropHold id c).pool = c.pool := by
  unfold dropHold; rfl
@[simp] theorem dropHold_mlink (id : Nat) (c : Chip) : (dropHold id c).mlink = c.mlink := by
  unfold dropHold; rfl
@[simp] theorem dropHold_cfg (id : Nat) (c : Chip) : (dropHold id c).cfg = c.cfg := by
  unfold dropHold; rfl
@[simp] theorem dropHold_ctl (id : Nat) (c : Chip) : (dropHold id c).ctl = c.ctl := by
  unfold dropHold; rfl
@[simp] theorem dropHold_sent (id : Nat) (c : Chip) : (dropHold id c).sent = c.sent := by
  unfold dropHold; rfl
@[simp] theorem dropHold_free (id : Nat) (c : Chip) : (dropHold id c).free = c.free := by
  unfold dropHold; rfl

@[simp] theorem removeHold_map (h : Hold) (c : Chip) : (removeHold h c).map = c.map := by
  unfold removeHold; (try dsimp only); (repeat' split) <;> simp
@[simp] theorem removeHold_arb (h : Hold) (c : Chip) : (removeHold h c).arb = c.arb := by
  unfold removeHold; (try dsimp only); (repeat' split) <;> simp
@[simp] theorem removeHold_pool (h : Hold) (c : Chip) : (removeHold h c).pool = c.pool := by
  unfold removeHold; (try dsimp only); (repeat' split) <;> simp
@[simp] theorem removeHold_mlink (h : Hold) (c : Chip) : (removeHold h c).mlink = c.mlink := by
  unfold removeHold; (try dsimp only); (repeat' split) <;> simp
@[simp] theorem removeHold_cfg (h : Hold) (c : Chip) : (removeHold h c).cfg = c.cfg := by
  unfold removeHold; (try dsimp only); (repeat' split) <;> simp
@[simp] theorem removeHold_ctl (h : Hold) (c : Chip) : (removeHold h c).ctl = c.ctl := by
  unfold removeHold; (try dsimp only); (repeat' split) <;> simp
@[simp] theorem removeHold_free (h : Hold) (c : Chip) : (removeHold h c).free = c.free := by
  unfold removeHold; (try dsimp only); (repeat' split) <;> simp

@[simp] theorem answerPlacement_map (h : Hold) (o : Outcome) (d : List Word) (c : Chip) : (answerPlacement h o d c).map = c.map := by
  unfold answerPlacement; (try dsimp only); (repeat' split) <;> simp
@[simp] theorem answerPlacement_hold (h : Hold) (o : Outcome) (d : List Word) (c : Chip) : (answerPlacement h o d c).hold = c.hold := by
  unfold answerPlacement; (try dsimp only); (repeat' split) <;> simp
@[simp] theorem answerPlacement_arb (h : Hold) (o : Outcome) (d : List Word) (c : Chip) : (answerPlacement h o d c).arb = c.arb := by
  unfold answerPlacement; (try dsimp only); (repeat' split) <;> simp
@[simp] theorem answerPlacement_pool (h : Hold) (o : Outcome) (d : List Word) (c : Chip) : (answerPlacement h o d c).pool = c.pool := by
  unfold answerPlacement; (try dsimp only); (repeat' split) <;> simp
@[simp] theorem answerPlacement_mlink (h : Hold) (o : Outcome) (d : List Word) (c : Chip) : (answerPlacement h o d c).mlink = c.mlink := by
  unfold answerPlacement; (try dsimp only); (repeat' split) <;> simp
@[simp] theorem answerPlacement_cfg (h : Hold) (o : Outcome) (d : List Word) (c : Chip) : (answerPlacement h o d c).cfg = c.cfg := by
  unfold answerPlacement; (try dsimp only); (repeat' split) <;> simp
@[simp] theorem answerPlacement_ctl (h : Hold) (o : Outcome) (d : List Word) (c : Chip) : (answerPlacement h o d c).ctl = c.ctl := by
  unfold answerPlacement; (try dsimp only); (repeat' split) <;> simp
@[simp] theorem answerPlacement_free (h : Hold) (o : Outcome) (d : List Word) (c : Chip) : (answerPlacement h o d c).free = c.free := by
  unfold answerPlacement; (try dsimp only); (repeat' split) <;> simp

@[simp] theorem activateHold_map (h : Hold) (c : Chip) : (activateHold h c).map = c.map := by
  unfold activateHold; (try dsimp only); (repeat' split) <;> simp
@[simp] theorem activateHold_arb (h : Hold) (c : Chip) : (activateHold h c).arb = c.arb := by
  unfold activateHold; (try dsimp only); (repeat' split) <;> simp
@[simp] theorem activateHold_pool (h : Hold) (c : Chip) : (activateHold h c).pool = c.pool := by
  unfold activateHold; (try dsimp only); (repeat' split) <;> simp
@[simp] theorem activateHold_mlink (h : Hold) (c : Chip) : (activateHold h c).mlink = c.mlink := by
  unfold activateHold; (try dsimp only); (repeat' split) <;> simp
@[simp] theorem activateHold_cfg (h : Hold) (c : Chip) : (activateHold h c).cfg = c.cfg := by
  unfold activateHold; (try dsimp only); (repeat' split) <;> simp
@[simp] theorem activateHold_ctl (h : Hold) (c : Chip) : (activateHold h c).ctl = c.ctl := by
  unfold activateHold; (try dsimp only); (repeat' split) <;> simp
@[simp] theorem activateHold_free (h : Hold) (c : Chip) : (activateHold h c).free = c.free := by
  unfold activateHold; (try dsimp only); (repeat' split) <;> simp

@[simp] theorem appendJob_ports (j : Job) (c : Chip) : (appendJob j c).ports = c.ports := by
  unfold appendJob; rfl
@[simp] theorem appendJob_map (j : Job) (c : Chip) : (appendJob j c).map = c.map := by
  unfold appendJob; rfl
@[simp] theorem appendJob_hold (j : Job) (c : Chip) : (appendJob j c).hold = c.hold := by
  unfold appendJob; rfl
@[simp] theorem appendJob_arb (j : Job) (c : Chip) : (appendJob j c).arb = c.arb := by
  unfold appendJob; rfl
@[simp] theorem appendJob_pool (j : Job) (c : Chip) : (appendJob j c).pool = c.pool := by
  unfold appendJob; rfl
@[simp] theorem appendJob_mlink (j : Job) (c : Chip) : (appendJob j c).mlink = c.mlink := by
  unfold appendJob; rfl
@[simp] theorem appendJob_ctl (j : Job) (c : Chip) : (appendJob j c).ctl = c.ctl := by
  unfold appendJob; rfl
@[simp] theorem appendJob_sent (j : Job) (c : Chip) : (appendJob j c).sent = c.sent := by
  unfold appendJob; rfl
@[simp] theorem appendJob_free (j : Job) (c : Chip) : (appendJob j c).free = c.free := by
  unfold appendJob; rfl

@[simp] theorem endWait_map (h : Hold) (c : Chip) : (endWait h c).map = c.map := by
  unfold endWait; (try dsimp only); (repeat' split) <;> simp
@[simp] theorem endWait_arb (h : Hold) (c : Chip) : (endWait h c).arb = c.arb := by
  unfold endWait; (try dsimp only); (repeat' split) <;> simp
@[simp] theorem endWait_pool (h : Hold) (c : Chip) : (endWait h c).pool = c.pool := by
  unfold endWait; (try dsimp only); (repeat' split) <;> simp
@[simp] theorem endWait_mlink (h : Hold) (c : Chip) : (endWait h c).mlink = c.mlink := by
  unfold endWait; (try dsimp only); (repeat' split) <;> simp
@[simp] theorem endWait_ctl (h : Hold) (c : Chip) : (endWait h c).ctl = c.ctl := by
  unfold endWait; (try dsimp only); (repeat' split) <;> simp
@[simp] theorem endWait_free (h : Hold) (c : Chip) : (endWait h c).free = c.free := by
  unfold endWait; (try dsimp only); (repeat' split) <;> simp

@[simp] theorem endWaits_map (c : Chip) : (endWaits c).map = c.map := by
  unfold endWaits; exact each_proj (fun c => c.map) _ (by intro a c; (try dsimp only); (repeat' split) <;> simp) _ _
@[simp] theorem endWaits_arb (c : Chip) : (endWaits c).arb = c.arb := by
  unfold endWaits; exact each_proj (fun c => c.arb) _ (by intro a c; (try dsimp only); (repeat' split) <;> simp) _ _
@[simp] theorem endWaits_pool (c : Chip) : (endWaits c).pool = c.pool := by
  unfold endWaits; exact each_proj (fun c => c.pool) _ (by intro a c; (try dsimp only); (repeat' split) <;> simp) _ _
@[simp] theorem endWaits_mlink (c : Chip) : (endWaits c).mlink = c.mlink := by
  unfold endWaits; exact each_proj (fun c => c.mlink) _ (by intro a c; (try dsimp only); (repeat' split) <;> simp) _ _
@[simp] theorem endWaits_ctl (c : Chip) : (endWaits c).ctl = c.ctl := by
  unfold endWaits; exact each_proj (fun c => c.ctl) _ (by intro a c; (try dsimp only); (repeat' split) <;> simp) _ _
@[simp] theorem endWaits_free (c : Chip) : (endWaits c).free = c.free := by
  unfold endWaits; exact each_proj (fun c => c.free) _ (by intro a c; (try dsimp only); (repeat' split) <;> simp) _ _

@[simp] theorem answerCommit_map (i : CommitInfo) (o : Outcome) (d : List Word) (c : Chip) : (answerCommit i o d c).map = c.map := by
  unfold answerCommit; (try dsimp only); (repeat' split) <;> simp
@[simp] theorem answerCommit_hold (i : CommitInfo) (o : Outcome) (d : List Word) (c : Chip) : (answerCommit i o d c).hold = c.hold := by
  unfold answerCommit; (try dsimp only); (repeat' split) <;> simp
@[simp] theorem answerCommit_arb (i : CommitInfo) (o : Outcome) (d : List Word) (c : Chip) : (answerCommit i o d c).arb = c.arb := by
  unfold answerCommit; (try dsimp only); (repeat' split) <;> simp
@[simp] theorem answerCommit_pool (i : CommitInfo) (o : Outcome) (d : List Word) (c : Chip) : (answerCommit i o d c).pool = c.pool := by
  unfold answerCommit; (try dsimp only); (repeat' split) <;> simp
@[simp] theorem answerCommit_mlink (i : CommitInfo) (o : Outcome) (d : List Word) (c : Chip) : (answerCommit i o d c).mlink = c.mlink := by
  unfold answerCommit; (try dsimp only); (repeat' split) <;> simp
@[simp] theorem answerCommit_cfg (i : CommitInfo) (o : Outcome) (d : List Word) (c : Chip) : (answerCommit i o d c).cfg = c.cfg := by
  unfold answerCommit; (try dsimp only); (repeat' split) <;> simp
@[simp] theorem answerCommit_ctl (i : CommitInfo) (o : Outcome) (d : List Word) (c : Chip) : (answerCommit i o d c).ctl = c.ctl := by
  unfold answerCommit; (try dsimp only); (repeat' split) <;> simp
@[simp] theorem answerCommit_free (i : CommitInfo) (o : Outcome) (d : List Word) (c : Chip) : (answerCommit i o d c).free = c.free := by
  unfold answerCommit; (try dsimp only); (repeat' split) <;> simp

@[simp] theorem deliverCommit_map (i : CommitInfo) (c : Chip) : (deliverCommit i c).map = c.map := by
  unfold deliverCommit; (try dsimp only); (repeat' split) <;> simp
@[simp] theorem deliverCommit_hold (i : CommitInfo) (c : Chip) : (deliverCommit i c).hold = c.hold := by
  unfold deliverCommit; (try dsimp only); (repeat' split) <;> simp
@[simp] theorem deliverCommit_arb (i : CommitInfo) (c : Chip) : (deliverCommit i c).arb = c.arb := by
  unfold deliverCommit; (try dsimp only); (repeat' split) <;> simp
@[simp] theorem deliverCommit_pool (i : CommitInfo) (c : Chip) : (deliverCommit i c).pool = c.pool := by
  unfold deliverCommit; (try dsimp only); (repeat' split) <;> simp
@[simp] theorem deliverCommit_mlink (i : CommitInfo) (c : Chip) : (deliverCommit i c).mlink = c.mlink := by
  unfold deliverCommit; (try dsimp only); (repeat' split) <;> simp
@[simp] theorem deliverCommit_cfg (i : CommitInfo) (c : Chip) : (deliverCommit i c).cfg = c.cfg := by
  unfold deliverCommit; (try dsimp only); (repeat' split) <;> simp
@[simp] theorem deliverCommit_ctl (i : CommitInfo) (c : Chip) : (deliverCommit i c).ctl = c.ctl := by
  unfold deliverCommit; (try dsimp only); (repeat' split) <;> simp
@[simp] theorem deliverCommit_free (i : CommitInfo) (c : Chip) : (deliverCommit i c).free = c.free := by
  unfold deliverCommit; (try dsimp only); (repeat' split) <;> simp

@[simp] theorem swap_hold (i : CommitInfo) (c : Chip) : (swap i c).hold = c.hold := by
  unfold swap; split
  · simp only [answerCommit_hold, deliverCommit_hold]; refine (eachPort_proj (fun c => c.hold) _ (by intro a c; (try dsimp only); split <;> simp) _).trans (by simp)
  · rfl
  · rfl
@[simp] theorem swap_pool (i : CommitInfo) (c : Chip) : (swap i c).pool = c.pool := by
  unfold swap; split
  · simp only [answerCommit_pool, deliverCommit_pool]; refine (eachPort_proj (fun c => c.pool) _ (by intro a c; (try dsimp only); split <;> simp) _).trans (by simp)
  · rfl
  · rfl
@[simp] theorem swap_mlink (i : CommitInfo) (c : Chip) : (swap i c).mlink = c.mlink := by
  unfold swap; split
  · simp only [answerCommit_mlink, deliverCommit_mlink]; refine (eachPort_proj (fun c => c.mlink) _ (by intro a c; (try dsimp only); split <;> simp) _).trans (by simp)
  · rfl
  · rfl
@[simp] theorem swap_cfg (i : CommitInfo) (c : Chip) : (swap i c).cfg = c.cfg := by
  unfold swap; split
  · simp only [answerCommit_cfg, deliverCommit_cfg]; refine (eachPort_proj (fun c => c.cfg) _ (by intro a c; (try dsimp only); split <;> simp) _).trans (by simp)
  · rfl
  · rfl
@[simp] theorem swap_ctl (i : CommitInfo) (c : Chip) : (swap i c).ctl = c.ctl := by
  unfold swap; split
  · simp only [answerCommit_ctl, deliverCommit_ctl]; refine (eachPort_proj (fun c => c.ctl) _ (by intro a c; (try dsimp only); split <;> simp) _).trans (by simp)
  · rfl
  · rfl
@[simp] theorem swap_free (i : CommitInfo) (c : Chip) : (swap i c).free = c.free := by
  unfold swap; split
  · simp only [answerCommit_free, deliverCommit_free]; refine (eachPort_proj (fun c => c.free) _ (by intro a c; (try dsimp only); split <;> simp) _).trans (by simp)
  · rfl
  · rfl

@[simp] theorem drainEnd_hold (i : CommitInfo) (c : Chip) : (drainEnd i c).hold = c.hold := by
  unfold drainEnd; (try dsimp only); (repeat' split) <;> simp
@[simp] theorem drainEnd_pool (i : CommitInfo) (c : Chip) : (drainEnd i c).pool = c.pool := by
  unfold drainEnd; (try dsimp only); (repeat' split) <;> simp
@[simp] theorem drainEnd_mlink (i : CommitInfo) (c : Chip) : (drainEnd i c).mlink = c.mlink := by
  unfold drainEnd; (try dsimp only); (repeat' split) <;> simp
@[simp] theorem drainEnd_ctl (i : CommitInfo) (c : Chip) : (drainEnd i c).ctl = c.ctl := by
  unfold drainEnd; (try dsimp only); (repeat' split) <;> simp
@[simp] theorem drainEnd_free (i : CommitInfo) (c : Chip) : (drainEnd i c).free = c.free := by
  unfold drainEnd; (try dsimp only); (repeat' split) <;> simp

@[simp] theorem drainTest_hold (c : Chip) : (drainTest c).hold = c.hold := by
  unfold drainTest; (try dsimp only); (repeat' split) <;> simp
@[simp] theorem drainTest_pool (c : Chip) : (drainTest c).pool = c.pool := by
  unfold drainTest; (try dsimp only); (repeat' split) <;> simp
@[simp] theorem drainTest_mlink (c : Chip) : (drainTest c).mlink = c.mlink := by
  unfold drainTest; (try dsimp only); (repeat' split) <;> simp
@[simp] theorem drainTest_ctl (c : Chip) : (drainTest c).ctl = c.ctl := by
  unfold drainTest; (try dsimp only); (repeat' split) <;> simp
@[simp] theorem drainTest_free (c : Chip) : (drainTest c).free = c.free := by
  unfold drainTest; (try dsimp only); (repeat' split) <;> simp

@[simp] theorem endCommit_ports (x : Staging) (c : Chip) : (endCommit x c).ports = c.ports := by
  unfold endCommit; rfl
@[simp] theorem endCommit_hold (x : Staging) (c : Chip) : (endCommit x c).hold = c.hold := by
  unfold endCommit; rfl
@[simp] theorem endCommit_arb (x : Staging) (c : Chip) : (endCommit x c).arb = c.arb := by
  unfold endCommit; rfl
@[simp] theorem endCommit_pool (x : Staging) (c : Chip) : (endCommit x c).pool = c.pool := by
  unfold endCommit; rfl
@[simp] theorem endCommit_mlink (x : Staging) (c : Chip) : (endCommit x c).mlink = c.mlink := by
  unfold endCommit; rfl
@[simp] theorem endCommit_cfg (x : Staging) (c : Chip) : (endCommit x c).cfg = c.cfg := by
  unfold endCommit; rfl
@[simp] theorem endCommit_ctl (x : Staging) (c : Chip) : (endCommit x c).ctl = c.ctl := by
  unfold endCommit; rfl
@[simp] theorem endCommit_sent (x : Staging) (c : Chip) : (endCommit x c).sent = c.sent := by
  unfold endCommit; rfl
@[simp] theorem endCommit_free (x : Staging) (c : Chip) : (endCommit x c).free = c.free := by
  unfold endCommit; rfl

@[simp] theorem commitFailed_hold (i : CommitInfo) (c : Chip) : (commitFailed i c).hold = c.hold := by
  unfold commitFailed; (try dsimp only); (repeat' split) <;> simp
@[simp] theorem commitFailed_arb (i : CommitInfo) (c : Chip) : (commitFailed i c).arb = c.arb := by
  unfold commitFailed; (try dsimp only); (repeat' split) <;> simp
@[simp] theorem commitFailed_pool (i : CommitInfo) (c : Chip) : (commitFailed i c).pool = c.pool := by
  unfold commitFailed; (try dsimp only); (repeat' split) <;> simp
@[simp] theorem commitFailed_mlink (i : CommitInfo) (c : Chip) : (commitFailed i c).mlink = c.mlink := by
  unfold commitFailed; (try dsimp only); (repeat' split) <;> simp
@[simp] theorem commitFailed_cfg (i : CommitInfo) (c : Chip) : (commitFailed i c).cfg = c.cfg := by
  unfold commitFailed; (try dsimp only); (repeat' split) <;> simp
@[simp] theorem commitFailed_ctl (i : CommitInfo) (c : Chip) : (commitFailed i c).ctl = c.ctl := by
  unfold commitFailed; (try dsimp only); (repeat' split) <;> simp
@[simp] theorem commitFailed_free (i : CommitInfo) (c : Chip) : (commitFailed i c).free = c.free := by
  unfold commitFailed; (try dsimp only); (repeat' split) <;> simp

@[simp] theorem holdJobFailed_map (id : Nat) (c : Chip) : (holdJobFailed id c).map = c.map := by
  unfold holdJobFailed; (try dsimp only); (repeat' split) <;> simp
@[simp] theorem holdJobFailed_arb (id : Nat) (c : Chip) : (holdJobFailed id c).arb = c.arb := by
  unfold holdJobFailed; (try dsimp only); (repeat' split) <;> simp
@[simp] theorem holdJobFailed_pool (id : Nat) (c : Chip) : (holdJobFailed id c).pool = c.pool := by
  unfold holdJobFailed; (try dsimp only); (repeat' split) <;> simp
@[simp] theorem holdJobFailed_mlink (id : Nat) (c : Chip) : (holdJobFailed id c).mlink = c.mlink := by
  unfold holdJobFailed; (try dsimp only); (repeat' split) <;> simp
@[simp] theorem holdJobFailed_cfg (id : Nat) (c : Chip) : (holdJobFailed id c).cfg = c.cfg := by
  unfold holdJobFailed; (try dsimp only); (repeat' split) <;> simp
@[simp] theorem holdJobFailed_ctl (id : Nat) (c : Chip) : (holdJobFailed id c).ctl = c.ctl := by
  unfold holdJobFailed; (try dsimp only); (repeat' split) <;> simp
@[simp] theorem holdJobFailed_free (id : Nat) (c : Chip) : (holdJobFailed id c).free = c.free := by
  unfold holdJobFailed; (try dsimp only); (repeat' split) <;> simp

@[simp] theorem jobFailed_arb (j : Job) (c : Chip) : (jobFailed j c).arb = c.arb := by
  unfold jobFailed; (try dsimp only); (repeat' split) <;> simp
@[simp] theorem jobFailed_pool (j : Job) (c : Chip) : (jobFailed j c).pool = c.pool := by
  unfold jobFailed; (try dsimp only); (repeat' split) <;> simp
@[simp] theorem jobFailed_mlink (j : Job) (c : Chip) : (jobFailed j c).mlink = c.mlink := by
  unfold jobFailed; (try dsimp only); (repeat' split) <;> simp
@[simp] theorem jobFailed_cfg (j : Job) (c : Chip) : (jobFailed j c).cfg = c.cfg := by
  unfold jobFailed; (try dsimp only); (repeat' split) <;> simp
@[simp] theorem jobFailed_free (j : Job) (c : Chip) : (jobFailed j c).free = c.free := by
  unfold jobFailed; (try dsimp only); (repeat' split) <;> simp

@[simp] theorem jobSucceeded_pool (j : Job) (c : Chip) : (jobSucceeded j c).pool = c.pool := by
  unfold jobSucceeded; (try dsimp only); (repeat' split) <;> simp
@[simp] theorem jobSucceeded_mlink (j : Job) (c : Chip) : (jobSucceeded j c).mlink = c.mlink := by
  unfold jobSucceeded; (try dsimp only); (repeat' split) <;> simp
@[simp] theorem jobSucceeded_cfg (j : Job) (c : Chip) : (jobSucceeded j c).cfg = c.cfg := by
  unfold jobSucceeded; (try dsimp only); (repeat' split) <;> simp
@[simp] theorem jobSucceeded_ctl (j : Job) (c : Chip) : (jobSucceeded j c).ctl = c.ctl := by
  unfold jobSucceeded; (try dsimp only); (repeat' split) <;> simp
@[simp] theorem jobSucceeded_free (j : Job) (c : Chip) : (jobSucceeded j c).free = c.free := by
  unfold jobSucceeded; (try dsimp only); (repeat' split) <;> simp

@[simp] theorem setWriter_ports (w : Writer) (c : Chip) : (setWriter w c).ports = c.ports := by
  unfold setWriter; rfl
@[simp] theorem setWriter_map (w : Writer) (c : Chip) : (setWriter w c).map = c.map := by
  unfold setWriter; rfl
@[simp] theorem setWriter_hold (w : Writer) (c : Chip) : (setWriter w c).hold = c.hold := by
  unfold setWriter; rfl
@[simp] theorem setWriter_arb (w : Writer) (c : Chip) : (setWriter w c).arb = c.arb := by
  unfold setWriter; rfl
@[simp] theorem setWriter_pool (w : Writer) (c : Chip) : (setWriter w c).pool = c.pool := by
  unfold setWriter; rfl
@[simp] theorem setWriter_mlink (w : Writer) (c : Chip) : (setWriter w c).mlink = c.mlink := by
  unfold setWriter; rfl
@[simp] theorem setWriter_ctl (w : Writer) (c : Chip) : (setWriter w c).ctl = c.ctl := by
  unfold setWriter; rfl
@[simp] theorem setWriter_sent (w : Writer) (c : Chip) : (setWriter w c).sent = c.sent := by
  unfold setWriter; rfl
@[simp] theorem setWriter_free (w : Writer) (c : Chip) : (setWriter w c).free = c.free := by
  unfold setWriter; rfl

@[simp] theorem writerTake_arb (c : Chip) : (writerTake c).arb = c.arb := by
  unfold writerTake; (repeat' split) <;> first | rfl | exact (each_proj (fun c => c.arb) _ (by intro a c; simp) _ _).trans rfl
@[simp] theorem writerTake_pool (c : Chip) : (writerTake c).pool = c.pool := by
  unfold writerTake; (repeat' split) <;> first | rfl | exact (each_proj (fun c => c.pool) _ (by intro a c; simp) _ _).trans rfl
@[simp] theorem writerTake_mlink (c : Chip) : (writerTake c).mlink = c.mlink := by
  unfold writerTake; (repeat' split) <;> first | rfl | exact (each_proj (fun c => c.mlink) _ (by intro a c; simp) _ _).trans rfl
@[simp] theorem writerTake_free (c : Chip) : (writerTake c).free = c.free := by
  unfold writerTake; (repeat' split) <;> first | rfl | exact (each_proj (fun c => c.free) _ (by intro a c; simp) _ _).trans rfl

@[simp] theorem writeFailed_arb (w : Writer) (c : Chip) : (writeFailed w c).arb = c.arb := by
  unfold writeFailed; (try dsimp only); (repeat' split) <;> simp
@[simp] theorem writeFailed_pool (w : Writer) (c : Chip) : (writeFailed w c).pool = c.pool := by
  unfold writeFailed; (try dsimp only); (repeat' split) <;> simp
@[simp] theorem writeFailed_mlink (w : Writer) (c : Chip) : (writeFailed w c).mlink = c.mlink := by
  unfold writeFailed; (try dsimp only); (repeat' split) <;> simp
@[simp] theorem writeFailed_free (w : Writer) (c : Chip) : (writeFailed w c).free = c.free := by
  unfold writeFailed; (try dsimp only); (repeat' split) <;> simp

@[simp] theorem writeSucceeded_pool (c : Chip) : (writeSucceeded c).pool = c.pool := by
  unfold writeSucceeded; (try dsimp only); (repeat' split) <;> simp
@[simp] theorem writeSucceeded_mlink (c : Chip) : (writeSucceeded c).mlink = c.mlink := by
  unfold writeSucceeded; (try dsimp only); (repeat' split) <;> simp
@[simp] theorem writeSucceeded_ctl (c : Chip) : (writeSucceeded c).ctl = c.ctl := by
  unfold writeSucceeded; (try dsimp only); (repeat' split) <;> simp
@[simp] theorem writeSucceeded_free (c : Chip) : (writeSucceeded c).free = c.free := by
  unfold writeSucceeded; (try dsimp only); (repeat' split) <;> simp

@[simp] theorem settle_pool (c : Chip) : (settle c).pool = c.pool := by
  unfold settle; (try dsimp only); (repeat' split) <;> simp
@[simp] theorem settle_mlink (c : Chip) : (settle c).mlink = c.mlink := by
  unfold settle; (try dsimp only); (repeat' split) <;> simp
@[simp] theorem settle_free (c : Chip) : (settle c).free = c.free := by
  unfold settle; (try dsimp only); (repeat' split) <;> simp

@[simp] theorem closeIfIdle_map (p : Port) (c : Chip) : (closeIfIdle p c).map = c.map := by
  unfold closeIfIdle; (try dsimp only); (repeat' split) <;> simp
@[simp] theorem closeIfIdle_hold (p : Port) (c : Chip) : (closeIfIdle p c).hold = c.hold := by
  unfold closeIfIdle; (try dsimp only); (repeat' split) <;> simp
@[simp] theorem closeIfIdle_arb (p : Port) (c : Chip) : (closeIfIdle p c).arb = c.arb := by
  unfold closeIfIdle; (try dsimp only); (repeat' split) <;> simp
@[simp] theorem closeIfIdle_pool (p : Port) (c : Chip) : (closeIfIdle p c).pool = c.pool := by
  unfold closeIfIdle; (try dsimp only); (repeat' split) <;> simp
@[simp] theorem closeIfIdle_mlink (p : Port) (c : Chip) : (closeIfIdle p c).mlink = c.mlink := by
  unfold closeIfIdle; (try dsimp only); (repeat' split) <;> simp
@[simp] theorem closeIfIdle_cfg (p : Port) (c : Chip) : (closeIfIdle p c).cfg = c.cfg := by
  unfold closeIfIdle; (try dsimp only); (repeat' split) <;> simp
@[simp] theorem closeIfIdle_ctl (p : Port) (c : Chip) : (closeIfIdle p c).ctl = c.ctl := by
  unfold closeIfIdle; (try dsimp only); (repeat' split) <;> simp
@[simp] theorem closeIfIdle_free (p : Port) (c : Chip) : (closeIfIdle p c).free = c.free := by
  unfold closeIfIdle; (try dsimp only); (repeat' split) <;> simp

@[simp] theorem leaveWaits_ports (i : SlotNo) (c : Chip) : (leaveWaits i c).ports = c.ports := by
  unfold leaveWaits; rfl
@[simp] theorem leaveWaits_map (i : SlotNo) (c : Chip) : (leaveWaits i c).map = c.map := by
  unfold leaveWaits; rfl
@[simp] theorem leaveWaits_arb (i : SlotNo) (c : Chip) : (leaveWaits i c).arb = c.arb := by
  unfold leaveWaits; rfl
@[simp] theorem leaveWaits_pool (i : SlotNo) (c : Chip) : (leaveWaits i c).pool = c.pool := by
  unfold leaveWaits; rfl
@[simp] theorem leaveWaits_mlink (i : SlotNo) (c : Chip) : (leaveWaits i c).mlink = c.mlink := by
  unfold leaveWaits; rfl
@[simp] theorem leaveWaits_cfg (i : SlotNo) (c : Chip) : (leaveWaits i c).cfg = c.cfg := by
  unfold leaveWaits; rfl
@[simp] theorem leaveWaits_ctl (i : SlotNo) (c : Chip) : (leaveWaits i c).ctl = c.ctl := by
  unfold leaveWaits; rfl
@[simp] theorem leaveWaits_sent (i : SlotNo) (c : Chip) : (leaveWaits i c).sent = c.sent := by
  unfold leaveWaits; rfl
@[simp] theorem leaveWaits_free (i : SlotNo) (c : Chip) : (leaveWaits i c).free = c.free := by
  unfold leaveWaits; rfl

@[simp] theorem uncount_hold (p : Port) (r : SlotRec) (c : Chip) : (uncount p r c).hold = c.hold := by
  unfold uncount; (try dsimp only); (repeat' split) <;> simp
@[simp] theorem uncount_pool (p : Port) (r : SlotRec) (c : Chip) : (uncount p r c).pool = c.pool := by
  unfold uncount; (try dsimp only); (repeat' split) <;> simp
@[simp] theorem uncount_mlink (p : Port) (r : SlotRec) (c : Chip) : (uncount p r c).mlink = c.mlink := by
  unfold uncount; (try dsimp only); (repeat' split) <;> simp
@[simp] theorem uncount_cfg (p : Port) (r : SlotRec) (c : Chip) : (uncount p r c).cfg = c.cfg := by
  unfold uncount; (try dsimp only); (repeat' split) <;> simp
@[simp] theorem uncount_ctl (p : Port) (r : SlotRec) (c : Chip) : (uncount p r c).ctl = c.ctl := by
  unfold uncount; (try dsimp only); (repeat' split) <;> simp
@[simp] theorem uncount_sent (p : Port) (r : SlotRec) (c : Chip) : (uncount p r c).sent = c.sent := by
  unfold uncount; (try dsimp only); (repeat' split) <;> simp
@[simp] theorem uncount_free (p : Port) (r : SlotRec) (c : Chip) : (uncount p r c).free = c.free := by
  unfold uncount; (try dsimp only); (repeat' split) <;> simp

@[simp] theorem freeSlot_cfg (i : SlotNo) (c : Chip) : (freeSlot i c).cfg = c.cfg := by
  unfold freeSlot; (try dsimp only); (repeat' split) <;> simp
@[simp] theorem freeSlot_ctl (i : SlotNo) (c : Chip) : (freeSlot i c).ctl = c.ctl := by
  unfold freeSlot; (try dsimp only); (repeat' split) <;> simp
@[simp] theorem freeSlot_sent (i : SlotNo) (c : Chip) : (freeSlot i c).sent = c.sent := by
  unfold freeSlot; (try dsimp only); (repeat' split) <;> simp
@[simp] theorem freeSlot_free (i : SlotNo) (c : Chip) : (freeSlot i c).free = c.free := by
  unfold freeSlot; (try dsimp only); (repeat' split) <;> simp

@[simp] theorem setBringUp_ports (b : BringUp) (c : Chip) : (setBringUp b c).ports = c.ports := by
  unfold setBringUp; rfl
@[simp] theorem setBringUp_map (b : BringUp) (c : Chip) : (setBringUp b c).map = c.map := by
  unfold setBringUp; rfl
@[simp] theorem setBringUp_hold (b : BringUp) (c : Chip) : (setBringUp b c).hold = c.hold := by
  unfold setBringUp; rfl
@[simp] theorem setBringUp_arb (b : BringUp) (c : Chip) : (setBringUp b c).arb = c.arb := by
  unfold setBringUp; rfl
@[simp] theorem setBringUp_pool (b : BringUp) (c : Chip) : (setBringUp b c).pool = c.pool := by
  unfold setBringUp; rfl
@[simp] theorem setBringUp_cfg (b : BringUp) (c : Chip) : (setBringUp b c).cfg = c.cfg := by
  unfold setBringUp; rfl
@[simp] theorem setBringUp_ctl (b : BringUp) (c : Chip) : (setBringUp b c).ctl = c.ctl := by
  unfold setBringUp; rfl
@[simp] theorem setBringUp_sent (b : BringUp) (c : Chip) : (setBringUp b c).sent = c.sent := by
  unfold setBringUp; rfl
@[simp] theorem setBringUp_free (b : BringUp) (c : Chip) : (setBringUp b c).free = c.free := by
  unfold setBringUp; rfl

@[simp] theorem freeAllSlots_cfg (c : Chip) : (freeAllSlots c).cfg = c.cfg := by
  unfold freeAllSlots; exact each_proj (fun c => c.cfg) _ (by intro a c; (try dsimp only); (repeat' split) <;> simp) _ _
@[simp] theorem freeAllSlots_ctl (c : Chip) : (freeAllSlots c).ctl = c.ctl := by
  unfold freeAllSlots; exact each_proj (fun c => c.ctl) _ (by intro a c; (try dsimp only); (repeat' split) <;> simp) _ _
@[simp] theorem freeAllSlots_sent (c : Chip) : (freeAllSlots c).sent = c.sent := by
  unfold freeAllSlots; exact each_proj (fun c => c.sent) _ (by intro a c; (try dsimp only); (repeat' split) <;> simp) _ _
@[simp] theorem freeAllSlots_free (c : Chip) : (freeAllSlots c).free = c.free := by
  unfold freeAllSlots; exact each_proj (fun c => c.free) _ (by intro a c; (try dsimp only); (repeat' split) <;> simp) _ _

@[simp] theorem faultQueue_hold (p : Port) (c : Chip) : (faultQueue p c).hold = c.hold := by
  unfold faultQueue; exact each_proj (fun c => c.hold) _ (by intro a c; (try dsimp only); (repeat' split) <;> simp) _ _
@[simp] theorem faultQueue_pool (p : Port) (c : Chip) : (faultQueue p c).pool = c.pool := by
  unfold faultQueue; exact each_proj (fun c => c.pool) _ (by intro a c; (try dsimp only); (repeat' split) <;> simp) _ _
@[simp] theorem faultQueue_mlink (p : Port) (c : Chip) : (faultQueue p c).mlink = c.mlink := by
  unfold faultQueue; exact each_proj (fun c => c.mlink) _ (by intro a c; (try dsimp only); (repeat' split) <;> simp) _ _
@[simp] theorem faultQueue_cfg (p : Port) (c : Chip) : (faultQueue p c).cfg = c.cfg := by
  unfold faultQueue; exact each_proj (fun c => c.cfg) _ (by intro a c; (try dsimp only); (repeat' split) <;> simp) _ _
@[simp] theorem faultQueue_ctl (p : Port) (c : Chip) : (faultQueue p c).ctl = c.ctl := by
  unfold faultQueue; exact each_proj (fun c => c.ctl) _ (by intro a c; (try dsimp only); (repeat' split) <;> simp) _ _
@[simp] theorem faultQueue_free (p : Port) (c : Chip) : (faultQueue p c).free = c.free := by
  unfold faultQueue; exact each_proj (fun c => c.free) _ (by intro a c; (try dsimp only); (repeat' split) <;> simp) _ _

@[simp] theorem faultHolds_map (c : Chip) : (faultHolds c).map = c.map := by
  unfold faultHolds; exact each_proj (fun c => c.map) _ (by intro a c; (try dsimp only); (repeat' split) <;> simp) _ _
@[simp] theorem faultHolds_arb (c : Chip) : (faultHolds c).arb = c.arb := by
  unfold faultHolds; exact each_proj (fun c => c.arb) _ (by intro a c; (try dsimp only); (repeat' split) <;> simp) _ _
@[simp] theorem faultHolds_pool (c : Chip) : (faultHolds c).pool = c.pool := by
  unfold faultHolds; exact each_proj (fun c => c.pool) _ (by intro a c; (try dsimp only); (repeat' split) <;> simp) _ _
@[simp] theorem faultHolds_mlink (c : Chip) : (faultHolds c).mlink = c.mlink := by
  unfold faultHolds; exact each_proj (fun c => c.mlink) _ (by intro a c; (try dsimp only); (repeat' split) <;> simp) _ _
@[simp] theorem faultHolds_cfg (c : Chip) : (faultHolds c).cfg = c.cfg := by
  unfold faultHolds; exact each_proj (fun c => c.cfg) _ (by intro a c; (try dsimp only); (repeat' split) <;> simp) _ _
@[simp] theorem faultHolds_ctl (c : Chip) : (faultHolds c).ctl = c.ctl := by
  unfold faultHolds; exact each_proj (fun c => c.ctl) _ (by intro a c; (try dsimp only); (repeat' split) <;> simp) _ _
@[simp] theorem faultHolds_free (c : Chip) : (faultHolds c).free = c.free := by
  unfold faultHolds; exact each_proj (fun c => c.free) _ (by intro a c; (try dsimp only); (repeat' split) <;> simp) _ _

@[simp] theorem faultMap_hold (c : Chip) : (faultMap c).hold = c.hold := by
  unfold faultMap; (try dsimp only); (repeat' split) <;> simp
@[simp] theorem faultMap_arb (c : Chip) : (faultMap c).arb = c.arb := by
  unfold faultMap; (try dsimp only); (repeat' split) <;> simp
@[simp] theorem faultMap_pool (c : Chip) : (faultMap c).pool = c.pool := by
  unfold faultMap; (try dsimp only); (repeat' split) <;> simp
@[simp] theorem faultMap_mlink (c : Chip) : (faultMap c).mlink = c.mlink := by
  unfold faultMap; (try dsimp only); (repeat' split) <;> simp
@[simp] theorem faultMap_cfg (c : Chip) : (faultMap c).cfg = c.cfg := by
  unfold faultMap; (try dsimp only); (repeat' split) <;> simp
@[simp] theorem faultMap_ctl (c : Chip) : (faultMap c).ctl = c.ctl := by
  unfold faultMap; (try dsimp only); (repeat' split) <;> simp
@[simp] theorem faultMap_free (c : Chip) : (faultMap c).free = c.free := by
  unfold faultMap; (try dsimp only); (repeat' split) <;> simp

@[simp] theorem restartLogTime_ports (c : Chip) : (restartLogTime c).ports = c.ports := by
  unfold restartLogTime; rfl
@[simp] theorem restartLogTime_map (c : Chip) : (restartLogTime c).map = c.map := by
  unfold restartLogTime; rfl
@[simp] theorem restartLogTime_hold (c : Chip) : (restartLogTime c).hold = c.hold := by
  unfold restartLogTime; rfl
@[simp] theorem restartLogTime_arb (c : Chip) : (restartLogTime c).arb = c.arb := by
  unfold restartLogTime; rfl
@[simp] theorem restartLogTime_pool (c : Chip) : (restartLogTime c).pool = c.pool := by
  unfold restartLogTime; rfl
@[simp] theorem restartLogTime_mlink (c : Chip) : (restartLogTime c).mlink = c.mlink := by
  unfold restartLogTime; rfl
@[simp] theorem restartLogTime_cfg (c : Chip) : (restartLogTime c).cfg = c.cfg := by
  unfold restartLogTime; rfl
@[simp] theorem restartLogTime_sent (c : Chip) : (restartLogTime c).sent = c.sent := by
  unfold restartLogTime; rfl
@[simp] theorem restartLogTime_free (c : Chip) : (restartLogTime c).free = c.free := by
  unfold restartLogTime; rfl

@[simp] theorem writerRecovers_arb (c : Chip) : (writerRecovers c).arb = c.arb := by
  unfold writerRecovers; (try dsimp only); (repeat' split) <;> simp
@[simp] theorem writerRecovers_pool (c : Chip) : (writerRecovers c).pool = c.pool := by
  unfold writerRecovers; (try dsimp only); (repeat' split) <;> simp
@[simp] theorem writerRecovers_mlink (c : Chip) : (writerRecovers c).mlink = c.mlink := by
  unfold writerRecovers; (try dsimp only); (repeat' split) <;> simp
@[simp] theorem writerRecovers_free (c : Chip) : (writerRecovers c).free = c.free := by
  unfold writerRecovers; (try dsimp only); (repeat' split) <;> simp

@[simp] theorem dropJob_arb (j : Job) (c : Chip) : (dropJob j c).arb = c.arb := by
  unfold dropJob; (try dsimp only); (repeat' split) <;> simp
@[simp] theorem dropJob_pool (j : Job) (c : Chip) : (dropJob j c).pool = c.pool := by
  unfold dropJob; (try dsimp only); (repeat' split) <;> simp
@[simp] theorem dropJob_mlink (j : Job) (c : Chip) : (dropJob j c).mlink = c.mlink := by
  unfold dropJob; (try dsimp only); (repeat' split) <;> simp
@[simp] theorem dropJob_cfg (j : Job) (c : Chip) : (dropJob j c).cfg = c.cfg := by
  unfold dropJob; (try dsimp only); (repeat' split) <;> simp
@[simp] theorem dropJob_ctl (j : Job) (c : Chip) : (dropJob j c).ctl = c.ctl := by
  unfold dropJob; (try dsimp only); (repeat' split) <;> simp
@[simp] theorem dropJob_free (j : Job) (c : Chip) : (dropJob j c).free = c.free := by
  unfold dropJob; (try dsimp only); (repeat' split) <;> simp

@[simp] theorem setStep_ports (s : StartStep) (c : Chip) : (setStep s c).ports = c.ports := by
  unfold setStep; rfl
@[simp] theorem setStep_map (s : StartStep) (c : Chip) : (setStep s c).map = c.map := by
  unfold setStep; rfl
@[simp] theorem setStep_hold (s : StartStep) (c : Chip) : (setStep s c).hold = c.hold := by
  unfold setStep; rfl
@[simp] theorem setStep_arb (s : StartStep) (c : Chip) : (setStep s c).arb = c.arb := by
  unfold setStep; rfl
@[simp] theorem setStep_pool (s : StartStep) (c : Chip) : (setStep s c).pool = c.pool := by
  unfold setStep; rfl
@[simp] theorem setStep_mlink (s : StartStep) (c : Chip) : (setStep s c).mlink = c.mlink := by
  unfold setStep; rfl
@[simp] theorem setStep_ctl (s : StartStep) (c : Chip) : (setStep s c).ctl = c.ctl := by
  unfold setStep; rfl
@[simp] theorem setStep_sent (s : StartStep) (c : Chip) : (setStep s c).sent = c.sent := by
  unfold setStep; rfl
@[simp] theorem setStep_free (s : StartStep) (c : Chip) : (setStep s c).free = c.free := by
  unfold setStep; rfl

@[simp] theorem readCopy_ports (x : Copy) (c : Chip) : (readCopy x c).ports = c.ports := by
  unfold readCopy; (try dsimp only); (repeat' split) <;> simp
@[simp] theorem readCopy_map (x : Copy) (c : Chip) : (readCopy x c).map = c.map := by
  unfold readCopy; (try dsimp only); (repeat' split) <;> simp
@[simp] theorem readCopy_hold (x : Copy) (c : Chip) : (readCopy x c).hold = c.hold := by
  unfold readCopy; (try dsimp only); (repeat' split) <;> simp
@[simp] theorem readCopy_arb (x : Copy) (c : Chip) : (readCopy x c).arb = c.arb := by
  unfold readCopy; (try dsimp only); (repeat' split) <;> simp
@[simp] theorem readCopy_pool (x : Copy) (c : Chip) : (readCopy x c).pool = c.pool := by
  unfold readCopy; (try dsimp only); (repeat' split) <;> simp
@[simp] theorem readCopy_cfg (x : Copy) (c : Chip) : (readCopy x c).cfg = c.cfg := by
  unfold readCopy; (try dsimp only); (repeat' split) <;> simp
@[simp] theorem readCopy_ctl (x : Copy) (c : Chip) : (readCopy x c).ctl = c.ctl := by
  unfold readCopy; (try dsimp only); (repeat' split) <;> simp
@[simp] theorem readCopy_free (x : Copy) (c : Chip) : (readCopy x c).free = c.free := by
  unfold readCopy; (try dsimp only); (repeat' split) <;> simp

@[simp] theorem readLost_ports (c : Chip) : (readLost c).ports = c.ports := by
  unfold readLost; (try dsimp only); (repeat' split) <;> simp
@[simp] theorem readLost_map (c : Chip) : (readLost c).map = c.map := by
  unfold readLost; (try dsimp only); (repeat' split) <;> simp
@[simp] theorem readLost_hold (c : Chip) : (readLost c).hold = c.hold := by
  unfold readLost; (try dsimp only); (repeat' split) <;> simp
@[simp] theorem readLost_arb (c : Chip) : (readLost c).arb = c.arb := by
  unfold readLost; (try dsimp only); (repeat' split) <;> simp
@[simp] theorem readLost_pool (c : Chip) : (readLost c).pool = c.pool := by
  unfold readLost; (try dsimp only); (repeat' split) <;> simp
@[simp] theorem readLost_mlink (c : Chip) : (readLost c).mlink = c.mlink := by
  unfold readLost; (try dsimp only); (repeat' split) <;> simp
@[simp] theorem readLost_ctl (c : Chip) : (readLost c).ctl = c.ctl := by
  unfold readLost; (try dsimp only); (repeat' split) <;> simp
@[simp] theorem readLost_sent (c : Chip) : (readLost c).sent = c.sent := by
  unfold readLost; (try dsimp only); (repeat' split) <;> simp
@[simp] theorem readLost_free (c : Chip) : (readLost c).free = c.free := by
  unfold readLost; (try dsimp only); (repeat' split) <;> simp

@[simp] theorem judgeCopy_ports (x : Copy) (c : Chip) : (judgeCopy x c).ports = c.ports := by
  unfold judgeCopy; (try dsimp only); (repeat' split) <;> simp
@[simp] theorem judgeCopy_map (x : Copy) (c : Chip) : (judgeCopy x c).map = c.map := by
  unfold judgeCopy; (try dsimp only); (repeat' split) <;> simp
@[simp] theorem judgeCopy_hold (x : Copy) (c : Chip) : (judgeCopy x c).hold = c.hold := by
  unfold judgeCopy; (try dsimp only); (repeat' split) <;> simp
@[simp] theorem judgeCopy_arb (x : Copy) (c : Chip) : (judgeCopy x c).arb = c.arb := by
  unfold judgeCopy; (try dsimp only); (repeat' split) <;> simp
@[simp] theorem judgeCopy_pool (x : Copy) (c : Chip) : (judgeCopy x c).pool = c.pool := by
  unfold judgeCopy; (try dsimp only); (repeat' split) <;> simp
@[simp] theorem judgeCopy_mlink (x : Copy) (c : Chip) : (judgeCopy x c).mlink = c.mlink := by
  unfold judgeCopy; (try dsimp only); (repeat' split) <;> simp
@[simp] theorem judgeCopy_ctl (x : Copy) (c : Chip) : (judgeCopy x c).ctl = c.ctl := by
  unfold judgeCopy; (try dsimp only); (repeat' split) <;> simp
@[simp] theorem judgeCopy_sent (x : Copy) (c : Chip) : (judgeCopy x c).sent = c.sent := by
  unfold judgeCopy; (try dsimp only); (repeat' split) <;> simp
@[simp] theorem judgeCopy_free (x : Copy) (c : Chip) : (judgeCopy x c).free = c.free := by
  unfold judgeCopy; (try dsimp only); (repeat' split) <;> simp

@[simp] theorem disown_ports (i : SlotNo) (c : Chip) : (disown i c).ports = c.ports := by
  unfold disown; rfl
@[simp] theorem disown_map (i : SlotNo) (c : Chip) : (disown i c).map = c.map := by
  unfold disown; rfl
@[simp] theorem disown_hold (i : SlotNo) (c : Chip) : (disown i c).hold = c.hold := by
  unfold disown; rfl
@[simp] theorem disown_arb (i : SlotNo) (c : Chip) : (disown i c).arb = c.arb := by
  unfold disown; rfl
@[simp] theorem disown_pool (i : SlotNo) (c : Chip) : (disown i c).pool = c.pool := by
  unfold disown; rfl
@[simp] theorem disown_cfg (i : SlotNo) (c : Chip) : (disown i c).cfg = c.cfg := by
  unfold disown; rfl
@[simp] theorem disown_ctl (i : SlotNo) (c : Chip) : (disown i c).ctl = c.ctl := by
  unfold disown; rfl
@[simp] theorem disown_sent (i : SlotNo) (c : Chip) : (disown i c).sent = c.sent := by
  unfold disown; rfl
@[simp] theorem disown_free (i : SlotNo) (c : Chip) : (disown i c).free = c.free := by
  unfold disown; rfl

@[simp] theorem endSessionHolds_map (p : Port) (c : Chip) : (endSessionHolds p c).map = c.map := by
  unfold endSessionHolds; exact each_proj (fun c => c.map) _ (by intro a c; simp) _ _
@[simp] theorem endSessionHolds_arb (p : Port) (c : Chip) : (endSessionHolds p c).arb = c.arb := by
  unfold endSessionHolds; exact each_proj (fun c => c.arb) _ (by intro a c; simp) _ _
@[simp] theorem endSessionHolds_pool (p : Port) (c : Chip) : (endSessionHolds p c).pool = c.pool := by
  unfold endSessionHolds; exact each_proj (fun c => c.pool) _ (by intro a c; simp) _ _
@[simp] theorem endSessionHolds_mlink (p : Port) (c : Chip) : (endSessionHolds p c).mlink = c.mlink := by
  unfold endSessionHolds; exact each_proj (fun c => c.mlink) _ (by intro a c; simp) _ _
@[simp] theorem endSessionHolds_cfg (p : Port) (c : Chip) : (endSessionHolds p c).cfg = c.cfg := by
  unfold endSessionHolds; exact each_proj (fun c => c.cfg) _ (by intro a c; simp) _ _
@[simp] theorem endSessionHolds_ctl (p : Port) (c : Chip) : (endSessionHolds p c).ctl = c.ctl := by
  unfold endSessionHolds; exact each_proj (fun c => c.ctl) _ (by intro a c; simp) _ _
@[simp] theorem endSessionHolds_free (p : Port) (c : Chip) : (endSessionHolds p c).free = c.free := by
  unfold endSessionHolds; exact each_proj (fun c => c.free) _ (by intro a c; simp) _ _

@[simp] theorem endSessionStaging_ports (p : Port) (c : Chip) : (endSessionStaging p c).ports = c.ports := by
  unfold endSessionStaging; (try dsimp only); (repeat' split) <;> simp
@[simp] theorem endSessionStaging_hold (p : Port) (c : Chip) : (endSessionStaging p c).hold = c.hold := by
  unfold endSessionStaging; (try dsimp only); (repeat' split) <;> simp
@[simp] theorem endSessionStaging_arb (p : Port) (c : Chip) : (endSessionStaging p c).arb = c.arb := by
  unfold endSessionStaging; (try dsimp only); (repeat' split) <;> simp
@[simp] theorem endSessionStaging_pool (p : Port) (c : Chip) : (endSessionStaging p c).pool = c.pool := by
  unfold endSessionStaging; (try dsimp only); (repeat' split) <;> simp
@[simp] theorem endSessionStaging_mlink (p : Port) (c : Chip) : (endSessionStaging p c).mlink = c.mlink := by
  unfold endSessionStaging; (try dsimp only); (repeat' split) <;> simp
@[simp] theorem endSessionStaging_cfg (p : Port) (c : Chip) : (endSessionStaging p c).cfg = c.cfg := by
  unfold endSessionStaging; (try dsimp only); (repeat' split) <;> simp
@[simp] theorem endSessionStaging_ctl (p : Port) (c : Chip) : (endSessionStaging p c).ctl = c.ctl := by
  unfold endSessionStaging; (try dsimp only); (repeat' split) <;> simp
@[simp] theorem endSessionStaging_sent (p : Port) (c : Chip) : (endSessionStaging p c).sent = c.sent := by
  unfold endSessionStaging; (try dsimp only); (repeat' split) <;> simp
@[simp] theorem endSessionStaging_free (p : Port) (c : Chip) : (endSessionStaging p c).free = c.free := by
  unfold endSessionStaging; (try dsimp only); (repeat' split) <;> simp

@[simp] theorem stopDelivery_ports (p : Port) (t : Tag) (l : List PageNo) (c : Chip) : (stopDelivery p t l c).ports = c.ports := by
  unfold stopDelivery emitData; exact each_proj (fun c => c.ports) _ (by intro a c; rfl) _ _
@[simp] theorem stopDelivery_map (p : Port) (t : Tag) (l : List PageNo) (c : Chip) : (stopDelivery p t l c).map = c.map := by
  unfold stopDelivery emitData; exact each_proj (fun c => c.map) _ (by intro a c; rfl) _ _
@[simp] theorem stopDelivery_hold (p : Port) (t : Tag) (l : List PageNo) (c : Chip) : (stopDelivery p t l c).hold = c.hold := by
  unfold stopDelivery emitData; exact each_proj (fun c => c.hold) _ (by intro a c; rfl) _ _
@[simp] theorem stopDelivery_arb (p : Port) (t : Tag) (l : List PageNo) (c : Chip) : (stopDelivery p t l c).arb = c.arb := by
  unfold stopDelivery emitData; exact each_proj (fun c => c.arb) _ (by intro a c; rfl) _ _
@[simp] theorem stopDelivery_pool (p : Port) (t : Tag) (l : List PageNo) (c : Chip) : (stopDelivery p t l c).pool = c.pool := by
  unfold stopDelivery emitData; exact each_proj (fun c => c.pool) _ (by intro a c; rfl) _ _
@[simp] theorem stopDelivery_mlink (p : Port) (t : Tag) (l : List PageNo) (c : Chip) : (stopDelivery p t l c).mlink = c.mlink := by
  unfold stopDelivery emitData; exact each_proj (fun c => c.mlink) _ (by intro a c; rfl) _ _
@[simp] theorem stopDelivery_cfg (p : Port) (t : Tag) (l : List PageNo) (c : Chip) : (stopDelivery p t l c).cfg = c.cfg := by
  unfold stopDelivery emitData; exact each_proj (fun c => c.cfg) _ (by intro a c; rfl) _ _
@[simp] theorem stopDelivery_ctl (p : Port) (t : Tag) (l : List PageNo) (c : Chip) : (stopDelivery p t l c).ctl = c.ctl := by
  unfold stopDelivery emitData; exact each_proj (fun c => c.ctl) _ (by intro a c; rfl) _ _

@[simp] theorem abandonSlot_ports (i : SlotNo) (a : AbandonCause) (c : Chip) : (abandonSlot i a c).ports = c.ports := by
  unfold abandonSlot; (try dsimp only); (repeat' split) <;> simp
@[simp] theorem abandonSlot_map (i : SlotNo) (a : AbandonCause) (c : Chip) : (abandonSlot i a c).map = c.map := by
  unfold abandonSlot; (try dsimp only); (repeat' split) <;> simp
@[simp] theorem abandonSlot_hold (i : SlotNo) (a : AbandonCause) (c : Chip) : (abandonSlot i a c).hold = c.hold := by
  unfold abandonSlot; (try dsimp only); (repeat' split) <;> simp
@[simp] theorem abandonSlot_arb (i : SlotNo) (a : AbandonCause) (c : Chip) : (abandonSlot i a c).arb = c.arb := by
  unfold abandonSlot; (try dsimp only); (repeat' split) <;> simp
@[simp] theorem abandonSlot_pool (i : SlotNo) (a : AbandonCause) (c : Chip) : (abandonSlot i a c).pool = c.pool := by
  unfold abandonSlot; (try dsimp only); (repeat' split) <;> simp
@[simp] theorem abandonSlot_cfg (i : SlotNo) (a : AbandonCause) (c : Chip) : (abandonSlot i a c).cfg = c.cfg := by
  unfold abandonSlot; (try dsimp only); (repeat' split) <;> simp
@[simp] theorem abandonSlot_ctl (i : SlotNo) (a : AbandonCause) (c : Chip) : (abandonSlot i a c).ctl = c.ctl := by
  unfold abandonSlot; (try dsimp only); (repeat' split) <;> simp
@[simp] theorem abandonSlot_free (i : SlotNo) (a : AbandonCause) (c : Chip) : (abandonSlot i a c).free = c.free := by
  unfold abandonSlot; (try dsimp only); (repeat' split) <;> simp

@[simp] theorem answerOwner_map (o : Outcome) (d : List Word) (x : Outcome) (a : Option Tag) (r : SlotRec) (c : Chip) : (answerOwner o d x a r c).map = c.map := by
  unfold answerOwner answerAbort; (try dsimp only); (repeat' split) <;> simp
@[simp] theorem answerOwner_hold (o : Outcome) (d : List Word) (x : Outcome) (a : Option Tag) (r : SlotRec) (c : Chip) : (answerOwner o d x a r c).hold = c.hold := by
  unfold answerOwner answerAbort; (try dsimp only); (repeat' split) <;> simp
@[simp] theorem answerOwner_arb (o : Outcome) (d : List Word) (x : Outcome) (a : Option Tag) (r : SlotRec) (c : Chip) : (answerOwner o d x a r c).arb = c.arb := by
  unfold answerOwner answerAbort; (try dsimp only); (repeat' split) <;> simp
@[simp] theorem answerOwner_pool (o : Outcome) (d : List Word) (x : Outcome) (a : Option Tag) (r : SlotRec) (c : Chip) : (answerOwner o d x a r c).pool = c.pool := by
  unfold answerOwner answerAbort; (try dsimp only); (repeat' split) <;> simp
@[simp] theorem answerOwner_mlink (o : Outcome) (d : List Word) (x : Outcome) (a : Option Tag) (r : SlotRec) (c : Chip) : (answerOwner o d x a r c).mlink = c.mlink := by
  unfold answerOwner answerAbort; (try dsimp only); (repeat' split) <;> simp
@[simp] theorem answerOwner_cfg (o : Outcome) (d : List Word) (x : Outcome) (a : Option Tag) (r : SlotRec) (c : Chip) : (answerOwner o d x a r c).cfg = c.cfg := by
  unfold answerOwner answerAbort; (try dsimp only); (repeat' split) <;> simp
@[simp] theorem answerOwner_ctl (o : Outcome) (d : List Word) (x : Outcome) (a : Option Tag) (r : SlotRec) (c : Chip) : (answerOwner o d x a r c).ctl = c.ctl := by
  unfold answerOwner answerAbort; (try dsimp only); (repeat' split) <;> simp
@[simp] theorem answerOwner_free (o : Outcome) (d : List Word) (x : Outcome) (a : Option Tag) (r : SlotRec) (c : Chip) : (answerOwner o d x a r c).free = c.free := by
  unfold answerOwner answerAbort; (try dsimp only); (repeat' split) <;> simp

@[simp] theorem setLink_map (p : Port) (l : LinkState) (c : Chip) : (setLink p l c).map = c.map := by
  unfold setLink; rfl
@[simp] theorem setLink_hold (p : Port) (l : LinkState) (c : Chip) : (setLink p l c).hold = c.hold := by
  unfold setLink; rfl
@[simp] theorem setLink_arb (p : Port) (l : LinkState) (c : Chip) : (setLink p l c).arb = c.arb := by
  unfold setLink; rfl
@[simp] theorem setLink_pool (p : Port) (l : LinkState) (c : Chip) : (setLink p l c).pool = c.pool := by
  unfold setLink; rfl
@[simp] theorem setLink_mlink (p : Port) (l : LinkState) (c : Chip) : (setLink p l c).mlink = c.mlink := by
  unfold setLink; rfl
@[simp] theorem setLink_cfg (p : Port) (l : LinkState) (c : Chip) : (setLink p l c).cfg = c.cfg := by
  unfold setLink; rfl
@[simp] theorem setLink_ctl (p : Port) (l : LinkState) (c : Chip) : (setLink p l c).ctl = c.ctl := by
  unfold setLink; rfl
@[simp] theorem setLink_sent (p : Port) (l : LinkState) (c : Chip) : (setLink p l c).sent = c.sent := by
  unfold setLink; rfl
@[simp] theorem setLink_free (p : Port) (l : LinkState) (c : Chip) : (setLink p l c).free = c.free := by
  unfold setLink; rfl

@[simp] theorem setStaging_ports (x : Staging) (c : Chip) : (setStaging x c).ports = c.ports := by
  unfold setStaging; rfl
@[simp] theorem setStaging_hold (x : Staging) (c : Chip) : (setStaging x c).hold = c.hold := by
  unfold setStaging; rfl
@[simp] theorem setStaging_arb (x : Staging) (c : Chip) : (setStaging x c).arb = c.arb := by
  unfold setStaging; rfl
@[simp] theorem setStaging_pool (x : Staging) (c : Chip) : (setStaging x c).pool = c.pool := by
  unfold setStaging; rfl
@[simp] theorem setStaging_mlink (x : Staging) (c : Chip) : (setStaging x c).mlink = c.mlink := by
  unfold setStaging; rfl
@[simp] theorem setStaging_cfg (x : Staging) (c : Chip) : (setStaging x c).cfg = c.cfg := by
  unfold setStaging; rfl
@[simp] theorem setStaging_ctl (x : Staging) (c : Chip) : (setStaging x c).ctl = c.ctl := by
  unfold setStaging; rfl
@[simp] theorem setStaging_sent (x : Staging) (c : Chip) : (setStaging x c).sent = c.sent := by
  unfold setStaging; rfl
@[simp] theorem setStaging_free (x : Staging) (c : Chip) : (setStaging x c).free = c.free := by
  unfold setStaging; rfl

@[simp] theorem returnJob_ports (c : Chip) : (returnJob c).ports = c.ports := by
  unfold returnJob; (try dsimp only); (repeat' split) <;> simp
@[simp] theorem returnJob_map (c : Chip) : (returnJob c).map = c.map := by
  unfold returnJob; (try dsimp only); (repeat' split) <;> simp
@[simp] theorem returnJob_hold (c : Chip) : (returnJob c).hold = c.hold := by
  unfold returnJob; (try dsimp only); (repeat' split) <;> simp
@[simp] theorem returnJob_arb (c : Chip) : (returnJob c).arb = c.arb := by
  unfold returnJob; (try dsimp only); (repeat' split) <;> simp
@[simp] theorem returnJob_pool (c : Chip) : (returnJob c).pool = c.pool := by
  unfold returnJob; (try dsimp only); (repeat' split) <;> simp
@[simp] theorem returnJob_mlink (c : Chip) : (returnJob c).mlink = c.mlink := by
  unfold returnJob; (try dsimp only); (repeat' split) <;> simp
@[simp] theorem returnJob_ctl (c : Chip) : (returnJob c).ctl = c.ctl := by
  unfold returnJob; (try dsimp only); (repeat' split) <;> simp
@[simp] theorem returnJob_sent (c : Chip) : (returnJob c).sent = c.sent := by
  unfold returnJob; (try dsimp only); (repeat' split) <;> simp
@[simp] theorem returnJob_free (c : Chip) : (returnJob c).free = c.free := by
  unfold returnJob; (try dsimp only); (repeat' split) <;> simp

@[simp] theorem placeBlock_ports (r : SlotRec) (k : Nat) (b : Block) (c : Chip) : (placeBlock r k b c).ports = c.ports := by
  unfold placeBlock; (try dsimp only); (repeat' split) <;> simp
@[simp] theorem placeBlock_map (r : SlotRec) (k : Nat) (b : Block) (c : Chip) : (placeBlock r k b c).map = c.map := by
  unfold placeBlock; (try dsimp only); (repeat' split) <;> simp
@[simp] theorem placeBlock_hold (r : SlotRec) (k : Nat) (b : Block) (c : Chip) : (placeBlock r k b c).hold = c.hold := by
  unfold placeBlock; (try dsimp only); (repeat' split) <;> simp
@[simp] theorem placeBlock_arb (r : SlotRec) (k : Nat) (b : Block) (c : Chip) : (placeBlock r k b c).arb = c.arb := by
  unfold placeBlock; (try dsimp only); (repeat' split) <;> simp
@[simp] theorem placeBlock_mlink (r : SlotRec) (k : Nat) (b : Block) (c : Chip) : (placeBlock r k b c).mlink = c.mlink := by
  unfold placeBlock; (try dsimp only); (repeat' split) <;> simp
@[simp] theorem placeBlock_ctl (r : SlotRec) (k : Nat) (b : Block) (c : Chip) : (placeBlock r k b c).ctl = c.ctl := by
  unfold placeBlock; (try dsimp only); (repeat' split) <;> simp
@[simp] theorem placeBlock_sent (r : SlotRec) (k : Nat) (b : Block) (c : Chip) : (placeBlock r k b c).sent = c.sent := by
  unfold placeBlock; (try dsimp only); (repeat' split) <;> simp
@[simp] theorem placeBlock_free (r : SlotRec) (k : Nat) (b : Block) (c : Chip) : (placeBlock r k b c).free = c.free := by
  unfold placeBlock; (try dsimp only); (repeat' split) <;> simp

@[simp] theorem setMlink_ports (l : LinkState) (c : Chip) : (setMlink l c).ports = c.ports := by
  unfold setMlink; rfl
@[simp] theorem setMlink_map (l : LinkState) (c : Chip) : (setMlink l c).map = c.map := by
  unfold setMlink; rfl
@[simp] theorem setMlink_hold (l : LinkState) (c : Chip) : (setMlink l c).hold = c.hold := by
  unfold setMlink; rfl
@[simp] theorem setMlink_arb (l : LinkState) (c : Chip) : (setMlink l c).arb = c.arb := by
  unfold setMlink; rfl
@[simp] theorem setMlink_pool (l : LinkState) (c : Chip) : (setMlink l c).pool = c.pool := by
  unfold setMlink; rfl
@[simp] theorem setMlink_cfg (l : LinkState) (c : Chip) : (setMlink l c).cfg = c.cfg := by
  unfold setMlink; rfl
@[simp] theorem setMlink_ctl (l : LinkState) (c : Chip) : (setMlink l c).ctl = c.ctl := by
  unfold setMlink; rfl
@[simp] theorem setMlink_sent (l : LinkState) (c : Chip) : (setMlink l c).sent = c.sent := by
  unfold setMlink; rfl
@[simp] theorem setMlink_free (l : LinkState) (c : Chip) : (setMlink l c).free = c.free := by
  unfold setMlink; rfl

@[simp] theorem countLate_ports (i : SlotNo) (r : SlotRec) (c : Chip) : (countLate i r c).ports = c.ports := by
  unfold countLate; (try dsimp only); (repeat' split) <;> simp
@[simp] theorem countLate_map (i : SlotNo) (r : SlotRec) (c : Chip) : (countLate i r c).map = c.map := by
  unfold countLate; (try dsimp only); (repeat' split) <;> simp
@[simp] theorem countLate_hold (i : SlotNo) (r : SlotRec) (c : Chip) : (countLate i r c).hold = c.hold := by
  unfold countLate; (try dsimp only); (repeat' split) <;> simp
@[simp] theorem countLate_arb (i : SlotNo) (r : SlotRec) (c : Chip) : (countLate i r c).arb = c.arb := by
  unfold countLate; (try dsimp only); (repeat' split) <;> simp
@[simp] theorem countLate_pool (i : SlotNo) (r : SlotRec) (c : Chip) : (countLate i r c).pool = c.pool := by
  unfold countLate; (try dsimp only); (repeat' split) <;> simp
@[simp] theorem countLate_cfg (i : SlotNo) (r : SlotRec) (c : Chip) : (countLate i r c).cfg = c.cfg := by
  unfold countLate; (try dsimp only); (repeat' split) <;> simp
@[simp] theorem countLate_ctl (i : SlotNo) (r : SlotRec) (c : Chip) : (countLate i r c).ctl = c.ctl := by
  unfold countLate; (try dsimp only); (repeat' split) <;> simp
@[simp] theorem countLate_sent (i : SlotNo) (r : SlotRec) (c : Chip) : (countLate i r c).sent = c.sent := by
  unfold countLate; (try dsimp only); (repeat' split) <;> simp
@[simp] theorem countLate_free (i : SlotNo) (r : SlotRec) (c : Chip) : (countLate i r c).free = c.free := by
  unfold countLate; (try dsimp only); (repeat' split) <;> simp

end Sys2Proof.Laws
end

