-- ==== Sys2Proof/Laws/Operands.lean ====
section
/-! SUPPORT. Parameter lists: every code is read back as the value it was written for, and a parser accepts exactly the
lists that spell its parameters. -/

namespace Sys2Proof.Laws

open Sys2Proof.Machine Sys2Proof.Safety

theorem item_toNat {n : Nat} (h : n < 4294967296) : (item n).toNat = n := by
  simp [item]; omega

@[simp] theorem item_of_toNat (x : Word) : item x.toNat = x := by simp [item]

theorem windowOfItem_eq_some (x : Word) (n : WindowNo) : windowOfItem x = some n ↔ x = item n.val := by
  unfold windowOfItem
  constructor
  · intro h
    split at h <;> simp at h
    subst h; simp
  · rintro rfl
    have : (item n.val).toNat = n.val := item_toNat (by omega)
    simp [this]

theorem rightsOfCode_eq_some (x : Word) (r : Rights) : Rights.ofCode x.toNat = some r ↔ x = item r.code := by
  constructor
  · intro h
    rw [← item_of_toNat x]
    unfold Rights.ofCode at h
    split at h <;> simp at h <;> subst h <;> simp [Rights.code, *]
  · rintro rfl; cases r <;> rfl

theorem discardOfCode_eq_some (x : Word) (r : DiscardRule) : DiscardRule.ofCode x.toNat = some r ↔ x = item r.code := by
  constructor
  · intro h
    rw [← item_of_toNat x]
    unfold DiscardRule.ofCode at h
    split at h <;> simp at h <;> subst h <;> simp [DiscardRule.code, *]
  · rintro rfl; cases r <;> rfl

theorem durableOfCode_eq_some (x : Word) (r : DurableRule) : DurableRule.ofCode x.toNat = some r ↔ x = item r.code := by
  constructor
  · intro h
    rw [← item_of_toNat x]
    unfold DurableRule.ofCode at h
    split at h <;> simp at h <;> subst h <;> simp [DurableRule.code, *]
  · rintro rfl; cases r <;> rfl

theorem classOfCode_eq_some (x : Word) (r : HoldClass) : HoldClass.ofCode x.toNat = some r ↔ x = item r.code := by
  constructor
  · intro h
    rw [← item_of_toNat x]
    unfold HoldClass.ofCode at h
    split at h <;> simp at h <;> subst h <;> simp [HoldClass.code, *]
  · rintro rfl; cases r <;> rfl

theorem scopeOfCode_eq_some (x : Word) (r : HoldScope) : HoldScope.ofCode x.toNat = some r ↔ x = item r.code := by
  constructor
  · intro h
    rw [← item_of_toNat x]
    unfold HoldScope.ofCode at h
    split at h <;> simp at h <;> subst h <;> simp [HoldScope.code, *]
  · rintro rfl; cases r <;> rfl

theorem portOfCode_eq_some (x : Word) (p : Port) : portOfCode x.toNat = some p ↔ x = item (portCode p) := by
  constructor
  · intro h
    rw [← item_of_toNat x]
    unfold portOfCode at h
    split at h <;> simp at h <;> subst h <;> simp [portCode, *]
  · rintro rfl; cases p <;> rfl

theorem privilegeOfCode_eq_some (x : Word) (v : Privilege) : Privilege.ofCode x.toNat = some v ↔ x = item v.code := by
  constructor
  · intro h
    rw [← item_of_toNat x]
    unfold Privilege.ofCode at h
    split at h <;> simp at h <;> subst h <;> simp [Privilege.code, *]
  · rintro rfl; cases v <;> rfl

theorem placeParams_eq_some (ws : List Word) (q : PlaceParams) : placeParams ws = some q ↔ PlaceList ws q := by
  constructor
  · intro h
    unfold placeParams at h
    split at h
    · simp [placeOfItems, Option.bind_eq_some_iff, inForm, windowOfItem_eq_some, classOfCode_eq_some,
        scopeOfCode_eq_some] at h
      obtain ⟨w, rfl, c, rfl, s, rfl, hl, rfl⟩ := h
      exact ⟨hl, .inl ⟨rfl, rfl⟩⟩
    · simp [placeOfItems, Option.bind_eq_some_iff, inForm, windowOfItem_eq_some, classOfCode_eq_some,
        scopeOfCode_eq_some, expiryOfItem, Config.maxExpiry] at h
      obtain ⟨e, he, w, rfl, c, rfl, s, rfl, hl, rfl⟩ := h
      rename_i x
      by_cases hx : 1 ≤ x.toNat ∧ x.toNat ≤ 65535
      · simp only [hx, and_self, if_true, Option.some.injEq] at he
        subst he
        exact ⟨hl, .inr ⟨_, rfl, hx.1, hx.2, by simp⟩⟩
      · simp [hx] at he
    · simp at h
  · rintro ⟨hl, ⟨he, rfl⟩ | ⟨e, he, h1, h2, rfl⟩⟩
    · cases q
      simp [placeParams, placeOfItems, Option.bind_eq_some_iff, inForm, windowOfItem_eq_some, classOfCode_eq_some,
        scopeOfCode_eq_some] at *
      simp_all
    · have : (item e).toNat = e := item_toNat (by omega)
      cases q
      simp [placeParams, placeOfItems, Option.bind_eq_some_iff, inForm, windowOfItem_eq_some, classOfCode_eq_some,
        scopeOfCode_eq_some, expiryOfItem, Config.maxExpiry, this] at *
      simp_all

theorem stageWindowParams_eq_some (ws : List Word) (n : WindowNo) (w : Window) :
    stageWindowParams ws = some (n, w) ↔ WindowForm w ∧ ws = windowItems n w := by
  constructor
  · intro h
    unfold stageWindowParams at h
    split at h
    · simp [windowOfFields, Option.bind_eq_some_iff, inForm, windowOfItem_eq_some, rightsOfCode_eq_some,
        discardOfCode_eq_some, durableOfCode_eq_some] at h
      obtain ⟨rfl, a, rfl, b, rfl, c, rfl, d, rfl, e, rfl, q, hq, hl, rfl⟩ := h
      unfold quotaOfCode at hq
      split at hq
      · rename_i h0
        simp at hq; subst hq
        exact ⟨⟨hl, .inl rfl⟩, by simp [windowItems, quotaCode]; rw [← h0, item_of_toNat]⟩
      · split at hq <;> simp at hq
        subst hq
        exact ⟨⟨hl, .inr ⟨_, rfl, by omega, by omega⟩⟩, by simp [windowItems, quotaCode]⟩
    · simp at h
  · rintro ⟨⟨hl, hq⟩, rfl⟩
    have hq' : quotaOfCode (item (quotaCode w.quota)).toNat = some w.quota := by
      rcases hq with h | ⟨k, h, h1, h2⟩
      · rw [h]; rfl
      · rw [h]
        simp only [quotaCode, Option.getD_some]
        rw [item_toNat (by omega)]
        simp only [quotaOfCode]
        rw [if_neg (by omega), if_pos (by omega)]
    simp [stageWindowParams, windowItems, windowOfFields, Option.bind_eq_some_iff, inForm, windowOfItem_eq_some,
      rightsOfCode_eq_some, discardOfCode_eq_some, durableOfCode_eq_some, hq', hl]
    exact ⟨_, rfl, _, rfl, _, rfl, _, rfl, _, rfl, rfl⟩

theorem stageDropParams_eq_some (ws : List Word) (n : WindowNo) : stageDropParams ws = some n ↔ ws = [item n.val] := by
  unfold stageDropParams
  split
  · rename_i x; simp [windowOfItem_eq_some]
  · rename_i h
    constructor
    · intro h'; simp at h'
    · rintro rfl; exact absurd rfl (h _)

theorem stagePortParams_eq_some (ws : List Word) (p : Port) (e : PortEntry) :
    stagePortParams ws = some (p, e) ↔
      1 ≤ e.weight ∧ e.weight ≤ 8 ∧ ws = [item (portCode p), item e.privilege.code, item e.weight] := by
  constructor
  · intro h
    unfold stagePortParams at h
    split at h
    · simp [Option.bind_eq_some_iff, inForm, portOfCode_eq_some, privilegeOfCode_eq_some, weightOk] at h
      obtain ⟨rfl, v, rfl, h1, rfl⟩ := h
      exact ⟨h1.1, h1.2, by simp⟩
    · simp at h
  · rintro ⟨h1, h2, rfl⟩
    have : (item e.weight).toNat = e.weight := item_toNat (by omega)
    simp [stagePortParams, Option.bind_eq_some_iff, inForm, portOfCode_eq_some, privilegeOfCode_eq_some, weightOk,
      this, h1, h2]
    exact ⟨_, rfl, rfl⟩

theorem paramsOfFields_eq_some (a b c : Nat) (q : Params) :
    paramsOfFields a b c = some q ↔ ParamsForm ⟨a, b, c⟩ ∧ q = ⟨a, b, c⟩ := by
  unfold paramsOfFields
  split
  · rename_i h
    constructor
    · intro hq; exact ⟨h, (Option.some.inj hq).symm⟩
    · rintro ⟨-, rfl⟩; rfl
  · rename_i h
    constructor
    · intro hq; cases hq
    · rintro ⟨hq, -⟩; exact absurd hq h

theorem releaseParams_eq_some (ws : List Word) (n : Nat) :
    releaseParams ws = some n ↔ ∃ x, ws = [x] ∧ x ≠ 0#32 ∧ n = x.toNat := by
  unfold releaseParams
  split
  · rename_i x
    by_cases h : x = 0#32
    · subst h; constructor
      · intro h'; cases h'
      · rintro ⟨y, hy, h0, -⟩; injection hy with hy; exact absurd hy.symm h0
    · rw [if_neg h]
      constructor
      · intro h'; exact ⟨x, rfl, h, (Option.some.inj h').symm⟩
      · rintro ⟨y, hy, -, rfl⟩; injection hy with hy; rw [hy]
  · rename_i h
    constructor
    · intro h'; simp at h'
    · rintro ⟨x, rfl, -⟩; exact absurd rfl (h _)

theorem commitParams_eq_some (ws : List Word) (b : Bool) : commitParams ws = some b ↔ ws = [item b.toNat] := by
  constructor
  · intro h
    unfold commitParams at h
    split at h
    · rename_i x
      rw [← item_of_toNat x]
      unfold persistOfCode at h
      split at h <;> simp at h <;> subst h <;> simp [*]
    · simp at h
  · rintro rfl; cases b <;> rfl

end Sys2Proof.Laws
end

