-- ==== Sys2Proof/Laws/Ops.lean ====
section
/-! SUPPORT. One lemma for each shared operation: what it gives in the states that the obligations speak of. -/

namespace Sys2Proof.Laws

open Sys2Proof.Machine Sys2Proof.Safety

/-! ### Tables -/

theorem Table.set_set {n : Nat} {α : Type} (t : Table n α) (i : Fin n) (x y : α) :
    (t.set i x).set i y = t.set i y := by simp [Table.set]

theorem Table.set_get {n : Nat} {α : Type} (t : Table n α) (i : Fin n) (x : α) (h : t.get i = x) : t.set i x = t := by
  cases t; simp [Table.set, Table.get] at *; subst h; simp

theorem PerPort.modify_modify {α : Type} (t : PerPort α) (p : Port) (f g : α → α) :
    (t.modify p f).modify p g = t.modify p fun x => g (f x) := by cases p <;> rfl

theorem PerPort.modify_eq_self {α : Type} (t : PerPort α) (p : Port) (f : α → α) (h : f (t.get p) = t.get p) :
    t.modify p f = t := by
  cases p <;> simp [PerPort.modify, PerPort.set, PerPort.get] at * <;> rw [h]

/-! ### Frames and records -/

theorem sendPort_up {p : Port} {c : Chip} (h : (c.ports.get p).link = .up) (f : PFrame) : sendPort p f c = told p f c := by
  simp [sendPort, h, told, Chip.emit]

theorem sendPort_down {p : Port} {c : Chip} (h : (c.ports.get p).link = .down) (f : PFrame) : sendPort p f c = c := by
  simp [sendPort, h]

theorem sendMedia_up {c : Chip} (h : c.mlink.link = .up) (f : MFrame) : sendMedia f c = toldMedia f c := by
  simp [sendMedia, h, toldMedia, Chip.emit]

theorem sendMedia_down {c : Chip} (h : c.mlink.link = .down) (f : MFrame) : sendMedia f c = c := by
  simp [sendMedia, h]

theorem setRecord_eq (p : Port) (t : Tag) (x : Option Record) (c : Chip) : setRecord p t x c = withRecord p t x c := rfl

@[simp] theorem withRecord_twice (p : Port) (t : Tag) (x y : Option Record) (c : Chip) :
    withRecord p t y (withRecord p t x c) = withRecord p t y c := by
  simp [withRecord, PerPort.modify_modify, Table.set_set]

theorem withRecord_same {p : Port} {t : Tag} {x : Option Record} {c : Chip} (h : c.record p t = x) :
    withRecord p t x c = c := by
  have : (c.ports.modify p fun pc => { pc with tags := pc.tags.set t x }) = c.ports := by
    apply PerPort.modify_eq_self
    rw [Table.set_get _ _ _ h]
  simp [withRecord, this]

@[simp] theorem withRecord_record (p : Port) (t : Tag) (x : Option Record) (c : Chip) :
    (withRecord p t x c).record p t = x := by simp [withRecord, Chip.record]

@[simp] theorem withRecord_session (p q : Port) (t : Tag) (x : Option Record) (c : Chip) :
    ((withRecord p t x c).ports.get q).session = (c.ports.get q).session := by
  simp only [withRecord, PerPort.get_modify]; split <;> rfl

@[simp] theorem withRecord_link (p q : Port) (t : Tag) (x : Option Record) (c : Chip) :
    ((withRecord p t x c).ports.get q).link = (c.ports.get q).link := by
  simp only [withRecord, PerPort.get_modify]; split <;> rfl

@[simp] theorem withRecord_flags (p q : Port) (t : Tag) (x : Option Record) (c : Chip) :
    ((withRecord p t x c).ports.get q).flags = (c.ports.get q).flags := by
  simp only [withRecord, PerPort.get_modify]; split <;> rfl

@[simp] theorem withRecord_map (p : Port) (t : Tag) (x : Option Record) (c : Chip) : (withRecord p t x c).map = c.map := rfl
@[simp] theorem withRecord_hold (p : Port) (t : Tag) (x : Option Record) (c : Chip) : (withRecord p t x c).hold = c.hold := rfl
@[simp] theorem withRecord_arb (p : Port) (t : Tag) (x : Option Record) (c : Chip) : (withRecord p t x c).arb = c.arb := rfl
@[simp] theorem withRecord_pool (p : Port) (t : Tag) (x : Option Record) (c : Chip) : (withRecord p t x c).pool = c.pool := rfl
@[simp] theorem withRecord_mlink (p : Port) (t : Tag) (x : Option Record) (c : Chip) : (withRecord p t x c).mlink = c.mlink := rfl
@[simp] theorem withRecord_cfg (p : Port) (t : Tag) (x : Option Record) (c : Chip) : (withRecord p t x c).cfg = c.cfg := rfl
@[simp] theorem withRecord_ctl (p : Port) (t : Tag) (x : Option Record) (c : Chip) : (withRecord p t x c).ctl = c.ctl := rfl
@[simp] theorem withRecord_sent (p : Port) (t : Tag) (x : Option Record) (c : Chip) : (withRecord p t x c).sent = c.sent := rfl

/-- An answer and a record are two different parts of the blocks. -/
theorem withRecord_answered (p q : Port) (t u : Tag) (x : Option Record) (o : Outcome) (d : List Word) (c : Chip) :
    withRecord p t x (answered q u o d c) = answered q u o d (withRecord p t x c) := by
  simp only [answered, told, withRecord_flags]
  rfl

/-- A data request's record with its stage changed. -/
theorem setStage_data {p : Port} {t : Tag} {d : DataRec} {c : Chip} (h : c.dataRecord p t = some d) (x : Stage) :
    setStage p t x c = withRecord p t (some (.data { d with stage := x })) c := by
  simp only [setStage, h, setRecord_eq]

theorem reply_up {p : Port} {c : Chip} (h : (c.ports.get p).link = .up) (t : Tag) (o : Outcome) (d : List Word) :
    reply p t o d c = answered p t o d c := by simp [reply, sendPort_up h, answered]

/-- The answer of a session that is OPEN on a link that is UP. -/
theorem respond_open {p : Port} {c : Chip} (ho : (c.ports.get p).session = .opened) (hl : (c.ports.get p).link = .up)
    (t : Tag) (o : Outcome) (d : List Word) : respond p t o d c = answered p t o d (withRecord p t none c) := by
  simp [respond, Chip.isOpen, ho, reply_up hl, freeTag, setRecord_eq, withRecord_answered]

/-- An answer for a session that is not OPEN is discarded. -/
theorem respond_closed {p : Port} {c : Chip} (ho : (c.ports.get p).session ≠ .opened) (t : Tag) (o : Outcome)
    (d : List Word) : respond p t o d c = c := by simp [respond, Chip.isOpen, ho]

/-! ### Notice flags and queues -/

@[simp] theorem Flags.set_get (fs : Flags) (f : Flag) : fs.set f (fs.get f) = fs := by cases f <;> rfl

@[simp] theorem Flags.get_set (fs : Flags) (f : Flag) (b : Bool) : (fs.set f b).get f = b := by cases f <;> rfl

/-- A flag is set at an OPEN session and nowhere else. -/
theorem raiseFlag_flags (f : Flag) (p q : Port) (c : Chip) :
    ((raiseFlag f p c).ports.get q).flags =
      if q = p ∧ (c.ports.get p).session = .opened then (c.ports.get p).flags.set f true
      else (c.ports.get q).flags := by
  unfold raiseFlag
  dsimp only
  split
  · rename_i h
    split <;> by_cases hq : q = p <;> simp [setFlags, PerPort.get_modify, hq, h.1]
  · rename_i h
    by_cases hq : q = p
    · subst hq
      by_cases ho : (c.ports.get q).session = .opened
      · have hg : (c.ports.get q).flags.get f = true := by simpa [ho] using h
        simp only [ho, and_self, if_true]
        conv_lhs => rw [← Flags.set_get (c.ports.get q).flags f, hg]
      · simp [ho]
    · simp [hq]

/-- An entry that leaves a queue leaves that queue alone. -/
theorem dequeue_queues (p : Port) (t : Tag) (c : Chip) :
    (dequeue p t c).arb.queues = c.arb.queues.set p ((c.arb.queues.get p).erase t) := by
  unfold dequeue
  dsimp only
  split <;> dsimp only [Chip.modArb] <;> split <;> rfl

/-- An entry that leaves its queue other than by grant. -/
theorem dequeue_eq_unqueued {p : Port} {t : Tag} {d : DataRec} {c : Chip} (h : c.dataRecord p t = some d) :
    dequeue p t c = unqueued p t d.window c := by
  unfold dequeue unqueued
  simp only [h]
  rfl

/-! ### Intake -/

/-- A request on a free tag of a port that speaks goes to its checks. -/
theorem intake_ready {s : State} {p : Port} {r : Request} {h : Header} {form : Header → Bool}
    {take : Header → Chip → Chip} (hr : Ready s p r.tag) (hh : r.header = some h) :
    intake p r form take s.chip = if form h then take h s.chip else answered p r.tag .badRequest [] s.chip := by
  obtain ⟨⟨-, hl, ho⟩, ht⟩ := hr
  simp [intake, hl, ho, ht, hh, reply_up hl]

/-- A management request that carries `ws` is HANDED with them and with the privilege of the port. -/
theorem toControl_carries {s : State} {p : Port} {r : Request} {ws : List Word} (k : ReqKind)
    (take : Asked → Chip → Chip) (hr : Ready s p r.tag) (hc : Carries r ws) :
    toControl k p r take s.chip =
      take ⟨p, r.tag, k, privilegeOf s p, ws⟩
        (withRecord p r.tag (some (.handed k ws (some (privilegeOf s p)))) s.chip) := by
  obtain ⟨h, hh, htg, hlen, hm, rfl⟩ := hc
  have hf : Header.controlForm h = true := by simp [Header.controlForm, htg, hlen, controlTarget]; omega
  simp only [toControl, intake_ready hr hh, hf, if_true]
  rfl

/-- The answer to a management request leaves no record behind. -/
theorem answer_handed {p : Port} {t : Tag} {c : Chip} (ho : (c.ports.get p).session = .opened)
    (hl : (c.ports.get p).link = .up) (ht : (c.ports.get p).tags.get t = none) (k : ReqKind) (v : Privilege)
    (ws : List Word) (x : Option Record) (o : Outcome) (d : List Word) :
    Asked.answer ⟨p, t, k, v, ws⟩ o d (withRecord p t x c) = answered p t o d c := by
  rw [Asked.answer, respond_open (by simpa using ho) (by simpa using hl), withRecord_twice, withRecord_same ht]

/-- A refusal in the log. -/
theorem logRefusal_eq (p : Port) (t : Tag) (k : ReqKind) (w : Option WindowNo) (o : Outcome) (b : Option Nat)
    (c : Chip) : logRefusal p t k w o b c = logged p t k w o b c := rfl

/-- NOT-PRIVILEGED, logged. -/
theorem notPrivileged_handed {p : Port} {t : Tag} {c : Chip} (ho : (c.ports.get p).session = .opened)
    (hl : (c.ports.get p).link = .up) (ht : (c.ports.get p).tags.get t = none) (k : ReqKind) (v : Privilege)
    (ws : List Word) (x : Option Record) (w : Option WindowNo) :
    Asked.notPrivileged ⟨p, t, k, v, ws⟩ w (withRecord p t x c) =
      answered p t .notPrivileged [] (logged p t k w .notPrivileged none c) :=
  answer_handed (c := logged p t k w .notPrivileged none c) ho hl ht k v ws x .notPrivileged []

/-! ### What follows an event -/

/-- Nothing follows for the holds, the commit and the writer when no hold has an empty wait set, no commit drains and no
job waits. -/
theorem settle_eq_self {c : Chip} (hc : ∀ info left, c.map.commit ≠ .draining info left)
    (hh : ∀ h ∈ c.hold.table, h.state ≠ .pending []) (hq : c.cfg.queue = []) : settle c = c := by
  have e1 : endWaits c = c := by
    unfold endWaits
    rw [List.filter_eq_nil_iff.2 (by intro h hm; simpa using hh h hm)]
    rfl
  have e2 : drainTest c = c := by
    unfold drainTest
    split
    · rename_i i l h; exact absurd h (hc _ _)
    all_goals rfl
  have e3 : writerTake c = c := by
    unfold writerTake
    split
    · split
      · simp [hq, each, Chip.modCfg]; rw [← hq]
      · simp [hq]
    · rfl
  simp [settle, e1, e2, e3]

/-- A grant decision that grants nothing ends the decisions of the event. -/
theorem arbitrate_eq_self {c : Chip} (h : grantDecision c = none) : arbitrate c = c := by
  simp [arbitrate, decisions, h]

/-- With no eligible head and no job that waits for a slot, no decision grants. -/
theorem grantDecision_none {c : Chip} (he : ∀ q, c.eligible q = false)
    (hw : c.freeSlot = none ∨ ∀ j, c.cfg.writer ≠ .awaitingSlot j) : grantDecision c = none := by
  unfold grantDecision
  split
  · split
    · rename_i j i h1 h2
      rcases hw with h | h
      · rw [h] at h2; cases h2
      · exact absurd h1 (h j)
    · split
      · simp [he]
      · have hn : c.nextCredited = none := by simp [Chip.nextCredited, he]
        simp [roundRobin, hn, he]
  · rfl

/-- The head of a port queue. -/
theorem headOf_iff {c : Chip} {p : Port} {t : Tag} {d : DataRec} :
    c.headOf p = some (t, d) ↔ (c.arb.queues.get p).head? = some t ∧ c.dataRecord p t = some d := by
  unfold Chip.headOf
  cases (c.arb.queues.get p).head? with
  | none => simp
  | some u =>
    constructor
    · intro h
      obtain ⟨e, he, hd⟩ := Option.map_eq_some_iff.1 h
      cases hd
      exact ⟨rfl, he⟩
    · rintro ⟨h, hd⟩
      cases h
      simp [hd]

/-- A slot is free for grant when one below the slot count is FREE (R92). -/
theorem freeSlot_isSome {c : Chip} :
    c.freeSlot.isSome = true ↔ ∃ i : SlotNo, i.val < c.mlink.slotCount ∧ c.slot i = none := by
  unfold Chip.freeSlot
  rw [List.find?_isSome]
  constructor
  · rintro ⟨i, -, h⟩
    simpa using ⟨i, by simpa using h⟩
  · rintro ⟨i, h⟩
    refine ⟨i, ?_, by simpa using h⟩
    have all : ∀ i : SlotNo, i ∈ allSlots := by decide
    exact all i

/-- The conditions of R90 but Pages. -/
theorem eligibleButPages_iff {c : Chip} {p : Port} :
    c.eligibleButPages p = true ↔ ∃ t d, c.headOf p = some (t, d) ∧ Grantable c p d := by
  unfold Chip.eligibleButPages
  cases hh : c.headOf p with
  | none => simp
  | some x =>
    obtain ⟨t, d⟩ := x
    have hq : c.quotaOk d = true ↔ ∀ w quota, c.map.active.map.get d.window = some w → w.quota = some quota →
        (c.map.usage.get d.window).inFlight < quota := by
      unfold Chip.quotaOk
      cases c.map.active.map.get d.window with
      | none => simp
      | some w =>
        cases hw : w.quota with
        | none =>
          constructor
          · intro _ w' quota e h
            cases e
            rw [hw] at h
            cases h
          · intro _
            simp [hw]
        | some quota =>
          constructor
          · intro h w' quota' e hq'
            cases e
            rw [hw] at hq'
            cases hq'
            simpa [hw] using h
          · intro h
            simpa [hw] using h w quota rfl hw
    have ho : c.orderOk p d = true ↔
        (d.ordered = true → (c.ports.get p).inFlight = 0) ∧ c.arb.ordered.get p = false := by
      unfold Chip.orderOk
      cases d.ordered <;> simp
    have e : (∃ t' d', some (t, d) = some (t', d') ∧ Grantable c p d') ↔ Grantable c p d := by
      constructor
      · rintro ⟨_, _, h, hg⟩; cases h; exact hg
      · exact fun hg => ⟨t, d, rfl, hg⟩
    rw [e]
    simp only [Bool.and_eq_true, hq, ho, freeSlot_isSome, decide_eq_true_eq, Chip.isOpen, Grantable, and_assoc]

theorem need_eq (d : DataRec) : d.need = pagesNeeded d := by
  unfold DataRec.need pagesNeeded
  cases d.kind <;> rfl

/-- A head is eligible when every condition of R90 holds. -/
theorem eligible_iff {c : Chip} {p : Port} : c.eligible p = true ↔
    ∃ t d, c.headOf p = some (t, d) ∧ Grantable c p d ∧ pagesNeeded d ≤ c.pool.free.length := by
  unfold Chip.eligible Chip.pagesOk
  rw [Bool.and_eq_true, eligibleButPages_iff]
  cases c.headOf p with
  | none => simp
  | some x =>
    obtain ⟨t, d⟩ := x
    simp only [need_eq, decide_eq_true_eq, Option.some.injEq, Prod.mk.injEq]
    constructor
    · rintro ⟨⟨_, _, ⟨rfl, rfl⟩, hg⟩, hp⟩
      exact ⟨_, _, ⟨rfl, rfl⟩, hg, hp⟩
    · rintro ⟨_, _, ⟨rfl, rfl⟩, hg, hp⟩
      exact ⟨⟨_, _, ⟨rfl, rfl⟩, hg⟩, hp⟩

/-- A head is page-short when only Pages fails (R90). -/
theorem pageShort_iff {c : Chip} {p : Port} : c.pageShort p = true ↔
    ∃ t d, c.headOf p = some (t, d) ∧ Grantable c p d ∧ c.pool.free.length < pagesNeeded d := by
  unfold Chip.pageShort Chip.pagesOk
  rw [Bool.and_eq_true, eligibleButPages_iff]
  cases c.headOf p with
  | none => simp
  | some x =>
    obtain ⟨t, d⟩ := x
    simp only [need_eq, Bool.not_eq_true', decide_eq_false_iff_not, Nat.not_le, Option.some.injEq, Prod.mk.injEq]
    constructor
    · rintro ⟨⟨_, _, ⟨rfl, rfl⟩, hg⟩, hp⟩
      exact ⟨_, _, ⟨rfl, rfl⟩, hg, hp⟩
    · rintro ⟨_, _, ⟨rfl, rfl⟩, hg, hp⟩
      exact ⟨⟨_, _, ⟨rfl, rfl⟩, hg⟩, hp⟩

/-- Empty queues have no eligible head. -/
theorem eligible_of_empty {c : Chip} (hq : ∀ q, c.arb.queues.get q = []) (q : Port) : c.eligible q = false := by
  simp [Chip.eligible, Chip.eligibleButPages, Chip.headOf, hq]

/-- Where no grant can be made, the decisions change nothing. -/
theorem arbitrate_noGrant {c : Chip} (h : NoGrant c) : arbitrate c = c := by
  apply arbitrate_eq_self
  by_cases hs : c.cfg.bridge = .service
  · have hf : c.freeSlot = none := by
      rcases h with h | h
      · exact absurd hs h
      · simp only [Chip.freeSlot, List.find?_eq_none]
        intro i _
        by_cases hi : i.val < c.mlink.slotCount
        · simpa [hi] using h i hi
        · simp [hi]
    refine grantDecision_none (fun q => ?_) (.inl hf)
    unfold Chip.eligible Chip.eligibleButPages
    cases c.headOf q <;> simp [hf]
  · simp [grantDecision, hs]

/-- A port's slot that returns to FREE while its session is OPEN. -/
theorem freeSlot_eq_released {i : SlotNo} {p : Port} {w : WindowNo} {r : SlotRec} {c : Chip} (h : c.slot i = some r)
    (hh : r.holder = .port p) (hw : r.window = some w) (ho : (c.ports.get p).session = .opened) :
    freeSlot i c = released i p w r c := by
  have e : returnPages r.pages (uncount p r (leaveWaits i (setSlot i none c))) = released i p w r c := by
    simp only [returnPages, uncount, leaveWaits, setSlot, Chip.modMlink, Chip.modHold, Chip.modPort, Chip.modPool, hw,
      modUsage, Chip.modMap, released]
    cases r.ordered <;> simp [Chip.modArb] <;> intro a _ <;> unfold noLonger <;> split <;> simp_all
  unfold freeSlot
  rw [h]
  simp only [hh, e]
  rw [if_pos]
  simp [released, Chip.isOpen, ho]

/-- Where nothing follows, the answers are all that an event leaves. -/
theorem conclude_eq {f : Chip → Chip} {c : Chip} (h1 : settle c = c) (h2 : settle (f c) = f c)
    (h3 : arbitrate (f c) = f c)
    (h4 : ∀ q reason, ((f c).ports.get q).session = .closing reason → ((f c).ports.get q).inFlight ≠ 0) :
    conclude f c = f c := by
  have he : eitherOrder f settle c = f c := by simp [eitherOrder, h1, h2]
  have hc : ∀ q, closeIfIdle q (f c) = f c := by
    intro q
    unfold closeIfIdle
    dsimp only
    split
    · rename_i hs; simp [h4 _ _ hs]
    all_goals rfl
  simp [conclude, he, eachPort, hc, h3]

/-! ### DATA frames -/

/-- Frames sent one after the other, none of which looks at what has been sent. -/
theorem each_sent {α : Type} (frame : α → Sent) (f : α → Chip → Chip) (l : List α) (c : Chip)
    (h : ∀ a sent, f a { c with sent := sent } = { c with sent := sent ++ [frame a] }) :
    each f l c = { c with sent := c.sent ++ l.map frame } := by
  suffices ∀ sent, each f l { c with sent := sent } = { c with sent := sent ++ l.map frame } from this c.sent
  induction l with
  | nil => intro sent; simp [each]
  | cons a l ih =>
    intro sent
    have e : each f (a :: l) { c with sent := sent } = each f l (f a { c with sent := sent }) := rfl
    rw [e, h, ih]
    simp

/-- A whole delivery sends the DATA frames of its pages and does nothing else. -/
theorem emitData_all (p : Port) (t : Tag) (pages : List PageNo) (c : Chip) :
    emitData p t pages pages.length c =
      { c with sent := c.sent ++ pageFrames (fun k x => .toPort p (.data t k x)) pages c.pool.content } := by
  unfold emitData
  rw [List.take_of_length_le (by simp), each_sent (fun x => .toPort p (.data t x.2 (c.pool.content.get x.1)))]
  · rfl
  · intro a sent; rfl

/-- On a link that is UP a write's data are the DATA frames of its pages. -/
theorem sendWriteData_up {c : Chip} (h : c.mlink.link = .up) (i : SlotNo) (pages : List PageNo) :
    sendWriteData i pages c =
      { c with sent := c.sent ++ pageFrames (fun k x => .toMedia (.data i k x)) pages c.pool.content } := by
  unfold sendWriteData
  rw [each_sent (fun x => .toMedia (.data i x.2 (c.pool.content.get x.1)))]
  · rfl
  · intro a sent; simp [sendMedia, h, Chip.emit]

/-- A delivery whose session is OPEN ends with its DATA frames, its pages and its answer. -/
theorem deliveryDone_open {p : Port} {t : Tag} {c : Chip} {d : DataRec} {pages : List PageNo}
    (hd : c.dataRecord p t = some d) (hs : d.stage = .delivering pages) (ho : (c.ports.get p).session = .opened) :
    deliveryDone p t c = arbitrate (respond p t .ok [] (returnPages pages
      { c with sent := c.sent ++ pageFrames (fun k x => .toPort p (.data t k x)) pages c.pool.content })) := by
  simp [deliveryDone, hd, hs, Chip.isOpen, ho, emitData_all]

/-! ### The session end of a bridge reset -/

/-- A reset that finds no session OPEN leaves only what follows. -/
theorem resetPorts_closed {ports : List Port} {c : Chip} (h : ∀ p ∈ ports, (c.ports.get p).session ≠ .opened) :
    resetPorts ports c = conclude id c := by
  have : ports.filter c.isOpen = [] :=
    List.filter_eq_nil_iff.2 fun p hp => by simpa [Chip.isOpen] using h p hp
  simp [resetPorts, this, each]

/-- A queue whose front is another command has no RESET-BRIDGE that joins. -/
theorem joiners_of_other {c : Chip} {i : Instr} {rest : List Instr} (h : ∀ p r, i ≠ .resetBridge p r) :
    c.joiners (i :: rest) = [] := by
  unfold Chip.joiners
  split
  · rename_i he
    exact absurd (List.cons.inj he).1 (h _ _)
  · rfl

/-- A port that joins has a RESET-BRIDGE in the queue, behind none but others of its kind, that would be answered OK. -/
theorem mem_joiners {c : Chip} {q : Port} {waiting : List Instr} (h : q ∈ c.joiners waiting) :
    ∃ before r after, waiting = before ++ .resetBridge q r :: after ∧ (∀ i ∈ before, ∃ p r', i = .resetBridge p r') ∧
      c.wouldReset q r = true := by
  induction waiting with
  | nil => cases h
  | cons i rest ih =>
    by_cases hi : ∃ p r, i = .resetBridge p r
    · obtain ⟨p, r, rfl⟩ := hi
      rw [Chip.joiners] at h
      have later : q ∈ c.joiners rest → ∃ before r' after, .resetBridge p r :: rest = before ++ .resetBridge q r' :: after ∧
          (∀ i ∈ before, ∃ p r', i = .resetBridge p r') ∧ c.wouldReset q r' = true := fun h => by
        obtain ⟨before, r', after, he, hb, hw⟩ := ih h
        exact ⟨.resetBridge p r :: before, r', after, by rw [he]; rfl,
          fun i hi => (List.mem_cons.1 hi).elim (fun e => ⟨p, r, e⟩) (hb i), hw⟩
      split at h
      · rename_i hw
        rcases List.mem_cons.1 h with rfl | h
        · exact ⟨[], r, rest, rfl, nofun, hw⟩
        · exact later h
      · exact later h
    · rw [joiners_of_other fun p r e => hi ⟨p, r, e⟩] at h
      cases h

/-- A RESET-BRIDGE that would be answered OK meets the premises of the statements about it. -/
theorem ready_of_wouldReset {s : State} {p : Port} {r : Request} (hr : s.rstn = .high)
    (h : s.chip.wouldReset p r = true) : Ready s p r.tag ∧ Carries r [] ∧ privilegeOf s p = .admin := by
  unfold Chip.wouldReset at h
  simp only [Bool.and_eq_true, decide_eq_true_eq, Option.isNone_iff_eq_none, Chip.isOpen] at h
  obtain ⟨⟨⟨⟨hl, ho⟩, ht⟩, hp⟩, hf⟩ := h
  refine ⟨⟨⟨hr, hl, ho⟩, ht⟩, ?_, hp⟩
  split at hf
  · rename_i x hx
    simp [Header.controlForm, controlTarget] at hf
    obtain ⟨⟨⟨h1, h2⟩, h3⟩, h4⟩ := hf
    exact ⟨x, hx, of_decide_eq_true h1, by simpa using h2, by simpa using h3, by simpa using h4⟩
  · cases hf

/-- Where nothing is about to follow, nothing follows. -/
theorem settle_still {c : Chip} (h : Still c) : settle c = c := settle_eq_self h.1 h.2.1 h.2.2.1

/-- A slot out of a wait set that has another member leaves the wait as it is. -/
theorem noLonger_waits {i : SlotNo} {h : Hold} (hw : ∀ waits, h.state = .pending waits → ∃ j ∈ waits, j ≠ i) :
    (noLonger i h).state ≠ .pending [] := by
  unfold noLonger
  split
  · rename_i waits hs
    obtain ⟨j, hj, hne⟩ := hw waits hs
    intro he
    have := List.filter_eq_nil_iff.1 (HoldState.pending.inj he) j hj
    simp [hne] at this
  all_goals simp_all

/-- Where nothing else waits on a slot, its return to FREE has no consequence for holds, commit and writer. -/
theorem settle_released {c : Chip} {i : SlotNo} (h : Calm c i) (p : Port) (w : WindowNo) (r : SlotRec) :
    settle (released i p w r c) = released i p w r c := by
  refine settle_eq_self h.1 (fun x hx => ?_) h.2.2.1
  obtain ⟨y, hy, rfl⟩ := List.mem_map.1 hx
  exact noLonger_waits (h.2.1 y hy)

/-! ### The write of a persist job -/

/-- The copy that is not current, A when none is. -/
theorem target_eq (u : ConfigUnit) : u.target = if u.current = some .a then Copy.b else Copy.a := by
  unfold ConfigUnit.target
  cases u.current with
  | none => rfl
  | some x => cases x <;> rfl

/-- The holds of a job's record: the ACTIVE FIXED ones and the job's own. -/
theorem mem_jobRecord_holds {c : Chip} {j : Job} {z : StoredHold} :
    z ∈ (c.jobRecord j).holds ↔ ∃ h ∈ c.hold.table, h.cls = .fixed ∧
      ((∃ left, h.state = .active left) ∨ j = .hold h.id) ∧ z = ⟨h.id, h.scope, h.range, h.owner⟩ := by
  simp only [Chip.jobRecord, List.mem_map, List.mem_filter, Hold.inRecord]
  constructor
  · rintro ⟨h, ⟨hm, hc⟩, rfl⟩
    refine ⟨h, hm, ?_, ?_, rfl⟩
    · simp at hc; exact hc.1
    · revert hc; cases hs : h.state <;> simp_all
  · rintro ⟨h, hm, hc, hj, rfl⟩
    refine ⟨h, ⟨hm, ?_⟩, rfl⟩
    rcases hj with ⟨l, hl⟩ | hl
    · simp [hc, hl]
    · simp [hc]; split <;> simp_all

/-! ### The hold table -/

/-- In a table of different ids a record is found by its own. -/
theorem findHold_of_mem {s : State} (hr : HoldTableInRange s) {h : Hold} (hm : h ∈ s.chip.hold.table) :
    s.chip.findHold h.id = some h := by
  have hp := hr.2.2
  unfold Chip.findHold
  revert hp hm
  generalize s.chip.hold.table = l
  intro hm hp
  induction l with
  | nil => cases hm
  | cons x l ih =>
    rw [List.pairwise_cons] at hp
    rcases List.mem_cons.1 hm with rfl | hm
    · simp
    · have : x.id ≠ h.id := Nat.ne_of_lt (hp.1 h hm)
      simp [this, ih hm hp.2]

end Sys2Proof.Laws
end

