-- ==== Sys2Proof/Laws/Holds.lean ====
section
/-! SUPPORT. The hold table: a record put in its place, and the id it gets (R25, R40). -/

namespace Sys2Proof.Laws

open Sys2Proof.Machine

@[simp] theorem mem_insertHold (h x : Hold) (l : List Hold) : x ∈ insertHold h l ↔ x = h ∨ x ∈ l := by
  induction l with
  | nil => simp [insertHold]
  | cons y l ih =>
    unfold insertHold
    split
    · simp
    · simp [ih]; tauto

@[simp] theorem length_insertHold (h : Hold) (l : List Hold) : (insertHold h l).length = l.length + 1 := by
  induction l with
  | nil => rfl
  | cons y l ih => unfold insertHold; split <;> simp [ih]

/-- A record with an id of its own keeps the table in ascending id. -/
theorem insertHold_ascending {h : Hold} {l : List Hold} (hp : l.Pairwise fun a b => a.id < b.id)
    (hf : ∀ x ∈ l, x.id ≠ h.id) : (insertHold h l).Pairwise fun a b => a.id < b.id := by
  induction l with
  | nil => simp [insertHold]
  | cons y l ih =>
    rw [List.pairwise_cons] at hp
    unfold insertHold
    split
    · rename_i hlt
      rw [List.pairwise_cons]
      refine ⟨?_, List.pairwise_cons.2 hp⟩
      intro x hx
      rcases List.mem_cons.1 hx with rfl | hx
      · exact hlt
      · exact Nat.lt_trans hlt (hp.1 x hx)
    · rename_i hlt
      rw [List.pairwise_cons]
      refine ⟨?_, ih hp.2 fun x hx => hf x (List.mem_cons_of_mem _ hx)⟩
      intro x hx
      rcases (mem_insertHold h x l).1 hx with rfl | hx
      · have := hf y (List.mem_cons_self ..); omega
      · exact hp.1 x hx

/-- The id after `k` steps of the counter. -/
def idStep : Nat → Nat → Nat
  | 0, n => n
  | k + 1, n => idStep k (idAfter n)

/-- The id that `freeId` finds: `k` steps on, every id before it taken, and it free unless the search has ended. -/
theorem freeId_spec (n : Nat) (id : Nat) (l : List Hold) :
    ∃ k, k ≤ n ∧ freeId n id l = idStep k id ∧ (∀ j < k, ∃ x ∈ l, x.id = idStep j id) ∧
      (k < n → ∀ x ∈ l, x.id ≠ idStep k id) := by
  induction n generalizing id with
  | zero => exact ⟨0, Nat.le_refl _, rfl, by simp, by simp⟩
  | succ n ih =>
    unfold freeId
    split
    · rename_i ht
      obtain ⟨k, hk, he, hb, hf⟩ := ih (idAfter id)
      refine ⟨k + 1, by omega, he, ?_, fun h => hf (by omega)⟩
      intro j hj
      cases j with
      | zero => simpa [idStep] using ht
      | succ j => exact hb j (by omega)
    · rename_i ht
      refine ⟨0, by omega, rfl, by simp, fun _ => ?_⟩
      simpa [idStep] using ht

end Sys2Proof.Laws
end

