-- ==== Sys2Proof/Laws/PerInstr.lean ====
section
/-! SUPPORT. For every command: it comes over one link at most. A command that is a frame of an initiator is no frame of
the media, and the other way round (11.2, 11.3). -/

namespace Sys2Proof.Laws.OneLink

/-- The command has no frame on the P-link or none on the M-link. -/
def Statement (i : Instr) : Prop := encodePlink i = none ∨ encodeMlink i = none

theorem coldReset : Statement .coldReset := .inl rfl
theorem rstnRelease : Statement .rstnRelease := .inl rfl
theorem plinkLinkUp (p : Port) : Statement (.plinkLinkUp p) := .inl rfl
theorem plinkLinkDown (p : Port) : Statement (.plinkLinkDown p) := .inl rfl
theorem plinkCheckFail (p : Port) : Statement (.plinkCheckFail p) := .inr rfl
theorem unknownKind (p : Port) (kind : Byte) : Statement (.unknownKind p kind) := .inr rfl
theorem openFrame (p : Port) (revision : Option Byte) : Statement (.openFrame p revision) := .inr rfl
theorem closeFrame (p : Port) : Statement (.closeFrame p) := .inr rfl
theorem dataFrame (p : Port) (d : DataFrame) : Statement (.dataFrame p d) := .inr rfl
theorem read (p : Port) (r : Request) : Statement (.read p r) := .inr rfl
theorem write (p : Port) (r : Request) : Statement (.write p r) := .inr rfl
theorem discard (p : Port) (r : Request) : Statement (.discard p r) := .inr rfl
theorem flush (p : Port) (r : Request) : Statement (.flush p r) := .inr rfl
theorem abort (p : Port) (r : Request) : Statement (.abort p r) := .inr rfl
theorem mapRead (p : Port) (r : Request) : Statement (.mapRead p r) := .inr rfl
theorem holdList (p : Port) (r : Request) : Statement (.holdList p r) := .inr rfl
theorem statusRead (p : Port) (r : Request) : Statement (.statusRead p r) := .inr rfl
theorem logRead (p : Port) (r : Request) : Statement (.logRead p r) := .inr rfl
theorem logClear (p : Port) (r : Request) : Statement (.logClear p r) := .inr rfl
theorem resetBridge (p : Port) (r : Request) : Statement (.resetBridge p r) := .inr rfl
theorem holdPlace (p : Port) (r : Request) : Statement (.holdPlace p r) := .inr rfl
theorem holdRelease (p : Port) (r : Request) : Statement (.holdRelease p r) := .inr rfl
theorem stageBegin (p : Port) (r : Request) : Statement (.stageBegin p r) := .inr rfl
theorem stageWindow (p : Port) (r : Request) : Statement (.stageWindow p r) := .inr rfl
theorem stageDrop (p : Port) (r : Request) : Statement (.stageDrop p r) := .inr rfl
theorem stagePort (p : Port) (r : Request) : Statement (.stagePort p r) := .inr rfl
theorem stageParams (p : Port) (r : Request) : Statement (.stageParams p r) := .inr rfl
theorem stageRead (p : Port) (r : Request) : Statement (.stageRead p r) := .inr rfl
theorem stageAbandon (p : Port) (r : Request) : Statement (.stageAbandon p r) := .inr rfl
theorem commit (p : Port) (r : Request) : Statement (.commit p r) := .inr rfl
theorem transferTimeout (p : Port) (tag : Tag) : Statement (.transferTimeout p tag) := .inl rfl
theorem lastDataFrameSent (p : Port) (tag : Tag) : Statement (.lastDataFrameSent p tag) := .inl rfl
theorem mlinkLinkUp : Statement .mlinkLinkUp := .inl rfl
theorem mlinkLinkDown : Statement .mlinkLinkDown := .inl rfl
theorem mlinkCheckFail : Statement .mlinkCheckFail := .inl rfl
theorem linkReady : Statement .linkReady := .inl rfl
theorem identifyReply (capacity : Word) (slots : Byte) : Statement (.identifyReply capacity slots) := .inl rfl
theorem mediaData (slot : SlotNo) (index : Half) (block : Block) : Statement (.mediaData slot index block) := .inl rfl
theorem complete (slot : SlotNo) (status : MediaStatus) : Statement (.complete slot status) := .inl rfl
theorem abandonAck (slot : SlotNo) : Statement (.abandonAck slot) := .inl rfl
theorem responseTimerExpiry (slot : SlotNo) : Statement (.responseTimerExpiry slot) := .inl rfl
theorem abandonTimerExpiry (slot : SlotNo) : Statement (.abandonTimerExpiry slot) := .inl rfl
theorem attemptLimitExpiry : Statement .attemptLimitExpiry := .inl rfl
theorem drainLimitExpiry : Statement .drainLimitExpiry := .inl rfl
theorem holdExpiry (id : Nat) : Statement (.holdExpiry id) := .inl rfl
theorem unknownMediaFrameKind (frame : List Byte) : Statement (.unknownMediaFrameKind frame) := .inl rfl
theorem unknownRequestKind (p : Port) (tag : Option Tag) (kind : Option Byte) : Statement (.unknownRequestKind p tag kind) := .inr rfl

end Sys2Proof.Laws.OneLink
end

