-- ==== Sys2Proof/Laws/Settle.lean ====
section
/-! SUPPORT. What follows when counts fall: the ends of waits and the writer, each operation's effect on the hold table
and on the persist jobs (R33, R34, R163, R164). -/

namespace Sys2Proof.Laws

open Sys2Proof.Machine Sys2Proof.Safety

/-- The record of a hold whose wait has ended (R33, R34). -/
def endedHold (h : Hold) : Hold :=
  if h.cls = .fixed then { h with state := .persisting }
  else { h with state := .active (h.expiry.map (· * 1000)), answerTo := none }

/-- The job that the end of a wait appends (R34). -/
def endedJobs (h : Hold) : List Job := if h.cls = .fixed then [.hold h.id] else []

@[simp] theorem endedHold_id (h : Hold) : (endedHold h).id = h.id := by unfold endedHold; split <;> rfl

/-- The end of one wait writes one record. -/
theorem endWait_table (h : Hold) (c : Chip) :
    (endWait h c).hold.table = c.hold.table.map fun x => if x.id = h.id then endedHold h else x := by
  unfold endWait endedHold
  cases hc : h.cls <;> simp [activateHold, setHold, Chip.modHold, hc]

/-- The end of one wait appends one job, for a FIXED hold. -/
theorem endWait_cfg (h : Hold) (c : Chip) :
    (endWait h c).cfg = { c.cfg with queue := c.cfg.queue ++ endedJobs h } := by
  unfold endWait endedJobs
  cases hc : h.cls <;> simp [activateHold, appendJob, Chip.modCfg]

/-- The ends of several waits write the records of their holds and append their jobs in the order of the list. -/
theorem each_endWait (l : List Hold) (c : Chip) (hl : (l.map Hold.id).Nodup) :
    (each endWait l c).hold.table =
        c.hold.table.map (fun x => match l.find? fun h => h.id = x.id with
          | some h => endedHold h
          | none => x) ∧
      (each endWait l c).cfg = { c.cfg with queue := c.cfg.queue ++ l.flatMap endedJobs } ∧
      (each endWait l c).map = c.map ∧ (each endWait l c).arb = c.arb := by
  induction l generalizing c with
  | nil => simp [each]
  | cons h l ih =>
    rw [List.map_cons, List.nodup_cons] at hl
    obtain ⟨h1, h2, h3, h4⟩ := ih (endWait h c) hl.2
    have e : each endWait (h :: l) c = each endWait l (endWait h c) := rfl
    rw [e]
    refine ⟨?_, ?_, by simp [h3], by simp [h4]⟩
    · rw [h1, endWait_table, List.map_map]
      refine List.map_congr_left fun x _ => ?_
      dsimp only [Function.comp]
      by_cases hx : x.id = h.id
      · have hn : (l.find? fun y => decide (y.id = h.id)) = none := by
          rw [List.find?_eq_none]
          intro y hy he
          exact hl.1 (List.mem_map.2 ⟨y, hy, by simpa using he⟩)
        simp [hx, hn]
      · simp [hx, Ne.symm hx]
    · rw [h2, endWait_cfg]
      simp [List.append_assoc]

/-- In a table of different ids, `endWaits` ends the wait of every hold whose wait set is empty and leaves the others; the
jobs of the FIXED ones are appended in ascending id (R33, R34, R163). -/
theorem endWaits_eq {c : Chip} (hp : c.hold.table.Pairwise fun a b => a.id < b.id) :
    (endWaits c).hold.table = c.hold.table.map (fun h => if h.state = .pending [] then endedHold h else h) ∧
      (endWaits c).cfg = { c.cfg with
        queue := c.cfg.queue ++ (c.hold.table.filter fun h => h.state = .pending []).flatMap endedJobs } ∧
      (endWaits c).map = c.map ∧ (endWaits c).arb = c.arb := by
  have hinj : ∀ a ∈ c.hold.table, ∀ b ∈ c.hold.table, a.id = b.id → a = b := by
    intro a ha b hb he
    by_contra hne
    obtain ⟨i, hi, rfl⟩ := List.getElem_of_mem ha
    obtain ⟨j, hj, rfl⟩ := List.getElem_of_mem hb
    rcases Nat.lt_trichotomy i j with hij | hij | hij
    · exact absurd he (Nat.ne_of_lt (List.pairwise_iff_getElem.1 hp i j hi hj hij))
    · subst hij; exact hne rfl
    · exact absurd he.symm (Nat.ne_of_lt (List.pairwise_iff_getElem.1 hp j i hj hi hij))
  have hn : ((c.hold.table.filter fun h => h.state = .pending []).map Hold.id).Nodup := by
    refine List.Nodup.sublist (List.Sublist.map _ List.filter_sublist) ?_
    rw [List.Nodup, List.pairwise_map]
    exact hp.imp fun h => Nat.ne_of_lt h
  obtain ⟨h1, h2, h3, h4⟩ := each_endWait (c.hold.table.filter fun h => h.state = .pending []) c hn
  refine ⟨?_, h2, h3, h4⟩
  unfold endWaits
  rw [h1]
  refine List.map_congr_left fun x hx => ?_
  by_cases hs : x.state = .pending []
  · have hf : ((c.hold.table.filter fun h => h.state = .pending []).find? fun h => decide (h.id = x.id)) = some x := by
      cases hff : (c.hold.table.filter fun h => h.state = .pending []).find? fun h => decide (h.id = x.id) with
      | none => exact absurd (List.find?_eq_none.1 hff x (List.mem_filter.2 ⟨hx, by simpa using hs⟩)) (by simp)
      | some y =>
        have hy := List.mem_of_find?_eq_some hff
        have he := List.find?_some hff
        rw [hinj y (List.mem_filter.1 hy).1 x hx (by simpa using he)]
    simp [hs, hf]
  · have hf : ((c.hold.table.filter fun h => h.state = .pending []).find? fun h => decide (h.id = x.id)) = none := by
      rw [List.find?_eq_none]
      intro y hy he
      have := hinj y (List.mem_filter.1 hy).1 x hx (by simpa using he)
      subst this
      exact hs (by simpa using (List.mem_filter.1 hy).2)
    simp [hs, hf]

/-! ### The writer -/

/-- The writer's conditions, as the statements say them. -/
theorem writerMayTake_iff (s : State) : s.chip.writerMayTake = true ↔ MayTake s := by
  simp [Chip.writerMayTake, MayTake, and_assoc]

/-- Where a generation is left, or the writer may not take a job, taking keeps the jobs in their order (R164). -/
theorem writerTake_jobs {c : Chip} (h : c.cfg.generation ≠ 0xFFFFFFFF#32 ∨ c.writerMayTake = false) :
    jobsOf (writerTake c).cfg = jobsOf c.cfg ∧ (writerTake c).hold = c.hold ∧ (writerTake c).map = c.map ∧
      (writerTake c).ctl = c.ctl ∧ (writerTake c).sent = c.sent := by
  unfold writerTake
  split
  · rename_i ht
    have hg : c.cfg.generation ≠ 0xFFFFFFFF#32 := h.resolve_right (by simp [ht])
    have hw : c.cfg.writer = .idle := by
      simp only [Chip.writerMayTake, Bool.and_eq_true, decide_eq_true_eq] at ht
      exact ht.1.1
    rw [if_neg hg]
    split
    · rename_i j rest hq
      simp [jobsOf, Chip.modCfg, hw, hq]
    · simp
  · simp

/-- After the writer has taken what it may, none is left that it may take (R164). -/
theorem writerTake_served (c : Chip) :
    (writerTake c).writerMayTake = true → (writerTake c).cfg.queue = [] := by
  have key : ∀ l : List Job, ∀ d : Chip, (each jobFailed l d).cfg = d.cfg := fun l d =>
    each_proj (fun c => c.cfg) jobFailed (by simp) l d
  unfold writerTake
  split
  · split
    · intro _; rw [key]; rfl
    · split
      · intro h; simp [Chip.writerMayTake, Chip.modCfg] at h
      · rename_i hq; intro _; exact hq
  · rename_i h; intro h'; exact absurd h' h

/-! ### The end of a session, for the hold unit and the map unit -/

@[simp] theorem orphaned_id (p : Port) (l : List SlotNo) (h : Hold) : (orphaned p l h).id = h.id := rfl
@[simp] theorem orphaned_cls (p : Port) (l : List SlotNo) (h : Hold) : (orphaned p l h).cls = h.cls := rfl
@[simp] theorem orphaned_range (p : Port) (l : List SlotNo) (h : Hold) : (orphaned p l h).range = h.range := rfl
@[simp] theorem orphaned_owner (p : Port) (l : List SlotNo) (h : Hold) : (orphaned p l h).owner = h.owner := rfl

section LeftBy
variable (s : State) (p : Port) (reason : CloseReason) (u : Table 16 Usage)

@[simp] theorem leftBy_rstn : (leftBy s p reason u).rstn = s.rstn := rfl
@[simp] theorem leftBy_cfg : (leftBy s p reason u).chip.cfg = s.chip.cfg := rfl
@[simp] theorem leftBy_arb : (leftBy s p reason u).chip.arb = s.chip.arb := rfl
@[simp] theorem leftBy_sent : (leftBy s p reason u).chip.sent = s.chip.sent := rfl

@[simp] theorem leftBy_active : (leftBy s p reason u).chip.map.active = s.chip.map.active := by
  unfold leftBy; dsimp only; split <;> (try split) <;> rfl

@[simp] theorem leftBy_epoch : (leftBy s p reason u).chip.map.epoch = s.chip.map.epoch := by
  unfold leftBy; dsimp only; split <;> (try split) <;> rfl

@[simp] theorem leftBy_usage : (leftBy s p reason u).chip.map.usage = u := by
  unfold leftBy; dsimp only; split <;> (try split) <;> rfl

/-- The session has ended. -/
theorem leftBy_session : ((leftBy s p reason u).chip.ports.get p).session = .closing reason := by
  unfold leftBy; cases p <;> rfl

/-- Every other port is as it was. -/
theorem leftBy_port {q : Port} (h : q ≠ p) : (leftBy s p reason u).chip.ports.get q = s.chip.ports.get q := by
  unfold leftBy; cases p <;> cases q <;> first | exact absurd rfl h | rfl

theorem exhausted_leftBy : Exhausted (leftBy s p reason u) ↔ Exhausted s := Iff.rfl

theorem writerServed_leftBy : WriterServed (leftBy s p reason u) ↔ WriterServed s := Iff.rfl

/-- The table keeps its limits: holds have left it, none has changed its id or its class. -/
theorem holdTableInRange_leftBy (h : HoldTableInRange s) : HoldTableInRange (leftBy s p reason u) := by
  have ht : ((leftBy s p reason u).chip.hold.table.filter fun x => x.cls = .fixed).length ≤
      (s.chip.hold.table.filter fun x => x.cls = .fixed).length := by
    unfold leftBy
    simp only [List.filter_map, List.length_map]
    exact (List.Sublist.filter _ List.filter_sublist).length_le
  refine ⟨?_, Nat.le_trans ht h.2.1, ?_⟩
  · unfold leftBy
    simpa using Nat.le_trans (List.length_filter_le _ _) h.1
  · unfold leftBy
    exact List.pairwise_map.2 ((h.2.2.sublist List.filter_sublist).imp fun hlt => hlt)

end LeftBy

/-! ### A bridge reset that waits -/

/-- Without the mark, or while the writer is not IDLE, a bridge reset does not go on (R179). -/
theorem resumeReset_of_not {c : Chip} (h : ¬ (c.cfg.resetMark = true ∧ c.cfg.writer = .idle)) : resumeReset c = c :=
  if_neg h

/-- Under the mark, an IDLE writer lets it go on (R179). -/
theorem resumeReset_of {c : Chip} (h : c.cfg.resetMark = true) (hw : c.cfg.writer = .idle) :
    resumeReset c = finishReset c := if_pos ⟨h, hw⟩

/-! ### Grant decisions -/

/-- A decision that grants has taken a slot that was free for grant (R92). -/
theorem grantDecision_none_of_full {c : Chip} (h : c.freeSlot = none) : grantDecision c = none := by
  refine grantDecision_none (fun q => ?_) (.inl h)
  unfold Chip.eligible Chip.eligibleButPages
  cases c.headOf q <;> simp [h]

end Sys2Proof.Laws
end

