-- ==== Sys2Proof/Tests/Slice0.lean ====
section
/-! SUPPORT. The model's own tests: ill-formed commands, words of chapter 11 written out, single steps on a small state,
and for each obligation with premises a state and operands that meet them (`test_met_…`). -/

namespace Sys2Proof.Tests

-- One theorem after the other: the threads of many at once reserve more memory than a check may use.
set_option Elab.async false

open Sys2Proof.Machine Sys2Proof.Safety

/-! ### Well-formed commands -/

theorem test_wf_unknownKind : (Instr.unknownKind .p0 0x03#8).wf = false ∧ (Instr.unknownKind .p0 0x00#8).wf = true := by
  decide

theorem test_wf_unknownRequestKind_known : (Instr.unknownRequestKind .p0 (some 0) (some 0x15#8)).wf = false := by decide

theorem test_wf_unknownRequestKind_without_tag :
    (Instr.unknownRequestKind .p0 none (some 0x99#8)).wf = false ∧ (Instr.unknownRequestKind .p0 none none).wf = true := by
  decide

theorem test_wf_holdExpiry :
    (Instr.holdExpiry 0).wf = false ∧ (Instr.holdExpiry 65536).wf = false ∧ (Instr.holdExpiry 65535).wf = true := by decide

theorem test_wf_unknownMediaFrameKind :
    (Instr.unknownMediaFrameKind []).wf = false ∧ (Instr.unknownMediaFrameKind [0x41#8]).wf = false ∧
      (Instr.unknownMediaFrameKind [0x41#8, 0#8]).wf = true := by decide

/-! ### Frames written out from chapter 11 -/

/-- The check value of the nine digits (R199). -/
theorem test_check_value_of_nine_digits :
    checkValue [0x31#8, 0x32#8, 0x33#8, 0x34#8, 0x35#8, 0x36#8, 0x37#8, 0x38#8, 0x39#8] = 0xCBF43926#32 := by
  decide +kernel

theorem test_decode_bad_check : decodePlink .p1 [0x02#8, 0#8, 0#8, 0#8, 0#8] = .plinkCheckFail .p1 := by decide +kernel

theorem test_decode_open : decodePlink .p1 (withCheck [0x01#8, 0x01#8]) = .openFrame .p1 (some 1#8) := by decide +kernel

theorem test_decode_read :
    decodePlink .p0 (withCheck [0x03#8, 0x05#8, 0x01#8, 0x02#8, 0x03#8, 0#8, 0#8, 0x40#8, 0#8, 0#8, 0x01#8, 0x02#8,
      0#8, 0#8, 0#8, 0#8]) =
      .read .p0 ⟨5, some ⟨0x02#8, true, true, 64#16, 0x102#32, 0#16, []⟩⟩ := by decide +kernel

theorem test_decode_hold_release :
    decodePlink .p2 (withCheck [0x03#8, 0x1F#8, 0x21#8, 0xFF#8, 0#8, 0#8, 0#8, 0#8, 0#8, 0#8, 0#8, 0#8, 0#8, 0x04#8,
      0#8, 0#8, 0#8, 0#8, 0x01#8, 0x00#8]) =
      .holdRelease .p2 ⟨31, some ⟨0xFF#8, false, false, 0#16, 0#32, 4#16, [0#8, 0#8, 1#8, 0#8]⟩⟩ := by decide +kernel

theorem test_decode_short_request :
    decodePlink .p0 (withCheck [0x03#8, 0x07#8, 0x20#8]) = .holdPlace .p0 ⟨7, none⟩ := by decide +kernel

theorem test_decode_unknown_request_kind :
    decodePlink .p0 (withCheck [0x03#8, 0x07#8, 0x09#8]) = .unknownRequestKind .p0 (some 7) (some 0x09#8) := by
  decide +kernel

theorem test_decode_media_complete : decodeMlink (withCheck [0x43#8, 0x0F#8, 0x02#8]) = .complete 15 .range := by
  decide +kernel

theorem test_decode_identify_reply :
    decodeMlink (withCheck [0x42#8, 0#8, 0#8, 0x20#8, 0#8, 0x10#8]) = .identifyReply 8192#32 16#8 := by decide +kernel

theorem test_decode_media_unknown : decodeMlink (withCheck [0x43#8, 0x0F#8, 0x03#8]) = .unknownMediaFrameKind [0x43#8, 0x0F#8, 0x03#8] := by
  decide +kernel

theorem test_accept_bytes :
    (PFrame.accept .admin ⟨false, false, false⟩ .service 1#32 3).body =
      [0x81#8, 0x01#8, 0x00#8, 0x01#8, 0#8, 0#8, 0#8, 1#8, 3#8] := by decide +kernel

theorem test_response_without_tag_bytes :
    (PFrame.response none .noSession ⟨false, false, false⟩ []).body =
      [0x86#8, 0x80#8, 0x03#8, 0#8, 0#8, 0#8, 0#8, 0#8] := by decide +kernel

theorem test_command_bytes :
    (MFrame.command 3 .write true 8190 1).body =
      [0x03#8, 0x03#8, 0x02#8, 0x01#8, 0#8, 0#8, 0x1F#8, 0xFE#8, 0#8, 1#8, 0#8, 0#8] := by decide +kernel

/-! ### A small state -/

/-- A window that every port may use. -/
def w0 : Window := ⟨0#32, 100#32, ⟨.readWrite, .readWrite, .read⟩, .allowed, .onRequest, none⟩
/-- A window with a refused discard and a quota. -/
def w1 : Window := ⟨100#32, 64#32, ⟨.readWrite, .none, .read⟩, .refused, .always, some 1⟩
/-- Windows W0 and W1 over the factory port table. -/
def conf : Configuration := { factory with map := (factory.map.set 0 (some w0)).set 1 (some w1) }

/-- A port on a link that is UP. -/
def port (x : Session) : PortCtl := { PortCtl.reset with link := .up, session := x }

/-- In SERVICE: P0 (ADMIN) and P1 (USER) are OPEN, P2 is DOWN; two slots. -/
def up : State where
  rstn := .high
  pending := []
  chip := { Chip.reset with
    ports := ⟨port .opened, port .opened, port .down⟩
    map := { MapUnit.reset with active := conf, epoch := 1#32 }
    mlink := { MlinkCtl.reset with link := .up, capacity := 8192#32, slotCount := 2 }
    cfg := { ConfigUnit.reset with
      bridge := .service, step := none, current := some .a, generation := 1#32, markA := .valid } }

/-- A state with other blocks. -/
def with' (f : Chip → Chip) (s : State) : State := { s with chip := f s.chip }

/-- The configuration unit changed. -/
def cfgIs (f : ConfigUnit → ConfigUnit) : State := with' (fun c => { c with cfg := f c.cfg }) up

/-- The same state in another bridge state. -/
def bridgeIs (b : BridgeState) : State := cfgIs fun u => { u with bridge := b }

/-- The map unit changed. -/
def mapIs (f : MapUnit → MapUnit) : State := with' (fun c => { c with map := f c.map }) up

/-- The M-link controller changed. -/
def mlinkIs (f : MlinkCtl → MlinkCtl) : State := with' (fun c => { c with mlink := f c.mlink }) up

/-- One attempt under way in a bridge state. -/
def attempting (b : BridgeState) (x : AttemptStep) (n : Nat) : State :=
  with' (fun c => { c with
    cfg := { c.cfg with bridge := b, step := if b = .start then some .bringUp else none }
    mlink := { c.mlink with bringUp := .attempt x 200, attempts := n } }) up

/-- A table of holds. -/
def holding (l : List Hold) : State := with' (fun c => { c with hold := { c.hold with table := l } }) up

/-- A hold of P1. -/
def held (id : Nat) (cls : HoldClass) (x : HoldState) : Hold := ⟨id, cls, .write, ⟨10, 5⟩, .p1, none, x, none⟩

/-- A management request under a tag. -/
def ask (t : Tag) (l : List Byte) : Request :=
  ⟨t, some ⟨0xFF#8, false, false, 0#16, 0#32, BitVec.ofNat 16 l.length, l⟩⟩

/-- The header of a data request. -/
def dataHead (target : Byte) (count : Half) (offset : Word) : Header := ⟨target, false, false, count, offset, 0#16, []⟩

/-- A data request's record at W0. -/
def rec0 (k : DataKind) (x : Stage) : DataRec :=
  ⟨k, 0, 0#32, 2#16, false, false, false, true, true, some ⟨0, 2⟩, x⟩

/-- A slot record for tag 3 of P0. -/
def slot0 (k : DataKind) (x : SlotPhase) : SlotRec :=
  ⟨x, .port .p0, some 3, k, some 0, false, some ⟨0, 2⟩, false, [0, 1], []⟩

/-- Tag 3 of P0 holds a request at a stage, slot 1 a record. -/
def working (d : DataRec) (r : Option SlotRec) : State :=
  with' (fun c => { withRecord .p0 3 (some (.data d)) c with
    mlink := { c.mlink with slots := c.mlink.slots.set 1 r } }) up

/-- A commit that drains W0. -/
def draining : State :=
  mapIs fun m => { m with commit := .draining ⟨some .p0, some 9, false, [0]⟩ 1, staging := .committing (some .p0) conf }

/-- The reset mark is set and a write is under way; P0 is OPEN, its RESET-BRIDGE waits, the others are DOWN. -/
def marked : State :=
  { with' (fun c => { c with ports := ⟨port .opened, port .down, port .down⟩ })
      (cfgIs fun u => { u with resetMark := true, writer := .writing .commit .b 2#32 }) with
    pending := [.resetBridge .p0 (ask 4 [])] }

/-- A session of P0 that is CLOSING, with one request in flight. -/
def closing (s : State) : State :=
  with' (fun c => { c with ports := c.ports.modify .p0 fun pc => { pc with session := .closing .close, inFlight := 1 } }) s

/-- The factory record. -/
def factoryRec : ConfigRecord := ⟨0#32, factory, []⟩

/-- In START between attempts, a slot record in slot 0, the configuration unit as `f` makes it. -/
def starting (r : Option SlotRec) (f : ConfigUnit → ConfigUnit) : State :=
  with' (fun c => { c with
    ports := PerPort.same (port .down)
    cfg := f ConfigUnit.reset
    mlink := { c.mlink with slots := c.mlink.slots.set 0 r } }) up

/-- A WRITE of P0 in its queue, blocks 98 and 99. -/
def inQueue : State :=
  with' (fun c => { c with arb := { c.arb with queues := ⟨[3], [], []⟩ } })
    (working { rec0 .write .admitted with range := some ⟨98, 2⟩ } none)

/-- The same in RECOVER. -/
def queuedInRecover : State := with' (fun c => { c with cfg := { c.cfg with bridge := .recover } }) inQueue

/-- Staging as given. -/
def stagingIs (x : Staging) : State := mapIs fun m => { m with staging := x }

/-! ### Single steps -/

theorem test_read_is_granted_slot_0_and_pages :
    ∃ t, exec (.read .p0 ⟨5, some (dataHead 0#8 2#16 0#32)⟩) up = .next t ∧
      t.chip.sent = [.toMedia (.command 0 .read false 0 2)] ∧ t.chip.pool.free.length = 254 := by
  refine ⟨_, rfl, ?_⟩; decide +kernel

theorem test_write_announces :
    ∃ t, exec (.write .p0 ⟨5, some (dataHead 1#8 2#16 0#32)⟩) up = .next t ∧
      t.chip.sent = [.toPort .p0 (.xferReady 5 2#16)] := by
  refine ⟨_, rfl, ?_⟩; decide +kernel

theorem test_out_of_window_is_logged :
    ∃ t, exec (.discard .p1 ⟨5, some (dataHead 0#8 101#16 0#32)⟩) up = .next t ∧
      t.chip.ctl.log = [⟨.p1, 5, .discard, some 0, .outOfWindow, none, 0#32⟩] := by
  refine ⟨_, rfl, ?_⟩; decide +kernel

theorem test_rights_code_3_is_refused : Rights.ofCode 3 = none := by decide

theorem test_start_begins_with_link_reset :
    ∃ t, exec .rstnRelease State.reset = .next t ∧ t.chip.mlink.bringUp = .attempt .awaitLinkUp 200 := ⟨_, rfl, rfl⟩

theorem test_hold_places_and_answers :
    ∃ t, exec (.holdPlace .p1 (ask 2 [0#8, 0#8, 0#8, 0#8, 0#8, 0#8, 0#8, 10#8, 0#8, 0#8, 0#8, 5#8, 0#8, 0#8, 0#8, 0#8,
        0#8, 0#8, 0#8, 0#8])) up = .next t ∧
      t.chip.hold.table = [⟨1, .session, .write, ⟨10, 5⟩, .p1, none, .active none, none⟩] ∧
      t.chip.sent = [.toPort .p0 (.notice ⟨false, true, false⟩),
        .toPort .p1 (.response (some 2) .ok ⟨false, true, false⟩ [1#32, 0#32, 0#32, 10#32, 5#32])] := by
  refine ⟨_, rfl, ?_⟩; decide +kernel

/-! ### Premises that are met -/

theorem speaks0 : Speaks up .p0 := ⟨rfl, rfl, rfl⟩
theorem speaks1 : Speaks up .p1 := ⟨rfl, rfl, rfl⟩
theorem ready0 (t : Tag) (l : List Byte) : Ready up .p0 (ask t l).tag :=
  ⟨speaks0, Laws.Table.get_fill (n := 32) none t⟩
theorem ready1 (t : Tag) (l : List Byte) : Ready up .p1 (ask t l).tag :=
  ⟨speaks1, Laws.Table.get_fill (n := 32) none t⟩

/-- A list of whole items, not too long, is carried by a request that states its length. -/
theorem carries (t : Tag) (l : List Byte) (h : l.length % 4 = 0) (h' : l.length < 65536) : Carries (ask t l) (items l) :=
  ⟨_, rfl, rfl, by simp [BitVec.toNat_ofNat, Nat.mod_eq_of_lt h'], h, rfl⟩

theorem test_met_EmptyQueueStepIsOneMillisecond :
    (State.reset.pending = [] ∧ State.reset.rstn = .low) ∧
      (up.pending = [] ∧ up.rstn = .high) := ⟨⟨rfl, rfl⟩, rfl, rfl⟩

/-- Each kind of timer ends. -/
theorem test_each_timer_ends :
    TimerEnds (working (rec0 .write (.granted 1 [] 1)) (some (slot0 .write .taken))) (.transferTimeout .p0 3) ∧
      TimerEnds (working (rec0 .read (.issued 1)) (some (slot0 .read (.issued 1)))) (.responseTimerExpiry 1) ∧
      TimerEnds (working (rec0 .read .admitted) (some (slot0 .read (.abandoning .timeout 1)))) (.abandonTimerExpiry 1) ∧
      TimerEnds (mlinkIs fun m => { m with bringUp := .attempt .awaitReply 1 }) .attemptLimitExpiry ∧
      TimerEnds draining .drainLimitExpiry ∧
      TimerEnds (holding [held 65535 .power (.active (some 1))]) (.holdExpiry 65535) :=
  ⟨.inl ⟨.p0, 3, _, 1, [], rfl, rfl, rfl⟩, .inr (.inl ⟨1, _, rfl, rfl, rfl⟩), .inr (.inr (.inl ⟨1, _, .timeout, rfl, rfl, rfl⟩)),
    .inr (.inr (.inr (.inl ⟨.awaitReply, rfl, rfl⟩))), .inr (.inr (.inr (.inr (.inl ⟨_, rfl, rfl⟩)))),
    .inr (.inr (.inr (.inr (.inr ⟨_, List.mem_singleton.2 rfl, rfl, rfl⟩))))⟩

theorem test_met_EveryCommandAnswersANextState : Instr.linkReady ≠ .coldReset ∧ Instr.linkReady ≠ .rstnRelease := by
  decide

theorem test_met_StepKeepsResetValuesWhileRstnIsLow :
    ∃ t, QuietWhileLow { State.reset with chip := { Chip.reset with free := 3 } } ∧
      step { State.reset with chip := { Chip.reset with free := 3 } } = .next t := ⟨_, fun _ => rfl, rfl⟩

theorem test_met_StepKeepsLogAndCountsInRange : ∃ t, step up = .next t ∧ LogInRange up ∧ CountsInRange up := by
  refine ⟨_, rfl, by unfold LogInRange; decide, fun p => ?_, by decide, by decide, by decide⟩
  cases p <;> decide

theorem test_met_StepKeepsFlagsClearOutsideOpen :
    (∃ t, step up = .next t ∧ FlagsOnlyInOpen up) ∧ ∃ t, step marked = .next t ∧ ReachedUnderMark marked ∧
      marked.chip.cfg.resetMark = true ∧ (marked.chip.ports.get .p0).session = .opened := by
  refine ⟨⟨_, rfl, fun p _ => ?_⟩, _, rfl, fun _ => ⟨fun _ h => (by cases h), fun q hq => ?_⟩, rfl, rfl⟩
  · cases p <;> rfl
  · cases q
    · exact ⟨[], _, [], rfl, nofun, ⟨⟨rfl, rfl, rfl⟩, by decide⟩, carries 4 [] rfl (by decide), rfl⟩
    all_goals cases hq

/-- P0 has the epoch delivered, P1 has not. -/
def noticed : State :=
  with' (fun c => { c with ports := ⟨{ port .opened with delivered := 1#32 },
    { port .opened with flags := ⟨true, false, false⟩ }, port .down⟩ }) up

theorem test_met_StepKeepsMapNoticeExact : ∃ t, step noticed = .next t ∧ MapNoticeExact noticed := by
  refine ⟨_, rfl, ⟨?_, fun h => absurd rfl h⟩, fun p h => ?_⟩
  · rintro (h | h) <;> cases h
  · cases p
    · exact ⟨fun h => Bool.noConfusion h, fun h => absurd rfl h⟩
    · exact ⟨fun _ h => absurd h (by decide), fun _ => rfl⟩
    · cases h

/-- A READ of P0 in the last slot, with two pages and its counts. -/
def lent : State :=
  with' (fun c => { c with
    ports := c.ports.modify .p0 fun pc => { pc with inFlight := 1 }
    map := { c.map with usage := c.map.usage.set 0 ⟨0, 1⟩ }
    pool := { c.pool with free := allPages.drop 2 } }) (working (rec0 .read (.issued 1)) (some (slot0 .read (.issued 5))))

theorem lent_exact : SlotTableExact lent := by
  refine ⟨fun h => absurd rfl h, fun _ => ⟨rfl, by decide⟩, ?_, fun h => (by cases h), fun h => (by cases h),
    fun p => ?_, by decide⟩
  · rintro (h | h) <;> cases h
  · cases p <;> decide

/-- `QueuesExact` from what evaluates: its clauses for one port and for one window. -/
theorem queuesExact_of {s : State}
    (h1 : ∀ p, (s.chip.arb.queues.get p).Nodup ∧
      (∀ u, u ∈ s.chip.arb.queues.get p ↔ (s.chip.dataRecord p u).map DataRec.stage = some .admitted) ∧
      ((s.chip.ports.get p).session = .opened ∨ s.chip.arb.queues.get p = []) ∧ (awaitedTags s.chip p).Nodup ∧
      ∀ u ∈ awaitedTags s.chip p, (s.chip.record p u).any (fun r => match r with
        | .handed _ _ _ => true
        | .data _ => false) = true)
    (h2 : ∀ i, (s.chip.slot i).all (fun r => match r.holder, r.owner with
      | .port p, some u => ((s.chip.dataRecord p u).map DataRec.stage).bind Stage.slot? = some i
      | _, _ => true) = true)
    (h3 : ∀ w, (s.chip.map.usage.get w).queued = (Port.all.map fun p => (queuedTags s.chip p w).length).sum)
    (h4 : ∀ info, s.chip.map.commit = .persisting info ∨ (∃ left, s.chip.map.commit = .draining info left) →
      ∃ cfg, s.chip.map.staging = .committing info.session cfg) : QueuesExact s := by
  refine ⟨fun p => ⟨(h1 p).1, (h1 p).2.1, fun h => (h1 p).2.2.1.resolve_left h, fun i r u hr hp hu => ?_, (h1 p).2.2.2.1,
    fun u hu => ?_⟩, h3, h4⟩
  · have := h2 i
    rw [hr] at this
    simpa [hp, hu] using this
  · have := (h1 p).2.2.2.2 u hu
    cases hr : s.chip.record p u with
    | none => simp [hr] at this
    | some x =>
      cases x with
      | data d => simp [hr] at this
      | handed k ws v => exact ⟨k, ws, v, rfl⟩

/-- No commit is under way. -/
theorem no_commit {s : State} (h : s.chip.map.commit = .idle) (info : CommitInfo) :
    s.chip.map.commit = .persisting info ∨ (∃ left, s.chip.map.commit = .draining info left) →
      ∃ cfg, s.chip.map.staging = .committing info.session cfg := by
  rintro (h' | ⟨_, h'⟩) <;> rw [h] at h' <;> cases h'

/-- A WRITE in the queue of P0, counted. -/
def queuedOnce : State :=
  with' (fun c => { c with map := { c.map with usage := c.map.usage.set 0 ⟨1, 0⟩ } }) inQueue

theorem queuedOnce_exact : QueuesExact queuedOnce :=
  queuesExact_of (fun p => by cases p <;> decide +kernel) (by decide +kernel) (by decide +kernel) (no_commit rfl)

theorem lent_queues : QueuesExact lent :=
  queuesExact_of (fun p => by cases p <;> decide +kernel) (by decide +kernel) (by decide +kernel) (no_commit rfl)

theorem test_met_StepKeepsSlotTableAndQueuesExactAndLendsNoPageTwice :
    ∃ t, step lent = .next t ∧ SlotTableExact lent ∧ PagesLentOnce lent ∧ QueuesExact lent ∧ HoldTableInRange lent ∧
      QueuesExact queuedOnce ∧ queuedOnce.chip.arb.queues.get .p0 = [3] :=
  ⟨_, rfl, lent_exact, ⟨by decide +kernel, by decide +kernel⟩, lent_queues, ⟨by decide, by decide, .nil⟩, queuedOnce_exact,
    rfl⟩

theorem inRange (id : Nat) (cls : HoldClass) (x : HoldState) : HoldTableInRange (holding [held id cls x]) := by
  refine ⟨by simp [holding, with'], ?_, by simp [holding, with']⟩
  simp only [holding, with', List.filter]
  split <;> simp

theorem test_met_StepKeepsHoldTableInRangeAndWriterServed :
    ∃ t, step (holding [held 65535 .fixed (.active none)]) = .next t ∧
      HoldTableInRange (holding [held 65535 .fixed (.active none)]) ∧
      WriterServed (holding [held 65535 .fixed (.active none)]) := ⟨_, rfl, inRange .., fun _ => rfl⟩

theorem test_met_PlinkFrameReadsBack :
    ∃ frame, (Instr.unknownKind .p2 0xFF#8).wf = true ∧ encodePlink (.unknownKind .p2 0xFF#8) = some frame :=
  ⟨_, by decide, rfl⟩

theorem test_met_MlinkFrameReadsBack :
    ∃ frame, (Instr.abandonAck 15).wf = true ∧ encodeMlink (.abandonAck 15) = some frame := ⟨_, by decide, rfl⟩

theorem conf_entries : ∀ n : WindowNo, conf.map.get n = if n = 0 then some w0 else if n = 1 then some w1 else none := by
  decide

theorem conf_valid : ValidMap 8192 conf.map := by
  refine ⟨fun n k w v hn h1 h2 => ?_, fun n w h => ?_⟩
  · rw [conf_entries] at h1 h2
    split at h1 <;> split at h2
    · simp_all
    · split at h2 <;> (cases h1; cases h2)
      decide
    · split at h1 <;> cases h1
      cases h2
      decide
    · split at h1 <;> split at h2 <;> simp_all
  · rw [conf_entries] at h
    split at h
    · cases h; decide
    · split at h <;> cases h; decide

theorem test_met_ConfigurationRecordReadsBack :
    RecordInRange 8192 ⟨0xFFFFFFFF#32, conf, [⟨1, .all, ⟨8189, 1⟩, .p2⟩, ⟨65535, .write, ⟨0, 8190⟩, .p0⟩]⟩ := by
  refine ⟨by decide, by unfold ParamsForm; decide, fun p => ?_, fun n w h => ?_, conf_valid, by decide, by decide, ?_⟩
  · cases p <;> decide
  · rw [conf_entries] at h
    split at h
    · cases h; exact ⟨by decide, .inl rfl⟩
    · split at h <;> cases h; exact ⟨by decide, .inr ⟨1, rfl, by decide, by decide⟩⟩
  · intro h hm; fin_cases hm; all_goals decide

theorem test_met_ColdResetSetsEveryBlock :
    (working (rec0 .read (.delivering [0, 1])) none).chip.dataRecord .p0 3 = some (rec0 .read (.delivering [0, 1])) ∧
      (rec0 .read (.delivering [0, 1])).stage = .delivering [0, 1] ∧ ([0, 1] : List PageNo) ≠ [] := by decide

theorem test_met_RstnReleaseBeginsStart :
    (State.reset.rstn = .low ∧ QuietWhileLow State.reset) ∧ up.rstn = .high := ⟨⟨rfl, fun _ => rfl⟩, rfl⟩

theorem test_met_NothingActsWhileRstnIsLow :
    State.reset.rstn = .low ∧ Instr.plinkLinkUp .p0 ≠ .coldReset ∧ Instr.plinkLinkUp .p0 ≠ .rstnRelease := by decide

theorem test_met_PlinkReportsChangeTheLinkAlone :
    up.rstn = .high ∧ (up.chip.ports.get .p2).session ≠ .opened ∧ (up.chip.ports.get .p2).link = .up ∧
      ((with' (fun c => { c with ports := PerPort.same PortCtl.reset }) up).chip.ports.get .p0).link = .down := by decide

theorem test_met_OpenIsAnswered :
    (up.rstn = .high ∧ (up.chip.ports.get .p2).link = .up ∧ (up.chip.ports.get .p2).session = .down) ∧
      ((none : Option Byte) ≠ some 1#8 ∧ (some 2#8 : Option Byte) ≠ some 1#8) ∧
      ((bridgeIs .start).chip.cfg.bridge = .start ∧ (bridgeIs .start).chip.ports = up.chip.ports) ∧
      (up.chip.cfg.bridge = .service ∧ up.chip.cfg.resetMark = false) ∧
      (up.chip.ports.get .p0).session = .opened ∧
      ((with' (fun c => { c with ports := c.ports.set .p2 (port (.closing .reset)) }) up).chip.ports.get .p2).session =
        .closing .reset := by decide

theorem test_met_SessionEndCleansUp :
    (up.rstn = .high ∧ (up.chip.ports.get .p1).session = .opened ∧ (up.chip.ports.get .p1).link = .up) ∧
      (∃ cfg, (stagingIs (.opened .p1 conf)).chip.map.staging = .opened .p1 cfg ∧
        (stagingIs (.opened .p1 conf)).chip.map.commit = .idle) ∧
      (inQueue.chip.arb.queues.get .p0 ≠ [] ∧ (inQueue.chip.arb.queues.get .p0).Nodup ∧
        ∀ u ∈ inQueue.chip.arb.queues.get .p0, ∃ d, inQueue.chip.dataRecord .p0 u = some d ∧ d.stage = .admitted) ∧
      (∃ info left, draining.chip.map.commit = .draining info left ∧
        draining.chip.map.staging = .committing (some .p0) conf) ∧ WriterServed up ∧
      ∃ info, (mapIs fun m => { m with
        commit := .persisting ⟨some .p0, some 9, true, []⟩, staging := .committing (some .p0) conf }).chip.map.commit =
          .persisting info :=
  ⟨by decide, ⟨_, rfl, rfl⟩, ⟨by decide, by decide, fun _ hu => by rw [List.mem_singleton.1 hu]; exact ⟨_, rfl, rfl⟩⟩,
    ⟨_, _, rfl, rfl⟩, fun _ => rfl, _, rfl⟩

/-- A write that waits for data and a queued request give back what they hold. -/
theorem test_met_SessionEndCleansUp_counts :
    grantedSlots (working (rec0 .write (.granted 1 [] 200)) (some (slot0 .write .taken))).chip .p0 = [1] ∧
      queuedTags inQueue.chip .p0 0 = [3] ∧
      (working (rec0 .read (.delivering [0, 1])) none).chip.dataRecord .p0 3 = some (rec0 .read (.delivering [0, 1])) := by
  decide +kernel

/-- A WRITE of P0 that waits for data in slot 1, and what waits on it: a SESSION and a FIXED hold of P1, and a commit of `q`
that drains W0. -/
def leftWaiting (q : Port) : State :=
  with' (fun c => { c with
    hold := { c.hold with table := [held 7 .session (.pending [1]), held 9 .fixed (.pending [1])] }
    ports := c.ports.modify .p0 fun pc => { pc with inFlight := 1 }
    map := { c.map with
      usage := c.map.usage.set 0 ⟨0, 1⟩
      commit := .draining ⟨some q, some 9, false, [0]⟩ 1, staging := .committing (some q) conf } })
    (working (rec0 .write (.granted 1 [] 200)) (some (slot0 .write .taken)))

/-- What its session end leaves to the hold unit and the map unit. -/
theorem test_met_SessionEndCleansUp_left :
    HoldTableInRange (leftWaiting .p1) ∧
      (let left := leftBy (leftWaiting .p1) .p0 .close ((leftWaiting .p1).chip.map.usage.set 0 ⟨0, 0⟩)
       left.chip.hold.table = [held 7 .session (.pending []), held 9 .fixed (.pending [])] ∧ HoldTableInRange left ∧
        WriterServed left ∧ ¬ Exhausted left ∧
        left.chip.map.commit = .draining ⟨some .p1, some 9, false, [0]⟩ 1 ∧
        left.chip.map.staging = .committing (some .p1) conf ∧ left.chip.map.usage.get 0 = ⟨0, 0⟩) := by
  have key : ∀ s : State, s.chip.hold.table.map Hold.id = [7, 9] →
      (s.chip.hold.table.filter fun h => h.cls = .fixed).length ≤ 8 → HoldTableInRange s := by
    intro s h h8
    refine ⟨?_, h8, ?_⟩
    · have : s.chip.hold.table.length = 2 := by simpa using congrArg List.length h
      omega
    · have : (s.chip.hold.table.map Hold.id).Pairwise (· < ·) := by rw [h]; decide
      exact List.pairwise_map.1 this
  refine ⟨key _ rfl (by decide), by decide +kernel, key _ (by decide +kernel) (by decide +kernel), fun _ => rfl,
    fun h => absurd h.1 (by decide), rfl, rfl, by decide +kernel⟩

/-- The end of P1's session removes its SESSION hold, and P0 is told with a NOTICE (R41, R42, R69). -/
theorem test_session_end_tells_of_its_holds :
    ∃ t, exec (.closeFrame .p1) (holding [held 7 .session (.active none)]) = .next t ∧ t.chip.hold.table = [] ∧
      t.chip.sent = [.toPort .p0 (.notice ⟨false, true, false⟩), .toPort .p1 (.closed .close)] := by
  refine ⟨_, rfl, ?_⟩; decide +kernel

/-- The end of the session frees the slot: P1's SESSION hold is ACTIVE, its FIXED one has the writer, and its commit has
swapped (R33, R34, R150). -/
theorem test_session_end_ends_waits_and_drain :
    ∃ t, exec (.closeFrame .p0) (leftWaiting .p1) = .next t ∧
      t.chip.hold.table = [held 7 .session (.active none), held 9 .fixed .persisting] ∧
      jobsOf t.chip.cfg = [.hold 9] ∧ t.chip.map.epoch = 2#32 ∧ t.chip.map.commit = .idle ∧
      t.chip.map.staging = .empty ∧ (t.chip.ports.get .p0).session = .down := by
  refine ⟨_, rfl, ?_⟩; decide +kernel

theorem test_met_FramesWithoutSessionAreAnsweredNoSession :
    up.rstn = .high ∧ (up.chip.ports.get .p2).link = .up ∧ (up.chip.ports.get .p2).session ≠ .opened := by decide

theorem test_met_BusyTagIsAnsweredTagBusy :
    Speaks (working (rec0 .read .admitted) none) .p0 ∧
      ((working (rec0 .read .admitted) none).chip.ports.get .p0).tags.get 3 ≠ none := ⟨⟨rfl, rfl, rfl⟩, by decide⟩

theorem test_met_MalformedRequestIsAnsweredBadRequest :
    Ready up .p0 31 ∧ (dataHead 0xFF#8 1#16 0#32).target = 0xFF#8 ∧
      ({ dataHead 0#8 1#16 0#32 with list := [0#8] } : Header).list ≠ [] ∧
      (∀ d : DataKind, ReqKind.abort ≠ d.request) ∧ (dataHead 0xFE#8 0#16 0#32).target ≠ 0xFF#8 := by
  refine ⟨ready0 31 [], rfl, by decide, fun d => ?_, by decide⟩
  cases d <;> decide

/-- A data request of P0 to W0 that reaches the end of the window: it is 100 blocks long. -/
theorem test_met_DataRequestIsAdmitted :
    Ready (bridgeIs .recover) .p0 5 ∧ Names ⟨5, some (dataHead 0#8 64#16 36#32)⟩ 0 (dataHead 0#8 64#16 36#32) ∧
      Reaches .write (bridgeIs .recover) 0 w0 (dataHead 0#8 64#16 36#32) ∧
      Unprotected .write (bridgeIs .recover) .p0 w0 (dataHead 0#8 64#16 36#32) ∧ NoGrant (bridgeIs .recover).chip := by
  refine ⟨⟨⟨rfl, rfl, rfl⟩, by decide⟩, ⟨rfl, rfl, rfl, rfl⟩, ⟨.inr ⟨by decide, .inr (by decide)⟩, by decide, by decide, ?_⟩,
    ⟨.inl rfl, by decide, .inr ⟨by decide, ?_⟩⟩, .inl (by decide)⟩
  · rintro (⟨i, l, h, -⟩ | ⟨i, h, -⟩) <;> cases h
  · intro x hx; cases hx

theorem test_met_DataRequestIsRefusedUnlogged :
    (Ready up .p0 5 ∧ (dataHead 16#8 1#16 0#32).target.toNat = 16) ∧
      (¬ CountOk .read 0 ∧ ¬ CountOk .read 65 ∧ CountOk .read 64 ∧ CountOk .discard 65535 ∧ CountOk .flush 0) ∧
      (bridgeIs .fault).chip.cfg.bridge = .fault ∧ up.chip.map.active.map.get 15 = none ∧
      (draining.chip.map.active.map.get 0 ≠ none ∧ Changing draining 0) := by
  refine ⟨⟨ready0 5 [], rfl⟩, ⟨?_, ?_, ?_, ?_, .inl rfl⟩, rfl, by decide, by decide, .inl ⟨_, _, rfl, by decide⟩⟩
  · rintro (h | ⟨h, -⟩); cases h; omega
  · rintro (h | ⟨-, h | h⟩); cases h; cases h; omega
  · exact .inr ⟨by decide, .inr (by decide)⟩
  · exact .inr ⟨by decide, .inl rfl⟩

theorem test_met_ProtectionRefusalIsLogged :
    Reaches .write up 1 w1 (dataHead 1#8 1#16 64#32) ∧ ¬ RightsPermit (w1.rights.get .p1) .write ∧
      RightsPermit (w1.rights.get .p0) .discard ∧ w1.discard = .refused ∧ (64 : Nat) < 64 + 1 ∧
      (∃ x ∈ (holding [held 1 .power (.active none)]).chip.hold.table, Meets .write (0 + 14) 1 x ∧
        ¬ Meets .write (0 + 15) 1 x ∧ ¬ Meets .read (0 + 14) 1 x) := by
  refine ⟨⟨.inr ⟨by decide, .inr (by decide)⟩, by decide, by decide, ?_⟩, ?_, .inl rfl, rfl, by decide,
    _, List.mem_singleton.2 rfl, ⟨.inl rfl, by decide, by decide⟩, ?_, ?_⟩
  · rintro (⟨i, l, h, -⟩ | ⟨i, h, -⟩) <;> cases h
  · rintro (h | ⟨h, -⟩) <;> cases h
  · rintro ⟨-, h, -⟩; revert h; decide
  · rintro ⟨h | h | ⟨-, h⟩, -⟩ <;> cases h

/-- P0 has an eligible head, the round starts at P1. -/
def askingP0 (credit : PerPort Nat) (reservation : List Port) : Chip :=
  (with' (fun c => { c with arb := { c.arb with
    queues := ⟨[3], [], []⟩, credit, reservation, pointer := .p1 } }) (working (rec0 .read .admitted) none)).chip

theorem test_met_GrantTakesTheLowestFreeSlot :
    (bridgeIs .fault).chip.cfg.bridge ≠ .service ∧
      (up.chip.cfg.bridge = .service ∧ (∀ q, up.chip.eligible q = false) ∧ up.chip.arb.reservation = []) ∧
      ((cfgIs fun u => { u with writer := .awaitingSlot .commit }).chip.cfg.writer = .awaitingSlot .commit ∧
        up.chip.freeSlot = some 0 ∧ (mlinkIs fun m => { m with slotCount := 0 }).chip.freeSlot = none) ∧
      (JobWrites up.chip (.hold 7) conf ∧ JobWrites draining.chip .commit conf ∧ up.chip.mlink.link = .up) ∧
      (∀ j, up.chip.cfg.writer ≠ .awaitingSlot j) ∧
      ((askingP0 (PerPort.same 0) [.p0]).eligible .p0 = true ∧
        (askingP0 (PerPort.same 0) [.p0]).arb.reservation = [.p0]) ∧
      FirstInTurn (askingP0 ⟨1, 8, 8⟩ []) (askingP0 ⟨1, 8, 8⟩ []).arb.credit .p0 ∧
      ((∀ q, (askingP0 ⟨0, 8, 8⟩ []).eligible q = true → (askingP0 ⟨0, 8, 8⟩ []).arb.credit.get q = 0) ∧
        FirstInTurn (askingP0 ⟨0, 8, 8⟩ []) ((askingP0 ⟨0, 8, 8⟩ []).map.active.ports.map PortEntry.weight) .p0) := by
  refine ⟨by decide, ⟨rfl, fun q => ?_, rfl⟩, ⟨rfl, by decide, by decide⟩,
    ⟨.inl ⟨⟨7, rfl⟩, rfl⟩, .inr ⟨rfl, _, rfl⟩, rfl⟩, fun j h => ?_, by decide +kernel,
    by unfold FirstInTurn; decide +kernel, fun q => ?_, by unfold FirstInTurn; decide +kernel⟩
  · cases q <;> decide
  · cases h
  · cases q <;> decide +kernel

theorem test_met_GrantTakesEntrySlotAndPages :
    (working (rec0 .write .admitted) none).chip.dataRecord .p0 3 = some (rec0 .write .admitted) ∧
      (working { rec0 .flush .admitted with range := none } none).chip.dataRecord .p0 3 =
        some { rec0 .flush .admitted with range := none } ∧ DataKind.flush ≠ .write := by decide

theorem test_met_FreedSlotGivesBackWhatItHeld :
    (working (rec0 .write (.issued 1)) (some (slot0 .write (.issued 5)))).chip.slot 1 =
        some (slot0 .write (.issued 5)) ∧
      (slot0 .write (.issued 5)).holder = .port .p0 ∧ (slot0 .write (.issued 5)).window = some 0 := by decide

/-- A write of two blocks that waits for data, its first block received or not. -/
def waitingWrite (got : List Nat) : State := working (rec0 .write (.granted 1 got 200)) (some (slot0 .write .taken))

theorem test_met_WriteBlockIsTaken :
    (Speaks (waitingWrite []) .p0 ∧ (waitingWrite []).chip.dataRecord .p0 3 = some (rec0 .write (.granted 1 [] 200)) ∧
        (waitingWrite []).chip.slot 1 = some (slot0 .write .taken) ∧ (slot0 .write .taken).pages[(1#16).toNat]? = some 1 ∧
        (1#16).toNat < (2#16).toNat ∧ (1#16).toNat ∉ ([] : List Nat) ∧ ([] : List Nat).length + 1 < (2#16).toNat) ∧
      Speaks (waitingWrite [1]) .p0 ∧ (waitingWrite [1]).chip.mlink.link = .up ∧
      (waitingWrite [1]).chip.dataRecord .p0 3 = some (rec0 .write (.granted 1 [1] 200)) ∧
      (waitingWrite [1]).chip.slot 1 = some (slot0 .write .taken) ∧ (slot0 .write .taken).op = .write ∧
      (slot0 .write .taken).range = some ⟨0, 2⟩ ∧ (slot0 .write .taken).pages[(0#16).toNat]? = some 0 ∧
      (0#16).toNat < (2#16).toNat ∧ (0#16).toNat ∉ [1] ∧ [1].length + 1 = (2#16).toNat :=
  ⟨⟨⟨rfl, rfl, rfl⟩, by decide, by decide, by decide, by decide, by decide, by decide⟩, ⟨rfl, rfl, rfl⟩, by decide,
    by decide, by decide, by decide, by decide, by decide, by decide, by decide, by decide⟩

theorem test_met_OtherDataFramesAreDiscarded :
    Speaks (waitingWrite [1]) .p0 ∧ (waitingWrite [1]).chip.dataRecord .p0 4 = none ∧
      (rec0 .read .admitted).kind ≠ .write ∧ (2#16).toNat ≤ (2#16).toNat ∧ (1#16).toNat ∈ [1] :=
  ⟨⟨rfl, rfl, rfl⟩, by decide, by decide, by decide, by decide⟩

/-- ABORT of tag 3. -/
def abort3 : Request := ask 6 [0#8, 0#8, 0#8, 3#8]

theorem test_met_AbortActsOnTheTargetsStage :
    Ready (working (rec0 .read (.issued 1)) (some (slot0 .read (.issued 5)))) .p0 abort3.tag ∧ Carries abort3 [3#32] ∧
      (3#32).toNat = (3 : Tag).val ∧ 32 ≤ (32#32).toNat ∧
      (working (rec0 .read (.issued 1)) (some (slot0 .read (.issued 5)))).chip.dataRecord .p0 3 =
        some (rec0 .read (.issued 1)) ∧
      (working (rec0 .read (.issued 1)) (some (slot0 .read (.issued 5)))).chip.mlink.link = .up ∧
      (working (rec0 .read (.delivering [0])) none).chip.dataRecord .p0 3 = some (rec0 .read (.delivering [0])) ∧
      (working (rec0 .read (.abandoning 1 7)) none).chip.dataRecord .p0 3 = some (rec0 .read (.abandoning 1 7)) ∧
      (working (rec0 .read .admitted) none).chip.dataRecord .p0 31 = none :=
  ⟨⟨⟨rfl, rfl, rfl⟩, by decide⟩, carries 6 [0#8, 0#8, 0#8, 3#8] (by decide) (by decide), by decide, by decide, by decide,
    by decide, by decide, by decide, by decide⟩

theorem calm_of_idle {s : State} (i : SlotNo) (h1 : s.chip.map.commit = .idle) (h2 : s.chip.hold.table = [])
    (h3 : s.chip.cfg.queue = []) (h4 : s.chip.cfg.writer = .idle) (h5 : s.chip.arb.queues = ⟨[], [], []⟩)
    (h6 : ∀ q reason, (s.chip.ports.get q).session ≠ .closing reason) : Calm s.chip i := by
  refine ⟨by simp [h1], by simp [h2], h3, by simp [h4], fun q => ?_, fun q reason h => absurd h (h6 q reason)⟩
  rw [h5]; cases q <;> rfl

theorem calm_working (d : DataRec) (r : Option SlotRec) (i : SlotNo) : Calm (working d r).chip i := by
  refine calm_of_idle (s := working d r) i rfl rfl rfl rfl rfl fun q reason => ?_
  cases q <;> simp [working, with', withRecord, up, port, PerPort.modify, PerPort.set, PerPort.get]

theorem test_met_AbortTakesBackQueuedAndWaitingRequests :
    Ready (waitingWrite []) .p0 abort3.tag ∧ Carries abort3 [3#32] ∧ (3#32).toNat = (3 : Tag).val ∧
      (waitingWrite []).chip.dataRecord .p0 3 = some (rec0 .write (.granted 1 [] 200)) ∧
      (working (rec0 .read .admitted) none).chip.dataRecord .p0 3 = some (rec0 .read .admitted) ∧
      (inQueue.chip.arb.queues.get .p0).Nodup ∧
      (Ready queuedInRecover .p0 abort3.tag ∧ queuedInRecover.chip.dataRecord .p0 3 =
        some { rec0 .write .admitted with range := some ⟨98, 2⟩ } ∧ Still queuedInRecover.chip ∧
        NoGrant queuedInRecover.chip) ∧
      Calm (waitingWrite []).chip 1 ∧
      (waitingWrite []).chip.slot 1 = some (slot0 .write .taken) ∧ (slot0 .write .taken).holder = .port .p0 ∧
      (slot0 .write .taken).window = some 0 :=
  ⟨⟨⟨rfl, rfl, rfl⟩, by decide⟩, carries 6 [0#8, 0#8, 0#8, 3#8] (by decide) (by decide), by decide, by decide, by decide,
    by decide, ⟨⟨⟨rfl, rfl, rfl⟩, by decide⟩, by decide, ⟨fun _ _ h => (by cases h), fun _ h => (List.not_mem_nil h).elim, rfl,
      fun q _ h => by cases q <;> cases h⟩, .inl (by decide)⟩, calm_working .., by decide, rfl, rfl⟩

theorem test_met_TransferTimeoutEndsAWaitingWrite :
    Speaks (waitingWrite [1]) .p0 ∧ (waitingWrite [1]).chip.dataRecord .p0 3 = some (rec0 .write (.granted 1 [1] 200)) ∧
      Calm (waitingWrite [1]).chip 1 ∧ (waitingWrite [1]).chip.slot 1 = some (slot0 .write .taken) ∧
      (slot0 .write .taken).holder = .port .p0 ∧ (slot0 .write .taken).window = some 0 ∧
      up.chip.dataRecord .p0 3 = none :=
  ⟨⟨rfl, rfl, rfl⟩, by decide, calm_working .., by decide, rfl, rfl, by decide⟩

theorem test_met_LastDataFrameEndsTheDelivery :
    Speaks (working (rec0 .read (.delivering [0, 1])) none) .p0 ∧
      (working (rec0 .read (.delivering [0, 1])) none).chip.dataRecord .p0 3 = some (rec0 .read (.delivering [0, 1])) ∧
      up.chip.dataRecord .p0 3 = none := ⟨⟨rfl, rfl, rfl⟩, by decide, by decide⟩

theorem admin0 : privilegeOf up .p0 = .admin := rfl

theorem test_met_ReadRequestsAnswerTheStateOfOneMoment :
    Ready up .p0 (ask 4 []).tag ∧ Carries (ask 4 []) [] ∧ privilegeOf up .p0 = .admin ∧
      ∃ seen : Hold → Bool, ∀ h, seen h = true ↔ Sees up .p0 h.range :=
  ⟨ready0 4 [], carries 4 [] rfl (by decide), rfl, fun _ => true, fun _ => ⟨fun _ => .inl rfl, fun _ => rfl⟩⟩

theorem test_met_LogClearEmptiesTheLog :
    Ready up .p0 (ask 4 []).tag ∧ Carries (ask 4 []) [] ∧ privilegeOf up .p0 = .admin ∧ LogInRange up ∧
      Ready up .p1 (ask 4 []).tag ∧ privilegeOf up .p1 = .user :=
  ⟨ready0 4 [], carries 4 [] rfl (by decide), rfl, by unfold LogInRange; decide, ready1 4 [], rfl⟩

theorem test_met_RequestsWithoutParametersRefuseAList :
    Ready up .p0 (ask 4 [0#8, 0#8, 0#8, 0#8]).tag ∧ Carries (ask 4 [0#8, 0#8, 0#8, 0#8]) [0#32] ∧ [0#32] ≠ [] ∧
      privilegeOf up .p0 = .admin :=
  ⟨ready0 4 _, carries 4 [0#8, 0#8, 0#8, 0#8] rfl (by decide), by decide, rfl⟩

theorem test_met_UserIsRefusedTheAdminKinds :
    Ready up .p1 (ask 4 [0#8, 0#8, 0#8, 15#8]).tag ∧ Carries (ask 4 [0#8, 0#8, 0#8, 15#8]) [15#32] ∧
      privilegeOf up .p1 = .user ∧ ReqKind.stageDrop ∈ adminKinds ∧
      (∀ n : WindowNo, some (15 : WindowNo) = some n ↔ (ReqKind.stageDrop = .stageWindow ∨ ReqKind.stageDrop = .stageDrop) ∧
        ∃ x rest, [15#32] = x :: rest ∧ x.toNat = n.val) := by
  refine ⟨ready1 4 _, carries 4 [0#8, 0#8, 0#8, 15#8] rfl (by decide), rfl, by decide, fun n => ⟨?_, ?_⟩⟩
  · rintro h; cases h; exact ⟨.inr rfl, _, _, rfl, rfl⟩
  · rintro ⟨-, x, rest, h, hx⟩
    cases h
    congr 1
    exact Fin.ext hx

theorem test_met_ResetBridgeEndsSessionsAndBeginsStart :
    Ready up .p0 (ask 4 []).tag ∧ privilegeOf up .p0 = .admin ∧ Carries (ask 4 []) [] ∧ up.chip.cfg.writer = .idle ∧
      (Ready marked .p0 (ask 4 []).tag ∧ privilegeOf marked .p0 = .admin ∧
        marked.chip.cfg.writer = .writing .commit .b 2#32 ∧ marked.chip.cfg.resetMark = true ∧
        ∀ r, .resetBridge .p1 r ∉ marked.pending) ∧
      (cfgIs fun u => { u with writer := .awaitingFree }).chip.cfg.writer = .awaitingFree :=
  ⟨ready0 4 [], rfl, carries 4 [] rfl (by decide), rfl,
    ⟨⟨⟨rfl, rfl, rfl⟩, by decide⟩, rfl, rfl, rfl, fun r h => by cases List.mem_singleton.1 h⟩, rfl⟩

/-- With a write under way a RESET-BRIDGE ends its own session after its OK, and that of a port without one (R57, R180). -/
theorem test_reset_bridge_ends_other_sessions :
    ∃ t, exec (.resetBridge .p0 (ask 4 [])) (cfgIs fun u => { u with writer := .writing .commit .b 2#32 }) = .next t ∧
      t.chip.sent = [.toPort .p0 (.response (some 4) .ok ⟨false, false, false⟩ []), .toPort .p0 (.closed .reset),
        .toPort .p1 (.closed .reset)] ∧
      (t.chip.ports.get .p0).session = .down ∧ (t.chip.ports.get .p1).session = .down ∧
      t.chip.cfg.resetMark = true ∧ t.chip.cfg.writer = .writing .commit .b 2#32 := by
  refine ⟨_, rfl, ?_⟩; decide +kernel

/-- A RESET-BRIDGE that joins a reset under way ends its session, and the write goes on (R180). -/
theorem test_reset_bridge_joins :
    ∃ t, step marked = .next t ∧ (t.chip.ports.get .p0).session = .down ∧ t.pending = [] ∧
      t.chip.cfg.resetMark = true ∧ t.chip.cfg.writer = .writing .commit .b 2#32 := by
  refine ⟨_, rfl, ?_⟩
  rw [Laws.toControl_carries (s := marked) (ws := []) _ _ ⟨⟨rfl, rfl, rfl⟩, by decide⟩ (carries 4 [] rfl (by decide))]
  unfold adminOnly emptyList takeResetBridge joinReset
  dsimp only
  generalize Config.joinAnswered _ = b
  cases b <;> decide +kernel

/-- The parameters of a SESSION hold, scope WRITE, on W0 at offset 95, length 5: it ends on the window's last block. -/
def place : PlaceParams := ⟨0, 95#32, 5#32, .session, .write, none⟩
/-- Its items. -/
def placeBytes : List Byte :=
  [0#8, 0#8, 0#8, 0#8, 0#8, 0#8, 0#8, 95#8, 0#8, 0#8, 0#8, 5#8, 0#8, 0#8, 0#8, 0#8, 0#8, 0#8, 0#8, 0#8]

theorem place_list : PlaceList (items placeBytes) place := ⟨by decide, .inl ⟨rfl, rfl⟩⟩

theorem mayPlace0 : MayPlace up .p0 place := .inl rfl

theorem not_changing (s : State) (h : s.chip.map.commit = .idle) (n : WindowNo) : ¬ Changing s n := by
  rintro (⟨i, l, h', -⟩ | ⟨i, h', -⟩) <;> rw [h] at h' <;> cases h'

/-- Forty-eight holds. -/
def full : State := holding (List.replicate 48 (held 1 .power (.active none)))

theorem test_met_HoldPlaceIsRefusedInOrder :
    (Ready up .p1 (ask 2 placeBytes).tag ∧ Carries (ask 2 placeBytes) (items placeBytes) ∧
        PlaceList (items placeBytes) place ∧ MayPlace up .p1 place) ∧
      (∀ q, ¬ PlaceList [] q) ∧
      (PlaceList [0#32, 0#32, 5#32, 1#32, 0#32, 65535#32] ⟨0, 0#32, 5#32, .power, .write, some 65535⟩ ∧
        ¬ MayPlace up .p1 ⟨0, 0#32, 5#32, .power, .write, some 65535⟩) ∧
      up.chip.map.active.map.get 15 = none ∧ Changing draining 0 ∧ ¬ Changing up 0 ∧
      w0.length.toNat < (96#32).toNat + (5#32).toNat ∧ (95#32).toNat + (5#32).toNat ≤ w0.length.toNat ∧
      HoldsFull full .session ∧ ¬ HoldsFull up .fixed ∧ (bridgeIs .fault).chip.cfg.bridge = .fault ∧
      (bridgeIs .recover).chip.cfg.bridge = .recover := by
  refine ⟨⟨ready1 2 _, carries 2 placeBytes (by decide) (by decide), place_list,
    .inr ⟨rfl, w0, by decide, rfl⟩⟩, ?_, ⟨⟨by decide, .inr ⟨65535, rfl, by decide, by decide, rfl⟩⟩, ?_⟩, by decide,
    .inl ⟨_, _, rfl, by decide⟩, not_changing up rfl 0, by decide, by decide, .inl (by decide), ?_, rfl, rfl⟩
  · rintro q ⟨-, ⟨-, h⟩ | ⟨e, -, -, -, h⟩⟩ <;> cases h
  · rintro (h | ⟨h, -⟩) <;> revert h <;> decide
  · rintro (h | ⟨-, h⟩) <;> revert h <;> decide

/-- No generation is left. -/
def spent : State := cfgIs fun u => { u with generation := 0xFFFFFFFF#32 }

theorem spent_exhausted : Exhausted spent := ⟨rfl, rfl, rfl, .inl rfl⟩

/-- A FIXED hold that waits for nothing takes the writer; without a generation it fails (R34, R164). -/
theorem test_fixed_hold_takes_the_writer :
    (∃ t, exec (.holdPlace .p0 (ask 2 [0#8, 0#8, 0#8, 0#8, 0#8, 0#8, 0#8, 95#8, 0#8, 0#8, 0#8, 5#8, 0#8, 0#8, 0#8, 2#8,
        0#8, 0#8, 0#8, 0#8])) up = .next t ∧ jobsOf t.chip.cfg = [.hold 1] ∧
      t.chip.cfg.writer = .writing (.hold 1) .b 2#32) ∧
    ∃ t, exec (.holdPlace .p0 (ask 2 [0#8, 0#8, 0#8, 0#8, 0#8, 0#8, 0#8, 95#8, 0#8, 0#8, 0#8, 5#8, 0#8, 0#8, 0#8, 2#8,
        0#8, 0#8, 0#8, 0#8])) spent = .next t ∧ t.chip.hold.table = [] ∧ t.chip.ctl.persistFailures = 1 ∧
      .toPort .p0 (.response (some 2) .persistFailed ⟨false, true, false⟩ [1#32]) ∈ t.chip.sent := by
  refine ⟨⟨_, rfl, ?_⟩, _, rfl, ?_⟩ <;> decide +kernel

/-- P1 holds no tag, and its flags are clear. -/
theorem due1' (l : List Hold) (f : Flag) (h : Flags.clear.get f = false) : NoticeDue (holding l) .p1 f :=
  ⟨rfl, h, fun tag => Laws.Table.get_fill (n := 32) none tag, rfl⟩

/-- P1 may see a hold that meets W0. -/
theorem due1 (l : List Hold) {r : MediaRange} (h : r.first < 100 ∧ 0 < r.first + r.count) :
    HoldNoticeDue (holding l) .p1 r :=
  ⟨due1' l .holds rfl, .inr ⟨0, w0, (by decide : up.chip.map.active.map.get 0 = some w0), by decide, h.2, h.1⟩⟩

/-- A WRITE of P0 on the media in slot 1, blocks 98 and 99. -/
def onMedia : State :=
  working { rec0 .write (.issued 1) with range := some ⟨98, 2⟩ }
    (some { slot0 .write (.issued 5) with range := some ⟨98, 2⟩ })

theorem test_met_HoldPlaceCreatesAHold :
    (Ready up .p0 (ask 2 placeBytes).tag ∧ Carries (ask 2 placeBytes) (items placeBytes) ∧
      PlaceList (items placeBytes) place ∧ MayPlace up .p0 place ∧ up.chip.map.active.map.get place.window = some w0 ∧
      ¬ Changing up place.window ∧ place.offset.toNat + place.length.toNat ≤ w0.length.toNat ∧
      (place.cls ≠ .fixed ∨ place.expiry = none) ∧ ¬ HoldsFull up place.cls ∧ up.chip.cfg.bridge ≠ .fault ∧
      (up.chip.cfg.bridge ≠ .recover ∨ place.cls ≠ .fixed) ∧ HoldTableInRange up ∧
      up.chip.cfg.generation ≠ 0xFFFFFFFF#32 ∧ (∀ i, ¬ Waits up .write 95 5 i) ∧ HoldNoticeDue up .p1 ⟨95, 5⟩) ∧
      Waits onMedia .write 95 5 1 ∧ QueuedConflict inQueue .write 95 5 .p0 3 ∧
      (WriterServed up ∧ ¬ Exhausted up ∧ ({ place with cls := .fixed } : PlaceParams).cls = .fixed ∧
        ({ place with cls := .fixed } : PlaceParams).expiry = none) ∧
      (Exhausted spent ∧ WriterServed spent ∧ Still spent.chip) := by
  refine ⟨⟨ready0 2 _, carries 2 placeBytes (by decide) (by decide), place_list, mayPlace0, by decide,
    not_changing up rfl 0, by decide, .inr rfl, ?_, by decide, .inl (by decide), ⟨by decide, by decide, ?_⟩, by decide,
    ?_, due1 _ (by decide)⟩, ?_, ?_, ⟨fun _ => rfl, fun h => absurd h.1 (by decide), rfl, rfl⟩, spent_exhausted,
    fun _ => rfl, fun _ _ h => (by cases h), fun _ h => (List.not_mem_nil h).elim, rfl, fun q _ h => by cases q <;> cases h⟩
  · rintro (h | ⟨-, h⟩) <;> revert h <;> decide
  · exact List.Pairwise.nil
  · rintro i ⟨r, q, g, h, -⟩
    rw [show up.chip.slot i = none from Laws.Table.get_fill (n := 16) none i] at h
    cases h
  · exact ⟨_, .p0, ⟨98, 2⟩, rfl, rfl, rfl, .inl rfl, by decide, by decide⟩
  · exact ⟨by decide, _, ⟨98, 2⟩, rfl, rfl, .inl rfl, by decide, by decide⟩

/-- HOLD-RELEASE of id 7. -/
def release7 : Request := ask 2 [0#8, 0#8, 0#8, 7#8]

theorem carries7 : Carries release7 [7#32] := carries 2 [0#8, 0#8, 0#8, 7#8] (by decide) (by decide)

theorem readyIn (l : List Hold) (p : Port) (h : p ≠ .p2) : Ready (holding l) p release7.tag := by
  cases p
  · exact ready0 2 []
  · exact ready1 2 []
  · exact absurd rfl h

theorem test_met_HoldReleaseChecksAndRemoves :
    Ready (holding [held 7 .fixed .persisting]) .p0 release7.tag ∧ Carries release7 [7#32] ∧
      HoldTableInRange (holding [held 7 .fixed .persisting]) ∧ (7#32 : Word) ≠ 0#32 ∧
      (held 7 .fixed .persisting).id = (7#32 : Word).toNat ∧
      (∀ h ∈ (holding []).chip.hold.table, h.id ≠ 7) ∧
      ((held 7 .power (.active none)).cls ≠ .fixed ∧ privilegeOf up .p1 = .user ∧
        Ready (holding [held 7 .power (.active none)]) .p1 release7.tag) ∧
      ((held 7 .session (.pending [0])).cls = .session ∧ (held 7 .session (.pending [0])).owner = .p1 ∧
        Speaks (holding [{ held 7 .session (.pending [0]) with answerTo := some 9 }]) .p1) ∧
      Sees up .p1 ⟨10, 5⟩ ∧ HoldNoticeDue (holding [held 7 .power (.active none)]) .p1 (held 7 .power (.active none)).range ∧
      (held 7 .power (.active none)).answerTo = none :=
  ⟨readyIn _ _ (by decide), carries7, inRange .., by decide, by decide, fun h hm => (List.not_mem_nil hm).elim,
    ⟨by decide, rfl, readyIn _ _ (by decide)⟩, ⟨rfl, rfl, rfl, rfl, rfl⟩,
    .inr ⟨0, w0, by decide, by decide, by decide, by decide⟩, due1 _ (by decide), rfl⟩

theorem test_met_HoldExpiryRemovesTheHold :
    (up.rstn = .high ∧ HoldTableInRange (holding [held 65535 .session (.active (some 0))]) ∧
        (held 65535 .session (.active (some 0))).state = .active (some 0) ∧
        HoldNoticeDue (holding [held 65535 .session (.active (some 0))]) .p1 ⟨10, 5⟩) ∧
      (∀ h ∈ (holding [held 65535 .session .persisting]).chip.hold.table, h.id = 65535 →
        ∀ ms, h.state ≠ .active (some ms)) := by
  refine ⟨⟨rfl, inRange .., rfl, due1 _ (by decide)⟩, fun h hm _ ms hs => ?_⟩
  rw [List.mem_singleton.1 hm] at hs
  cases hs

theorem readyS (x : Staging) (t : Tag) : Ready (stagingIs x) .p0 t := ready0 t []

theorem test_met_StagingIsRefusedInOrder :
    (Ready (stagingIs (.opened .p1 conf)) .p0 4 ∧ Carries (ask 4 []) [] ∧
        privilegeOf (stagingIs (.opened .p1 conf)) .p0 = .admin ∧
        (stagingIs (.opened .p1 conf)).chip.cfg.bridge ≠ .fault ∧
        ∃ q cfg, (stagingIs (.opened .p1 conf)).chip.map.staging = .opened q cfg ∧ q ≠ .p0) ∧
      (bridgeIs .fault).chip.cfg.bridge = .fault ∧
      (∃ o cfg, (stagingIs (.committing none conf)).chip.map.staging = .committing o cfg ∧ o ≠ some .p0) ∧
      ∃ cfg, (stagingIs (.committing (some .p0) conf)).chip.map.staging = .committing (some .p0) cfg :=
  ⟨⟨readyS .., carries 4 [] rfl (by decide), rfl, by decide, _, _, rfl, by decide⟩, rfl, ⟨_, _, rfl, by decide⟩, _, rfl⟩

theorem test_met_StagingBeginsReadsAndEnds :
    Ready (stagingIs (.opened .p0 conf)) .p0 4 ∧ Carries (ask 4 []) [] ∧
      privilegeOf (stagingIs (.opened .p0 conf)) .p0 = .admin ∧
      (stagingIs (.opened .p0 conf)).chip.cfg.bridge ≠ .fault ∧
      (stagingIs (.opened .p0 conf)).chip.map.staging = .opened .p0 conf ∧ up.chip.map.staging = .empty ∧
      Carries (ask 4 [0#8, 0#8, 0#8, 0#8]) [0#32] ∧ [0#32] ≠ [] :=
  ⟨readyS .., carries 4 [] rfl (by decide), rfl, by decide, rfl, rfl, carries 4 [0#8, 0#8, 0#8, 0#8] rfl (by decide),
    by decide⟩

theorem test_met_StagingEditsChangeStagingAlone :
    Ready (stagingIs (.opened .p0 conf)) .p0 4 ∧ Carries (ask 4 [0#8, 0#8, 0#8, 15#8]) [15#32] ∧
      (stagingIs (.opened .p0 conf)).chip.map.staging = .opened .p0 conf ∧
      (stagingIs (.opened .p0 conf)).chip.cfg.bridge ≠ .fault ∧
      (WindowForm { w1 with quota := some 16 } ∧ ¬ WindowForm { w1 with quota := some 17 } ∧ WindowForm w0) ∧
      [15#32] = [item (15 : WindowNo).val] ∧ (∀ n : WindowNo, [16#32] ≠ [item n.val]) ∧
      [2#32, 1#32, 8#32] = [item (portCode .p2), item Privilege.admin.code, item 8] := by
  refine ⟨readyS .., carries 4 [0#8, 0#8, 0#8, 15#8] rfl (by decide), rfl, by decide,
    ⟨⟨by decide, .inr ⟨16, rfl, by decide, by decide⟩⟩, ?_, ⟨by decide, .inl rfl⟩⟩, rfl, by decide, rfl⟩
  rintro ⟨-, h | ⟨q, h, -, h'⟩⟩
  · cases h
  · cases h; omega

theorem test_met_StageParamsReplacesAllThree :
    Ready (stagingIs (.opened .p0 conf)) .p0 4 ∧
      (stagingIs (.opened .p0 conf)).chip.map.staging = .opened .p0 conf ∧
      (stagingIs (.opened .p0 conf)).chip.cfg.bridge ≠ .fault ∧ privilegeOf (stagingIs (.opened .p0 conf)) .p0 = .admin ∧
      Carries (ask 4 [0#8, 0#8, 9#8, 0xF6#8, 0#8, 0#8, 0#8, 10#8, 0#8, 0#8, 0#8, 100#8]) [2550#32, 10#32, 100#32] ∧
      ParamsForm ⟨2550, 10, 100⟩ ∧ ¬ ParamsForm ⟨2560, 10, 100⟩ ∧ ¬ ParamsForm ⟨2550, 10, 150⟩ := by
  refine ⟨readyS .., rfl, by decide, rfl, carries 4 [0#8, 0#8, 9#8, 0xF6#8, 0#8, 0#8, 0#8, 10#8, 0#8, 0#8, 0#8, 100#8]
    rfl (by decide), ?_, ?_, ?_⟩ <;> unfold ParamsForm <;> decide

/-- A map whose windows W0 and W1 share block 99. -/
def overlapping : Configuration := { conf with map := conf.map.set 1 (some { w1 with base := 99#32 }) }

theorem test_met_CommitCheckFindsTheFirstFault :
    commitCheck 166 conf = none ∧ commitCheck 165 conf = some (.inConfigArea 1) ∧
      commitCheck 164 conf = some (.inConfigArea 1) ∧ commitCheck 163 conf = some (.beyondMedia 1) ∧
      commitCheck 99 conf = some (.beyondMedia 0) ∧ commitCheck 99 overlapping = some (.overlap 0 1) ∧
      commitCheck 166 { conf with ports := PerPort.same ⟨.user, 4⟩ } = some .noAdmin := by decide +kernel

theorem test_met_CommitIsRefusedDrainsOrSwaps :
    (Ready (stagingIs (.opened .p0 conf)) .p0 4 ∧ Carries (ask 4 [0#8, 0#8, 0#8, 1#8]) [1#32] ∧
        privilegeOf (stagingIs (.opened .p0 conf)) .p0 = .admin ∧
        (stagingIs (.opened .p0 conf)).chip.cfg.bridge ≠ .fault ∧
        (stagingIs (.opened .p0 conf)).chip.map.staging = .opened .p0 conf) ∧
      [1#32] = [item true.toNat] ∧ commitCheck 8192 overlapping = some (.overlap 0 1) ∧
      ValidConfiguration 8192 conf ∧ (stagingIs (.opened .p0 conf)).chip.cfg.generation ≠ 0xFFFFFFFF#32 ∧
      Undemanded (stagingIs (.opened .p0 conf)) conf.map ∧
      (¬ Exhausted up ∧ Exhausted spent ∧ NoticeDue up .p1 .map ∧
        (up.chip.ports.get .p1).delivered ≠ up.chip.map.epoch + 1) ∧
      ¬ Undemanded (with' (fun c => { c with map := { c.map with usage := c.map.usage.set 0 ⟨1, 0⟩ } }) up) factory.map := by
  refine ⟨⟨readyS .., carries 4 [0#8, 0#8, 0#8, 1#8] rfl (by decide), rfl, by decide, rfl⟩, rfl, by decide +kernel,
    ⟨conf_valid, .p0, rfl⟩, by decide, fun n h => absurd rfl h,
    ⟨fun h => absurd h.1 (by decide), spent_exhausted, due1' [] .map rfl, by decide⟩, fun h => ?_⟩
  exact absurd (h 0 (by decide)) (by decide)

theorem test_met_DrainLimitReturnsStaging :
    Speaks draining .p0 ∧ draining.chip.map.commit = .draining ⟨some .p0, some 9, false, [0]⟩ 1 ∧
      draining.chip.map.staging = .committing (some .p0) conf ∧
      ∀ info left, up.chip.map.commit ≠ .draining info left :=
  ⟨⟨rfl, rfl, rfl⟩, rfl, rfl, fun _ _ h => by cases h⟩

theorem test_met_MlinkReportsMoveTheAttempt :
    up.rstn = .high ∧ (∀ left, up.chip.mlink.bringUp ≠ .attempt .awaitLinkUp left) ∧
      (attempting .recover .awaitLinkUp 0).chip.mlink.bringUp = .attempt .awaitLinkUp 200 ∧
      (attempting .start .awaitLinkUp 0).chip.cfg.bridge = .start ∧
      (attempting .start .awaitReady 0).chip.mlink.bringUp = .attempt .awaitReady 200 ∧
      (attempting .start .awaitReady 0).chip.mlink.link = .up ∧ (bridgeIs .fault).chip.cfg.bridge = .fault :=
  ⟨rfl, fun _ h => (by cases h), rfl, rfl, rfl, rfl, rfl⟩

/-- The third attempt of a recovery, with a queued request, a job at the writer, one in the queue, and a draining commit. -/
def failing : State :=
  with' (fun c => { c with
    arb := { c.arb with queues := ⟨[3], [], []⟩ }
    hold := { c.hold with table := [held 7 .fixed .persisting, held 9 .fixed .persisting] }
    cfg := { c.cfg with bridge := .recover, writer := .awaitingSlot (.hold 7), queue := [.hold 9] }
    map := { c.map with commit := .draining ⟨some .p0, some 9, false, [0]⟩ 1, staging := .committing (some .p0) conf }
    mlink := { c.mlink with bringUp := .attempt .awaitReply 200, attempts := 2 } }) (working (rec0 .write .admitted) none)

theorem test_met_EntersFault :
    failing.chip.cfg.bridge = .recover ∧ 3 ≤ failing.chip.mlink.attempts + 1 ∧ LogInRange failing ∧
      HoldTableInRange failing ∧ 3 ∈ failing.chip.arb.queues.get .p0 ∧ Speaks failing .p0 ∧
      failing.chip.map.commit = .draining ⟨some .p0, some 9, false, [0]⟩ 1 ∧ NoticeDue up .p1 .media := by
  refine ⟨rfl, by decide, by unfold LogInRange; decide, ⟨by decide, by decide, ?_⟩, by decide, ⟨rfl, rfl, rfl⟩, rfl,
    due1' [] .media rfl⟩
  exact .cons (fun x hx => by rw [List.mem_singleton.1 hx]; decide) (.cons (fun _ h => by cases h) .nil)

/-- The entry to FAULT answers the queue, fails both jobs and ends the commit (R44, R112, R157, R171). -/
theorem test_entry_to_fault :
    ∃ t, exec .attemptLimitExpiry failing = .next t ∧ t.chip.cfg.bridge = .fault ∧ t.chip.hold.table = [] ∧
      t.chip.ctl.persistFailures = 2 ∧ t.chip.map.commit = .idle ∧ t.chip.map.staging = .empty ∧
      .toPort .p0 (.response (some 3) .mediaFault ⟨false, true, true⟩ []) ∈ t.chip.sent ∧
      .toPort .p0 (.response (some 9) .mediaFault ⟨false, true, true⟩ []) ∈ t.chip.sent := by
  refine ⟨_, rfl, ?_⟩; decide +kernel

theorem test_met_AttemptSucceedsOrFails :
    up.rstn = .high ∧ up.chip.mlink.bringUp = .idle ∧
      (attempting .recover .awaitReply 1).chip.mlink.bringUp = .attempt .awaitReply 200 ∧
      (attempting .recover .awaitReply 1).chip.mlink.attempts + 1 < 3 ∧
      3 ≤ (attempting .recover .awaitReply 2).chip.mlink.attempts + 1 ∧
      ((0#8 : Byte).toNat = 0 ∧ 16 < (17#8 : Byte).toNat ∧ 1 ≤ (16#8 : Byte).toNat ∧ (16#8 : Byte).toNat ≤ 16) ∧
      (8192#32 : Word) = (attempting .recover .awaitReply 1).chip.mlink.capacity ∧
      (attempting .start .awaitReply 0).chip.cfg.step = some .bringUp ∧ (4095#32 : Word).toNat < 4096 ∧
      4096 ≤ (4096#32 : Word).toNat ∧ (attempting .start .awaitReply 0).chip.mlink.link = .up := by decide

/-- A READ of P0 in slot 1. -/
def reading (got : List Nat) : State :=
  working (rec0 .read (.issued 1)) (some { slot0 .read (.issued 5) with received := got })

/-- The read of copy A in slot 0. -/
def readingCopy : State :=
  with' (fun c => { c with
    cfg := { ConfigUnit.reset with step := some .readA }
    mlink := { c.mlink with slots := c.mlink.slots.set 0 (some { configSlot .read 8190 false with phase := .issued 500 }) } }) up

theorem test_met_MediaDataGoesToItsPlace :
    ((reading []).rstn = .high ∧ (reading []).chip.cfg.bridge = .service ∧
        (reading []).chip.slot 1 = some (slot0 .read (.issued 5)) ∧ (slot0 .read (.issued 5)).op = .read ∧
        (slot0 .read (.issued 5)).phase ≠ .taken ∧ (slot0 .read (.issued 5)).range = some ⟨0, 2⟩ ∧
        (1#16).toNat < 2 ∧ (slot0 .read (.issued 5)).pages[(1#16).toNat]? = some 1) ∧
      (1#16).toNat ∈ [0, 1] ∧
      readingCopy.chip.cfg.bridge = .start ∧ readingCopy.chip.cfg.step = some .readA ∧
      readingCopy.chip.slot 0 = some { configSlot .read 8190 false with phase := .issued 500 } := by decide

/-- The slot record of the read of copy B. -/
def readB (x : SlotPhase) (got : List Nat) : SlotRec := { configSlot .read 8191 false with phase := x, received := got }

theorem quietStart (r : Option SlotRec) (x : StartStep) (a b : Mark) (area : Option Block) :
    QuietStart (starting r fun u => { u with step := some x, markA := a, markB := b, areaA := area }) :=
  ⟨rfl, rfl, rfl, rfl, rfl, fun _ h => (List.not_mem_nil h).elim, fun q h => by cases q <;> cases h⟩

/-- That a block with a valid record exists is ConfigurationRecordReadsBack, whose premises are met above. -/
theorem test_met_StartReadsTheCopiesAndLoads :
    (QuietStart (starting (some (readB (.issued 500) [0])) fun u => { u with step := some .readB, markB := .unread }) ∧
        (starting (some (readB (.issued 500) [0])) id).chip.slot 0 = some (readB (.issued 500) [0]) ∧
        (readB (.issued 500) [0]).range = some ⟨8191, 1⟩ ∧ (readB (.issued 500) []).received.length ≠ 1) ∧
      (readB (.abandoning .timeout 7) []).phase = .abandoning .timeout 7 ∧
      Selected 8192 { ConfigUnit.reset with step := some .readB, markA := .invalid, markB := .invalid } none factoryRec ∧
      (∀ b rec, readRecord 8192 b = some rec →
        Selected 8192 { ConfigUnit.reset with step := some .readB, markA := .valid, areaA := some b, markB := .invalid }
          (some .a) rec) ∧
      (attempting .start .awaitReply 0).chip.mlink.bringUp = .attempt .awaitReply 200 :=
  ⟨⟨quietStart _ .readB .unread .unread none, by decide, rfl, by decide⟩, rfl,
    .inr (.inr ⟨rfl, rfl, by decide, by decide⟩),
    fun _ _ h => .inl ⟨rfl, ⟨rfl, _, rfl, h⟩, .inl fun h => (by cases h)⟩, rfl⟩

/-- A READ of P0 in slot 1 that has no owner. -/
def disowned : State := working (rec0 .read (.issued 1)) (some { slot0 .read (.issued 5) with owner := none })

theorem calm_closing (d : DataRec) (r : Option SlotRec) (i : SlotNo) : Calm (closing (working d r)).chip i := by
  refine ⟨fun _ _ h => (by cases h), fun _ h => (List.not_mem_nil h).elim, rfl, fun _ h => (by cases h), fun q => ?_,
    fun q reason h => ?_⟩
  · cases q <;> rfl
  · cases q
    · exact Nat.one_ne_zero
    all_goals cases h

theorem test_met_CompleteAnswersTheOwner :
    Speaks (reading [0, 1]) .p0 ∧ (reading [0, 1]).chip.cfg.bridge = .service ∧
      (reading [0, 1]).chip.slot 1 = some { slot0 .read (.issued 5) with received := [0, 1] } ∧
      (reading [0, 1]).chip.dataRecord .p0 3 = some (rec0 .read (.issued 1)) ∧
      (∃ g, ({ slot0 .read (.issued 5) with received := [0, 1] } : SlotRec).range = some g ∧ [0, 1].length = g.count) ∧
      (¬ ∃ g, ({ slot0 .read (.issued 5) with received := [0] } : SlotRec).range = some g ∧ [0].length = g.count) ∧
      Calm (reading [0, 1]).chip 1 ∧ QueuesExact (reading [0, 1]) ∧ MediaStatus.range ≠ .ok ∧
      (((closing disowned).chip.ports.get .p0).session = .closing .close ∧ (closing disowned).chip.cfg.bridge = .service ∧
        (closing disowned).chip.slot 1 = some { slot0 .read (.issued 5) with owner := none } ∧
        (closing disowned).chip.dataRecord .p0 3 = some (rec0 .read (.issued 1)) ∧ Calm (closing disowned).chip 1) := by
  refine ⟨⟨rfl, rfl, rfl⟩, by decide, by decide, by decide, ⟨_, rfl, rfl⟩, ?_, calm_working ..,
    queuesExact_of (fun p => by cases p <;> decide +kernel) (by decide +kernel) (by decide +kernel) (no_commit rfl),
    by decide, by decide, by decide, by decide, by decide, calm_closing ..⟩
  rintro ⟨g, h, h'⟩
  cases h
  cases h'

/-- A READ of P0 in slot 1 on which everything waits: a SESSION and a FIXED hold, and the drain of a commit. -/
def awaited : State :=
  with' (fun c => { c with
    hold := { c.hold with table := [held 7 .session (.pending [1]), held 9 .fixed (.pending [1])] }
    map := { c.map with
      usage := c.map.usage.set 0 ⟨0, 1⟩
      commit := .draining ⟨some .p0, some 9, false, [0]⟩ 1, staging := .committing (some .p0) conf } }) (reading [0, 1])

/-- What COMPLETE leaves of it before the waits and the drain end. -/
theorem test_met_CompleteAnswersTheOwner_counts :
    HoldTableInRange awaited ∧ WriterServed awaited ∧ ¬ Exhausted awaited ∧
      (released 1 .p0 0 (slot0 .read (.issued 5)) awaited.chip).hold.table =
        [held 7 .session (.pending []), held 9 .fixed (.pending [])] ∧
      (∀ n ∈ [(0 : WindowNo)], (released 1 .p0 0 (slot0 .read (.issued 5)) awaited.chip).map.usage.get n = ⟨0, 0⟩) ∧
      awaited.chip.cfg.bridge ≠ .fault := by
  refine ⟨⟨by decide, by decide, ?_⟩, fun _ => rfl, fun h => absurd h.1 (by decide), by decide +kernel, by decide +kernel,
    by decide⟩
  exact .cons (fun x hx => by rw [List.mem_singleton.1 hx]; decide) (.cons (fun _ h => by cases h) .nil)

/-- The slot's return to FREE activates the SESSION hold, gives the FIXED one the writer and ends the drain (R33, R34, R150). -/
theorem test_complete_ends_waits_and_drain :
    ∃ t, exec (.complete 1 .mediaError) awaited = .next t ∧
      t.chip.hold.table = [held 7 .session (.active none), held 9 .fixed .persisting] ∧
      jobsOf t.chip.cfg = [.hold 9] ∧ t.chip.map.epoch = 2#32 ∧ t.chip.map.commit = .idle ∧
      t.chip.map.staging = .empty := by
  refine ⟨_, rfl, ?_⟩; decide +kernel

/-- Slot 1 in abandon. -/
def leaving (k : DataKind) (cause : AbandonCause) (x : Stage) : State :=
  working (rec0 k x) (some (slot0 k (.abandoning cause 100)))

/-- A READ that has every block, in abandon with cause ABORT. -/
def leavingWhole : State :=
  working (rec0 .read (.abandoning 1 6)) (some { slot0 .read (.abandoning .abort 100) with received := [0, 1] })

/-- A READ whose session ended before its response timer ran out. -/
def disownedLeaving : State :=
  working (rec0 .read (.issued 1)) (some { slot0 .read (.abandoning .timeout 100) with owner := none })

/-- Its ABORT waits under tag 6; the queues are exact. -/
theorem test_met_AbandonEndsByAckOrCompletion_queues :
    QueuesExact (with' (withRecord .p0 6 (some (.handed .abort [3#32] none))) leavingWhole) ∧
      awaitedTags leavingWhole.chip .p0 = [6] :=
  ⟨queuesExact_of (fun p => by cases p <;> decide +kernel) (by decide +kernel) (by decide +kernel) (no_commit rfl),
    by decide +kernel⟩

theorem test_met_AbandonEndsByAckOrCompletion :
    (Speaks (leaving .write .abort (.abandoning 1 6)) .p0 ∧
        (leaving .write .abort (.abandoning 1 6)).chip.cfg.bridge = .service ∧
        (leaving .write .abort (.abandoning 1 6)).chip.slot 1 = some (slot0 .write (.abandoning .abort 100)) ∧
        (leaving .write .abort (.abandoning 1 6)).chip.dataRecord .p0 3 = some (rec0 .write (.abandoning 1 6)) ∧
        (slot0 .write (.abandoning .abort 100)).op ≠ .read ∧ Calm (leaving .write .abort (.abandoning 1 6)).chip 1) ∧
      (Speaks leavingWhole .p0 ∧ leavingWhole.chip.dataRecord .p0 3 = some (rec0 .read (.abandoning 1 6)) ∧
        ∃ r g, leavingWhole.chip.slot 1 = some r ∧ r.op = .read ∧ r.range = some g ∧ r.received.length = g.count) ∧
      (leaving .read .timeout .admitted).chip.slot 1 = some (slot0 .read (.abandoning .timeout 100)) ∧
      (∀ u d, (leaving .read .timeout .admitted).chip.dataRecord .p0 u = some d → d.stage.slot? ≠ some 1) ∧
      Calm (leaving .read .timeout .admitted).chip 1 ∧
      (((closing disownedLeaving).chip.ports.get .p0).session = .closing .close ∧
        (closing disownedLeaving).chip.slot 1 = some { slot0 .read (.abandoning .timeout 100) with owner := none } ∧
        (closing disownedLeaving).chip.dataRecord .p0 3 = some (rec0 .read (.issued 1)) ∧
        (rec0 .read (.issued 1)).stage.slot? = some 1 ∧ Calm (closing disownedLeaving).chip 1) := by
  refine ⟨⟨⟨rfl, rfl, rfl⟩, by decide, by decide, by decide, by decide, calm_working ..⟩,
    ⟨⟨rfl, rfl, rfl⟩, by decide, _, _, rfl, rfl, rfl, rfl⟩, by decide, ?_, calm_working ..,
    ⟨by decide, by decide, by decide, rfl, calm_closing ..⟩⟩
  have h : ∀ u : Tag, ((leaving .read .timeout .admitted).chip.dataRecord .p0 u).all
      (fun d => d.stage.slot? ≠ some 1) = true := by decide
  intro u d hd
  have := h u
  rw [hd] at this
  simpa using this

/-- The write of a persist job in slot 0, for the FIXED hold 7. -/
def writing : State :=
  with' (fun c => { c with
    hold := { c.hold with table := [held 7 .fixed .persisting] }
    cfg := { c.cfg with writer := .writing (.hold 7) .b 2#32 }
    mlink := { c.mlink with slots := c.mlink.slots.set 0 (some { configSlot .write 8191 true with phase := .issued 500 }) } }) up

/-- The writer waits for slot 0 to be free. -/
def awaiting : State :=
  with' (fun c => { c with
    cfg := { c.cfg with writer := .awaitingFree }
    mlink := { c.mlink with
      slots := c.mlink.slots.set 0 (some { configSlot .write 8191 true with phase := .abandoning .timeout 1 }) } }) up

/-- A bridge reset waits for the writer: the mark is set, P0 is CLOSING with a READ in slot 1, P1 and P2 are DOWN, a POWER
hold waits for slot 1. -/
def resetWaits (s : State) : State :=
  with' (fun c => { c with
    ports := ⟨{ port (.closing .reset) with inFlight := 1 }, port .down, port .down⟩
    hold := { c.hold with table := c.hold.table ++ [held 9 .power (.pending [1])] }
    cfg := { c.cfg with resetMark := true }
    mlink := { c.mlink with slots := c.mlink.slots.set 1 (some { slot0 .read (.issued 5) with owner := none }) }
    map := { c.map with usage := c.map.usage.set 0 ⟨0, 1⟩ } }) s

/-- The end of the wait begins START: LINK-RESET, every slot FREE, CLOSED, the POWER hold ACTIVE, no job and no mark left. -/
def BeganStart (f : Nat) (t : State) : Prop :=
  t.chip.cfg = ConfigUnit.reset ∧ t.chip.mlink.slots = Table.fill 16 none ∧
    t.chip.mlink.bringUp = .attempt .awaitReady 200 ∧
    t.chip.hold.table = [held 9 .power (.active none)] ∧ t.chip.ctl.persistFailures = f ∧
    t.chip.map.epoch = 0#32 ∧ (t.chip.ports.get .p0).session = .down

/-- START begins at the COMPLETE of the write, OK or not, at the end of its abandon, and at a link recovery (R179, R180). -/
theorem test_reset_that_waits_begins_start :
    (∃ t, exec (.complete 0 .mediaError) (resetWaits writing) = .next t ∧ BeganStart 1 t ∧
        t.chip.sent = [.toMedia .linkReset, .toPort .p0 (.closed .reset)]) ∧
      (∃ t, exec (.abandonAck 0) (resetWaits awaiting) = .next t ∧ BeganStart 0 t) ∧
      (∃ t, exec (.complete 0 .ok) (resetWaits awaiting) = .next t ∧ BeganStart 0 t) ∧
      (∃ t, exec (.unknownMediaFrameKind []) (resetWaits writing) = .next t ∧ BeganStart 1 t) ∧
      (∃ t, exec (.complete 0 .ok) (resetWaits writing) = .next t ∧ t.chip.cfg = ConfigUnit.reset ∧
        t.chip.ctl.persistFailures = 0 ∧ t.chip.map.epoch = 0#32) := by
  unfold BeganStart
  refine ⟨⟨_, rfl, ?_⟩, ⟨_, rfl, ?_⟩, ⟨_, rfl, ?_⟩, ⟨_, rfl, ?_⟩, _, rfl, ?_⟩ <;> decide +kernel

theorem calm_awaiting : Calm awaiting.chip 0 := by
  refine ⟨fun _ _ h => (by cases h), fun _ h => (List.not_mem_nil h).elim, rfl, fun _ h => (by cases h), fun q => ?_, fun q _ h => ?_⟩
  · cases q <;> rfl
  · cases q <;> cases h

theorem test_met_ResponseTimerAbandonsTheSlot :
    (up.rstn = .high ∧ (reading []).chip.slot 1 = some (slot0 .read (.issued 5)) ∧
        (slot0 .read (.issued 5)).phase = .issued 5 ∧ (slot0 .read (.issued 5)).holder = .port .p0 ∧
        (reading []).chip.mlink.link = .up ∧ (slot0 .read (.issued 5)).owner = some 3 ∧ Speaks (reading []) .p0) ∧
      (writing.chip.slot 0 = some { configSlot .write 8191 true with phase := .issued 500 } ∧
        writing.chip.cfg.writer = .writing (.hold 7) .b 2#32 ∧ writing.chip.cfg.bridge = .service ∧
        writing.chip.mlink.link = .up) ∧
      (awaiting.chip.slot 0 = some { configSlot .write 8191 true with phase := .abandoning .timeout 1 } ∧
        awaiting.chip.cfg.writer = .awaitingFree ∧ awaiting.chip.cfg.resetMark = false ∧ Calm awaiting.chip 0) ∧
      (∀ r left, up.chip.slot 15 = some r → r.phase ≠ .issued left) := by
  refine ⟨⟨rfl, by decide, rfl, rfl, rfl, rfl, rfl, rfl, rfl⟩, ⟨by decide, rfl, rfl, rfl⟩,
    ⟨by decide, rfl, rfl, calm_awaiting⟩, fun r left h => ?_⟩
  rw [show up.chip.slot 15 = none by decide] at h
  cases h

/-- The reset mark is set, for the write, its abandon and a recovery; the writer waits for no slot. -/
theorem test_met_reset_mark :
    ((resetWaits writing).chip.cfg.resetMark = true ∧ (resetWaits writing).chip.cfg.bridge = .service ∧
        (resetWaits writing).chip.slot 0 = some { configSlot .write 8191 true with phase := .issued 500 } ∧
        (resetWaits writing).chip.cfg.writer = .writing (.hold 7) .b 2#32 ∧
        StartsRecovery (resetWaits writing) .mlinkLinkDown ∧ HoldTableInRange (resetWaits writing) ∧
        held 9 .power (.pending [1]) ∈ (resetWaits writing).chip.hold.table ∧
        .hold 9 ∉ jobsOf (resetWaits writing).chip.cfg ∧ (∀ n ∈ [(1 : SlotNo)], (resetWaits writing).chip.slot n ≠ none) ∧
        ∀ j, (resetWaits writing).chip.cfg.writer ≠ .awaitingSlot j) ∧
      ((resetWaits awaiting).chip.cfg.resetMark = true ∧ (resetWaits awaiting).chip.cfg.writer = .awaitingFree ∧
        (resetWaits awaiting).chip.slot 0 =
          some { configSlot .write 8191 true with phase := .abandoning .timeout 1 }) ∧
      StartsRecovery awaiting .mlinkLinkDown ∧ awaiting.chip.cfg.generation ≠ 0xFFFFFFFF#32 ∧
      SlotTableExact (resetWaits awaiting) := by
  refine ⟨⟨rfl, rfl, by decide, rfl, .inl rfl, ⟨by decide, by decide,
      .cons (fun x hx => by rw [List.mem_singleton.1 hx]; decide) (.cons (fun _ h => by cases h) .nil)⟩,
      by decide, by decide, by decide, fun _ h => (by cases h)⟩,
    ⟨rfl, rfl, by decide⟩, .inl rfl, by decide, fun h => absurd rfl h, fun _ => ⟨rfl, by decide⟩, ?_,
    fun h => (by cases h), fun h => (by cases h), fun p => ?_, by decide⟩
  · rintro (h | h) <;> cases h
  · cases p <;> decide

/-- A recovery frees a writer in AWAITING-FREE, which takes the job that waits (R164, R168). -/
theorem test_recovery_frees_the_writer :
    ∃ t, exec .mlinkLinkDown (with' (fun c => { c with cfg := { c.cfg with queue := [.hold 9] } }) awaiting) = .next t ∧
      t.chip.cfg.writer = .awaitingSlot (.hold 9) ∧ t.chip.cfg.queue = [] := by
  refine ⟨_, rfl, ?_⟩; decide +kernel

/-- The recovery's slots are exact, a commit drains, and holds wait on a slot in use. -/
theorem test_met_LinkRecoveryFreesEverySlot_counts :
    (SlotTableExact lent ∧ (∀ n, (lent.chip.map.usage.get n).queued = 0)) ∧ awaited.chip.slot 1 ≠ none ∧
      (∀ target g, awaited.chip.cfg.writer ≠ .writing (.hold 9) target g) ∧ HoldTableInRange awaited ∧
      WriterServed awaited ∧ (awaited.chip.cfg.generation = 0xFFFFFFFF#32 → MayTake awaited) ∧
      awaited.chip.map.staging = .committing (some .p0) conf ∧ NoticeDue up .p1 .media :=
  ⟨⟨lent_exact, by decide⟩, by decide, fun _ _ h => (by cases h), test_met_CompleteAnswersTheOwner_counts.1,
    fun _ => rfl, fun h => absurd h (by decide), rfl, due1' [] .media rfl⟩

theorem test_met_LinkRecoveryFreesEverySlot :
    (reading []).rstn = .high ∧ (reading []).chip.cfg.bridge = .service ∧ (reading []).chip.cfg.resetMark = false ∧
      StartsRecovery (reading []) .mlinkLinkDown ∧ StartsRecovery (reading []) (.complete 15 .ok) ∧
      StartsRecovery (reading []) (.abandonAck 1) ∧ StartsRecovery (reading []) (.mediaData 1 2#16 Block.zero) ∧
      StartsRecovery (leaving .read .timeout .admitted) (.abandonTimerExpiry 1) ∧
      StartsRecovery (reading []) (.unknownMediaFrameKind [0x46#8]) ∧ Speaks (reading []) .p0 ∧
      (reading []).chip.dataRecord .p0 3 = some (rec0 .read (.issued 1)) ∧ (rec0 .read (.issued 1)).stage.slot? = some 1 ∧
      (Speaks leavingWhole .p0 ∧ leavingWhole.chip.dataRecord .p0 3 = some (rec0 .read (.abandoning 1 6)) ∧
        (slot0 .read (.abandoning .abort 100)).owner = some 3 ∧ (rec0 .read (.abandoning 1 6)).stage.slot? = some 1) ∧
      (slot0 .read (.issued 5)).pages ≠ [] ∧
      (writing.chip.cfg.bridge = .service ∧ writing.chip.cfg.resetMark = false ∧ StartsRecovery writing .mlinkLinkDown ∧
        writing.chip.cfg.writer = .writing (.hold 7) .b 2#32 ∧ writing.chip.cfg.generation ≠ 0xFFFFFFFF#32) :=
  ⟨rfl, rfl, rfl, .inl rfl, .inr (.inr (.inr (.inl ⟨15, .ok, rfl, .inl (by decide)⟩))),
    .inr (.inr (.inr (.inr (.inl ⟨1, rfl, .inr ⟨slot0 .read (.issued 5), by decide, .inr ⟨5, rfl⟩⟩⟩)))),
    .inr (.inr (.inr (.inr (.inr ⟨1, 2#16, _, rfl, .inr ⟨slot0 .read (.issued 5), by decide,
      .inr (.inr ⟨⟨0, 2⟩, rfl, by decide⟩)⟩⟩)))),
    .inr (.inr (.inl ⟨1, slot0 .read (.abandoning .timeout 100), .timeout, 100, rfl, by decide, rfl⟩)),
    .inr (.inl ⟨_, rfl⟩), ⟨rfl, rfl, rfl⟩, by decide, rfl, ⟨⟨rfl, rfl, rfl⟩, by decide, rfl, rfl⟩, by decide,
    rfl, rfl, .inl rfl, rfl, by decide⟩

theorem test_met_MediaFramesAreDiscardedOutsideService :
    up.rstn = .high ∧ (bridgeIs .recover).chip.cfg.bridge = .recover ∧ (bridgeIs .fault).chip.cfg.bridge = .fault ∧
      (bridgeIs .start).chip.cfg.bridge = .start ∧ (bridgeIs .start).chip.slot 15 = none := by decide

theorem test_met_PersistWriteSucceedsOrFails :
    writing.rstn = .high ∧ writing.chip.cfg.bridge = .service ∧ writing.chip.cfg.resetMark = false ∧
      writing.chip.slot 0 = some { configSlot .write 8191 true with phase := .issued 500 } ∧
      writing.chip.cfg.writer = .writing (.hold 7) .b 2#32 ∧
      (held 7 .fixed .persisting ∈ writing.chip.hold.table ∧ HoldTableInRange writing ∧ (2#32 : Word) ≠ 0xFFFFFFFF#32) ∧
      (({ held 7 .fixed .persisting with answerTo := some 9 } : Hold).answerTo = some 9 ∧
        Speaks (holding [{ held 7 .fixed .persisting with answerTo := some 9 }]) .p1 ∧
        HoldNoticeDue writing .p1 ⟨10, 5⟩) ∧
      ((∀ info left, writing.chip.map.commit ≠ .draining info left) ∧
        ∀ h ∈ writing.chip.hold.table, ∀ waits, h.state = .pending waits → ∃ n ∈ waits, n ≠ 0) ∧
      (MediaStatus.mediaError ≠ .ok ∧ writing.chip.cfg.generation ≠ 0xFFFFFFFF#32) ∧
      ∃ info, (mapIs fun m => { m with
        commit := .persisting ⟨some .p0, some 9, true, []⟩, staging := .committing (some .p0) conf }).chip.map.commit =
          .persisting info ∧ info.session = some .p0 ∧ info.tag = some 9 :=
  ⟨rfl, rfl, rfl, by decide, rfl, ⟨List.mem_singleton.2 rfl, inRange 7 .fixed .persisting, by decide⟩,
    ⟨rfl, ⟨rfl, rfl, rfl⟩, due1 [] (by decide)⟩,
    ⟨fun _ _ h => (by cases h), fun h hm waits hs => by rw [List.mem_singleton.1 hm] at hs; cases hs⟩,
    ⟨by decide, by decide⟩, _, rfl, rfl, rfl⟩

/-- A write that ends in an error fails its job: the hold is gone, the copy is INVALID, the failure is counted (R167). -/
theorem test_failed_write_fails_its_job :
    ∃ t, exec (.complete 0 .mediaError) writing = .next t ∧ t.chip.hold.table = [] ∧ t.chip.cfg.markB = .invalid ∧
      t.chip.ctl.persistFailures = 1 := by
  refine ⟨_, rfl, ?_⟩; decide +kernel

end Sys2Proof.Tests
end

section
/-! SUPPORT. What the HOLDS notice does at every port (R41, R69): whom it reaches, what it sets and which NOTICE frames it
sends. -/

namespace Sys2Proof.HoldProofs

open Sys2Proof.Machine Sys2Proof.Safety

/-! ### Tables read whole -/

theorem rows_any_iff {n : Nat} {α : Type} (t : Table n α) (f : α → Bool) :
    t.rows.any f = true ↔ ∃ i, f (t.get i) = true := by
  rw [List.any_eq_true]
  constructor
  · rintro ⟨x, hx, hf⟩
    obtain ⟨i, hi, rfl⟩ := List.getElem_of_mem hx
    exact ⟨⟨i, t.size ▸ hi⟩, hf⟩
  · rintro ⟨i, hf⟩
    exact ⟨t.get i, List.getElem_mem _, hf⟩

theorem noTags_of_get {pc : PortCtl} (h : ∀ tag, pc.tags.get tag = none) : pc.noTags = true := by
  unfold PortCtl.noTags
  rw [List.all_eq_true]
  intro x hx
  obtain ⟨i, hi, rfl⟩ := List.getElem_of_mem hx
  exact Option.isNone_iff_eq_none.2 (h ⟨i, pc.tags.size ▸ hi⟩)

/-! ### Whom the notice reaches -/

/-- Whether the HOLDS notice for range `r` reaches the session of port `q` (R41). -/
def noticeReaches (r : MediaRange) (c : Chip) (q : Port) : Bool :=
  c.isOpen q && c.canSee q (c.map.active.ports.get q).privilege r

/-- A port controller with its HOLDS flag set. -/
def markHolds (pc : PortCtl) : PortCtl := { pc with flags := { pc.flags with holds := true } }

/-- The NOTICE frame, if one is due, that the HOLDS notice for range `r` sends to port `q` (R69). -/
def noticeFrames (r : MediaRange) (c : Chip) (q : Port) : List Sent :=
  let pc := c.ports.get q
  if noticeReaches r c q = true ∧ pc.flags.holds = false ∧ pc.noTags = true ∧ pc.link = .up then
    [.toPort q (.notice { pc.flags with holds := true })]
  else []

theorem noticeReaches_congr {r : MediaRange} {c c' : Chip} {q : Port}
    (hs : (c'.ports.get q).session = (c.ports.get q).session) (hm : c'.map = c.map) :
    noticeReaches r c' q = noticeReaches r c q := by
  simp [noticeReaches, Chip.isOpen, Chip.canSee, hs, hm]

theorem noticeFrames_congr {r : MediaRange} {c c' : Chip} {q : Port} (hp : c'.ports.get q = c.ports.get q)
    (hm : c'.map = c.map) : noticeFrames r c' q = noticeFrames r c q := by
  simp [noticeFrames, noticeReaches_congr (by rw [hp]) hm, hp]

theorem intersects_iff (a b : MediaRange) :
    a.intersects b = true ↔ a.first < b.first + b.count ∧ b.first < a.first + a.count := by
  simp [MediaRange.intersects]

theorem canSee_iff_sees (s : State) (q : Port) (r : MediaRange) :
    s.chip.canSee q (privilegeOf s q) r = true ↔ Sees s q r := by
  simp only [Chip.canSee, Sees, Bool.or_eq_true, decide_eq_true_eq, WindowMap.shows, rows_any_iff]
  refine or_congr Iff.rfl (exists_congr fun n => ?_)
  cases s.chip.map.active.map.get n with
  | none => simp
  | some w => simp [intersects_iff, Window.blocks]

theorem noticeReaches_iff (s : State) (q : Port) (r : MediaRange) :
    noticeReaches r s.chip q = true ↔ (s.chip.ports.get q).session = .opened ∧ Sees s q r := by
  rw [← canSee_iff_sees]
  simp [noticeReaches, Chip.isOpen, privilegeOf]

theorem noticeFrames_of_due {s : State} {q : Port} {r : MediaRange} (h : HoldNoticeDue s q r) :
    noticeFrames r s.chip q = [.toPort q (.notice { (s.chip.ports.get q).flags with holds := true })] := by
  obtain ⟨⟨hopen, hclear, htags, hup⟩, hsees⟩ := h
  exact if_pos ⟨(noticeReaches_iff s q r).2 ⟨hopen, hsees⟩, hclear, noTags_of_get htags, hup⟩

theorem eq_notice_of_mem_noticeFrames {r : MediaRange} {c : Chip} {q : Port} {x : Sent} (h : x ∈ noticeFrames r c q) :
    ∃ fs, x = .toPort q (.notice fs) := by
  unfold noticeFrames at h
  dsimp only at h
  split at h
  · exact ⟨_, List.mem_singleton.1 h⟩
  · cases h

/-! ### One port -/

theorem markHolds_of_set {pc : PortCtl} (h : pc.flags.holds = true) : markHolds pc = pc := by
  unfold markHolds; rw [← h]

/-- At a session that it reaches, the notice sets HOLDS and sends the NOTICE that is due. -/
theorem raiseHolds_of_reaches {r : MediaRange} {q : Port} {c : Chip} (h : noticeReaches r c q = true) :
    raiseHolds r q c =
      { c with ports := c.ports.modify q markHolds, sent := c.sent ++ noticeFrames r c q } := by
  obtain ⟨hopen, hsee⟩ := Bool.and_eq_true_iff.1 h
  have hopen : (c.ports.get q).session = .opened := of_decide_eq_true hopen
  cases hflag : (c.ports.get q).flags.holds with
  | true =>
    have hsame : c.ports.modify q markHolds = c.ports :=
      Laws.PerPort.modify_eq_self _ _ _ (markHolds_of_set hflag)
    simp [raiseHolds, raiseFlag, noticeFrames, Flags.get, hsee, hflag, hsame]
  | false =>
    have hset : setFlags q { (c.ports.get q).flags with holds := true } c =
        { c with ports := c.ports.modify q markHolds } := rfl
    cases htags : (c.ports.get q).noTags <;> cases hlink : (c.ports.get q).link <;>
      simp [raiseHolds, raiseFlag, noticeFrames, Flags.get, Flags.set, sendPort, Chip.emit, h, hsee, hopen, hflag,
        htags, hlink, hset, markHolds]

/-- A session that the notice does not reach leaves the blocks as they are. -/
theorem raiseHolds_of_not_reaches {r : MediaRange} {q : Port} {c : Chip} (h : ¬ noticeReaches r c q = true) :
    raiseHolds r q c = c := by
  unfold raiseHolds
  split
  · rename_i hsee
    have hclosed : (c.ports.get q).session ≠ .opened := fun ho => h (by simp [noticeReaches, Chip.isOpen, ho, hsee])
    simp [raiseFlag, hclosed]
  · rfl

theorem raiseHolds_sent (r : MediaRange) (q : Port) (c : Chip) :
    (raiseHolds r q c).sent = c.sent ++ noticeFrames r c q := by
  by_cases h : noticeReaches r c q = true
  · rw [raiseHolds_of_reaches h]
  · rw [raiseHolds_of_not_reaches h, noticeFrames, if_neg fun hd => h hd.1, List.append_nil]

theorem raiseHolds_port_self (r : MediaRange) (q : Port) (c : Chip) :
    (raiseHolds r q c).ports.get q =
      if noticeReaches r c q = true then markHolds (c.ports.get q) else c.ports.get q := by
  split
  · rename_i h; rw [raiseHolds_of_reaches h, Laws.PerPort.get_modify_self]
  · rename_i h; rw [raiseHolds_of_not_reaches h]

theorem raiseHolds_port_of_ne (r : MediaRange) {p q : Port} (c : Chip) (hne : q ≠ p) :
    (raiseHolds r p c).ports.get q = c.ports.get q := by
  by_cases h : noticeReaches r c p = true
  · rw [raiseHolds_of_reaches h, Laws.PerPort.get_modify_ne _ _ hne]
  · rw [raiseHolds_of_not_reaches h]

/-! ### All ports -/

/-- After the notice HOLDS is set for every session that it reaches; nothing else of a port has changed. -/
theorem holdsNotice_port (r : MediaRange) (c : Chip) (q : Port) :
    (holdsNotice r c).ports.get q =
      if noticeReaches r c q = true then markHolds (c.ports.get q) else c.ports.get q := by
  have keep (p : Port) (d : Chip) (hne : q ≠ p) : (raiseHolds r p d).ports.get q = d.ports.get q :=
    raiseHolds_port_of_ne r d hne
  unfold holdsNotice eachPort
  cases q with
  | p0 => rw [keep _ _ (by decide), keep _ _ (by decide), raiseHolds_port_self]
  | p1 =>
    have h0 := keep .p0 c (by decide)
    rw [keep _ _ (by decide), raiseHolds_port_self, noticeReaches_congr (c := c) (by rw [h0]) (by simp), h0]
  | p2 =>
    have h01 := (keep .p1 (raiseHolds r .p0 c) (by decide)).trans (keep .p0 c (by decide))
    rw [raiseHolds_port_self, noticeReaches_congr (c := c) (by rw [h01]) (by simp), h01]

/-- The notice sends the NOTICE frames that are due, in the order of the ports, and nothing else. -/
theorem holdsNotice_sent (r : MediaRange) (c : Chip) :
    (holdsNotice r c).sent = c.sent ++ Port.all.flatMap (noticeFrames r c) := by
  have keep (p q : Port) (d : Chip) (hne : q ≠ p) : noticeFrames r (raiseHolds r p d) q = noticeFrames r d q :=
    noticeFrames_congr (raiseHolds_port_of_ne r d hne) (by simp)
  simp [holdsNotice, eachPort, raiseHolds_sent, keep, Port.all]

/-! ### A removal (R41) -/

@[simp] theorem removeHold_hold (h : Hold) (c : Chip) :
    (removeHold h c).hold = { c.hold with table := c.hold.table.filter fun y => y.id ≠ h.id } := by
  simp [removeHold, dropHold]

theorem removeHold_port (h : Hold) (c : Chip) (q : Port) :
    (removeHold h c).ports.get q =
      if noticeReaches h.range c q = true then markHolds (c.ports.get q) else c.ports.get q :=
  holdsNotice_port h.range (dropHold h.id c) q

theorem removeHold_sent (h : Hold) (c : Chip) :
    (removeHold h c).sent = c.sent ++ Port.all.flatMap (noticeFrames h.range c) :=
  holdsNotice_sent h.range (dropHold h.id c)

@[simp] theorem removeHold_session (h : Hold) (c : Chip) (q : Port) :
    ((removeHold h c).ports.get q).session = (c.ports.get q).session := by
  rw [removeHold_port]; split <;> rfl

@[simp] theorem removeHold_link (h : Hold) (c : Chip) (q : Port) :
    ((removeHold h c).ports.get q).link = (c.ports.get q).link := by
  rw [removeHold_port]; split <;> rfl

end Sys2Proof.HoldProofs
end

section
/-! SUPPORT. HOLD-RELEASE (R35, R36): what it answers at each check, and what a release that passes does. -/

namespace Sys2Proof.HoldProofs

open Sys2Proof.Machine Sys2Proof.Safety

/-! ### Answers -/

/-- An answer is discarded, or it sends at most one frame and frees its tag (R52, R63). -/
theorem respond_cases (p : Port) (t : Tag) (o : Outcome) (d : List Word) (c : Chip) :
    respond p t o d c = c ∨
      respond p t o d c = withRecord p t none c ∨ respond p t o d c = answered p t o d (withRecord p t none c) := by
  by_cases hopen : (c.ports.get p).session = .opened
  · cases hlink : (c.ports.get p).link with
    | up => exact .inr (.inr (Laws.respond_open hopen hlink t o d))
    | down =>
      have hdropped : reply p t o d c = c := Laws.sendPort_down hlink _
      exact .inr (.inl (by simp [respond, Chip.isOpen, hopen, hdropped, freeTag, Laws.setRecord_eq]))
  · exact .inl (Laws.respond_closed hopen t o d)

@[simp] theorem answered_ports (p : Port) (t : Tag) (o : Outcome) (d : List Word) (c : Chip) :
    (answered p t o d c).ports = c.ports := rfl

@[simp] theorem answered_sent (p : Port) (t : Tag) (o : Outcome) (d : List Word) (c : Chip) :
    (answered p t o d c).sent = c.sent ++ [.toPort p (.response (some t) o (c.ports.get p).flags d)] := rfl

@[simp] theorem answered_record (p q : Port) (t u : Tag) (o : Outcome) (d : List Word) (c : Chip) :
    (answered p t o d c).record q u = c.record q u := rfl

@[simp] theorem respond_session (p q : Port) (t : Tag) (o : Outcome) (d : List Word) (c : Chip) :
    ((respond p t o d c).ports.get q).session = (c.ports.get q).session := by
  rcases respond_cases p t o d c with h | h | h <;> simp [h]

@[simp] theorem respond_link (p q : Port) (t : Tag) (o : Outcome) (d : List Word) (c : Chip) :
    ((respond p t o d c).ports.get q).link = (c.ports.get q).link := by
  rcases respond_cases p t o d c with h | h | h <;> simp [h]

@[simp] theorem respond_flags (p q : Port) (t : Tag) (o : Outcome) (d : List Word) (c : Chip) :
    ((respond p t o d c).ports.get q).flags = (c.ports.get q).flags := by
  rcases respond_cases p t o d c with h | h | h <;> simp [h]

theorem respond_sent_prefix (p : Port) (t : Tag) (o : Outcome) (d : List Word) (c : Chip) :
    c.sent <+: (respond p t o d c).sent := by
  rcases respond_cases p t o d c with h | h | h <;> simp [h]

/-- A tag that is free stays free when a tag is freed. -/
theorem withRecord_none_record {c : Chip} {q : Port} {u : Tag} (h : c.record q u = none) (p : Port) (t : Tag) :
    (withRecord p t none c).record q u = none := by
  by_cases hq : q = p
  · subst hq
    by_cases hu : u = t
    · subst hu; simp
    · simpa [Chip.record, withRecord, Laws.Table.get_set_ne _ _ hu] using h
  · simpa [Chip.record, withRecord, Laws.PerPort.get_modify_ne _ _ hq] using h

/-! ### A release that passes -/

/-- The answer RELEASED to the placement of a PENDING hold (R36). -/
def placementReleased (h : Hold) (c : Chip) : Chip :=
  match h.state with
  | .pending _ => answerPlacement h .released [item h.id] c
  | .persisting | .active _ => c

/-- A release removes the record, answers the placement, then the request. -/
theorem releaseHold_eq (a : Asked) (h : Hold) (c : Chip) :
    releaseHold a h c = a.answer .ok [] (placementReleased h (removeHold h c)) := rfl

/-- Where no answer to the placement is due, none is given. -/
theorem placementReleased_silent {h : Hold} {c : Chip}
    (hn : (∀ waits, h.state ≠ .pending waits) ∨ h.answerTo = none ∨ (c.ports.get h.owner).session ≠ .opened) :
    placementReleased h c = c := by
  unfold placementReleased answerPlacement
  split
  · rename_i waits hs
    split
    · rename_i u hu
      rcases hn with hn | hn | hn
      · exact absurd hs (hn waits)
      · rw [hn] at hu; cases hu
      · exact Laws.respond_closed hn ..
    · rfl
  all_goals rfl

theorem placementReleased_due {h : Hold} {c : Chip} {waits : List SlotNo} {u : Tag} (hs : h.state = .pending waits)
    (hu : h.answerTo = some u) : placementReleased h c = respond h.owner u .released [item h.id] c := by
  simp [placementReleased, answerPlacement, hs, hu]

/-- The answer to the placement is one answer or none. -/
theorem placementReleased_cases (h : Hold) (c : Chip) :
    placementReleased h c = c ∨ ∃ u, placementReleased h c = respond h.owner u .released [item h.id] c := by
  unfold placementReleased answerPlacement
  split
  · split
    · exact .inr ⟨_, rfl⟩
    · exact .inl rfl
  all_goals exact .inl rfl

theorem placementReleased_sent_prefix (h : Hold) (c : Chip) : c.sent <+: (placementReleased h c).sent := by
  rcases placementReleased_cases h c with e | ⟨u, e⟩
  · rw [e]
  · rw [e]; exact respond_sent_prefix ..

/-- The answer to the placement leaves the links, the sessions and the flags of the ports alone. -/
theorem placementReleased_port (h : Hold) (c : Chip) (q : Port) :
    ((placementReleased h c).ports.get q).session = (c.ports.get q).session ∧
      ((placementReleased h c).ports.get q).link = (c.ports.get q).link ∧
      ((placementReleased h c).ports.get q).flags = (c.ports.get q).flags := by
  rcases placementReleased_cases h c with e | ⟨u, e⟩ <;> simp [e]

/-- The answer to a request whose port speaks, after a release. -/
theorem releaseHold_open {a : Asked} {c : Chip} (ho : (c.ports.get a.port).session = .opened)
    (hl : (c.ports.get a.port).link = .up) (h : Hold) :
    releaseHold a h c =
      answered a.port a.tag .ok [] (withRecord a.port a.tag none (placementReleased h (removeHold h c))) := by
  obtain ⟨hsession, hlink, -⟩ := placementReleased_port h (removeHold h c) a.port
  exact Laws.respond_open (hsession.trans ((removeHold_session ..).trans ho))
    (hlink.trans ((removeHold_link ..).trans hl)) ..

/-- Outside the ports a release changes the hold table alone. -/
theorem releaseHold_frame (a : Asked) (h : Hold) (c : Chip) :
    let d := releaseHold a h c
    d.hold = { c.hold with table := c.hold.table.filter fun y => y.id ≠ h.id } ∧
      d.map = c.map ∧ d.arb = c.arb ∧ d.pool = c.pool ∧ d.mlink = c.mlink ∧ d.cfg = c.cfg ∧ d.ctl = c.ctl := by
  rcases placementReleased_cases h (removeHold h c) with e | ⟨u, e⟩ <;> simp [releaseHold_eq, Asked.answer, e]

/-! ### The checks (R35) -/

theorem takeHoldRelease_of_badForm {a : Asked} (hl : releaseParams a.list = none) (c : Chip) :
    takeHoldRelease a c = a.answer .badRequest [] c := by
  simp [takeHoldRelease, hl]

theorem takeHoldRelease_of_notFound {a : Asked} {c : Chip} {id : Nat} (hl : releaseParams a.list = some id)
    (hf : c.findHold id = none) : takeHoldRelease a c = a.answer .notFound [] c := by
  simp [takeHoldRelease, hl, hf]

theorem takeHoldRelease_of_found {a : Asked} {c : Chip} {id : Nat} {h : Hold} (hl : releaseParams a.list = some id)
    (hf : c.findHold id = some h) :
    takeHoldRelease a c =
      if h.cls = .fixed then a.answer .fixed [] c
      else if h.mayRelease a then releaseHold a h c
      else a.notPrivileged none c := by
  simp only [takeHoldRelease, hl, hf]

/-- A list of one item that is not 0 names an id (R35). -/
theorem releaseParams_single {x : Word} (hx : x ≠ 0#32) : releaseParams [x] = some x.toNat :=
  (Laws.releaseParams_eq_some _ _).2 ⟨x, rfl, hx, rfl⟩

/-- The id 0 and a list of another length are out of form (R35). -/
theorem releaseParams_bad {ws : List Word} (hw : ws = [0#32] ∨ ws.length ≠ 1) : releaseParams ws = none := by
  rw [Option.eq_none_iff_forall_ne_some]
  intro n hn
  obtain ⟨x, rfl, hx, -⟩ := (Laws.releaseParams_eq_some ws n).1 hn
  rcases hw with h0 | hlen
  · exact hx (List.cons.inj h0).1
  · exact hlen rfl

/-! ### The command -/

/-- The request as the hold unit takes it. -/
def askedRelease (s : State) (p : Port) (t : Tag) (ws : List Word) : Asked :=
  ⟨p, t, .holdRelease, privilegeOf s p, ws⟩

/-- The blocks with the request HANDED to the hold unit (R58, R181). -/
def handedRelease (s : State) (p : Port) (t : Tag) (ws : List Word) : Chip :=
  withRecord p t (some (.handed .holdRelease ws (some (privilegeOf s p)))) s.chip

/-- The blocks with the record of hold `h` removed, before any answer (R36, R41). -/
def removedRelease (s : State) (p : Port) (t : Tag) (ws : List Word) (h : Hold) : Chip :=
  removeHold h (handedRelease s p t ws)

/-- The NOTICE frames that the release of hold `h` sends (R41, R69). -/
def releaseNotices (s : State) (p : Port) (t : Tag) (ws : List Word) (h : Hold) : List Sent :=
  Port.all.flatMap (noticeFrames h.range (handedRelease s p t ws))

/-- The state after the release of hold `h`. -/
def afterRelease (s : State) (p : Port) (t : Tag) (ws : List Word) (h : Hold) : State :=
  { s with chip := releaseHold (askedRelease s p t ws) h (handedRelease s p t ws) }

/-- A HOLD-RELEASE of a port that speaks reaches the hold unit. -/
theorem exec_holdRelease {s : State} {p : Port} {r : Request} {ws : List Word} (hr : Ready s p r.tag)
    (hc : Carries r ws) :
    exec (.holdRelease p r) s =
      .next { s with chip := takeHoldRelease (askedRelease s p r.tag ws) (handedRelease s p r.tag ws) } := by
  have harm : exec (.holdRelease p r) s = whenRunning (toControl .holdRelease p r takeHoldRelease) s := rfl
  have hhigh : s.rstn = .high := hr.1.1
  rw [harm, whenRunning, hhigh]
  simp only [Laws.toControl_carries _ _ hr hc]
  rfl

/-- What the hold unit makes of the request is what the command does. -/
theorem does_of_take {s : State} {p : Port} {r : Request} {ws : List Word} {d : Chip} (hr : Ready s p r.tag)
    (hc : Carries r ws) (hd : takeHoldRelease (askedRelease s p r.tag ws) (handedRelease s p r.tag ws) = d) :
    Does (.holdRelease p r) s d := by
  rw [Does, exec_holdRelease hr hc, hd]

/-- A plain answer to a HOLD-RELEASE leaves no record behind. -/
theorem askedRelease_answer {s : State} {p : Port} {t : Tag} (hr : Ready s p t) (ws : List Word) (o : Outcome) :
    (askedRelease s p t ws).answer o [] (handedRelease s p t ws) = answered p t o [] s.chip := by
  obtain ⟨⟨-, hup, hopen⟩, hfree⟩ := hr
  exact Laws.answer_handed hopen hup hfree ..

theorem askedRelease_notPrivileged {s : State} {p : Port} {t : Tag} (hr : Ready s p t) (ws : List Word) :
    (askedRelease s p t ws).notPrivileged none (handedRelease s p t ws) =
      answered p t .notPrivileged [] (logged p t .holdRelease none .notPrivileged none s.chip) := by
  obtain ⟨⟨-, hup, hopen⟩, hfree⟩ := hr
  exact Laws.notPrivileged_handed hopen hup hfree ..

/-- Step 3 of R35. -/
theorem mayRelease_iff (h : Hold) (a : Asked) :
    h.mayRelease a = true ↔ a.privilege = .admin ∨ (h.cls = .session ∧ h.owner = a.port) := by
  simp [Hold.mayRelease]

/-- Step 3 of R35 fails: a USER port, and a POWER hold or another port's SESSION hold. -/
theorem not_mayRelease {s : State} {p : Port} {t : Tag} {ws : List Word} {h : Hold} (huser : privilegeOf s p = .user)
    (hown : h.cls = .power ∨ h.owner ≠ p) : ¬ h.mayRelease (askedRelease s p t ws) = true := by
  rw [mayRelease_iff]
  rintro (hadmin | ⟨hsession, howner⟩)
  · nomatch (huser.symm.trans hadmin : Privilege.user = .admin)
  · rcases hown with hpower | hne
    · rw [hsession] at hpower; cases hpower
    · exact hne howner

/-! ### What a release that passes leaves (R36) -/

/-- After the removal and the answer to the placement the request is answered. -/
theorem afterRelease_chip {s : State} {p : Port} {t : Tag} (hs : Speaks s p) (ws : List Word) (h : Hold) :
    (afterRelease s p t ws h).chip =
      answered p t .ok [] (withRecord p t none (placementReleased h (removedRelease s p t ws h))) := by
  obtain ⟨-, hup, hopen⟩ := hs
  exact releaseHold_open (a := askedRelease s p t ws) (by simp [askedRelease, handedRelease, hopen])
    (by simp [askedRelease, handedRelease, hup]) h

/-- The OK is the last frame of a release. -/
theorem afterRelease_sent {s : State} {p : Port} {t : Tag} (hs : Speaks s p) (ws : List Word) (h : Hold) :
    ∃ fs, (afterRelease s p t ws h).chip.sent =
      (placementReleased h (removedRelease s p t ws h)).sent ++ [.toPort p (.response (some t) .ok fs [])] := by
  rw [afterRelease_chip hs]
  exact ⟨_, rfl⟩

/-- The NOTICE frames of the removal are the first frames of a release. -/
theorem removedRelease_sent (s : State) (p : Port) (t : Tag) (ws : List Word) (h : Hold) :
    (removedRelease s p t ws h).sent = s.chip.sent ++ releaseNotices s p t ws h :=
  removeHold_sent ..

@[simp] theorem removedRelease_session (s : State) (p q : Port) (t : Tag) (ws : List Word) (h : Hold) :
    ((removedRelease s p t ws h).ports.get q).session = (s.chip.ports.get q).session := by
  simp [removedRelease, handedRelease]

@[simp] theorem removedRelease_link (s : State) (p q : Port) (t : Tag) (ws : List Word) (h : Hold) :
    ((removedRelease s p t ws h).ports.get q).link = (s.chip.ports.get q).link := by
  simp [removedRelease, handedRelease]

/-- The request is answered OK. -/
theorem afterRelease_answered {s : State} {p : Port} {t : Tag} (hs : Speaks s p) (ws : List Word) (h : Hold) :
    Answered s (afterRelease s p t ws h) p t .ok [] := by
  obtain ⟨released, hreleased⟩ := placementReleased_sent_prefix h (removedRelease s p t ws h)
  obtain ⟨fs, hsent⟩ := afterRelease_sent (t := t) hs ws h
  refine ⟨fs, releaseNotices s p t ws h ++ released, [], ?_⟩
  rw [hsent, ← hreleased, removedRelease_sent]
  simp only [List.append_assoc, List.append_nil]

/-- A session that may see the hold has HOLDS set. -/
theorem afterRelease_holds_flag {s : State} {p q : Port} {t : Tag} (hs : Speaks s p) (ws : List Word) {h : Hold}
    (hopen : (s.chip.ports.get q).session = .opened) (hsees : Sees s q h.range) :
    ((afterRelease s p t ws h).chip.ports.get q).flags.holds = true := by
  have hreach : noticeReaches h.range (handedRelease s p t ws) q = true :=
    (noticeReaches_congr (Laws.withRecord_session ..) rfl).trans ((noticeReaches_iff s q h.range).2 ⟨hopen, hsees⟩)
  rw [afterRelease_chip hs, answered_ports, Laws.withRecord_flags, (placementReleased_port ..).2.2, removedRelease,
    removeHold_port, if_pos hreach]
  rfl

/-- Where a NOTICE is due at another port than the requester's, it is sent. -/
theorem afterRelease_noticed {s : State} {p q : Port} {t : Tag} (hs : Speaks s p) (ws : List Word) {h : Hold}
    (hne : q ≠ p) (hdue : HoldNoticeDue s q h.range) : Noticed s (afterRelease s p t ws h) q .holds := by
  have hframes : noticeFrames h.range (handedRelease s p t ws) q = noticeFrames h.range s.chip q :=
    noticeFrames_congr (Laws.PerPort.get_modify_ne _ _ hne) rfl
  have hmem : .toPort q (.notice { (s.chip.ports.get q).flags with holds := true }) ∈ releaseNotices s p t ws h :=
    List.mem_flatMap.2 ⟨q, by cases q <;> decide, by simp [hframes, noticeFrames_of_due hdue]⟩
  obtain ⟨before, after, hsplit⟩ := List.append_of_mem hmem
  obtain ⟨released, hreleased⟩ := placementReleased_sent_prefix h (removedRelease s p t ws h)
  obtain ⟨fs, hsent⟩ := afterRelease_sent (t := t) hs ws h
  refine ⟨before, { (s.chip.ports.get q).flags with holds := true },
    after ++ released ++ [.toPort p (.response (some t) .ok fs [])], ?_, rfl⟩
  rw [hsent, ← hreleased, removedRelease_sent, hsplit]
  simp

/-- HOLDS is set for every session that may see the hold, with a NOTICE where one is due (R41, R69). -/
theorem afterRelease_holdsTold {s : State} {p : Port} {t : Tag} (hs : Speaks s p) (ws : List Word) (h : Hold) :
    HoldsTold s (afterRelease s p t ws h) h.range (some p) := fun _ hopen hsees =>
  ⟨afterRelease_holds_flag hs ws hopen hsees,
    fun hasker hdue => afterRelease_noticed hs ws (fun e => hasker (congrArg some e.symm)) hdue⟩

/-- Where no RELEASED is due, the OK is the only answer. -/
theorem afterRelease_only_ok {s : State} {p : Port} {t : Tag} (hs : Speaks s p) (ws : List Word) {h : Hold}
    (hn : (∀ waits, h.state ≠ .pending waits) ∨ h.answerTo = none ∨ (s.chip.ports.get h.owner).session ≠ .opened) :
    ∃ frames, (afterRelease s p t ws h).chip.sent = s.chip.sent ++ frames ∧
      ∀ q tag o fs d, .toPort q (.response tag o fs d) ∈ frames → q = p ∧ tag = some t ∧ o = .ok := by
  have hsilent : placementReleased h (removedRelease s p t ws h) = removedRelease s p t ws h :=
    placementReleased_silent (hn.imp_right fun hn => hn.imp_right fun hn => by simpa using hn)
  obtain ⟨fs, hsent⟩ := afterRelease_sent (t := t) hs ws h
  refine ⟨releaseNotices s p t ws h ++ [.toPort p (.response (some t) .ok fs [])], ?_, ?_⟩
  · rw [hsent, hsilent, removedRelease_sent, List.append_assoc]
  · intro q tag o fs d hm
    rcases List.mem_append.1 hm with hnotice | hok
    · obtain ⟨q', -, hnotice⟩ := List.mem_flatMap.1 hnotice
      obtain ⟨fs', e⟩ := eq_notice_of_mem_noticeFrames hnotice
      cases e
    · cases List.mem_singleton.1 hok
      exact ⟨rfl, rfl, rfl⟩

/-- The placement of a PENDING hold whose port speaks is answered RELEASED before the OK. -/
theorem afterRelease_released {s : State} {p : Port} {t u : Tag} {waits : List SlotNo} {h : Hold} (hs : Speaks s p)
    (ws : List Word) (hw : h.state = .pending waits) (hu : h.answerTo = some u) (ho : Speaks s h.owner) :
    (afterRelease s p t ws h).chip.record h.owner u = none ∧
      ∃ fs fs' before between after, (afterRelease s p t ws h).chip.sent = s.chip.sent ++ before ++
        [.toPort h.owner (.response (some u) .released fs [item h.id])] ++ between ++
        [.toPort p (.response (some t) .ok fs' [])] ++ after := by
  obtain ⟨-, hup, hopen⟩ := ho
  have hanswer : placementReleased h (removedRelease s p t ws h) =
      answered h.owner u .released [item h.id] (withRecord h.owner u none (removedRelease s p t ws h)) :=
    (placementReleased_due hw hu).trans (Laws.respond_open (by simp [hopen]) (by simp [hup]) ..)
  obtain ⟨fs', hsent⟩ := afterRelease_sent (t := t) hs ws h
  constructor
  · rw [afterRelease_chip hs, hanswer]
    exact withRecord_none_record (by simp) p t
  · refine ⟨((withRecord h.owner u none (removedRelease s p t ws h)).ports.get h.owner).flags, fs',
      releaseNotices s p t ws h, [], [], ?_⟩
    rw [hsent, hanswer, answered_sent, Laws.withRecord_sent, removedRelease_sent]
    simp only [List.append_nil]

/-! ### The obligation -/

/-- Settles O42: R35's form and three checks in order, then R36's release. -/
theorem holdReleaseChecksAndRemoves : Obligations.HoldReleaseChecksAndRemoves := by
  unfold Obligations.HoldReleaseChecksAndRemoves
  intro s p r ws hr hc hrange
  have hspeaks : Speaks s p := hr.1
  have refused {o : Outcome} (hd : takeHoldRelease (askedRelease s p r.tag ws) (handedRelease s p r.tag ws) =
      (askedRelease s p r.tag ws).answer o [] (handedRelease s p r.tag ws)) :
      Does (.holdRelease p r) s (answered p r.tag o [] s.chip) :=
    does_of_take hr hc (hd.trans (askedRelease_answer hr ws o))
  refine ⟨fun hw => refused (takeHoldRelease_of_badForm (releaseParams_bad hw) _), ?_⟩
  rintro x rfl hx
  have hform : releaseParams (askedRelease s p r.tag [x]).list = some x.toNat := releaseParams_single hx
  constructor
  · intro hnone
    exact refused (takeHoldRelease_of_notFound hform (List.find?_eq_none.2 (by simpa [handedRelease] using hnone)))
  · intro h hmem hid
    have hfound : (handedRelease s p r.tag [x]).findHold x.toNat = some h := hid ▸ Laws.findHold_of_mem hrange hmem
    have htake := takeHoldRelease_of_found hform hfound
    refine ⟨fun hfixed => refused (htake.trans (if_pos hfixed)), ?_, ?_⟩
    · intro hfixed huser hown
      rw [if_neg hfixed, if_neg (not_mayRelease huser hown), askedRelease_notPrivileged hr] at htake
      exact does_of_take hr hc htake
    · intro hfixed hmay
      rw [if_neg hfixed, if_pos ((mayRelease_iff h (askedRelease s p r.tag [x])).2 hmay)] at htake
      obtain ⟨hhold, hmap, harb, hpool, hmlink, hcfg, hctl⟩ :=
        releaseHold_frame (askedRelease s p r.tag [x]) h (handedRelease s p r.tag [x])
      exact ⟨afterRelease s p r.tag [x] h, does_of_take hr hc htake, afterRelease_answered hspeaks _ h,
        hhold, hmap, harb, hpool, hmlink, hcfg, hctl, afterRelease_holdsTold hspeaks _ h,
        afterRelease_only_ok hspeaks _, fun waits u hw hu ho => afterRelease_released hspeaks _ hw hu ho⟩

end Sys2Proof.HoldProofs
end

section
/-! SUPPORT. STAGE-PARAMS (R145): the form of its parameter list, the checks of R140 before it, and the two answers. -/

namespace Sys2Proof.StageParamsProofs

open Sys2Proof.Machine Sys2Proof.Safety

/-! ### The parameter list -/

/-- A list parses as parameters exactly when it holds three items, each in its range and step (R138). -/
theorem stageParamsParams_eq_some (ws : List Word) (q : Params) :
    stageParamsParams ws = some q ↔
      ∃ a b c, ws = [a, b, c] ∧ ParamsForm ⟨a.toNat, b.toNat, c.toNat⟩ ∧ q = ⟨a.toNat, b.toNat, c.toNat⟩ := by
  unfold stageParamsParams
  split
  case h_1 a b c =>
    rw [Laws.paramsOfFields_eq_some]
    constructor
    · exact fun h => ⟨a, b, c, rfl, h⟩
    · rintro ⟨_, _, _, e, h⟩
      cases e
      exact h
  case h_2 hshape =>
    constructor
    · intro h
      cases h
    · rintro ⟨a, b, c, e, -⟩
      exact (hshape a b c e).elim

theorem stageParamsParams_bad {ws : List Word}
    (hbad : ∀ a b c, ws = [a, b, c] → ¬ ParamsForm ⟨a.toNat, b.toNat, c.toNat⟩) : stageParamsParams ws = none := by
  rw [Option.eq_none_iff_forall_ne_some]
  intro q hq
  obtain ⟨a, b, c, hws, hform, -⟩ := (stageParamsParams_eq_some ws q).1 hq
  exact hbad a b c hws hform

/-! ### The checks of R140 -/

/-- Outside FAULT, in the requester's own OPEN staging, the list alone decides an edit (R140). -/
theorem editing_opened {α : Type} (parse : List Word → Option α) (take : α → Configuration → Asked → Chip → Chip)
    {a : Asked} {c : Chip} {cfg : Configuration} (hfault : c.cfg.bridge ≠ .fault)
    (hown : c.map.staging = .opened a.port cfg) :
    editing parse take a c = (parse a.list).elim (a.answer .badRequest [] c) fun x => take x cfg a c := by
  simp only [editing, unlessFault, if_neg hfault, hown, Staging.editable, if_true]
  cases parse a.list <;> rfl

theorem adminOnly_admin (take : Asked → Chip → Chip) {a : Asked} (hadmin : a.privilege = .admin) (c : Chip) :
    adminOnly take a c = take a c := by
  simp only [adminOnly, hadmin]

/-- An edit that passes is answered OK and replaces the staging alone. -/
theorem edited_handed {p : Port} {t : Tag} {c : Chip} (ho : (c.ports.get p).session = .opened)
    (hl : (c.ports.get p).link = .up) (ht : (c.ports.get p).tags.get t = none) (k : ReqKind) (v : Privilege)
    (ws : List Word) (x : Option Record) (cfg : Configuration) :
    edited cfg ⟨p, t, k, v, ws⟩ (withRecord p t x c) = answered p t .ok [] (staged (.opened p cfg) c) :=
  Laws.answer_handed (c := staged (.opened p cfg) c) ho hl ht k v ws x .ok []

/-! ### The command -/

/-- A STAGE-PARAMS of an ADMIN port that speaks, outside FAULT and with its own staging OPEN: its list decides between
the edit and BAD-REQUEST. -/
theorem stageParams_does {s : State} {p : Port} {r : Request} {ws : List Word} {cfg : Configuration}
    (hr : Ready s p r.tag) (hc : Carries r ws) (hadmin : privilegeOf s p = .admin)
    (hfault : s.chip.cfg.bridge ≠ .fault) (hown : s.chip.map.staging = .opened p cfg) :
    Does (.stageParams p r) s ((stageParamsParams ws).elim (answered p r.tag .badRequest [] s.chip) fun q =>
      answered p r.tag .ok [] (staged (.opened p { cfg with params := q }) s.chip)) := by
  have ⟨⟨hhigh, hup, hopen⟩, hfree⟩ := hr
  have harm : exec (.stageParams p r) s = whenRunning (toControl .stageParams p r (adminOnly
      (editing stageParamsParams fun x cfg => edited { cfg with params := x }))) s := rfl
  rw [Does, harm, whenRunning, hhigh]
  simp only [Laws.toControl_carries _ _ hr hc]
  rw [adminOnly_admin _ hadmin,
    editing_opened (a := ⟨p, r.tag, .stageParams, _, ws⟩) (c := withRecord p r.tag _ s.chip) _ _ hfault hown,
    Laws.answer_handed hopen hup hfree]
  simp only [edited_handed hopen hup hfree]

/-! ### The obligation -/

/-- Settles O47: a list in form replaces all three parameters; any other list is answered BAD-REQUEST and replaces
none. -/
theorem stageParamsReplacesAllThree : Obligations.StageParamsReplacesAllThree := by
  unfold Obligations.StageParamsReplacesAllThree
  intro s p r ws cfg hr hc hadmin hfault hown
  have hdoes := stageParams_does hr hc hadmin hfault hown
  constructor
  · intro a b c hws hform
    rwa [(stageParamsParams_eq_some ws _).2 ⟨a, b, c, hws, hform, rfl⟩] at hdoes
  · intro hbad
    rwa [stageParamsParams_bad hbad] at hdoes

end Sys2Proof.StageParamsProofs
end

section
/-! SUPPORT. LOG-CLEAR (R196): the privilege check before it, the emptied log, and the log that the next refusal starts. -/

namespace Sys2Proof.LogClearProofs

open Sys2Proof.Machine Sys2Proof.Safety

/-! ### The emptied log -/

/-- The blocks with the refusal log empty and its overflow count 0. -/
def emptiedLog (c : Chip) : Chip := { c with ctl := { c.ctl with log := [], overflow := 0 } }

/-- An entry into an empty log stands alone there; no older one is lost, so the overflow count stays (R193, R194). -/
theorem withEntry_of_empty {f : ControlFn} (hempty : f.log = []) (e : LogEntry) :
    withEntry e f = { f with log := [e] } := by
  simp [withEntry, hempty]

/-- The refusal after a clear starts the new log, stamped with the log time that the clear left alone. -/
theorem logRefusal_emptiedLog_ctl (q : Port) (t : Tag) (k : ReqKind) (w : Option WindowNo) (o : Outcome)
    (block : Option Nat) (c : Chip) :
    (logRefusal q t k w o block (emptiedLog c)).ctl =
      { c.ctl with log := [⟨q, t, k, w, o, block, c.ctl.logTime⟩], overflow := 0 } := by
  rw [Laws.logRefusal_eq]
  exact withEntry_of_empty (f := (emptiedLog c).ctl) rfl _

/-! ### The request at the control function -/

/-- The clear is answered with the number of entries and the overflow count as they stood before it. -/
theorem takeLogClear_handed {p : Port} {t : Tag} {c : Chip} (ho : (c.ports.get p).session = .opened)
    (hl : (c.ports.get p).link = .up) (ht : (c.ports.get p).tags.get t = none) (k : ReqKind) (v : Privilege)
    (ws : List Word) (x : Option Record) :
    takeLogClear ⟨p, t, k, v, ws⟩ (withRecord p t x c) =
      answered p t .ok [item c.ctl.log.length, item c.ctl.overflow] (emptiedLog c) :=
  Laws.answer_handed (c := emptiedLog c) ho hl ht k v ws x .ok _

theorem adminOnly_user (take : Asked → Chip → Chip) {a : Asked} (huser : a.privilege = .user) (c : Chip) :
    adminOnly take a c = a.notPrivileged (loggedWindow a.kind a.list) c := by
  simp only [adminOnly, huser]

theorem emptyList_nil (take : Asked → Chip → Chip) {a : Asked} (hlist : a.list = []) (c : Chip) :
    emptyList take a c = take a c :=
  if_pos hlist

/-! ### The command -/

/-- The request as the control function takes it. -/
def askedClear (s : State) (p : Port) (t : Tag) (ws : List Word) : Asked :=
  ⟨p, t, .logClear, privilegeOf s p, ws⟩

/-- The blocks with the request HANDED to the control function (R58, R181). -/
def handedClear (s : State) (p : Port) (t : Tag) (ws : List Word) : Chip :=
  withRecord p t (some (.handed .logClear ws (some (privilegeOf s p)))) s.chip

/-- A LOG-CLEAR of a port that speaks reaches the privilege check; what the checks make of it is what it does. -/
theorem does_of_take {s : State} {p : Port} {r : Request} {ws : List Word} {d : Chip} (hr : Ready s p r.tag)
    (hc : Carries r ws)
    (hd : adminOnly (emptyList takeLogClear) (askedClear s p r.tag ws) (handedClear s p r.tag ws) = d) :
    Does (.logClear p r) s d := by
  have harm : exec (.logClear p r) s =
      whenRunning (toControl .logClear p r (adminOnly (emptyList takeLogClear))) s := rfl
  have hhigh : s.rstn = .high := hr.1.1
  rw [Does, harm, whenRunning, hhigh, ← hd]
  simp only [Laws.toControl_carries _ _ hr hc]
  rfl

theorem logClear_of_admin {s : State} {p : Port} {r : Request} (hr : Ready s p r.tag) (hc : Carries r [])
    (hadmin : privilegeOf s p = .admin) :
    Does (.logClear p r) s
      (answered p r.tag .ok [item s.chip.ctl.log.length, item s.chip.ctl.overflow] (emptiedLog s.chip)) := by
  have ⟨⟨_, hup, hopen⟩, hfree⟩ := hr
  refine does_of_take hr hc ?_
  rw [StageParamsProofs.adminOnly_admin _ hadmin, emptyList_nil _ rfl]
  exact takeLogClear_handed hopen hup hfree ..

theorem logClear_of_user {s : State} {p : Port} {r : Request} {ws : List Word} (hr : Ready s p r.tag)
    (hc : Carries r ws) (huser : privilegeOf s p = .user) :
    Does (.logClear p r) s
      (answered p r.tag .notPrivileged [] (logged p r.tag .logClear none .notPrivileged none s.chip)) := by
  have ⟨⟨_, hup, hopen⟩, hfree⟩ := hr
  refine does_of_take hr hc ?_
  rw [adminOnly_user _ huser]
  exact Laws.notPrivileged_handed hopen hup hfree ..

/-- The two items of the answer show the counts whole, within the ranges that R196 gives. -/
theorem clearedItems_exact {s : State} (hrange : LogInRange s) :
    (item s.chip.ctl.log.length).toNat = s.chip.ctl.log.length ∧ s.chip.ctl.log.length ≤ 16 ∧
      (item s.chip.ctl.overflow).toNat = s.chip.ctl.overflow ∧ s.chip.ctl.overflow ≤ 255 := by
  obtain ⟨hlog, hoverflow, -⟩ := hrange
  exact ⟨Laws.item_toNat (by omega), hlog, Laws.item_toNat (by omega), hoverflow⟩

/-! ### The obligation -/

/-- Settles O36: from ADMIN the log is emptied and its counts answered; from USER the refusal is the one new entry. -/
theorem logClearEmptiesTheLog : Obligations.LogClearEmptiesTheLog := by
  unfold Obligations.LogClearEmptiesTheLog
  intro s p r ws hr hc
  constructor
  · rintro hadmin rfl
    exact ⟨logClear_of_admin hr hc hadmin, clearedItems_exact,
      fun q t k w o block => logRefusal_emptiedLog_ctl q t k w o block s.chip⟩
  · exact logClear_of_user hr hc

end Sys2Proof.LogClearProofs
end

section
/-! SUPPORT. Every command as a function on the blocks, and the cases of one step (R178). -/

namespace Sys2Proof.Commands

open Sys2Proof.Machine Sys2Proof.Safety

/-- What a command does to the blocks while RSTn is high, `waiting` behind it in the queue. The two commands of the pin act on
the pin itself and stand apart. -/
def action (waiting : List Instr) : Instr → Chip → Chip
  | .coldReset | .rstnRelease => id
  | .plinkLinkUp p => setLink p .up
  | .plinkLinkDown p => fun c => closeSession .linkDown p (setLink p .down c)
  | .plinkCheckFail p => received p fun c =>
      c.modPort p fun pc => { pc with checkFails := saturatingSucc Config.saturate16 pc.checkFails }
  | .unknownKind _ _ => id
  | .openFrame p revision => received p (answerOpen p revision)
  | .closeFrame p => received p fun c => if c.isOpen p then closeSession .close p c else noSession p none c
  | .dataFrame p d => received p (takeData p d)
  | .read p r => dataRequest .read p r
  | .write p r => dataRequest .write p r
  | .discard p r => dataRequest .discard p r
  | .flush p r => dataRequest .flush p r
  | .abort p r => intake p r Header.controlForm (takeAbort p r.tag)
  | .mapRead p r => toControl .mapRead p r (emptyList takeMapRead)
  | .holdList p r => toControl .holdList p r (emptyList takeHoldList)
  | .statusRead p r => toControl .statusRead p r (emptyList takeStatusRead)
  | .logRead p r => toControl .logRead p r (adminOnly (emptyList takeLogRead))
  | .logClear p r => toControl .logClear p r (adminOnly (emptyList takeLogClear))
  | .resetBridge p r => toControl .resetBridge p r (adminOnly (emptyList (takeResetBridge waiting)))
  | .holdPlace p r => toControl .holdPlace p r takeHoldPlace
  | .holdRelease p r => toControl .holdRelease p r takeHoldRelease
  | .stageBegin p r => toControl .stageBegin p r (adminOnly takeStageBegin)
  | .stageWindow p r => toControl .stageWindow p r (adminOnly (editing stageWindowParams fun x cfg =>
      edited { cfg with map := cfg.map.set x.1 (some x.2) }))
  | .stageDrop p r => toControl .stageDrop p r (adminOnly (editing stageDropParams fun w cfg =>
      edited { cfg with map := cfg.map.set w none }))
  | .stagePort p r => toControl .stagePort p r (adminOnly (editing stagePortParams fun x cfg =>
      edited { cfg with ports := cfg.ports.set x.1 x.2 }))
  | .stageParams p r => toControl .stageParams p r (adminOnly (editing stageParamsParams fun x cfg =>
      edited { cfg with params := x }))
  | .stageRead p r => toControl .stageRead p r (adminOnly takeStageRead)
  | .stageAbandon p r => toControl .stageAbandon p r (adminOnly (editing noParams fun _ _ a c =>
      a.answer .ok [] (setStaging .empty c)))
  | .commit p r => toControl .commit p r (adminOnly (editing commitParams takeCommit))
  | .transferTimeout p tag => transferExpiry p tag
  | .lastDataFrameSent p tag => deliveryDone p tag
  | .mlinkLinkUp => mlinkUp
  | .mlinkLinkDown => mlinkDown
  | .mlinkCheckFail => fun c =>
      c.modMlink fun m => { m with checkFails := saturatingSucc Config.saturate16 m.checkFails }
  | .linkReady => linkReadyTaken
  | .identifyReply capacity slots => identifyTaken capacity slots
  | .mediaData slot index block => mediaDataTaken slot index.toNat block
  | .complete slot status => completeTaken slot status
  | .abandonAck slot => abandonAckTaken slot
  | .responseTimerExpiry slot => responseExpiry slot
  | .abandonTimerExpiry slot => abandonExpiry slot
  | .attemptLimitExpiry => attemptExpiry
  | .drainLimitExpiry => drainExpiry
  | .holdExpiry id => expireHold id
  | .unknownMediaFrameKind _ => protocolError
  | .unknownRequestKind p (some t) _ => intake p ⟨t, none⟩ (fun _ => false) (fun _ c => c)
  | .unknownRequestKind _ none _ => id

/-- A command other than those of the pin acts on the blocks while RSTn is high, and not at all while it is low. -/
theorem exec_eq_whenRunning {i : Instr} (hcold : i ≠ .coldReset) (hrelease : i ≠ .rstnRelease) (s : State) :
    exec i s = whenRunning (action s.pending i) s := by
  cases i
  case coldReset => exact absurd rfl hcold
  case rstnRelease => exact absurd rfl hrelease
  case unknownRequestKind p t k => cases t <;> rfl
  all_goals rfl

theorem whenRunning_high {s : State} (h : s.rstn = .high) (f : Chip → Chip) :
    whenRunning f s = .next { s with chip := f s.chip } := by simp [whenRunning, h]

theorem whenRunning_low {s : State} (h : s.rstn = .low) (f : Chip → Chip) : whenRunning f s = .next s := by
  simp [whenRunning, h]

/-- While RSTn is high a command of no pin does what its action does. -/
theorem exec_high {i : Instr} {s : State} (h : s.rstn = .high) (hcold : i ≠ .coldReset) (hrelease : i ≠ .rstnRelease) :
    exec i s = .next { s with chip := action s.pending i s.chip } := by
  rw [exec_eq_whenRunning hcold hrelease, whenRunning_high h]

theorem does_of_action {i : Instr} {s : State} {c : Chip} (h : s.rstn = .high) (hcold : i ≠ .coldReset)
    (hrelease : i ≠ .rstnRelease) (hc : action s.pending i s.chip = c) : Does i s c := by
  rw [Does, exec_high h hcold hrelease, hc]

theorem rstn_cases (s : State) : s.rstn = .low ∨ s.rstn = .high := by cases s.rstn <;> simp

/-- What one step can be: a millisecond, a command of the pin, any other command while RSTn is high, or while it is low. -/
theorem step_cases {s t : State} (h : step s = .next t) :
    (s.pending = [] ∧ t = tick s) ∨
      ∃ i rest, s.pending = i :: rest ∧
        ((i = .coldReset ∧ t = { s with pending := rest, rstn := .low, chip := coldChip s.chip }) ∨
          (i = .rstnRelease ∧ s.rstn = .low ∧ t = { s with pending := rest, rstn := .high, chip := enterStart s.chip }) ∨
          (i ≠ .coldReset ∧ i ≠ .rstnRelease ∧ s.rstn = .high ∧
            t = { s with pending := rest, chip := action rest i s.chip }) ∨
          (i ≠ .coldReset ∧ t = { s with pending := rest } ∧ (s.rstn = .low ∨ i = .rstnRelease))) := by
  unfold step at h
  split at h
  · rename_i hp
    exact .inl ⟨hp, (Host.Outcome.next.inj h).symm⟩
  · rename_i i rest hp
    refine .inr ⟨i, rest, hp, ?_⟩
    by_cases hcold : i = .coldReset
    · subst hcold
      exact .inl ⟨rfl, (Host.Outcome.next.inj h).symm⟩
    by_cases hrelease : i = .rstnRelease
    · subst hrelease
      cases hl : s.rstn <;> simp only [exec, execRstnRelease, hl, Host.Outcome.next.injEq] at h <;> subst h <;> simp
    · rw [exec_eq_whenRunning hcold hrelease] at h
      rcases rstn_cases s with hl | hl
      · rw [whenRunning_low (s := { s with pending := rest }) hl] at h
        exact .inr (.inr (.inr ⟨hcold, (Host.Outcome.next.inj h).symm, .inl hl⟩))
      · rw [whenRunning_high (s := { s with pending := rest }) hl] at h
        exact .inr (.inr (.inl ⟨hcold, hrelease, hl, (Host.Outcome.next.inj h).symm⟩))

/-- Settles O1: the definition of a step with a command waiting. -/
theorem stepRunsTheFrontCommand : Obligations.StepRunsTheFrontCommand := by
  unfold Obligations.StepRunsTheFrontCommand
  intro c s
  rfl

/-- Settles O3: every command is one of the pin or runs its action under `whenRunning`. -/
theorem everyCommandAnswersANextState : Obligations.EveryCommandAnswersANextState := by
  unfold Obligations.EveryCommandAnswersANextState
  intro i s
  by_cases hcold : i = .coldReset
  · subst hcold
    exact ⟨_, rfl, rfl, fun h => absurd rfl h⟩
  by_cases hrelease : i = .rstnRelease
  · subst hrelease
    cases hl : s.rstn
    · exact ⟨{ s with rstn := .high, chip := enterStart s.chip }, by simp [exec, execRstnRelease, hl], rfl,
        fun _ h => absurd rfl h⟩
    · exact ⟨s, by simp [exec, execRstnRelease, hl], rfl, fun _ _ => hl⟩
  · cases hl : s.rstn
    · exact ⟨s, by rw [exec_eq_whenRunning hcold hrelease, whenRunning_low hl], rfl, fun _ _ => hl⟩
    · exact ⟨_, exec_high hl hcold hrelease, rfl, fun _ _ => hl⟩

/-- Settles O16: no action runs while RSTn is low. -/
theorem nothingActsWhileRstnIsLow : Obligations.NothingActsWhileRstnIsLow := by
  unfold Obligations.NothingActsWhileRstnIsLow
  intro i s hlow hcold hrelease
  rw [exec_eq_whenRunning hcold hrelease, whenRunning_low hlow]

end Sys2Proof.Commands
end

section
/-! SUPPORT. The pin, the reports of a P-link, OPEN, and what intake answers by itself (R49, R50, R56, R59, R67, R173, R178,
R201). -/

namespace Sys2Proof.Commands

open Sys2Proof.Machine Sys2Proof.Safety

/-! ### The pin -/

/-- Entry to START from the cold-reset values: the first attempt, which waits for the link. -/
theorem enterStart_of_quiet {c : Chip} (h : c = { Chip.reset with sent := c.sent, free := c.free }) :
    enterStart c = { c with mlink := { c.mlink with bringUp := .attempt .awaitLinkUp 200 } } := by
  rw [h]
  rfl

/-- Settles O15: START from the cold-reset values, and nothing on a pin that is high. -/
theorem rstnReleaseBeginsStart : Obligations.RstnReleaseBeginsStart := by
  unfold Obligations.RstnReleaseBeginsStart
  intro s
  constructor
  · intro hlow hquiet
    have hreset := hquiet hlow
    refine ⟨?_, by rw [hreset]; rfl, by rw [hreset]; rfl⟩
    simp only [exec, execRstnRelease, hlow]
    rw [enterStart_of_quiet hreset]
  · intro hhigh
    simp only [exec, execRstnRelease, hhigh]

/-- Settles O4: the reset state has no session, no record, no slot in use and no hold. -/
theorem resetSatisfiesTheInvariants : Obligations.ResetSatisfiesTheInvariants := by
  unfold Obligations.ResetSatisfiesTheInvariants
  have hport (p : Port) : State.reset.chip.ports.get p = PortCtl.reset := by cases p <;> rfl
  have hslot (i : SlotNo) : State.reset.chip.slot i = none := Laws.Table.get_fill (n := 16) none i
  have hrecord (p : Port) (u : Tag) : State.reset.chip.dataRecord p u = none := by
    unfold Chip.dataRecord Chip.record
    rw [hport]
    simp [PortCtl.reset]
  have hqueue (p : Port) : State.reset.chip.arb.queues.get p = [] := by cases p <;> rfl
  have hawaited (p : Port) : awaitedTags State.reset.chip p = [] := by cases p <;> decide +kernel
  have husage (w : WindowNo) : State.reset.chip.map.usage.get w = ⟨0, 0⟩ := Laws.Table.get_fill (n := 16) _ w
  have hheld (p : Port) : heldSlots State.reset.chip p = [] := by simp [heldSlots, hslot]
  have hwindow (w : WindowNo) : windowSlots State.reset.chip w = [] := by simp [windowSlots, hslot]
  refine ⟨fun _ => rfl, ?_, ⟨fun p => ?_, ?_⟩, fun p _ => ?_, nofun, ⟨⟨fun _ p => ?_, fun _ => rfl⟩, fun p => ?_⟩,
    ⟨?_, ?_, ?_⟩, fun _ => rfl, ⟨fun _ => rfl, nofun, ?_, nofun, fun _ => ⟨nofun, fun _ i _ => hslot i⟩, fun p => ?_, fun w => ?_⟩,
    ⟨fun p => ⟨?_, fun u => ?_, fun _ => hqueue p, fun i r u h => ?_, ?_, fun u h => ?_⟩, fun w => ?_, ?_⟩, ?_, ?_⟩
  · simp [LogInRange, State.reset, Chip.reset, ControlFn.reset]
  · rw [hport]; simp [PortCtl.reset]
  · simp [State.reset, Chip.reset, MlinkCtl.reset]
  · rw [hport]; rfl
  · rw [hport]; nofun
  · rw [hport]; nofun
  · simp [State.reset, Chip.reset, HoldUnit.reset]
  · simp [State.reset, Chip.reset, HoldUnit.reset]
  · exact List.Pairwise.nil
  · rintro (h | h) <;> cases h
  · rw [hport, hheld]; rfl
  · rw [husage, hwindow]; rfl
  · rw [hqueue]; exact List.nodup_nil
  · rw [hqueue, hrecord]; simp
  · rw [hslot] at h; cases h
  · rw [hawaited]; exact List.nodup_nil
  · rw [hawaited] at h; cases h
  · rw [husage]; simp [queuedTags, hrecord, Port.all]
  · rintro info (h | ⟨_, h⟩) <;> cases h
  · decide +kernel
  · decide +kernel

/-! ### Reports and frames of a P-link -/

/-- Settles O17: the link, or the count, and nothing else. -/
theorem plinkReportsChangeTheLinkAlone : Obligations.PlinkReportsChangeTheLinkAlone := by
  unfold Obligations.PlinkReportsChangeTheLinkAlone
  intro s p hhigh
  have does (i : Instr) (c : Chip) (hcold : i ≠ .coldReset) (hrelease : i ≠ .rstnRelease)
      (hc : action s.pending i s.chip = c) : Does i s c := does_of_action hhigh hcold hrelease hc
  refine ⟨does _ _ nofun nofun rfl, fun hclosed => does _ _ nofun nofun ?_, fun hup => does _ _ nofun nofun ?_,
    fun hdown => does _ _ nofun nofun ?_, fun kind => does _ _ nofun nofun rfl⟩
  · have hstill : ¬ (setLink p .down s.chip).isOpen p = true := by simpa [Chip.isOpen, setLink] using hclosed
    simp only [action, closeSession, if_neg hstill]
    rfl
  · simp only [action, received, if_pos hup]
    rfl
  · simp [action, received, hdown]

/-- A frame on a link that is UP is taken. -/
theorem received_up {p : Port} {c : Chip} (h : (c.ports.get p).link = .up) (take : Chip → Chip) :
    received p take c = take c := if_pos h

/-- Settles O18: by session, revision, bridge state and reset mark. -/
theorem openIsAnswered : Obligations.OpenIsAnswered := by
  unfold Obligations.OpenIsAnswered
  intro s p revision hhigh hup
  have does {c : Chip} (hc : answerOpen p revision s.chip = c) : Does (.openFrame p revision) s c :=
    does_of_action hhigh nofun nofun (by rw [action, received_up hup, hc])
  refine ⟨fun hdown => ⟨fun hrev => does ?_, fun hrev hwait => does ?_, fun hrev hbridge hmark => does ?_⟩,
    fun hopen => does ?_, fun reason hclosing => does ?_⟩
  · simp only [answerOpen, hdown, Config.revision, if_pos hrev, Laws.sendPort_up hup]
  · simp only [answerOpen, hdown, Config.revision, hrev, ne_eq, not_true_eq_false, if_false, if_pos hwait,
      Laws.sendPort_up hup]
  · have hready : ¬ (s.chip.cfg.bridge = .start ∨ s.chip.cfg.resetMark = true) := by
      rintro (h | h)
      · rw [h] at hbridge; simp at hbridge
      · rw [h] at hmark; cases hmark
    simp only [answerOpen, hdown, Config.revision, hrev, ne_eq, not_true_eq_false, if_false, if_neg hready, acceptOpen]
    rw [Laws.sendPort_up (by simp [hup])]
    rfl
  · simp only [answerOpen, hopen, Laws.sendPort_up hup]
  · simp only [answerOpen, hclosing, Laws.sendPort_up hup]

/-! ### Intake -/

/-- A request as it comes to intake: each kind of request is taken after the intake of its own form. -/
theorem action_ofRequest (waiting : List Instr) (k : ReqKind) (p : Port) (r : Request) :
    ∃ form take, action waiting (.ofRequest k p r) = intake p r form take ∧
      (∀ h, form h = true → (∃ d : DataKind, k = d.request) ∧ Header.dataForm h = true ∨
        (∀ d : DataKind, k ≠ d.request) ∧ Header.controlForm h = true) := by
  cases k
  case read => exact ⟨_, _, rfl, fun h hf => .inl ⟨⟨.read, rfl⟩, hf⟩⟩
  case write => exact ⟨_, _, rfl, fun h hf => .inl ⟨⟨.write, rfl⟩, hf⟩⟩
  case discard => exact ⟨_, _, rfl, fun h hf => .inl ⟨⟨.discard, rfl⟩, hf⟩⟩
  case flush => exact ⟨_, _, rfl, fun h hf => .inl ⟨⟨.flush, rfl⟩, hf⟩⟩
  all_goals exact ⟨_, _, rfl, fun h hf => .inr ⟨fun d => by cases d <;> nofun, hf⟩⟩

/-- A request is no command of the pin. -/
theorem ofRequest_ne_pin (k : ReqKind) (p : Port) (r : Request) :
    Instr.ofRequest k p r ≠ .coldReset ∧ Instr.ofRequest k p r ≠ .rstnRelease := by
  cases k <;> exact ⟨nofun, nofun⟩

/-- What intake makes of a request is what the request does. -/
theorem does_ofRequest {k : ReqKind} {p : Port} {r : Request} {s : State} {c : Chip} (hhigh : s.rstn = .high)
    (hc : ∀ form take, (∀ h, form h = true → (∃ d : DataKind, k = d.request) ∧ Header.dataForm h = true ∨
        (∀ d : DataKind, k ≠ d.request) ∧ Header.controlForm h = true) → intake p r form take s.chip = c) :
    Does (.ofRequest k p r) s c := by
  obtain ⟨form, take, haction, hform⟩ := action_ofRequest s.pending k p r
  obtain ⟨hcold, hrelease⟩ := ofRequest_ne_pin k p r
  exact does_of_action hhigh hcold hrelease (by rw [haction]; exact hc form take hform)

/-- Outside OPEN a request is answered NO-SESSION (R56). -/
theorem intake_closed {p : Port} {c : Chip} (hup : (c.ports.get p).link = .up)
    (hclosed : (c.ports.get p).session ≠ .opened) (r : Request) (form : Header → Bool) (take : Header → Chip → Chip) :
    intake p r form take c = told p (.response (some r.tag) .noSession ⟨false, false, false⟩ []) c := by
  simp only [intake, hup, reduceCtorEq, if_false, if_pos hclosed, noSession, Laws.sendPort_up hup]
  rfl

/-- A request on a tag in use is answered TAG-BUSY (R60). -/
theorem intake_busy {s : State} {p : Port} {r : Request} (h : Speaks s p)
    (hbusy : (s.chip.ports.get p).tags.get r.tag ≠ none) (form : Header → Bool) (take : Header → Chip → Chip) :
    intake p r form take s.chip = answered p r.tag .tagBusy [] s.chip := by
  obtain ⟨-, hup, hopen⟩ := h
  have hsome : ((s.chip.ports.get p).tags.get r.tag).isSome = true := Option.isSome_iff_ne_none.2 hbusy
  simp only [intake, hup, hopen, hsome, reduceCtorEq, if_false, ne_eq, not_true_eq_false, if_true, Laws.reply_up hup]

/-- A request without its whole header is answered BAD-REQUEST (R201). -/
theorem intake_headerless {s : State} {p : Port} {t : Tag} (h : Ready s p t) (form : Header → Bool)
    (take : Header → Chip → Chip) :
    intake p ⟨t, none⟩ form take s.chip = answered p t .badRequest [] s.chip := by
  obtain ⟨⟨-, hup, hopen⟩, hfree⟩ := h
  simp [intake, hup, hopen, hfree, Laws.reply_up hup]

/-- Settles O20: intake, DATA and CLOSE outside OPEN. -/
theorem framesWithoutSessionAreAnsweredNoSession : Obligations.FramesWithoutSessionAreAnsweredNoSession := by
  unfold Obligations.FramesWithoutSessionAreAnsweredNoSession
  intro s p hhigh hup hclosed
  have hnot : ¬ s.chip.isOpen p = true := by simpa [Chip.isOpen] using hclosed
  have told_of (t : Option Tag) : noSession p t s.chip =
      told p (.response t .noSession ⟨false, false, false⟩ []) s.chip := Laws.sendPort_up hup _
  refine ⟨fun k r => does_ofRequest hhigh fun form take _ => intake_closed hup hclosed r form take,
    fun tag kind => does_of_action hhigh nofun nofun (intake_closed hup hclosed ⟨tag, none⟩ (fun _ => false) fun _ c => c),
    fun tag index block => does_of_action hhigh nofun nofun ?_,
    fun tag => does_of_action hhigh nofun nofun ?_, does_of_action hhigh nofun nofun ?_⟩
  all_goals simp only [action, received_up hup, takeData, if_neg hnot, told_of]

/-- Settles O21: TAG-BUSY comes before every check of form. -/
theorem busyTagIsAnsweredTagBusy : Obligations.BusyTagIsAnsweredTagBusy := by
  unfold Obligations.BusyTagIsAnsweredTagBusy
  rintro s p tag hspeaks hbusy
  constructor
  · rintro k r rfl
    exact does_ofRequest hspeaks.1 fun form take _ => intake_busy hspeaks hbusy form take
  · intro kind
    exact does_of_action hspeaks.1 nofun nofun 
      (intake_busy (r := ⟨tag, none⟩) hspeaks hbusy (fun _ => false) fun _ c => c)

theorem dataForm_iff (h : Header) :
    Header.dataForm h = true ↔ h.target ≠ 0xFF#8 ∧ h.listLength = 0#16 ∧ h.list = [] := by
  simp only [Header.dataForm, Bool.and_eq_true, decide_eq_true_iff, List.length_eq_zero_iff, and_assoc]
  rfl

theorem controlForm_iff (h : Header) : Header.controlForm h = true ↔
    h.target = 0xFF#8 ∧ h.list.length = h.listLength.toNat ∧ h.list.length % 4 = 0 := by
  simp only [Header.controlForm, Bool.and_eq_true, decide_eq_true_iff, and_assoc]
  rfl

/-- A request whose header fails the form of its kind is answered BAD-REQUEST. -/
theorem does_badForm {k : ReqKind} {p : Port} {tag : Tag} {h : Header} {s : State} (hr : Ready s p tag)
    (hdata : (∃ d : DataKind, k = d.request) → Header.dataForm h ≠ true)
    (hcontrol : (∀ d : DataKind, k ≠ d.request) → Header.controlForm h ≠ true) :
    Does (.ofRequest k p ⟨tag, some h⟩) s (answered p tag .badRequest [] s.chip) := by
  refine does_ofRequest hr.1.1 fun form take hform => ?_
  rw [Laws.intake_ready (r := ⟨tag, some h⟩) hr rfl, if_neg]
  intro hf
  rcases hform h hf with ⟨hk, hd⟩ | ⟨hk, hc⟩
  · exact hdata hk hd
  · exact hcontrol hk hc

/-- Settles O22: a missing header, a form of the other family of kinds, an unknown kind. -/
theorem malformedRequestIsAnsweredBadRequest : Obligations.MalformedRequestIsAnsweredBadRequest := by
  unfold Obligations.MalformedRequestIsAnsweredBadRequest
  intro s p tag hr
  refine ⟨fun k => does_ofRequest hr.1.1 fun form take _ => intake_headerless hr form take,
    fun k h hbad => does_badForm hr (fun _ hf => ?_) fun hk => absurd rfl (hk k),
    fun k h hk hbad => does_badForm hr (fun ⟨d, hd⟩ => absurd hd (hk d)) fun _ hf => ?_,
    fun kind => does_of_action hr.1.1 nofun nofun (intake_headerless hr (fun _ => false) fun _ c => c),
    fun kind => does_of_action hr.1.1 nofun nofun rfl⟩
  · obtain ⟨htarget, hlength, hlist⟩ := (dataForm_iff h).1 hf
    rcases hbad with h | h | h
    · exact htarget h
    · exact h hlength
    · exact h hlist
  · obtain ⟨htarget, hlength, hwhole⟩ := (controlForm_iff h).1 hf
    rcases hbad with h | h | h
    · exact h htarget
    · exact h hlength
    · exact h hwhole

end Sys2Proof.Commands
end

section
/-! SUPPORT. Admission of data requests (R70 to R84): each check that fails, in order, and a request that passes them all. -/

namespace Sys2Proof.Admission

open Sys2Proof.Machine Sys2Proof.Safety Sys2Proof.Commands

/-! ### The checks, in the words of the statements -/

theorem countOk_iff (k : DataKind) (n : Half) : k.countOk n = true ↔ CountOk k n.toNat := by
  have hn := n.isLt
  have hmax : n.toNat ≤ Config.maxDiscard := by unfold Config.maxDiscard; omega
  cases k <;> simp [DataKind.countOk, CountOk, hmax] <;> exact fun _ => Iff.rfl

theorem permits_iff (r : Rights) (k : DataKind) : r.permits k = true ↔ RightsPermit r k := by
  cases r <;> cases k <;> simp [Rights.permits, RightsPermit]

theorem windowOfTarget_some {b : Byte} {n : WindowNo} (h : b.toNat = n.val) : windowOfTarget b = some n := by
  simp [windowOfTarget, h]

theorem windowOfTarget_none {b : Byte} (h : 16 ≤ b.toNat) : windowOfTarget b = none := by
  simp [windowOfTarget]; omega

theorem changing_iff (s : State) (n : WindowNo) : s.chip.changing n = true ↔ Changing s n := by
  unfold Chip.changing Changing
  cases s.chip.map.commit <;> simp

theorem lookup_noWindow {s : State} {n : WindowNo} (h : s.chip.map.active.map.get n = none) :
    s.chip.lookup n = .noWindow := by simp [Chip.lookup, h]

theorem lookup_busy {s : State} {n : WindowNo} (h : s.chip.map.active.map.get n ≠ none) (hc : Changing s n) :
    s.chip.lookup n = .busy := by
  obtain ⟨w, hw⟩ := Option.ne_none_iff_exists'.1 h
  simp [Chip.lookup, hw, (changing_iff s n).2 hc]

theorem lookup_found {s : State} {n : WindowNo} {w : Window} (h : s.chip.map.active.map.get n = some w)
    (hc : ¬ Changing s n) : s.chip.lookup n = .found w := by
  have : ¬ s.chip.changing n = true := fun h => hc ((changing_iff s n).1 h)
  simp [Chip.lookup, h, this]

theorem blocksRequest_iff (k : DataKind) (w : Window) (h : Header) (hk : k ≠ .flush) (x : Hold) :
    x.blocksRequest k (mediaRange k w h) = true ↔
      Meets k (w.base.toNat + h.offset.toNat) h.count.toNat x := by
  cases k
  case flush => exact absurd rfl hk
  all_goals
    cases hs : x.scope <;>
      simp [Hold.blocksRequest, mediaRange, HoldScope.blocks, Meets, MediaRange.intersects, hs, and_comm]

theorem blocksRequest_flush (w : Window) (h : Header) (x : Hold) :
    x.blocksRequest .flush (mediaRange .flush w h) = false := rfl

/-! ### From the frame to the checks -/

theorem action_ofRequest_data (waiting : List Instr) (k : DataKind) (p : Port) (r : Request) :
    action waiting (.ofRequest k.request p r) = dataRequest k p r := by cases k <;> rfl

/-- A data request in its form does what admission makes of it. -/
theorem does_of_admission {s : State} {p : Port} {k : DataKind} {r : Request} {h : Header} {c : Chip}
    (hr : Ready s p r.tag) (hh : r.header = some h) (hf : Header.dataForm h = true)
    (hc : admission k p r.tag h s.chip = c) : Does (.ofRequest k.request p r) s c := by
  obtain ⟨hcold, hrelease⟩ := ofRequest_ne_pin k.request p r
  refine does_of_action hr.1.1 hcold hrelease ?_
  rw [action_ofRequest_data, dataRequest, Laws.intake_ready hr hh, if_pos hf, hc]

theorem dataForm_of_names {r : Request} {n : WindowNo} {h : Header} (hn : Names r n h) : Header.dataForm h = true := by
  obtain ⟨-, htarget, hlength, hlist⟩ := hn
  refine (dataForm_iff h).2 ⟨fun he => ?_, hlength, hlist⟩
  have := n.isLt
  rw [he] at htarget
  simp at htarget
  omega

/-- Admission of a request that passes steps 5 to 8. -/
theorem admission_of_reaches {k : DataKind} {s : State} {p : Port} {t : Tag} {n : WindowNo} {w : Window} {h : Header}
    (htarget : h.target.toNat = n.val) (hreach : Reaches k s n w h) :
    admission k p t h s.chip =
      match protectionVerdict k p w s.chip.hold.table h with
      | some (o, block) => reply p t o [] (logRefusal p t k.request (some n) o block s.chip)
      | none => enqueue p t (admittedRecord k n w h) s.chip := by
  obtain ⟨hcount, hfault, hwindow, hfree⟩ := hreach
  simp only [admission, windowOfTarget_some htarget, (countOk_iff k h.count).2 hcount, Bool.not_true,
    Bool.false_eq_true, if_false, if_neg hfault, lookup_found hwindow hfree] <;> rfl

/-- A request that steps 9 to 12 refuse is answered and logged. -/
theorem does_refused {s : State} {p : Port} {k : DataKind} {r : Request} {n : WindowNo} {w : Window} {h : Header}
    {o : Outcome} {block : Option Nat} (hr : Ready s p r.tag) (hn : Names r n h) (hreach : Reaches k s n w h)
    (hv : protectionVerdict k p w s.chip.hold.table h = some (o, block)) :
    Does (.ofRequest k.request p r) s
      (answered p r.tag o [] (logged p r.tag k.request (some n) o block s.chip)) := by
  refine does_of_admission hr hn.1 (dataForm_of_names hn) ?_
  rw [admission_of_reaches hn.2.1 hreach, hv]
  exact Laws.reply_up (c := logged p r.tag k.request (some n) o block s.chip) hr.1.2.1 r.tag o []

/-! ### The obligations -/

/-- Settles O24: steps 5 to 8 in order. -/
theorem dataRequestIsRefusedUnlogged : Obligations.DataRequestIsRefusedUnlogged := by
  unfold Obligations.DataRequestIsRefusedUnlogged
  intro s p k r h hr hh htarget hlength hlist
  have hup := hr.1.2.1
  have does {o : Outcome} (hc : admission k p r.tag h s.chip = reply p r.tag o [] s.chip) :
      Does (.ofRequest k.request p r) s (answered p r.tag o [] s.chip) :=
    does_of_admission hr hh ((dataForm_iff h).2 ⟨htarget, hlength, hlist⟩) (hc.trans (Laws.reply_up hup ..))
  refine ⟨fun hbad => does ?_, fun n hn hcount => ?_⟩
  · cases hw : windowOfTarget h.target with
    | none => simp only [admission, hw]
    | some n =>
      have hcount : ¬ k.countOk h.count = true := by
        rw [countOk_iff]
        refine hbad.resolve_left fun hbig => ?_
        rw [windowOfTarget_none hbig] at hw
        cases hw
      simp [admission, hw, hcount]
  · have hcount' := (countOk_iff k h.count).2 hcount
    have hpast : admission k p r.tag h s.chip =
        if s.chip.cfg.bridge = .fault then reply p r.tag .mediaFault [] s.chip
        else match s.chip.lookup n with
          | .noWindow => reply p r.tag .noWindow [] s.chip
          | .busy => reply p r.tag .mapBusy [] s.chip
          | .found w =>
            match protectionVerdict k p w s.chip.hold.table h with
            | some (o, block) => reply p r.tag o [] (logRefusal p r.tag k.request (some n) o block s.chip)
            | none => enqueue p r.tag (admittedRecord k n w h) s.chip := by
      simp only [admission, windowOfTarget_some hn, hcount', Bool.not_true, Bool.false_eq_true, if_false] <;> rfl
    refine ⟨fun hfault => does ?_, fun hfault hnone => does ?_, fun hfault hsome hbusy => does ?_⟩
    · rw [hpast, if_pos hfault]
    · rw [hpast, if_neg hfault, lookup_noWindow hnone]
    · rw [hpast, if_neg hfault, lookup_busy hsome hbusy]

/-- Settles O25: steps 9 to 12 in order, each with its entry. -/
theorem protectionRefusalIsLogged : Obligations.ProtectionRefusalIsLogged := by
  unfold Obligations.ProtectionRefusalIsLogged
  intro s p k r n w h hr hn hreach
  refine ⟨fun hrights => ?_, fun hrights hk hdiscard => ?_, fun hrights hdiscard hk => ⟨fun hout => ?_, fun hin hheld => ?_⟩⟩
  · refine does_refused hr hn hreach ?_
    simp [protectionVerdict, (permits_iff _ _).not.2 hrights]
  · refine does_refused hr hn hreach ?_
    have hpermit := (permits_iff _ _).2 hrights
    simp [protectionVerdict, hpermit, ← hk, hdiscard]
  · refine does_refused hr hn hreach ?_
    simp [protectionVerdict, (permits_iff _ _).2 hrights, hdiscard, hk, hout]
  · refine does_refused hr hn hreach ?_
    have hany : (s.chip.hold.table.any fun x => x.blocksRequest k (mediaRange k w h)) = true := by
      rw [List.any_eq_true]
      obtain ⟨x, hx, hm⟩ := hheld
      exact ⟨x, hx, (blocksRequest_iff k w h hk x).2 hm⟩
    have hfirst : (mediaRange k w h).map MediaRange.first = some (w.base.toNat + h.offset.toNat) := by
      cases k <;> first | rfl | exact absurd rfl hk
    simp [protectionVerdict, (permits_iff _ _).2 hrights, hdiscard, hk, Nat.not_lt.2 hin, hany, hfirst]

/-- A request that no step refuses has no verdict. -/
theorem protectionVerdict_none {k : DataKind} {s : State} {p : Port} {w : Window} {h : Header}
    (hu : Unprotected k s p w h) : protectionVerdict k p w s.chip.hold.table h = none := by
  obtain ⟨hrights, hdiscard, hrest⟩ := hu
  have hpermit := (permits_iff _ _).2 hrights
  by_cases hk : k = .flush
  · subst hk
    simp [protectionVerdict, hpermit, blocksRequest_flush]
  · obtain ⟨hin, hclear⟩ := hrest.resolve_left hk
    have hnone : (s.chip.hold.table.any fun x => x.blocksRequest k (mediaRange k w h)) = false := by
      rw [List.any_eq_false]
      exact fun x hx hb => hclear x hx ((blocksRequest_iff k w h hk x).1 hb)
    simp [protectionVerdict, hpermit, hdiscard, Nat.not_lt.2 hin, hnone]

/-- The record and the queue place that admission gives are those of the statement. -/
theorem enqueue_eq (k : DataKind) (p : Port) (t : Tag) (n : WindowNo) (w : Window) (h : Header) (c : Chip) :
    enqueue p t (admittedRecord k n w h) c = arbitrate (admitted k p t n w h c) := by
  have hrecord : admittedRecord k n w h =
      { kind := k, window := n, offset := h.offset, count := h.count, ordered := h.ordered || decide (k = .flush),
        durableAsked := h.durable,
        durable := h.durable || (decide (k = .write ∨ k = .discard) && decide (w.durable = .always)),
        rightsOk := true, discardOk := true,
        range := if k = .flush then none else some ⟨w.base.toNat + h.offset.toNat, h.count.toNat⟩,
        stage := .admitted } := by
    cases k <;> cases hd : w.durable <;> simp [admittedRecord, durableFlag, mediaRange, hd]
  rw [enqueue, hrecord]
  rfl

/-- Settles O23: the record, the tail of the queue, and the grant decisions. -/
theorem dataRequestIsAdmitted : Obligations.DataRequestIsAdmitted := by
  unfold Obligations.DataRequestIsAdmitted
  intro s p k r n w h hr hn hreach hu
  have hdoes : Does (.ofRequest k.request p r) s (arbitrate (admitted k p r.tag n w h s.chip)) := by
    refine does_of_admission hr hn.1 (dataForm_of_names hn) ?_
    rw [admission_of_reaches hn.2.1 hreach, protectionVerdict_none hu]
    exact enqueue_eq ..
  refine ⟨hdoes, fun hno => ?_⟩
  rwa [Laws.arbitrate_noGrant (c := admitted k p r.tag n w h s.chip) hno] at hdoes

end Sys2Proof.Admission
end

section
/-! SUPPORT. DATA frames, the end of a delivery, and ABORT of a target that is not queued and not waiting for data (R65, R66,
R103, R105, R108 to R111). -/

namespace Sys2Proof.DataPath

open Sys2Proof.Machine Sys2Proof.Safety Sys2Proof.Commands

theorem length_insertIndex (x : Nat) (l : List Nat) : (insertIndex x l).length = l.length + 1 := by
  induction l with
  | nil => rfl
  | cons y l ih => unfold insertIndex; split <;> simp [ih]

theorem record_of_dataRecord {c : Chip} {p : Port} {t : Tag} {d : DataRec} (h : c.dataRecord p t = some d) :
    c.record p t = some (.data d) := by
  unfold Chip.dataRecord at h
  split at h
  · rename_i e he; rw [he, Option.some.inj h]
  all_goals cases h

theorem dataRecord_eq_some {c : Chip} {p : Port} {t : Tag} {d : DataRec} :
    c.dataRecord p t = some d ↔ c.record p t = some (.data d) :=
  ⟨record_of_dataRecord, fun h => by simp [Chip.dataRecord, h]⟩

theorem dataRecord_congr {c c' : Chip} {p : Port} {t : Tag} (h : c'.record p t = c.record p t) :
    c'.dataRecord p t = c.dataRecord p t := by simp only [Chip.dataRecord, h]

theorem record_congr {c c' : Chip} (h : c'.ports = c.ports) (p : Port) (t : Tag) : c'.record p t = c.record p t := by
  simp only [Chip.record, h]

theorem dataRecord_ports {c c' : Chip} (h : c'.ports = c.ports) (p : Port) (t : Tag) :
    c'.dataRecord p t = c.dataRecord p t := dataRecord_congr (record_congr h p t)

/-! ### DATA frames -/

/-- A whole DATA frame of a port that speaks goes to the write that may await it. -/
theorem does_data {s : State} {p : Port} (h : Speaks s p) {d : DataFrame} {c : Chip} (hc : takeData p d s.chip = c) :
    Does (.dataFrame p d) s c :=
  does_of_action h.1 nofun nofun (by rw [action, received_up h.2.1, hc])

theorem takeData_whole {s : State} {p : Port} (h : Speaks s p) (t : Tag) (index : Half) (b : Block) :
    takeData p (.whole t index b) s.chip = takeBlock p t index.toNat b s.chip :=
  if_pos (by simp [Chip.isOpen, h.2.2])

/-- A block for a GRANTED write whose slot is in use. -/
theorem takeBlock_granted {c : Chip} {p : Port} {t : Tag} {index : Nat} {b : Block} {d : DataRec} {n : SlotNo}
    {got : List Nat} {timer : Nat} (hd : c.dataRecord p t = some d) (hk : d.kind = .write)
    (hs : d.stage = .granted n got timer) :
    takeBlock p t index b c =
      match c.slot n with
      | some r =>
        if index < d.count.toNat ∧ ¬ got.contains index then
          let c := match r.pages[index]? with
            | some page => fillPage page b c
            | none => c
          let blocks := insertIndex index got
          if blocks.length = d.count.toNat then issuePort p t n r c
          else setStage p t (.granted n blocks timer) c
        else c
      | none => c := by
  simp only [takeBlock, hd, hk, hs] <;> rfl

/-- Settles O30: no such frame reaches a page. -/
theorem otherDataFramesAreDiscarded : Obligations.OtherDataFramesAreDiscarded := by
  unfold Obligations.OtherDataFramesAreDiscarded
  intro s p h
  have hopen : s.chip.isOpen p = true := by simp [Chip.isOpen, h.2.2]
  refine ⟨does_data h rfl, fun tag => does_data h (if_pos hopen), fun tag index b hnone => does_data h ?_,
    fun tag index b d hd hother => does_data h ?_, fun tag index b d n got timer hd hs hbad => does_data h ?_⟩
  · rw [takeData_whole h]
    simp only [takeBlock, hnone]
  · rw [takeData_whole h]
    simp only [takeBlock, hd]
    split
    · rename_i n got timer hk hs
      rcases hother with hother | hother
      · exact absurd hk hother
      · exact absurd hs (hother n got timer)
    · rfl
  · rw [takeData_whole h]
    by_cases hk : d.kind = .write
    · rw [takeBlock_granted hd hk hs]
      have hno : ¬ (index.toNat < d.count.toNat ∧ ¬ got.contains index.toNat = true) := by
        rintro ⟨hlt, hnew⟩
        rcases hbad with hbad | hbad
        · omega
        · exact hnew (by simpa using hbad)
      cases s.chip.slot n with
      | none => rfl
      | some r => exact if_neg hno
    · simp only [takeBlock, hd]
      split
      · rename_i hw _; exact absurd hw hk
      · rfl

/-- Settles O29: the block's page and mark, or the COMMAND with the write's DATA frames. -/
theorem writeBlockIsTaken : Obligations.WriteBlockIsTaken := by
  unfold Obligations.WriteBlockIsTaken
  intro s p tag index b d n got timer r page h hd hk hs hslot hpage hlt hnew
  have htake : takeBlock p tag index.toNat b s.chip =
      if got.length + 1 = d.count.toNat then issuePort p tag n r (fillPage page b s.chip)
      else setStage p tag (.granted n (insertIndex index.toNat got) timer) (fillPage page b s.chip) := by
    rw [takeBlock_granted hd hk hs, hslot]
    have hyes : index.toNat < d.count.toNat ∧ ¬ got.contains index.toNat = true := ⟨hlt, by simpa using hnew⟩
    simp only [if_pos hyes, hpage, length_insertIndex]
  have hfilled : (fillPage page b s.chip).dataRecord p tag = some d := hd
  constructor
  · intro hmore
    refine does_data h ?_
    rw [takeData_whole h, htake, if_neg (by omega), Laws.setStage_data hfilled]
    rfl
  · intro range hlast hop hrange hup
    refine does_data h ?_
    rw [takeData_whole h, htake, if_pos hlast, issuePort, if_pos hop, issueSlot, hrange, hop]
    rw [Laws.sendMedia_up (by simpa [setSlot] using hup)]
    rw [Laws.setStage_data (d := d) (by exact hd), Laws.sendWriteData_up (by exact hup)]
    rfl

/-! ### The end of a delivery -/

/-- Settles O34: DATA frames, pages, RESPONSE and grant decisions, in this order. -/
theorem lastDataFrameEndsTheDelivery : Obligations.LastDataFrameEndsTheDelivery := by
  unfold Obligations.LastDataFrameEndsTheDelivery
  intro s p tag
  constructor
  · rintro d pages ⟨hhigh, hup, hopen⟩ hd hs
    refine does_of_action hhigh nofun nofun ?_
    rw [action, Laws.deliveryDone_open hd hs hopen, Laws.respond_open (by exact hopen) (by exact hup)]
    simp only [answered, told, withRecord, returnPages, Chip.modPool]
    congr 1
    simp
  · intro hhigh hother
    refine does_of_action hhigh nofun nofun ?_
    unfold action deliveryDone
    dsimp only
    split
    · rename_i pages hs
      obtain ⟨d, hd, hst⟩ := Option.map_eq_some_iff.1 hs
      exact absurd hst (hother d pages hd)
    · rfl

/-! ### ABORT -/

theorem abortParams_single {x : Word} {t : Tag} (h : x.toNat = t.val) : abortParams [x] = some t := by
  simp [abortParams, h]

theorem abortParams_big {x : Word} (h : 32 ≤ x.toNat) : abortParams [x] = none := by
  simp [abortParams]; omega

theorem abortParams_shape {ws : List Word} (h : ws.length ≠ 1) : abortParams ws = none := by
  unfold abortParams
  split
  · exact absurd rfl h
  · rfl

/-- The blocks with an ABORT that has passed intake: its record is HANDED (R108). -/
def handedAbort (p : Port) (t : Tag) (ws : List Word) (c : Chip) : Chip :=
  withRecord p t (some (.handed .abort ws none)) c

/-- An ABORT that has passed intake acts on its target, or its list is no tag. -/
theorem does_abort {s : State} {p : Port} {r : Request} {ws : List Word} (hr : Ready s p r.tag) (hc : Carries r ws) :
    Does (.abort p r) s
      (match abortParams ws with
        | some target => abortTarget p r.tag target (handedAbort p r.tag ws s.chip)
        | none => respond p r.tag .badRequest [] (handedAbort p r.tag ws s.chip)) := by
  obtain ⟨h, hh, htarget, hlength, hwhole, rfl⟩ := hc
  refine does_of_action hr.1.1 nofun nofun ?_
  rw [action, Laws.intake_ready hr hh, if_pos ((controlForm_iff h).2 ⟨htarget, hlength, hwhole⟩)]
  rfl

/-- An answer to an ABORT alone frees its tag. -/
theorem respond_handedAbort {s : State} {p : Port} {t : Tag} (hr : Ready s p t) (ws : List Word) (o : Outcome) :
    respond p t o [] (handedAbort p t ws s.chip) = answered p t o [] s.chip := by
  obtain ⟨⟨-, hup, hopen⟩, hfree⟩ := hr
  exact Laws.answer_handed hopen hup hfree .abort .admin ws (some (.handed .abort ws none)) o []

theorem handedAbort_dataRecord {s : State} {p : Port} {t u : Tag} (hr : Ready s p t) (ws : List Word) :
    (handedAbort p t ws s.chip).dataRecord p u = s.chip.dataRecord p u := by
  by_cases hu : u = t
  · subst hu
    have h1 : (handedAbort p u ws s.chip).record p u = some (.handed .abort ws none) := Laws.withRecord_record ..
    have h2 : s.chip.record p u = none := hr.2
    simp only [Chip.dataRecord, h1, h2]
  · refine dataRecord_congr ?_
    simp [handedAbort, withRecord, Chip.record, Laws.Table.get_set_ne _ _ hu]

/-- Settles O31: by the target's stage. -/
theorem abortActsOnTheTargetsStage : Obligations.AbortActsOnTheTargetsStage := by
  unfold Obligations.AbortActsOnTheTargetsStage
  intro s p r ws hr hc
  have hdoes := does_abort hr hc
  refine ⟨fun hshape => ?_, fun x hws hbig => ?_, fun x target hws hx => ?_⟩
  · rwa [abortParams_shape hshape, respond_handedAbort hr] at hdoes
  · subst hws
    rwa [abortParams_big hbig, respond_handedAbort hr] at hdoes
  · subst hws
    rw [abortParams_single hx] at hdoes
    dsimp only at hdoes
    have hstage : (handedAbort p r.tag [x] s.chip).dataRecord p target = s.chip.dataRecord p target :=
      handedAbort_dataRecord hr [x]
    refine ⟨fun hnone => ?_, fun d n a hd hs => ?_, fun d pages hd hs => ?_, fun d n rec hd hs hslot hup => ?_⟩
    · simpa only [abortTarget, hstage, hnone, Option.map_none, respond_handedAbort hr] using hdoes
    · simpa only [abortTarget, hstage, hd, Option.map_some, hs, respond_handedAbort hr] using hdoes
    · simpa only [abortTarget, hstage, hd, Option.map_some, hs, respond_handedAbort hr] using hdoes
    · have hne : target ≠ r.tag := by
        intro he
        have hfree : s.chip.record p r.tag = none := hr.2
        rw [← he, record_of_dataRecord hd] at hfree
        cases hfree
      simp only [abortTarget, hstage, hd, Option.map_some, hs] at hdoes
      have habandon : abandonSlot n .abort (handedAbort p r.tag [x] s.chip) =
          toldMedia (.abandon n) (setSlot n (some { rec with phase := .abandoning .abort 100 })
            (handedAbort p r.tag [x] s.chip)) := by
        unfold abandonSlot
        rw [show (handedAbort p r.tag [x] s.chip).slot n = some rec from hslot]
        exact Laws.sendMedia_up (by exact hup) _
      rw [habandon, Laws.setStage_data (d := d) (by rw [← hd]; exact hstage)] at hdoes
      refine hdoes.trans ?_
      simp only [handedAbort, withRecord, toldMedia, setSlot, Chip.modMlink, Laws.PerPort.modify_modify]

end Sys2Proof.DataPath
end

section
/-! SUPPORT. Grants and slots (R5, R88 to R99, R117, R119, R120, R165): what a grant changes block by block, when a decision
grants and to whom, and that the decisions of an event end. -/

namespace Sys2Proof.Grants

open Sys2Proof.Machine Sys2Proof.Safety Sys2Proof.DataPath

/-! ### Tables of slots and ports -/

@[simp] theorem mem_allSlots (i : SlotNo) : i ∈ allSlots := by revert i; decide

@[simp] theorem mem_allTags (t : Tag) : t ∈ allTags := by revert t; decide

@[simp] theorem mem_portAll (p : Port) : p ∈ Port.all := by cases p <;> decide

theorem setSlot_slot (i j : SlotNo) (r : Option SlotRec) (c : Chip) :
    (setSlot i r c).slot j = if j = i then r else c.slot j := Laws.Table.get_set ..

theorem slot_congr {c c' : Chip} (h : c'.mlink.slots = c.mlink.slots) (i : SlotNo) : c'.slot i = c.slot i := by
  simp only [Chip.slot, h]

/-- Blocks whose slots are those of `d` with one record written. -/
theorem slot_of_setSlot {c d : Chip} {i : SlotNo} {r : Option SlotRec} (h : c.mlink.slots = (setSlot i r d).mlink.slots)
    (j : SlotNo) : c.slot j = if j = i then r else d.slot j := (slot_congr h j).trans (setSlot_slot ..)

/-! ### The grant (R96, R98, R99) -/

/-- The arbiter after a grant to the head of port `p`. -/
def grantedArb (reserved : Bool) (p : Port) (d : DataRec) (c : Chip) : Arbiter :=
  let a := starve p (fun q => decide (q ≠ p) && c.pageShort q) (if reserved then c.arb else spendCredit p c.arb)
  { a with queues := a.queues.modify p List.tail, ordered := if d.ordered then a.ordered.set p true else a.ordered }

/-- The blocks with the entry, the pages and the counts of a grant taken, before its slot is. -/
def takenByGrant (reserved : Bool) (p : Port) (d : DataRec) (c : Chip) : Chip :=
  { c with
    arb := grantedArb reserved p d c
    pool := { c.pool with free := c.pool.free.drop d.need }
    map := { c.map with usage := c.map.usage.modify d.window fun u => ⟨u.queued - 1, u.inFlight + 1⟩ }
    ports := c.ports.modify p fun pc => { pc with inFlight := pc.inFlight + 1 } }

/-- The slot record of a grant. -/
def grantedSlot (p : Port) (t : Tag) (d : DataRec) (c : Chip) : SlotRec := slotOfGrant p t d (c.pool.free.take d.need)

theorem grantHead_eq (reserved : Bool) (p : Port) (t : Tag) (d : DataRec) (i : SlotNo) (c : Chip) :
    grantHead reserved p t d i c =
      if d.kind = .write then
        sendPort p (.xferReady t d.count) (setStage p t (.granted i [] c.map.active.params.transfer)
          (setSlot i (some (grantedSlot p t d c)) (takenByGrant reserved p d c)))
      else issuePort p t i (grantedSlot p t d c) (takenByGrant reserved p d c) := rfl

theorem takenByGrant_dataRecord (reserved : Bool) (p q : Port) (u : Tag) (d : DataRec) (c : Chip) :
    (takenByGrant reserved p d c).dataRecord q u = c.dataRecord q u := by
  refine dataRecord_congr ?_
  simp only [Chip.record, takenByGrant, Laws.PerPort.get_modify]
  split <;> rfl

/-- A grant in which the record and the slot are written out, with the frame that it sends. -/
theorem grantHead_eq_of_record {reserved : Bool} {p : Port} {t : Tag} {d : DataRec} {i : SlotNo} {c : Chip}
    (hd : c.dataRecord p t = some d) :
    grantHead reserved p t d i c =
      if d.kind = .write then
        sendPort p (.xferReady t d.count)
          (withRecord p t (some (.data { d with stage := .granted i [] c.map.active.params.transfer }))
            (setSlot i (some (grantedSlot p t d c)) (takenByGrant reserved p d c)))
      else
        withRecord p t (some (.data { d with stage := .issued i }))
          (sendMedia (.command i d.kind d.durable (d.range.getD ⟨0, 0⟩).first (d.range.getD ⟨0, 0⟩).count)
            (setSlot i (some { grantedSlot p t d c with phase := .issued c.map.active.params.response })
              (takenByGrant reserved p d c))) := by
  have hkeep := takenByGrant_dataRecord reserved p p t d c
  rw [grantHead_eq]
  split
  · rw [Laws.setStage_data (d := d) (by rw [← hd, ← hkeep]; rfl)]
  · rename_i hk
    have hk' : ¬ (grantedSlot p t d c).op = .write := hk
    rw [issuePort, if_neg hk', Laws.setStage_data (d := d)]
    · rfl
    · rw [← hd, ← hkeep]
      exact dataRecord_ports (by simp) ..

/-! ### What a grant changes -/

section
variable (reserved : Bool) (p : Port) (t : Tag) (d : DataRec) (i : SlotNo) (c : Chip)

@[simp] theorem grantHead_arb : (grantHead reserved p t d i c).arb = grantedArb reserved p d c := by
  rw [grantHead_eq]; split <;> simp <;> rfl

@[simp] theorem grantHead_pool :
    (grantHead reserved p t d i c).pool = { c.pool with free := c.pool.free.drop d.need } := by
  rw [grantHead_eq]; split <;> simp <;> rfl

@[simp] theorem grantHead_map : (grantHead reserved p t d i c).map =
    { c.map with usage := c.map.usage.modify d.window fun u => ⟨u.queued - 1, u.inFlight + 1⟩ } := by
  rw [grantHead_eq]; split <;> simp <;> rfl

end

theorem grantedArb_queues (reserved : Bool) (p : Port) (d : DataRec) (c : Chip) :
    (grantedArb reserved p d c).queues = c.arb.queues.modify p List.tail := by cases reserved <;> rfl

theorem grantedArb_ordered (reserved : Bool) (p : Port) (d : DataRec) (c : Chip) :
    (grantedArb reserved p d c).ordered = if d.ordered then c.arb.ordered.set p true else c.arb.ordered := by
  cases reserved <;> rfl

theorem grantedArb_credit (reserved : Bool) (p : Port) (d : DataRec) (c : Chip) :
    (grantedArb reserved p d c).credit = if reserved then c.arb.credit else c.arb.credit.set p (c.arb.credit.get p - 1) := by
  cases reserved <;> rfl

theorem grantedArb_pointer (reserved : Bool) (p : Port) (d : DataRec) (c : Chip) :
    (grantedArb reserved p d c).pointer =
      if reserved then c.arb.pointer else if c.arb.credit.get p ≤ 1 then nextPort p else p := by
  cases reserved
  · have : c.arb.credit.get p - 1 = 0 ↔ c.arb.credit.get p ≤ 1 := by omega
    simp [grantedArb, starve, spendCredit, this]
  · rfl

/-- The starvation counts that a grant to `p` raises (R95). -/
theorem grantedArb_starvation (reserved : Bool) (p q : Port) (d : DataRec) (c : Chip) :
    (grantedArb reserved p d c).starvation.get q =
      if q = p then 0
      else if c.pageShort q = true then min 4 (c.arb.starvation.get q + 1) else c.arb.starvation.get q := by
  have hsame : (if reserved then c.arb else spendCredit p c.arb).starvation = c.arb.starvation := by
    cases reserved <;> rfl
  simp only [grantedArb, starve, hsame, Laws.PerPort.get_set]
  by_cases hq : q = p
  · simp [hq]
  · cases q <;> simp [hq, PerPort.get, Config.starvationLimit]

/-- The ports that a grant to `p` brings to the starvation limit join the reservation list (R95, R98). -/
theorem grantedArb_reservation (reserved : Bool) (p : Port) (d : DataRec) (c : Chip) :
    (grantedArb reserved p d c).reservation = (c.arb.reservation.filter fun q => q ≠ p) ++
      [Port.p0, .p1, .p2].filter fun q =>
        q ≠ p ∧ c.pageShort q = true ∧ 3 ≤ c.arb.starvation.get q ∧ q ∉ c.arb.reservation := by
  have hsame : (if reserved then c.arb else spendCredit p c.arb).starvation = c.arb.starvation := by
    cases reserved <;> rfl
  have hlist : (if reserved then c.arb else spendCredit p c.arb).reservation = c.arb.reservation := by
    cases reserved <;> rfl
  simp only [grantedArb, starve, hsame, hlist, Port.all]
  congr 1
  refine List.filter_congr fun q _ => ?_
  rw [Bool.eq_iff_iff, decide_eq_true_iff]
  have hlimit {a b e : Prop} [Decidable (a ∧ b)] (n : Nat) :
      (a ∧ b ∧ (if a ∧ b then min Config.starvationLimit (n + 1) else n) = Config.starvationLimit ∧ e) ↔
        a ∧ b ∧ 3 ≤ n ∧ e := by
    refine and_congr_right fun ha => and_congr_right fun hb => and_congr_left fun _ => ?_
    simp [ha, hb, Config.starvationLimit]
  cases q <;> simp [PerPort.get, and_assoc, hlimit]

/-- The slot that a grant takes, and no other. -/
theorem grantHead_slot (reserved : Bool) (p : Port) (t : Tag) (d : DataRec) (i j : SlotNo) (c : Chip) :
    (grantHead reserved p t d i c).slot j =
      if j = i then some { grantedSlot p t d c with
        phase := if d.kind = .write then .taken else .issued c.map.active.params.response }
      else c.slot j := by
  rw [grantHead_eq]
  by_cases hk : d.kind = .write
  · rw [if_pos hk]
    refine (slot_of_setSlot (i := i) (r := some (grantedSlot p t d c)) (d := takenByGrant reserved p d c) (by simp) j).trans ?_
    simp only [hk, if_true]
    rfl
  · have hop : ¬ (grantedSlot p t d c).op = .write := hk
    rw [if_neg hk, issuePort, if_neg hop]
    refine (slot_of_setSlot (i := i) (d := takenByGrant reserved p d c)
      (r := some { grantedSlot p t d c with phase := .issued c.map.active.params.response })
      (by simp [issueSlot]; rfl) j).trans ?_
    simp only [hk, if_false]
    rfl

theorem sendPort_sent (p : Port) (f : PFrame) (c : Chip) :
    (sendPort p f c).sent = c.sent ++ if (c.ports.get p).link = .up then [.toPort p f] else [] := by
  cases h : (c.ports.get p).link <;> simp [sendPort, h]

theorem sendMedia_sent (f : MFrame) (c : Chip) :
    (sendMedia f c).sent = c.sent ++ if c.mlink.link = .up then [.toMedia f] else [] := by
  cases h : c.mlink.link <;> simp [sendMedia, h]

theorem takenByGrant_link (reserved : Bool) (p q : Port) (d : DataRec) (c : Chip) :
    ((takenByGrant reserved p d c).ports.get q).link = (c.ports.get q).link := by
  simp only [takenByGrant, Laws.PerPort.get_modify]; split <;> rfl

/-- Settles O27: the blocks, the slot, the record and the frame of a grant. -/
theorem grantTakesEntrySlotAndPages : Obligations.GrantTakesEntrySlotAndPages := by
  unfold Obligations.GrantTakesEntrySlotAndPages
  intro reserved p tag d i c hd
  have hport : ((grantHead reserved p tag d i c).ports.get p).inFlight = (c.ports.get p).inFlight + 1 := by
    rw [grantHead_eq_of_record hd]
    split <;> simp [withRecord, takenByGrant]
  refine ⟨by rw [grantHead_arb, grantedArb_queues], by rw [grantHead_pool, Laws.need_eq], hport, by rw [grantHead_map],
    fun ho => ?_, ?_, ?_, fun j hj => ?_, fun hk => ?_, fun hk => ?_, fun hres => ?_, fun hres => ?_, ?_, fun q hq => ?_, ?_⟩
  · rw [grantHead_arb, grantedArb_ordered, if_pos ho, Laws.PerPort.get_set_self]
  · refine ⟨_, by rw [grantHead_slot, if_pos rfl], rfl, rfl, rfl, rfl, rfl, rfl, rfl, rfl, ?_, rfl⟩
    rw [← Laws.need_eq]; rfl
  · rw [grantHead_eq_of_record hd, dataRecord_eq_some]
    split
    · rw [record_congr (Laws.sendPort_ports ..), Laws.withRecord_record]
    · rw [Laws.withRecord_record]
  · rw [grantHead_slot, if_neg hj]
  · rw [grantHead_eq_of_record hd, if_pos hk, sendPort_sent, Laws.withRecord_link, Laws.withRecord_sent]
    rw [show ((setSlot i (some (grantedSlot p tag d c)) (takenByGrant reserved p d c)).ports.get p).link =
      (c.ports.get p).link from takenByGrant_link reserved p p d c]
    rfl
  · rw [grantHead_eq_of_record hd, if_neg hk, Laws.withRecord_sent, sendMedia_sent]
    rfl
  · rw [grantHead_arb, grantedArb_credit, grantedArb_pointer, if_pos hres, if_pos hres]
    exact ⟨rfl, rfl⟩
  · subst hres
    rw [grantHead_arb, grantedArb_credit, grantedArb_pointer]
    exact ⟨rfl, rfl⟩
  · rw [grantHead_arb, grantedArb_starvation, if_pos rfl]
  · rw [grantHead_arb, grantedArb_starvation, if_neg hq]
  · rw [grantHead_arb, grantedArb_reservation]

/-! ### Which slot, and to whom (R90 to R96) -/

theorem nextCredited_of_first {c : Chip} {p : Port} (h : FirstInTurn c c.arb.credit p) : c.nextCredited = some p := by
  obtain ⟨⟨helig, hcredit⟩, hturn⟩ := h
  have hmay {q : Port} (hq : ¬ (c.eligible q = true ∧ 0 < c.arb.credit.get q)) :
      (c.eligible q && decide (0 < c.arb.credit.get q)) = false := by
    rw [Bool.eq_false_iff]; simpa using hq
  have hp : (c.eligible p && decide (0 < c.arb.credit.get p)) = true := by simp [helig, hcredit]
  unfold Chip.nextCredited
  rcases hturn with rfl | ⟨rfl, h1⟩ | ⟨rfl, h1, h2⟩
  · simp [List.find?, hp]
  · simp only [List.find?, hmay h1, hp]
  · simp only [List.find?, hmay h1, hmay h2, hp]

theorem nextCredited_none {c : Chip} (h : ∀ p, c.eligible p = true → c.arb.credit.get p = 0) : c.nextCredited = none := by
  unfold Chip.nextCredited
  rw [List.find?_eq_none]
  intro p _ hp
  simp only [Bool.and_eq_true, decide_eq_true_eq] at hp
  have := h p hp.1
  omega

theorem eligible_of_nextCredited {c : Chip} {p : Port} (h : c.nextCredited = some p) : c.eligible p = true := by
  have := List.find?_some h
  simp only [Bool.and_eq_true] at this
  exact this.1

/-- An eligible head is at the front of its queue, and a slot is free for it. -/
theorem head_of_eligible {c : Chip} {p : Port} (h : c.eligible p = true) :
    ∃ t d i, c.headOf p = some (t, d) ∧ c.freeSlot = some i := by
  obtain ⟨t, d, hhead, hgrant, -⟩ := Laws.eligible_iff.1 h
  obtain ⟨i, hi⟩ := Option.isSome_iff_exists.1 (Laws.freeSlot_isSome.2 hgrant.2.2.1)
  exact ⟨t, d, i, hhead, hi⟩

theorem grantPort_of_head {c : Chip} {p : Port} {t : Tag} {d : DataRec} {i : SlotNo} (hh : c.headOf p = some (t, d))
    (hi : c.freeSlot = some i) (reserved : Bool) : grantPort reserved p c = some (grantHead reserved p t d i c) := by
  simp only [grantPort, hh, hi]

/-- Credits do not decide who is eligible. -/
theorem reloadCredits_eligible (c : Chip) (p : Port) : (reloadCredits c).eligible p = c.eligible p := rfl

theorem reloadCredits_headOf (c : Chip) (p : Port) : (reloadCredits c).headOf p = c.headOf p := rfl

theorem reloadCredits_freeSlot (c : Chip) : (reloadCredits c).freeSlot = c.freeSlot := rfl

/-- What a grant decision can be: the write of a waiting persist job, or the grant to an eligible head, after a reload of the
credits or without one (R93 to R96). -/
theorem grantDecision_cases {c d : Chip} (h : grantDecision c = some d) :
    c.cfg.bridge = .service ∧
      ((∃ j i, c.cfg.writer = .awaitingSlot j ∧ c.freeSlot = some i ∧ d = grantPersist j i c) ∨
        ∃ reserved p t r i c', (c' = c ∨ c' = reloadCredits c) ∧ c.eligible p = true ∧ c.headOf p = some (t, r) ∧
          c.freeSlot = some i ∧ d = grantHead reserved p t r i c') := by
  have granted {c' : Chip} {reserved : Bool} {p : Port} (hc : c' = c ∨ c' = reloadCredits c) (he : c.eligible p = true)
      (hg : grantPort reserved p c' = some d) :
      ∃ reserved p t r i c', (c' = c ∨ c' = reloadCredits c) ∧ c.eligible p = true ∧ c.headOf p = some (t, r) ∧
          c.freeSlot = some i ∧ d = grantHead reserved p t r i c' := by
    obtain ⟨t, r, i, hh, hi⟩ := head_of_eligible he
    refine ⟨reserved, p, t, r, i, c', hc, he, hh, hi, ?_⟩
    rw [grantPort_of_head (t := t) (d := r) (i := i) (by rcases hc with rfl | rfl <;> exact hh)
      (by rcases hc with rfl | rfl <;> exact hi)] at hg
    exact (Option.some.inj hg).symm
  unfold grantDecision at h
  split at h
  · rename_i hservice
    refine ⟨hservice, ?_⟩
    split at h
    · rename_i j i hw hi
      exact .inl ⟨j, i, hw, hi, (Option.some.inj h).symm⟩
    · right
      split at h
      · rename_i p rest hres
        split at h
        · rename_i he
          exact granted (.inl rfl) he h
        · cases h
      · unfold roundRobin at h
        split at h
        · rename_i p hp
          exact granted (.inl rfl) (eligible_of_nextCredited hp) h
        · split at h
          · obtain ⟨p, hp, hg⟩ := Option.bind_eq_some_iff.1 h
            exact granted (.inr rfl) (eligible_of_nextCredited (c := reloadCredits c) hp) hg
          · cases h
  · cases h

/-! ### The write of a persist job (R94, R165) -/

theorem copyBlock_congr {c c' : Chip} (h : c'.mlink = c.mlink) (x : Copy) : c'.copyBlock x = c.copyBlock x := by
  simp only [Chip.copyBlock, Chip.areaStart, h]

theorem grantPersist_slot (j : Job) (i n : SlotNo) (c : Chip) :
    (grantPersist j i c).slot n =
      if n = i then some { configSlot .write (c.copyBlock c.cfg.target) true with
        phase := .issued c.map.active.params.response }
      else c.slot n :=
  slot_of_setSlot (by simp [grantPersist, issueSlot, setSlot, copyBlock_congr (c := c)]) n

theorem grantPersist_sent (j : Job) (i : SlotNo) (c : Chip) (hup : c.mlink.link = .up) :
    (grantPersist j i c).sent = c.sent ++ [.toMedia (.command i .write true (c.copyBlock c.cfg.target) 1),
      .toMedia (.data i 0 (Block.ofBytes (encodeRecord (c.jobRecord j))))] := by
  unfold grantPersist issueSlot
  rw [sendMedia_sent, sendMedia_sent, if_pos, if_pos]
  · simp [configSlot, copyBlock_congr (c := c)]
  · simpa [setSlot] using hup
  · simpa [setSlot] using hup

theorem grantPersist_writeIssued (j : Job) (i : SlotNo) (c : Chip) : WriteIssued j i c (grantPersist j i c) := by
  have htarget := Laws.target_eq c.cfg
  unfold WriteIssued
  simp only [← htarget]
  refine ⟨c.jobRecord j, rfl, fun cfg hcfg => ?_, fun z => Laws.mem_jobRecord_holds, ?_,
    ⟨_, by rw [grantPersist_slot, if_pos rfl], rfl, rfl, rfl, rfl, rfl⟩, fun n hn => by rw [grantPersist_slot, if_neg hn],
    by simp, by simp, by simp, by simp, by simp, by simp, fun hup => grantPersist_sent j i c hup⟩
  · rcases hcfg with ⟨⟨id, rfl⟩, rfl⟩ | ⟨rfl, owner, hs⟩
    · rfl
    · simp only [Chip.jobRecord, Chip.jobConfig, hs]
  · unfold grantPersist setArea
    cases c.cfg.target <;> simp [issueSlot, Chip.jobRecord]

/-! ### The decisions of one event (R93) -/

/-- The slots that are FREE. -/
def freeSlots (c : Chip) : List SlotNo := allSlots.filter fun i => (c.slot i).isNone

theorem freeSlot_spec {c : Chip} {i : SlotNo} : c.freeSlot = some i ↔
    i.val < c.mlink.slotCount ∧ c.slot i = none ∧ ∀ j : SlotNo, j.val < i.val → c.slot j ≠ none := by
  have hsorted : allSlots.Pairwise fun a b => a.val < b.val := by decide
  unfold Chip.freeSlot
  rw [List.find?_eq_some_iff_append]
  constructor
  · rintro ⟨hi, before, after, hlist, hbefore⟩
    simp only [Bool.and_eq_true, decide_eq_true_eq, Option.isNone_iff_eq_none] at hi
    refine ⟨hi.1, hi.2, fun j hj hnone => ?_⟩
    have hmem : j ∈ before := by
      rcases List.mem_append.1 (hlist ▸ mem_allSlots j) with h | h
      · exact h
      · rcases List.mem_cons.1 h with rfl | h
        · omega
        · rw [hlist] at hsorted
          have := (List.pairwise_cons.1 (List.pairwise_append.1 hsorted).2.1).1 j h
          omega
    have := hbefore j hmem
    simp [hnone] at this
    omega
  · rintro ⟨hlt, hnone, hbefore⟩
    obtain ⟨before, after, hlist⟩ := List.append_of_mem (mem_allSlots i)
    refine ⟨by simp [hlt, hnone], before, after, hlist, fun j hj => ?_⟩
    rw [hlist] at hsorted
    have hj' := (List.pairwise_append.1 hsorted).2.2 j hj i (List.mem_cons_self ..)
    have := Option.isSome_iff_ne_none.2 (hbefore j hj')
    simp [this]

theorem freeSlot_free {c : Chip} {i : SlotNo} (h : c.freeSlot = some i) : c.slot i = none := (freeSlot_spec.1 h).2.1

/-- Every decision that grants takes a slot that was FREE, and frees none. -/
theorem grantDecision_slot {c d : Chip} (h : grantDecision c = some d) :
    ∃ i r, c.freeSlot = some i ∧ d.slot i = some r ∧ ∀ j, j ≠ i → d.slot j = c.slot j := by
  obtain ⟨-, ⟨j, i, -, hi, rfl⟩ | ⟨reserved, p, t, r, i, c', hc, -, -, hi, rfl⟩⟩ := grantDecision_cases h
  · exact ⟨i, _, hi, by rw [grantPersist_slot, if_pos rfl], fun j hj => by rw [grantPersist_slot, if_neg hj]⟩
  · refine ⟨i, _, hi, by rw [grantHead_slot, if_pos rfl], fun j hj => ?_⟩
    rw [grantHead_slot, if_neg hj]
    rcases hc with rfl | rfl <;> rfl

theorem freeSlots_decrease {c d : Chip} (h : grantDecision c = some d) : (freeSlots d).length < (freeSlots c).length := by
  obtain ⟨i, r, hi, htaken, hrest⟩ := grantDecision_slot h
  have hsub : freeSlots d = (freeSlots c).filter fun j => j ≠ i := by
    unfold freeSlots
    rw [List.filter_filter]
    refine List.filter_congr fun j _ => ?_
    by_cases hj : j = i
    · subst hj; simp [htaken]
    · simp [hj, hrest j hj]
  rw [hsub]
  refine List.length_filter_lt_length_iff_exists.2 ⟨i, ?_, by simp⟩
  simp [freeSlots, freeSlot_free hi]

theorem decides_decisions (n : Nat) (c : Chip) (h : (freeSlots c).length ≤ n) : Decides c (decisions n c) := by
  induction n generalizing c with
  | zero =>
    have hfull : c.freeSlot = none := by
      cases hf : c.freeSlot with
      | none => rfl
      | some i =>
        have : i ∈ freeSlots c := by simp [freeSlots, freeSlot_free hf]
        rw [List.length_eq_zero_iff.1 (Nat.le_zero.1 h)] at this
        cases this
    exact .done (Laws.grantDecision_none_of_full hfull)
  | succ n ih =>
    unfold decisions
    split
    · rename_i d hd
      have := freeSlots_decrease hd
      exact .more hd (ih d (by omega))
    · rename_i hd
      exact .done hd

theorem decides_arbitrate (c : Chip) : Decides c (arbitrate c) :=
  decides_decisions 16 c (List.length_filter_le _ _)

/-- Settles O26: eligibility, the slot, who is granted, and the end of the decisions. -/
theorem grantTakesTheLowestFreeSlot : Obligations.GrantTakesTheLowestFreeSlot := by
  unfold Obligations.GrantTakesTheLowestFreeSlot
  intro c
  refine ⟨fun i => freeSlot_spec, fun p tag d => Laws.headOf_iff, fun p => Laws.eligible_iff,
    fun p => Laws.pageShort_iff, fun h => by simp [grantDecision, h], fun j i => grantPersist_writeIssued j i c,
    decides_arbitrate c, fun hservice => ⟨fun j hw => ⟨fun i hi => ?_, fun hfull => ?_⟩, fun hw p rest hres => ?_, fun hw hres => ?_⟩⟩
  · simp [grantDecision, hservice, hw, hi]
  · exact Laws.grantDecision_none_of_full hfull
  · have hstep : grantDecision c = if c.eligible p then grantPort true p c else none := by
      simp only [grantDecision, hservice, if_true]
      split
      · rename_i j i hj _
        exact absurd hj (hw j)
      · simp only [hres]
    constructor
    · intro he
      simp [hstep, he]
    · intro he
      obtain ⟨t, d, i, hh, hi⟩ := head_of_eligible he
      exact ⟨t, d, i, hh, hi, by rw [hstep, if_pos he, grantPort_of_head hh hi]⟩
  · have hstep : grantDecision c = roundRobin c := by
      simp only [grantDecision, hservice, if_true]
      split
      · rename_i j i hj _
        exact absurd hj (hw j)
      · simp only [hres]
    refine ⟨fun hnone => ?_, fun p hfirst => ?_, fun hspent weights hweights p hfirst => ?_⟩
    · rw [hstep, roundRobin, nextCredited_none fun p hp => by rw [hnone p] at hp; cases hp]
      simp [hnone]
    · obtain ⟨t, d, i, hh, hi⟩ := head_of_eligible hfirst.1.1
      exact ⟨t, d, i, hh, hi, by
        rw [hstep, roundRobin, nextCredited_of_first hfirst]
        exact grantPort_of_head hh hi false⟩
    · obtain ⟨t, d, i, hh, hi⟩ := head_of_eligible hfirst.1.1
      have hloaded : reloadCredits c = { c with arb := { c.arb with credit := weights } } := by
        have : c.map.active.ports.map PortEntry.weight = weights := by
          obtain ⟨w0, w1, w2⟩ := weights
          have h0 := hweights .p0
          have h1 := hweights .p1
          have h2 := hweights .p2
          simp only [PerPort.get] at h0 h1 h2
          simp [PerPort.map, h0, h1, h2]
        simp [reloadCredits, Chip.modArb, this]
      have hany : Port.all.any c.eligible = true := List.any_eq_true.2 ⟨p, mem_portAll p, hfirst.1.1⟩
      refine ⟨t, d, i, hh, hi, ?_⟩
      rw [hstep, roundRobin, nextCredited_none hspent]
      simp only [hany, if_true, hloaded]
      rw [nextCredited_of_first (c := { c with arb := { c.arb with credit := weights } }) hfirst]
      exact grantPort_of_head (c := { c with arb := { c.arb with credit := weights } }) hh hi false

/-! ### A slot back at FREE (R119) -/

theorem length_insertPage (x : PageNo) (l : List PageNo) : (insertPage x l).length = l.length + 1 := by
  induction l with
  | nil => rfl
  | cons y l ih => unfold insertPage; split <;> simp [ih]

theorem length_foldr_insertPage (pages l : List PageNo) : (pages.foldr insertPage l).length = l.length + pages.length := by
  induction pages with
  | nil => rfl
  | cons x pages ih => simp [length_insertPage, ih]; omega

/-- What a port's slot held, given back, before the record kept by a CLOSING session is freed. -/
theorem freeSlot_eq {i : SlotNo} {p : Port} {w : WindowNo} {r : SlotRec} {c : Chip} (h : c.slot i = some r)
    (hh : r.holder = .port p) (hw : r.window = some w) :
    freeSlot i c = if c.isOpen p then released i p w r c else freeKept p i (released i p w r c) := by
  have e : returnPages r.pages (uncount p r (leaveWaits i (setSlot i none c))) = released i p w r c := by
    simp only [returnPages, uncount, leaveWaits, setSlot, Chip.modMlink, Chip.modHold, Chip.modPort, Chip.modPool, hw,
      modUsage, Chip.modMap, released]
    cases r.ordered <;> simp [Chip.modArb] <;> intro a _ <;> unfold noLonger <;> split <;> simp_all
  have ho : (released i p w r c).isOpen p = c.isOpen p := by simp [released, Chip.isOpen]
  unfold freeSlot
  rw [h]
  simp only [hh, e, ho]

theorem freeKept_inFlight (p q : Port) (i : SlotNo) (c : Chip) :
    ((freeKept p i c).ports.get q).inFlight = (c.ports.get q).inFlight := by
  unfold freeKept
  refine Laws.each_proj (fun c => (c.ports.get q).inFlight) _ (fun t c => ?_) _ _
  split
  · simp only [freeTag, setRecord, Chip.modPort, Laws.PerPort.get_modify]; split <;> rfl
  · rfl

/-- The blocks other than the ports, after a slot is freed, are those of `released`. -/
theorem freeSlot_released {i : SlotNo} {p : Port} {w : WindowNo} {r : SlotRec} {c : Chip} (h : c.slot i = some r)
    (hh : r.holder = .port p) (hw : r.window = some w) :
    (freeSlot i c).mlink = (released i p w r c).mlink ∧ (freeSlot i c).map = (released i p w r c).map ∧
      (freeSlot i c).arb = (released i p w r c).arb ∧ (freeSlot i c).pool = (released i p w r c).pool ∧
      (freeSlot i c).hold = (released i p w r c).hold := by
  rw [freeSlot_eq h hh hw]
  split <;> simp

theorem noLonger_not_mem {i : SlotNo} {h : Hold} {waits : List SlotNo} (hs : (noLonger i h).state = .pending waits) :
    i ∉ waits := by
  unfold noLonger at hs
  split at hs
  · cases hs
    simp
  · rename_i he; rw [he] at hs; cases hs
  · rename_i he; rw [he] at hs; cases hs

/-- Settles O28: slot, counts, mark, pages and wait sets. -/
theorem freedSlotGivesBackWhatItHeld : Obligations.FreedSlotGivesBackWhatItHeld := by
  unfold Obligations.FreedSlotGivesBackWhatItHeld
  intro i c p r w h hh hw
  obtain ⟨hmlink, hmap, harb, hpool, hhold⟩ := freeSlot_released h hh hw
  have hslot (j : SlotNo) : (freeSlot i c).slot j = if j = i then none else c.slot j :=
    slot_of_setSlot (i := i) (r := none) (d := c) (by rw [hmlink]; rfl) j
  refine ⟨by rw [hslot, if_pos rfl], fun j hj => by rw [hslot, if_neg hj], ?_, by rw [hmap]; rfl, ?_, ?_,
    fun x hx waits hs => ?_, by simp⟩
  · rw [freeSlot_eq h hh hw]
    split <;> simp [freeKept_inFlight, released]
  · rw [harb, released]
    cases r.ordered <;> simp
  · rw [hpool]
    exact length_foldr_insertPage ..
  · rw [hhold] at hx
    obtain ⟨y, -, rfl⟩ := List.mem_map.1 hx
    exact noLonger_not_mem hs

end Sys2Proof.Grants
end

section
/-! SUPPORT. Management requests at the control function, the hold unit and the map unit (chapter 9, R27, R140 to R147): the
checks that come before each, and the answers that change nothing but one part. -/

namespace Sys2Proof.Management

open Sys2Proof.Machine Sys2Proof.Safety Sys2Proof.Commands

/-! ### From the frame to the unit that takes it -/

/-- The unit that takes a management request of a kind; the other kinds have none. -/
def taker (waiting : List Instr) : ReqKind → Asked → Chip → Chip
  | .read | .write | .discard | .flush | .abort => fun _ => id
  | .mapRead => emptyList takeMapRead
  | .holdList => emptyList takeHoldList
  | .statusRead => emptyList takeStatusRead
  | .logRead => adminOnly (emptyList takeLogRead)
  | .logClear => adminOnly (emptyList takeLogClear)
  | .resetBridge => adminOnly (emptyList (takeResetBridge waiting))
  | .holdPlace => takeHoldPlace
  | .holdRelease => takeHoldRelease
  | .stageBegin => adminOnly takeStageBegin
  | .stageWindow => adminOnly (editing stageWindowParams fun x cfg =>
      edited { cfg with map := cfg.map.set x.1 (some x.2) })
  | .stageDrop => adminOnly (editing stageDropParams fun w cfg => edited { cfg with map := cfg.map.set w none })
  | .stagePort => adminOnly (editing stagePortParams fun x cfg => edited { cfg with ports := cfg.ports.set x.1 x.2 })
  | .stageParams => adminOnly (editing stageParamsParams fun x cfg => edited { cfg with params := x })
  | .stageRead => adminOnly takeStageRead
  | .stageAbandon => adminOnly (editing noParams fun _ _ a c => a.answer .ok [] (setStaging .empty c))
  | .commit => adminOnly (editing commitParams takeCommit)

/-- The management kinds (R181). -/
def managementKinds : List ReqKind :=
  [.mapRead, .holdList, .statusRead, .logRead, .logClear, .resetBridge, .holdPlace, .holdRelease, .stageBegin,
   .stageWindow, .stageDrop, .stagePort, .stageParams, .stageRead, .stageAbandon, .commit]

theorem action_ofRequest_management {k : ReqKind} (hk : k ∈ managementKinds) (waiting : List Instr) (p : Port)
    (r : Request) : action waiting (.ofRequest k p r) = toControl k p r (taker waiting k) := by
  cases k
  case read | write | discard | flush | abort => exact absurd hk (by decide)
  all_goals rfl

/-- The request as its unit takes it. -/
def asked (s : State) (p : Port) (t : Tag) (k : ReqKind) (ws : List Word) : Asked := ⟨p, t, k, privilegeOf s p, ws⟩

/-- The blocks with a management request HANDED (R58, R181). -/
def handed (s : State) (p : Port) (t : Tag) (k : ReqKind) (ws : List Word) : Chip :=
  withRecord p t (some (.handed k ws (some (privilegeOf s p)))) s.chip

section
variable {s : State} {p : Port} {r : Request} {ws : List Word}

/-- A management request does what its unit makes of it. -/
theorem does_of_taker {k : ReqKind} {d : Chip} (hr : Ready s p r.tag) (hc : Carries r ws) (hk : k ∈ managementKinds)
    (hd : taker s.pending k (asked s p r.tag k ws) (handed s p r.tag k ws) = d) : Does (.ofRequest k p r) s d := by
  obtain ⟨hcold, hrelease⟩ := ofRequest_ne_pin k p r
  refine does_of_action hr.1.1 hcold hrelease ?_
  rw [action_ofRequest_management hk, Laws.toControl_carries _ _ hr hc]
  exact hd

/-- The answer to a management request that has changed the blocks to `c`. -/
theorem asked_answer {c : Chip} (hr : Ready s p r.tag) (k : ReqKind) (o : Outcome) (d : List Word)
    (x : Option Record) (hports : c.ports = s.chip.ports) :
    (asked s p r.tag k ws).answer o d (withRecord p r.tag x c) = answered p r.tag o d c := by
  obtain ⟨⟨-, hup, hopen⟩, hfree⟩ := hr
  exact Laws.answer_handed (by rw [hports]; exact hopen) (by rw [hports]; exact hup) (by rw [hports]; exact hfree) ..

theorem asked_answer_handed (hr : Ready s p r.tag) (k : ReqKind) (o : Outcome) (d : List Word) :
    (asked s p r.tag k ws).answer o d (handed s p r.tag k ws) = answered p r.tag o d s.chip :=
  asked_answer hr k o d _ rfl

theorem asked_notPrivileged_handed (hr : Ready s p r.tag) (k : ReqKind) (w : Option WindowNo) :
    (asked s p r.tag k ws).notPrivileged w (handed s p r.tag k ws) =
      answered p r.tag .notPrivileged [] (logged p r.tag k w .notPrivileged none s.chip) := by
  obtain ⟨⟨-, hup, hopen⟩, hfree⟩ := hr
  exact Laws.notPrivileged_handed hopen hup hfree ..

theorem adminOnly_asked_admin (take : Asked → Chip → Chip) (k : ReqKind) (h : privilegeOf s p = .admin) (t : Tag) (c : Chip) :
    adminOnly take (asked s p t k ws) c = take (asked s p t k ws) c :=
  StageParamsProofs.adminOnly_admin take h c

theorem emptyList_nil (take : Asked → Chip → Chip) (k : ReqKind) (t : Tag) (c : Chip) :
    emptyList take (asked s p t k []) c = take (asked s p t k []) c := if_pos rfl

theorem emptyList_cons (take : Asked → Chip → Chip) (k : ReqKind) (hws : ws ≠ []) (t : Tag) (c : Chip) :
    emptyList take (asked s p t k ws) c = (asked s p t k ws).answer .badRequest [] c := if_neg hws

end

/-! ### Reads of one moment (R186 to R191, R195) -/

/-- A change of one port controller and a record under one of its tags stand side by side. -/
theorem modPort_withRecord {p : Port} {t : Tag} {x : Option Record} {c : Chip} {f : PortCtl → PortCtl}
    (hf : ∀ pc tags, f { pc with tags := tags } = { f pc with tags := tags }) (htags : ∀ pc, (f pc).tags = pc.tags) :
    (withRecord p t x c).modPort p f = withRecord p t x (c.modPort p f) := by
  have hcomm : (fun pc => f { pc with tags := pc.tags.set t x }) =
      fun pc => { f pc with tags := (f pc).tags.set t x } := by
    funext pc
    rw [hf, htags]
  simp only [withRecord, Chip.modPort, Laws.PerPort.modify_modify]
  rw [hcomm]

/-- The answer to a read that has changed the notices of its own port. -/
theorem does_read {s : State} {p : Port} {r : Request} {k : ReqKind} {o : Outcome} {d : List Word}
    {f : PortCtl → PortCtl} (hr : Ready s p r.tag) (hc : Carries r []) (hk : k ∈ managementKinds)
    (hf : ∀ pc tags, f { pc with tags := tags } = { f pc with tags := tags }) (htags : ∀ pc, (f pc).tags = pc.tags)
    (hlink : ∀ pc, (f pc).link = pc.link) (hsession : ∀ pc, (f pc).session = pc.session)
    (htake : taker s.pending k (asked s p r.tag k []) (handed s p r.tag k []) =
      (asked s p r.tag k []).answer o d ((handed s p r.tag k []).modPort p f)) :
    Does (.ofRequest k p r) s (answered p r.tag o d { s.chip with ports := s.chip.ports.modify p f }) := by
  refine does_of_taker hr hc hk (htake.trans ?_)
  obtain ⟨⟨-, hup, hopen⟩, hfree⟩ := hr
  rw [handed, modPort_withRecord hf htags]
  refine Laws.answer_handed ?_ ?_ ?_ .. <;> simp [Chip.modPort, hlink, hsession, htags, hup, hopen, hfree]

/-- MAP-READ's delivery of the epoch to a port with a record. -/
theorem deliver_epoch (p : Port) (c : Chip) : deliver p c.map.epoch c =
    c.modPort p fun pc => { pc with delivered := c.map.epoch, flags := { pc.flags with map := false } } := by
  unfold deliver compareEpoch
  rw [if_pos (by simp)]
  cases p <;> rfl

theorem clearFlag_eq (f : Flag) (p : Port) (c : Chip) :
    clearFlag f p c = c.modPort p fun pc => { pc with flags := pc.flags.set f false } := by
  cases p <;> rfl

theorem modPort_id (p : Port) (c : Chip) : c.modPort p id = c := by
  simp [Chip.modPort, Laws.PerPort.modify_eq_self]

/-- Settles O35: the four reads, each with its answer and its own notice. -/
theorem readRequestsAnswerTheStateOfOneMoment : Obligations.ReadRequestsAnswerTheStateOfOneMoment := by
  unfold Obligations.ReadRequestsAnswerTheStateOfOneMoment
  intro s p r hr hc
  refine ⟨does_read (k := .mapRead) hr hc (by decide) (fun _ _ => rfl) (fun _ => rfl) (fun _ => rfl) (fun _ => rfl) ?_,
    fun seen hseen => does_read (k := .holdList) hr hc (by decide) (fun _ _ => rfl) (fun _ => rfl) (fun _ => rfl)
      (fun _ => rfl) ?_,
    does_read (k := .statusRead) hr hc (by decide) (fun _ _ => rfl) (fun _ => rfl) (fun _ => rfl) (fun _ => rfl) ?_,
    fun hadmin => does_of_taker (k := .logRead) hr hc (by decide) ?_⟩
  · rw [taker, emptyList_nil, takeMapRead]
    have := deliver_epoch p (handed s p r.tag .mapRead [])
    exact congrArg _ this
  · rw [taker, emptyList_nil, takeHoldList, clearFlag_eq]
    have hfilter : (handed s p r.tag .holdList []).visibleHolds (asked s p r.tag .holdList []) =
        s.chip.hold.table.filter seen := by
      refine List.filter_congr fun h _ => ?_
      rw [Bool.eq_iff_iff, hseen h, ← HoldProofs.canSee_iff_sees]
      rfl
    rw [hfilter]
    rfl
  · rw [taker, emptyList_nil, takeStatusRead, clearFlag_eq]
    have hstatus : statusItems (handed s p r.tag .statusRead []) = statusItems s.chip := by
      have hcheck (q : Port) : ((handed s p r.tag .statusRead []).ports.get q).checkFails =
          (s.chip.ports.get q).checkFails := by
        simp only [handed, withRecord, Laws.PerPort.get_modify]; split <;> rfl
      have h0 := hcheck .p0
      have h1 := hcheck .p1
      have h2 := hcheck .p2
      simp only [PerPort.get] at h0 h1 h2
      simp only [statusItems, h0, h1, h2]
      rfl
    rw [hstatus]
    rfl
  · rw [taker, adminOnly_asked_admin _ _ hadmin, emptyList_nil]
    exact asked_answer_handed hr ..

/-! ### Lists and privileges (R182, R183) -/

/-- Settles O37: the form check of the kinds without parameters. -/
theorem requestsWithoutParametersRefuseAList : Obligations.RequestsWithoutParametersRefuseAList := by
  unfold Obligations.RequestsWithoutParametersRefuseAList
  intro s p r ws hr hc hws
  constructor
  · intro k hk
    simp only [List.mem_cons, List.not_mem_nil, or_false] at hk
    rcases hk with rfl | rfl | rfl <;>
      exact does_of_taker hr hc (by decide) ((emptyList_cons _ _ hws ..).trans (asked_answer_handed hr ..))
  · intro hadmin k hk
    simp only [List.mem_cons, List.not_mem_nil, or_false] at hk
    rcases hk with rfl | rfl | rfl <;>
      exact does_of_taker hr hc (by decide) ((adminOnly_asked_admin _ _ hadmin ..).trans
        ((emptyList_cons _ _ hws ..).trans (asked_answer_handed hr ..)))

/-- Every ADMIN kind is taken behind the privilege check (R182). -/
theorem taker_adminKinds {k : ReqKind} (hk : k ∈ adminKinds) (waiting : List Instr) :
    k ∈ managementKinds ∧ ∃ take, taker waiting k = adminOnly take := by
  simp only [adminKinds, List.mem_cons, List.not_mem_nil, or_false] at hk
  rcases hk with rfl | rfl | rfl | rfl | rfl | rfl | rfl | rfl | rfl | rfl | rfl <;> exact ⟨by decide, _, rfl⟩

theorem windowOfItem_iff (x : Word) (n : WindowNo) : windowOfItem x = some n ↔ x.toNat = n.val := by
  unfold windowOfItem
  split
  · constructor
    · intro h; cases h; rfl
    · intro h; exact congrArg some (Fin.ext h)
  · constructor
    · intro h; cases h
    · intro h; have := n.isLt; omega

/-- The window that the log shows, in the words of the statement (R86; log entry 23). -/
theorem loggedWindow_iff (k : ReqKind) (ws : List Word) (n : WindowNo) : loggedWindow k ws = some n ↔
    (k = .stageWindow ∨ k = .stageDrop) ∧ ∃ x rest, ws = x :: rest ∧ x.toNat = n.val := by
  unfold loggedWindow
  split
  · rename_i hk
    cases ws with
    | nil => simp
    | cons x rest => simp [hk, windowOfItem_iff]
  · rename_i hk
    simp [hk]

/-- Settles O38: the privilege check comes first, whatever the list. -/
theorem userIsRefusedTheAdminKinds : Obligations.UserIsRefusedTheAdminKinds := by
  unfold Obligations.UserIsRefusedTheAdminKinds
  intro s p r ws k w hr hc huser hk hw
  obtain ⟨hmanagement, take, htake⟩ := taker_adminKinds hk s.pending
  refine does_of_taker hr hc hmanagement ?_
  have hwindow : loggedWindow k ws = w := Option.ext fun n => (loggedWindow_iff k ws n).trans (hw n).symm
  rw [htake, LogClearProofs.adminOnly_user take huser]
  exact (asked_notPrivileged_handed hr k (loggedWindow k ws)).trans (by rw [hwindow])

/-! ### HOLD-PLACE refused (R26, R27) -/

section
variable {s : State} {p : Port} {r : Request} {ws : List Word} {q : PlaceParams}

theorem mayPlace_iff (t : Tag) : (handed s p t .holdPlace ws).mayPlace (asked s p t .holdPlace ws) q = true ↔ MayPlace s p q := by
  unfold Chip.mayPlace MayPlace
  simp only [Bool.or_eq_true, decide_eq_true_eq, Bool.and_eq_true]
  refine or_congr Iff.rfl (and_congr Iff.rfl ?_)
  rw [show (handed s p t .holdPlace ws).map = s.chip.map from rfl]
  cases s.chip.map.active.map.get q.window with
  | none => simp
  | some w =>
    simp only [Option.some.injEq, exists_eq_left']
    exact ⟨of_decide_eq_true, decide_eq_true⟩

theorem holdsFull_iff (t : Tag) (cls : HoldClass) :
    (handed s p t .holdPlace ws).holdsFull cls = true ↔ HoldsFull s cls := by
  simp only [Chip.holdsFull, HoldsFull, Bool.or_eq_true, decide_eq_true_eq, Bool.and_eq_true]
  rfl

/-- A placement in its form, from a port that may ask for it, is taken by the lookup and the verdict of its window. -/
theorem takeHoldPlace_of_mayPlace (t : Tag) (hq : PlaceList ws q) (hmay : MayPlace s p q) :
    takeHoldPlace (asked s p t .holdPlace ws) (handed s p t .holdPlace ws) =
      match s.chip.lookup q.window with
      | .noWindow => (asked s p t .holdPlace ws).answer .noWindow [] (handed s p t .holdPlace ws)
      | .busy => (asked s p t .holdPlace ws).answer .mapBusy [] (handed s p t .holdPlace ws)
      | .found w =>
        match (handed s p t .holdPlace ws).placeVerdict q w with
        | some o => (asked s p t .holdPlace ws).answer o [] (handed s p t .holdPlace ws)
        | none => createHold (asked s p t .holdPlace ws) q w (handed s p t .holdPlace ws) := by
  have hparams : placeParams (asked s p t .holdPlace ws).list = some q := (Laws.placeParams_eq_some ws q).2 hq
  simp only [takeHoldPlace, hparams, (mayPlace_iff t).2 hmay, Bool.not_true, Bool.false_eq_true, if_false] <;> rfl

/-- A placement on a window that is there and not changing goes on to the verdict of R27. -/
theorem takeHoldPlace_of_found (t : Tag) {w : Window} (hq : PlaceList ws q) (hmay : MayPlace s p q)
    (hw : s.chip.map.active.map.get q.window = some w) (hfree : ¬ Changing s q.window) :
    takeHoldPlace (asked s p t .holdPlace ws) (handed s p t .holdPlace ws) =
      match (handed s p t .holdPlace ws).placeVerdict q w with
      | some o => (asked s p t .holdPlace ws).answer o [] (handed s p t .holdPlace ws)
      | none => createHold (asked s p t .holdPlace ws) q w (handed s p t .holdPlace ws) := by
  rw [takeHoldPlace_of_mayPlace t hq hmay, Admission.lookup_found hw hfree]

end

/-- Settles O40: the form, then R27's five checks in their order. -/
theorem holdPlaceIsRefusedInOrder : Obligations.HoldPlaceIsRefusedInOrder := by
  unfold Obligations.HoldPlaceIsRefusedInOrder
  intro s p r ws hr hc
  have does {d : Chip} (hd : takeHoldPlace (asked s p r.tag .holdPlace ws) (handed s p r.tag .holdPlace ws) = d) :
      Does (.holdPlace p r) s d := does_of_taker (k := .holdPlace) hr hc (by decide) hd
  have refused {o : Outcome} (hd : takeHoldPlace (asked s p r.tag .holdPlace ws) (handed s p r.tag .holdPlace ws) =
      (asked s p r.tag .holdPlace ws).answer o [] (handed s p r.tag .holdPlace ws)) :
      Does (.holdPlace p r) s (answered p r.tag o [] s.chip) := does (hd.trans (asked_answer_handed hr ..))
  refine ⟨fun hbad => refused ?_, fun q hq => ⟨fun hno => ?_, fun hmay hnone => refused ?_, fun w hmay hw => ⟨fun hbusy => refused ?_, fun hfree => ?_⟩⟩⟩
  · have hparams : placeParams (asked s p r.tag .holdPlace ws).list = none := by
      rw [Option.eq_none_iff_forall_ne_some]
      exact fun q hq => hbad q ((Laws.placeParams_eq_some ws q).1 hq)
    simp only [takeHoldPlace, hparams]
  · refine does ?_
    have hparams : placeParams (asked s p r.tag .holdPlace ws).list = some q := (Laws.placeParams_eq_some ws q).2 hq
    have hmay : ¬ (handed s p r.tag .holdPlace ws).mayPlace (asked s p r.tag .holdPlace ws) q = true :=
      fun h => hno ((mayPlace_iff r.tag).1 h)
    simp only [takeHoldPlace, hparams, hmay, Bool.not_false, if_true]
    exact asked_notPrivileged_handed hr ..
  · rw [takeHoldPlace_of_mayPlace _ hq hmay, Admission.lookup_noWindow hnone]
  · rw [takeHoldPlace_of_mayPlace _ hq hmay, Admission.lookup_busy (by rw [hw]; simp) hbusy]
  · have verdict {o : Outcome} (hv : (handed s p r.tag .holdPlace ws).placeVerdict q w = some o) :
        Does (.holdPlace p r) s (answered p r.tag o [] s.chip) :=
      refused (by rw [takeHoldPlace_of_found _ hq hmay hw hfree, hv])
    have hbridge : (handed s p r.tag .holdPlace ws).cfg.bridge = s.chip.cfg.bridge := rfl
    refine ⟨fun hout => verdict ?_, fun hin => ⟨fun hfixed hexpiry => verdict ?_, fun hform => ?_⟩⟩
    · simp [Chip.placeVerdict, hout]
    · have : q.expiry.isSome = true := Option.isSome_iff_ne_none.2 hexpiry
      simp [Chip.placeVerdict, Nat.not_lt.2 hin, hfixed, this]
    · have hform' : ¬ (q.cls = .fixed ∧ q.expiry.isSome = true) := by
        rintro ⟨hf, he⟩
        rcases hform with h | h
        · exact h hf
        · simp [h] at he
      refine ⟨fun hfull => verdict ?_, fun hroom hfault => verdict ?_, fun hroom hrecover hfixed => verdict ?_⟩
      · simp [Chip.placeVerdict, Nat.not_lt.2 hin, hform', (holdsFull_iff r.tag q.cls).2 hfull]
      · have hroom' := fun h => hroom ((holdsFull_iff (ws := ws) (p := p) r.tag q.cls).1 h)
        simp only [Chip.placeVerdict, Nat.not_lt.2 hin, if_false, if_neg hform', if_neg hroom', hbridge, hfault, if_true]
      · have hroom' := fun h => hroom ((holdsFull_iff (ws := ws) (p := p) r.tag q.cls).1 h)
        simp only [Chip.placeVerdict, Nat.not_lt.2 hin, if_false, if_neg hform', if_neg hroom', hbridge, hrecover,
          reduceCtorEq]
        exact if_pos ⟨trivial, hfixed⟩

end Sys2Proof.Management
end

section
/-! SUPPORT. The cold reset and the passing of one millisecond (R38, R87, R104, R117, R127, R134, R150, R178). -/

namespace Sys2Proof.PinAndTime

open Sys2Proof.Machine Sys2Proof.Safety Sys2Proof.Commands Sys2Proof.Grants Sys2Proof.DataPath

/-! ### The cold reset -/

/-- What a cold reset does to the request under one tag. -/
def stopUnder (x : Port × Tag) (c : Chip) : Chip :=
  match (c.dataRecord x.1 x.2).map DataRec.stage with
  | some (.delivering pages) => stopDelivery x.1 x.2 pages c
  | _ => c

/-- The DATA frames of the delivery under one tag, if there is one. -/
def deliveryFrames (c : Chip) (x : Port × Tag) : List Sent :=
  match (c.dataRecord x.1 x.2).map DataRec.stage with
  | some (.delivering pages) => pageFrames (fun k b => .toPort x.1 (.data x.2 k b)) pages c.pool.content
  | _ => []

/-- Every tag of every port, ports and tags ascending. -/
def everyTag : List (Port × Tag) := Port.all.flatMap fun p => allTags.map fun t => (p, t)

theorem nodup_everyTag : everyTag.Nodup := by decide

theorem eachPort_stopDeliveries (c : Chip) : eachPort stopDeliveries c = each stopUnder everyTag c := by
  simp only [eachPort, stopDeliveries, each, everyTag, Port.all, List.flatMap_cons, List.flatMap_nil, List.append_nil,
    List.foldl_append, List.foldl_map]
  rfl

theorem stopDelivery_eq (p : Port) (t : Tag) (pages : List PageNo) (c : Chip) : stopDelivery p t pages c =
    { c with
      sent := c.sent ++ (pageFrames (fun k b => .toPort p (.data t k b)) pages c.pool.content).take
        (Config.framesSent c.free % pages.length)
      free := c.free + 1 } := by
  unfold stopDelivery emitData
  rw [Laws.each_sent (fun x => .toPort p (.data t x.2 (c.pool.content.get x.1)))]
  · unfold pageFrames
    rw [← List.map_take]
    rfl
  · intro a sent
    rfl

/-- The deliveries that stop send each a part of their frames, one after the other. -/
theorem each_stopUnder (l : List (Port × Tag)) (hl : l.Nodup) (c : Chip) :
    ∃ (gone : Port × Tag → Nat) (n : Nat),
      each stopUnder l c =
        { c with sent := c.sent ++ l.flatMap (fun x => (deliveryFrames c x).take (gone x)), free := n } ∧
      ∀ x d pages, c.dataRecord x.1 x.2 = some d → d.stage = .delivering pages → pages ≠ [] → gone x < pages.length := by
  induction l generalizing c with
  | nil => exact ⟨fun _ => 0, c.free, by simp [each], fun _ _ pages _ _ h => List.length_pos_iff.2 h⟩
  | cons x l ih =>
    obtain ⟨hx, hl'⟩ := List.nodup_cons.1 hl
    have hstep : ∃ k n, stopUnder x c = { c with sent := c.sent ++ (deliveryFrames c x).take k, free := n } ∧
        ∀ d pages, c.dataRecord x.1 x.2 = some d → d.stage = .delivering pages → pages ≠ [] → k < pages.length := by
      unfold stopUnder deliveryFrames
      cases hd : c.dataRecord x.1 x.2 with
      | none => exact ⟨0, c.free, by simp, fun d _ h => by cases h⟩
      | some d =>
        cases hs : d.stage with
        | delivering pages =>
          refine ⟨_, _, by simpa [hs] using stopDelivery_eq x.1 x.2 pages c, fun d' pages' h' hs' hne => ?_⟩
          cases h'
          rw [hs] at hs'
          cases hs'
          exact Nat.mod_lt _ (List.length_pos_iff.2 hne)
        | _ => exact ⟨0, c.free, by simp [hs], fun d' pages' h' hs' => by cases h'; rw [hs] at hs'; cases hs'⟩
    obtain ⟨k, n, hstop, hk⟩ := hstep
    obtain ⟨gone, m, heach, hgone⟩ := ih hl' { c with sent := c.sent ++ (deliveryFrames c x).take k, free := n }
    refine ⟨fun y => if y = x then k else gone y, m, ?_, fun y d pages hd hs hne => ?_⟩
    · have hrest : l.flatMap (fun y => (deliveryFrames c y).take (if y = x then k else gone y)) =
          l.flatMap (fun y => (deliveryFrames c y).take (gone y)) := by
        refine List.flatMap_congr fun y hy => ?_
        have hne : y ≠ x := fun h => hx (h ▸ hy)
        rw [if_neg hne]
      change each stopUnder l (stopUnder x c) = _
      rw [hstop, heach]
      simp only [List.flatMap_cons, if_true, hrest, ← List.append_assoc]
      rfl
    · by_cases hy : y = x
      · subst hy
        simpa using hk d pages hd hs hne
      · simpa [hy] using hgone y d pages hd hs hne

theorem flatMap_everyTag {α : Type} (f : Port × Tag → List α) :
    everyTag.flatMap f = [Port.p0, .p1, .p2].flatMap fun p => allTags.flatMap fun t => f (p, t) := by
  simp only [everyTag, Port.all, List.flatMap_assoc, List.flatMap_map]

/-- Settles O14: the deliveries stop one after the other, then every block is reset. -/
theorem coldResetSetsEveryBlock : Obligations.ColdResetSetsEveryBlock := by
  unfold Obligations.ColdResetSetsEveryBlock
  intro s
  obtain ⟨gone, n, heach, hgone⟩ := each_stopUnder everyTag nodup_everyTag s.chip
  refine ⟨_, fun p t => gone (p, t), rfl, rfl, rfl, ?_, fun p tag d pages => hgone (p, tag) d pages⟩
  have hcold : coldChip s.chip = { Chip.reset with
      sent := s.chip.sent ++ everyTag.flatMap fun x => (deliveryFrames s.chip x).take (gone x), free := n } := by
    simp only [coldChip, eachPort_stopDeliveries, heach]
  have hframes (p : Port) (tag : Tag) : (deliveryFrames s.chip (p, tag)).take (gone (p, tag)) =
      match (s.chip.dataRecord p tag).map DataRec.stage with
      | some (.delivering pages) =>
        (pageFrames (fun k x => .toPort p (.data tag k x)) pages s.chip.pool.content).take (gone (p, tag))
      | _ => [] := by
    unfold deliveryFrames
    rcases (s.chip.dataRecord p tag).map DataRec.stage with _ | (_ | _ | _ | _ | _) <;> simp only [List.take_nil]
  simp only [hcold, flatMap_everyTag, hframes] <;> rfl

theorem coldChip_quiet (c : Chip) :
    coldChip c = { Chip.reset with sent := (coldChip c).sent, free := (coldChip c).free } := by
  unfold coldChip
  generalize eachPort stopDeliveries c = d
  rfl

/-- Settles O5: while RSTn is low only a cold reset changes the blocks, and it resets them. -/
theorem stepKeepsResetValuesWhileRstnIsLow : Obligations.StepKeepsResetValuesWhileRstnIsLow := by
  unfold Obligations.StepKeepsResetValuesWhileRstnIsLow
  intro s t hquiet hstep hlow
  rcases step_cases hstep with ⟨-, rfl⟩ | ⟨i, rest, -, ⟨-, rfl⟩ | ⟨-, -, rfl⟩ | ⟨-, -, hhigh, rfl⟩ | ⟨-, rfl, -⟩⟩
  · have hs : s.rstn = .low := by
      rcases rstn_cases s with h | h
      · exact h
      · simp [tick, h] at hlow
    have htick : tick s = s := by simp only [tick, hs]
    rw [htick]
    exact hquiet hs
  · exact coldChip_quiet s.chip
  · cases hlow
  · exact absurd (hhigh.symm.trans hlow) (by decide)
  · exact hquiet hlow

/-! ### One millisecond -/

theorem tableMap_get {n : Nat} {α : Type} (f : α → α) (t : Table n α) (i : Fin n) :
    (tableMap f t).get i = f (t.get i) := by
  simp [tableMap, Table.get]

theorem perPort_map_get {α β : Type} (f : α → β) (t : PerPort α) (p : Port) : (t.map f).get p = f (t.get p) := by
  cases p <;> rfl

theorem mem_dueTransfers {c : Chip} {p : Port} {i : Instr} : i ∈ c.dueTransfers p ↔
    ∃ tag d n got, i = .transferTimeout p tag ∧ c.dataRecord p tag = some d ∧ d.stage = .granted n got 1 := by
  unfold Chip.dueTransfers
  simp only [List.mem_map, List.mem_filter, mem_allTags, true_and]
  constructor
  · rintro ⟨tag, htag, rfl⟩
    split at htag
    · rename_i n got left hstage
      obtain ⟨d, hd, hs⟩ := Option.map_eq_some_iff.1 hstage
      exact ⟨tag, d, n, got, rfl, hd, by rw [hs, of_decide_eq_true htag]⟩
    · cases htag
  · rintro ⟨tag, d, n, got, rfl, hd, hs⟩
    exact ⟨tag, by simp [hd, hs], rfl⟩

theorem mem_dueResponses {c : Chip} {i : Instr} : i ∈ c.dueResponses ↔
    ∃ n r, i = .responseTimerExpiry n ∧ c.slot n = some r ∧ r.phase = .issued 1 := by
  unfold Chip.dueResponses
  simp only [List.mem_map, List.mem_filter, mem_allSlots, true_and, decide_eq_true_eq, Option.map_eq_some_iff]
  constructor
  · rintro ⟨n, ⟨r, hr, hp⟩, rfl⟩
    exact ⟨n, r, rfl, hr, hp⟩
  · rintro ⟨n, r, rfl, hr, hp⟩
    exact ⟨n, ⟨r, hr, hp⟩, rfl⟩

theorem mem_dueAbandons {c : Chip} {i : Instr} : i ∈ c.dueAbandons ↔
    ∃ n r cause, i = .abandonTimerExpiry n ∧ c.slot n = some r ∧ r.phase = .abandoning cause 1 := by
  unfold Chip.dueAbandons
  simp only [List.mem_map, List.mem_filter, mem_allSlots, true_and]
  constructor
  · rintro ⟨n, hn, rfl⟩
    split at hn
    · rename_i cause left hphase
      obtain ⟨r, hr, hp⟩ := Option.map_eq_some_iff.1 hphase
      exact ⟨n, r, cause, rfl, hr, by rw [hp, of_decide_eq_true hn]⟩
    · cases hn
  · rintro ⟨n, r, cause, rfl, hr, hp⟩
    exact ⟨n, by simp [hr, hp], rfl⟩

theorem mem_dueAttempt {c : Chip} {i : Instr} : i ∈ c.dueAttempt ↔
    ∃ step, i = .attemptLimitExpiry ∧ c.mlink.bringUp = .attempt step 1 := by
  unfold Chip.dueAttempt
  split
  · rename_i step h
    simp [h]
  · rename_i h
    simpa using fun _ => h

theorem mem_dueDrain {c : Chip} {i : Instr} : i ∈ c.dueDrain ↔
    ∃ info, i = .drainLimitExpiry ∧ c.map.commit = .draining info 1 := by
  unfold Chip.dueDrain
  split
  · rename_i info h
    simp [h]
  · rename_i h
    simpa using fun _ => h

theorem mem_dueHolds {c : Chip} {i : Instr} : i ∈ c.dueHolds ↔
    ∃ h ∈ c.hold.table, i = .holdExpiry h.id ∧ h.state = .active (some 1) := by
  unfold Chip.dueHolds
  simp only [List.mem_map, List.mem_filter, decide_eq_true_eq]
  constructor
  · rintro ⟨h, ⟨hm, hs⟩, rfl⟩
    exact ⟨h, hm, rfl, hs⟩
  · rintro ⟨h, hm, rfl, hs⟩
    exact ⟨h, ⟨hm, hs⟩, rfl⟩

theorem mem_due_iff (s : State) (i : Instr) : i ∈ s.chip.due ↔ TimerEnds s i := by
  simp only [Chip.due, List.mem_append, List.mem_flatMap, mem_portAll, true_and, mem_dueTransfers, mem_dueResponses,
    mem_dueAbandons, mem_dueAttempt, mem_dueDrain, mem_dueHolds, TimerEnds, or_assoc]

theorem holdTick_eq (h : Hold) : { h with state := h.state.tick } =
    match h.state with
    | .active (some ms) => { h with state := .active (some (ms - 1)) }
    | .active none | .pending _ | .persisting => h := by
  obtain ⟨id, cls, scope, range, owner, expiry, state, answerTo⟩ := h
  rcases state with _ | _ | (_ | _) <;> rfl

theorem slotTick_eq (r : SlotRec) : { r with phase := r.phase.tick } =
    match r.phase with
    | .issued left => { r with phase := .issued (left - 1) }
    | .abandoning cause left => { r with phase := .abandoning cause (left - 1) }
    | .taken => r := by
  obtain ⟨phase, _⟩ := r
  cases phase <;> rfl

theorem recordTick_eq (x : Option Record) : x.map Record.tick =
    match x with
    | some (.data d) =>
      match d.stage with
      | .granted n got left => some (.data { d with stage := .granted n got (left - 1) })
      | .admitted | .issued _ | .abandoning _ _ | .delivering _ => some (.data d)
    | some (.handed k ws v) => some (.handed k ws v)
    | none => none := by
  rcases x with _ | (d | _)
  · rfl
  · obtain ⟨_, _, _, _, _, _, _, _, _, _, stage⟩ := d
    cases stage <;> rfl
  · rfl

theorem tickChip_record (c : Chip) (p : Port) (tag : Tag) : (tickChip c).record p tag = (c.record p tag).map Record.tick := by
  simp [tickChip, Chip.record, perPort_map_get, tableMap_get]

theorem tickChip_slot (c : Chip) (n : SlotNo) :
    (tickChip c).slot n = (c.slot n).map fun r => { r with phase := r.phase.tick } := by
  simp [tickChip, Chip.slot, tableMap_get]

/-- Settles O2: the blocks after one millisecond, and the expiry commands it puts into the queue. -/
theorem emptyQueueStepIsOneMillisecond : Obligations.EmptyQueueStepIsOneMillisecond := by
  unfold Obligations.EmptyQueueStepIsOneMillisecond
  intro s hempty
  refine ⟨fun hlow => by simp [step, hempty, tick, hlow], fun hhigh => ?_⟩
  refine ⟨{ s with chip := tickChip s.chip, pending := s.pending ++ s.chip.due }, by simp [step, hempty, tick, hhigh],
    hhigh, rfl, rfl, rfl, rfl, ?_, ?_, ?_, fun p tag => ?_, fun p => ?_, fun n => ?_, ?_, fun i => ?_⟩
  · simp only [tickChip]
    split <;> rfl
  · simp only [tickChip]
    cases s.chip.map.commit <;> rfl
  · simp only [tickChip, holdTick_eq] <;> rfl
  · rw [tickChip_record, recordTick_eq] <;> rfl
  · simp [tickChip, perPort_map_get]
  · simp only [tickChip_slot, slotTick_eq] <;> rfl
  · simp only [tickChip]
    cases s.chip.mlink.bringUp <;> rfl
  · simp only [hempty, List.nil_append]
    exact mem_due_iff s i

end Sys2Proof.PinAndTime
end

section
/-! SUPPORT. What every operation keeps: a property of the blocks that each single change keeps is kept by every operation
that is made of them, up to the action of a whole command. -/

namespace Sys2Proof.Keeping

open Sys2Proof.Machine Sys2Proof.Safety Sys2Proof.Commands

/-! ### The single changes -/

/-- No session is OPEN. -/
def NoneOpen (c : Chip) : Prop := ∀ p, (c.ports.get p).session ≠ .opened

/-- The counts of the M-link controller stay or go up by one, saturating. -/
def CountsOn (m m' : MlinkCtl) : Prop :=
  (m'.lateCompletions = m.lateCompletions ∨
      m'.lateCompletions = saturatingSucc Config.saturate16 m.lateCompletions) ∧
    (m'.recoveries = m.recoveries ∨ m'.recoveries = saturatingSucc Config.saturate8 m.recoveries) ∧
    (m'.checkFails = m.checkFails ∨ m'.checkFails = saturatingSucc Config.saturate16 m.checkFails)

/-- Jobs, writer, copies and marks may change; the bridge state, the start-up step and the reset mark stay, and under the
mark the writer does not come to wait for a slot. -/
def JobsOnly (u u' : ConfigUnit) : Prop :=
  u'.bridge = u.bridge ∧ u'.step = u.step ∧ u'.resetMark = u.resetMark ∧
    ∀ j, u'.writer = .awaitingSlot j → u.writer = .awaitingSlot j ∨ u.resetMark = false

/-- A record that the bridge loads: the factory one, or one read from a block. -/
def Loadable (r : ConfigRecord) : Prop := r = factoryRecord ∨ ∃ cap b, readRecord cap b = some r

/-- In a table of different ids, the record that `h` takes the place of is of the class of `h`. -/
def SameClass (c : Chip) (h : Hold) : Prop :=
  (c.hold.table.Pairwise fun a b => a.id < b.id) → ∀ x ∈ c.hold.table, x.id = h.id → x.cls = h.cls

/-- The first part of a swap: the staged configuration installed, and MAP compared at every OPEN session (R153). -/
def swapped (cfg : Configuration) (c : Chip) : Chip :=
  eachPort (fun p c => if c.isOpen p then compareEpoch p c else c)
    (reloadCredits (c.modMap fun m =>
      { m with active := cfg, epoch := m.epoch + 1, staging := .empty, commit := .idle }))

/-- The first part of an entry to START: the configuration unit and the map unit (R173). -/
def started (c : Chip) : Chip :=
  (c.modCfg fun _ => ConfigUnit.reset).modMap fun m =>
    { m with active := factory, epoch := 0#32, staging := .empty, commit := .idle }

/-- The first part of a load: map, holds, and the configuration unit (R177). -/
def loadedInto (x : Option Copy) (r : ConfigRecord) (c : Chip) : Chip :=
  ((c.modMap fun m => { m with active := r.config, epoch := 1#32 }).modHold fun u =>
      { table := loadedTable c.areaStart r.holds u.table
        nextId := idAfter ((r.holds.map StoredHold.id).foldl max 0) }).modCfg fun u =>
    { u with current := x, generation := r.generation, step := none, bridge := .service }

/-- The same of every record of a list, and between the records of the list. -/
def SameClasses (c : Chip) (l : List Hold) : Prop :=
  (c.hold.table.Pairwise fun a b => a.id < b.id) →
    ∀ h ∈ l, (∀ x ∈ c.hold.table, x.id = h.id → x.cls = h.cls) ∧ ∀ x ∈ l, x.id = h.id → x.cls = h.cls

/-- A property that every single change of the blocks keeps, however small. -/
structure KeptFine (P : Chip → Prop) : Prop where
  frames : ∀ {c : Chip} (x : List Sent) (n : Nat), P c → P { c with sent := x, free := n }
  tags : ∀ {c : Chip} (p : Port) (f : Table 32 (Option Record) → Table 32 (Option Record)),
    P c → P (c.modPort p fun pc => { pc with tags := f pc.tags })
  inFlight : ∀ {c : Chip} (p : Port) (f : Nat → Nat),
    P c → P (c.modPort p fun pc => { pc with inFlight := f pc.inFlight })
  raised : ∀ {c : Chip} (f : Flag) (p : Port), f ≠ .map → (c.ports.get p).session = .opened →
    P c → P (setFlags p ((c.ports.get p).flags.set f true) c)
  cleared : ∀ {c : Chip} (f : Flag) (p : Port), f ≠ .map → P c → P (clearFlag f p c)
  delivered : ∀ {c : Chip} (p : Port), P c → P (deliver p c.map.epoch c)
  left : ∀ {c : Chip} (reason : CloseReason) (p : Port), P c → P (leaveOpen reason p c)
  closed : ∀ {c : Chip} (reason : CloseReason) (p : Port), (c.ports.get p).session = .closing reason →
    P c → P (c.modPort p fun pc => { pc with session := .down })
  usage : ∀ {c : Chip} (w : WindowNo) (f : Usage → Usage), P c → P (modUsage w f c)
  commit : ∀ {c : Chip} (x : Staging) (y : Commit),
    P c → P { c with map := { c.map with staging := x, commit := y } }
  swapped : ∀ {c : Chip} (cfg : Configuration), P c → P (swapped cfg c)
  holds : ∀ {c : Chip} (f : Hold → Hold), (∀ h, (f h).id = h.id ∧ (f h).cls = h.cls) →
    P c → P (c.modHold fun u => { u with table := u.table.map f })
  fewerHolds : ∀ {c : Chip} (f : Hold → Bool), P c → P (c.modHold fun u => { u with table := u.table.filter f })
  oneChanged : ∀ {c : Chip} (h : Hold), SameClass c h → P c → P (setHold h c)
  oneHold : ∀ {c : Chip} (h : Hold), c.holdsFull h.cls = false →
    h.id = freeId c.hold.table.length c.hold.nextId c.hold.table →
    P c → P (c.modHold fun u => { table := insertHold h u.table, nextId := idAfter h.id })
  arb : ∀ {c : Chip} (a : Arbiter), P c → P { c with arb := a }
  pool : ∀ {c : Chip} (x : PagePool), P c → P { c with pool := x }
  mlink : ∀ {c : Chip} (m : MlinkCtl), CountsOn c.mlink m → P c → P { c with mlink := m }
  jobs : ∀ {c : Chip} (u : ConfigUnit), JobsOnly c.cfg u → P c → P { c with cfg := u }
  advanced : ∀ {c : Chip} (x : StartStep), c.cfg.step ≠ none → P c → P (setStep x c)
  recovering : ∀ {c : Chip}, c.cfg.bridge = .service →
    P c → P (c.modCfg fun u => { u with bridge := .recover })
  serving : ∀ {c : Chip}, c.cfg.bridge = .recover →
    P c → P (c.modCfg fun u => { u with bridge := .service })
  faulted : ∀ {c : Chip},
    P c → P (c.modCfg fun u => { u with bridge := .fault, step := none, queue := [], writer := .idle })
  started : ∀ {c : Chip}, NoneOpen c → P c → P (started c)
  loaded : ∀ {c : Chip} (x : Option Copy) (r : ConfigRecord), c.cfg.step = some .readB → Loadable r →
    P c → P (loadedInto x r c)
  refused : ∀ {c : Chip} (p : Port) (t : Tag) (k : ReqKind) (w : Option WindowNo) (o : Outcome) (b : Option Nat),
    P c → P (logRefusal p t k w o b c)
  emptied : ∀ {c : Chip}, P c → P (c.modCtl fun f => { f with log := [], overflow := 0 })
  failed : ∀ {c : Chip},
    P c → P (c.modCtl fun f => { f with persistFailures := saturatingSucc Config.saturate8 f.persistFailures })
  logTime : ∀ {c : Chip} (x : Word), P c → P (c.modCtl fun f => { f with logTime := x })

/-- A slot record with the holder, the window and the pages of another (R117). -/
def SameLoan (r r' : SlotRec) : Prop := r'.holder = r.holder ∧ r'.window = r.window ∧ r'.pages = r.pages

/-- A request put behind its queue (R80). -/
def enqueued (p : Port) (t : Tag) (d : DataRec) (c : Chip) : Chip :=
  modUsage d.window (fun u => { u with queued := u.queued + 1 })
    ((setRecord p t (some (.data d)) c).modArb fun a => { a with queues := a.queues.modify p (· ++ [t]) })

/-- A READ whose slot is free and whose pages go with its record (R66). -/
def handedOver (p : Port) (t : Tag) (i : SlotNo) (r : SlotRec) (c : Chip) : Chip :=
  setStage p t (.delivering r.pages) (freeSlot i (setSlot i (some { r with pages := [] }) c))

/-- A property that what follows when counts fall keeps: answers, notices, holds, the commit and the jobs. -/
structure KeptSettling (P : Chip → Prop) : Prop where
  responded : ∀ {c : Chip} (p : Port) (t : Tag) (o : Outcome) (d : List Word), (c.ports.get p).session = .opened →
    P c → P (freeTag p t (reply p t o d c))
  raised : ∀ {c : Chip} (f : Flag) (p : Port), f ≠ .map → (c.ports.get p).session = .opened → P c → P (raiseFlag f p c)
  delivered : ∀ {c : Chip} (p : Port), P c → P (deliver p c.map.epoch c)
  commit : ∀ {c : Chip} (x : Staging) (y : Commit),
    P c → P { c with map := { c.map with staging := x, commit := y } }
  swapped : ∀ {c : Chip} (cfg : Configuration), P c → P (swapped cfg c)
  holds : ∀ {c : Chip} (f : Hold → Hold), (∀ h, (f h).id = h.id ∧ (f h).cls = h.cls) →
    P c → P (c.modHold fun u => { u with table := u.table.map f })
  fewerHolds : ∀ {c : Chip} (f : Hold → Bool), P c → P (c.modHold fun u => { u with table := u.table.filter f })
  oneChanged : ∀ {c : Chip} (h : Hold), SameClass c h → P c → P (setHold h c)
  jobs : ∀ {c : Chip} (u : ConfigUnit), JobsOnly c.cfg u → P c → P { c with cfg := u }
  failed : ∀ {c : Chip},
    P c → P (c.modCtl fun f => { f with persistFailures := saturatingSucc Config.saturate8 f.persistFailures })

/-- One that slots and queue places given back, the ends of CLOSING sessions and grants keep too. -/
structure KeptConcluding (P : Chip → Prop) : Prop extends KeptSettling P where
  closed : ∀ {c : Chip} (reason : CloseReason) (p : Port), (c.ports.get p).session = .closing reason →
    P c → P (sendPort p (.closed reason) (c.modPort p fun pc => { pc with session := .down }))
  granted : ∀ {c d : Chip}, grantDecision c = some d → P c → P d
  dequeued : ∀ {c : Chip} (p : Port) (t : Tag), P c → P (dequeue p t c)
  freedSlot : ∀ {c : Chip} (i : SlotNo), P c → P (freeSlot i c)
  arb : ∀ {c : Chip} (a : Arbiter), a.queues = c.arb.queues → P c → P { c with arb := a }

/-- One that the changes of the bridge state keep too, but for a bridge reset. -/
structure KeptRunning (P : Chip → Prop) : Prop extends KeptConcluding P where
  media : ∀ {c : Chip} (f : MFrame), P c → P (sendMedia f c)
  mlink : ∀ {c : Chip} (m : MlinkCtl), m.slots = c.mlink.slots → CountsOn c.mlink m → P c → P { c with mlink := m }
  copyRead : ∀ {c : Chip} (x : Copy), P c → P (readCopy x c)
  advanced : ∀ {c : Chip} (x : StartStep), c.cfg.step ≠ none → P c → P (setStep x c)
  recovering : ∀ {c : Chip}, c.cfg.bridge = .service →
    P c → P (c.modCfg fun u => { u with bridge := .recover })
  serving : ∀ {c : Chip}, c.cfg.bridge = .recover →
    P c → P (c.modCfg fun u => { u with bridge := .service })
  faulted : ∀ {c : Chip},
    P c → P (c.modCfg fun u => { u with bridge := .fault, step := none, queue := [], writer := .idle })
  loaded : ∀ {c : Chip} (x : Option Copy) (r : ConfigRecord), c.cfg.step = some .readB → Loadable r →
    P c → P (loadedInto x r c)
  logTime : ∀ {c : Chip} (x : Word), P c → P (c.modCtl fun f => { f with logTime := x })

/-- One that the end of a session of a port of `O` keeps too. -/
structure KeptEnding (P : Chip → Prop) (O : Port → Prop := fun _ => True) : Prop extends KeptConcluding P where
  left : ∀ {c : Chip} (reason : CloseReason) (p : Port), O p → P c → P (leaveOpen reason p c)
  freed : ∀ {c : Chip} (p : Port) (t : Tag), P c → P (freeTag p t c)
  keptSlot : ∀ {c : Chip} (i : SlotNo) {r r' : SlotRec}, c.slot i = some r → SameLoan r r' →
    P c → P (setSlot i (some r') c)
  stopped : ∀ {c : Chip} (p : Port) (t : Tag) (pages : List PageNo), O p → P c → P (stopDelivery p t pages c)
  deliveryEnded : ∀ {c : Chip} (p : Port) (t : Tag) {d : DataRec} {pages : List PageNo}, c.dataRecord p t = some d →
    d.stage = .delivering pages → P c → P (freeTag p t (returnPages pages c))
  taken : ∀ {c : Chip}, P c → P c.takeFree

/-- One that a bridge reset and a link recovery keep too. -/
structure KeptReset (P : Chip → Prop) : Prop extends KeptRunning P, KeptEnding P where
  started : ∀ {c : Chip}, NoneOpen c → P c → P (started c)
  merged : ∀ {c d : Chip} (n : Nat), P c → P d → P { c with sent := d.sent, free := n }

/-- One that the requests and the frames of an event keep, whatever frames go out. -/
structure KeptInEvent (P : Chip → Prop) : Prop extends KeptEnding P where
  frames : ∀ {c : Chip} (x : List Sent) (n : Nat), P c → P { c with sent := x, free := n }
  handed : ∀ {c : Chip} (p : Port) (t : Tag) (k : ReqKind) (ws : List Word) (v : Option Privilege),
    P c → P (setRecord p t (some (.handed k ws v)) c)
  staged : ∀ {c : Chip} (p : Port) (t : Tag) (s : Stage), (∀ pages, s ≠ .delivering pages) → P c → P (setStage p t s c)
  cleared : ∀ {c : Chip} (f : Flag) (p : Port), f ≠ .map → P c → P (clearFlag f p c)
  enqueued : ∀ {c : Chip} (p : Port) (t : Tag) (d : DataRec), d.stage = .admitted → P c → P (enqueued p t d c)
  filled : ∀ {c : Chip} (x : PageNo) (b : Block), P c → P (fillPage x b c)
  handedOver : ∀ {c : Chip} (p : Port) (t : Tag) (i : SlotNo) {r : SlotRec}, c.slot i = some r →
    P c → P (handedOver p t i r c)
  oneHold : ∀ {c : Chip} (h : Hold), c.holdsFull h.cls = false →
    h.id = freeId c.hold.table.length c.hold.nextId c.hold.table →
    P c → P (c.modHold fun u => { table := insertHold h u.table, nextId := idAfter h.id })
  refused : ∀ {c : Chip} (p : Port) (t : Tag) (k : ReqKind) (w : Option WindowNo) (o : Outcome) (b : Option Nat),
    P c → P (logRefusal p t k w o b c)
  emptied : ∀ {c : Chip}, P c → P (c.modCtl fun f => { f with log := [], overflow := 0 })

/-- A property that every change keeps. The changes that a command of the pin, a report of a P-link and an accepted OPEN make
are not among them. -/
structure Kept (P : Chip → Prop) : Prop extends KeptReset P, KeptInEvent P

/-- A property that the frames sent do not matter to, and that the changes of tags and queues, slots, pages, holds, the commit,
the jobs and the bridge state keep. -/
structure KeptCoarse (P : Chip → Prop) : Prop where
  frames : ∀ {c : Chip} (x : List Sent) (n : Nat), P c → P { c with sent := x, free := n }
  freed : ∀ {c : Chip} (p : Port) (t : Tag), P c → P (freeTag p t c)
  handed : ∀ {c : Chip} (p : Port) (t : Tag) (k : ReqKind) (ws : List Word) (v : Option Privilege),
    P c → P (setRecord p t (some (.handed k ws v)) c)
  staged : ∀ {c : Chip} (p : Port) (t : Tag) (s : Stage), (∀ pages, s ≠ .delivering pages) → P c → P (setStage p t s c)
  raised : ∀ {c : Chip} (f : Flag) (p : Port), f ≠ .map → (c.ports.get p).session = .opened →
    P c → P (setFlags p ((c.ports.get p).flags.set f true) c)
  cleared : ∀ {c : Chip} (f : Flag) (p : Port), f ≠ .map → P c → P (clearFlag f p c)
  delivered : ∀ {c : Chip} (p : Port), P c → P (deliver p c.map.epoch c)
  left : ∀ {c : Chip} (reason : CloseReason) (p : Port), P c → P (leaveOpen reason p c)
  closed : ∀ {c : Chip} (reason : CloseReason) (p : Port), (c.ports.get p).session = .closing reason →
    P c → P (c.modPort p fun pc => { pc with session := .down })
  dequeued : ∀ {c : Chip} (p : Port) (t : Tag), P c → P (dequeue p t c)
  enqueued : ∀ {c : Chip} (p : Port) (t : Tag) (d : DataRec), d.stage = .admitted → P c → P (enqueued p t d c)
  freedSlot : ∀ {c : Chip} (i : SlotNo), P c → P (freeSlot i c)
  keptSlot : ∀ {c : Chip} (i : SlotNo) {r r' : SlotRec}, c.slot i = some r → SameLoan r r' →
    P c → P (setSlot i (some r') c)
  granted : ∀ {c d : Chip}, grantDecision c = some d → P c → P d
  filled : ∀ {c : Chip} (x : PageNo) (b : Block), P c → P (fillPage x b c)
  handedOver : ∀ {c : Chip} (p : Port) (t : Tag) (i : SlotNo) {r : SlotRec}, c.slot i = some r →
    P c → P (handedOver p t i r c)
  deliveryEnded : ∀ {c : Chip} (p : Port) (t : Tag) {d : DataRec} {pages : List PageNo}, c.dataRecord p t = some d →
    d.stage = .delivering pages → P c → P (freeTag p t (returnPages pages c))
  arb : ∀ {c : Chip} (a : Arbiter), a.queues = c.arb.queues → P c → P { c with arb := a }
  commit : ∀ {c : Chip} (x : Staging) (y : Commit),
    P c → P { c with map := { c.map with staging := x, commit := y } }
  swapped : ∀ {c : Chip} (cfg : Configuration), P c → P (swapped cfg c)
  holds : ∀ {c : Chip} (f : Hold → Hold), (∀ h, (f h).id = h.id ∧ (f h).cls = h.cls) →
    P c → P (c.modHold fun u => { u with table := u.table.map f })
  fewerHolds : ∀ {c : Chip} (f : Hold → Bool), P c → P (c.modHold fun u => { u with table := u.table.filter f })
  oneChanged : ∀ {c : Chip} (h : Hold), SameClass c h → P c → P (setHold h c)
  oneHold : ∀ {c : Chip} (h : Hold), c.holdsFull h.cls = false →
    h.id = freeId c.hold.table.length c.hold.nextId c.hold.table →
    P c → P (c.modHold fun u => { table := insertHold h u.table, nextId := idAfter h.id })
  jobs : ∀ {c : Chip} (u : ConfigUnit), JobsOnly c.cfg u → P c → P { c with cfg := u }
  refused : ∀ {c : Chip} (p : Port) (t : Tag) (k : ReqKind) (w : Option WindowNo) (o : Outcome) (b : Option Nat),
    P c → P (logRefusal p t k w o b c)
  emptied : ∀ {c : Chip}, P c → P (c.modCtl fun f => { f with log := [], overflow := 0 })
  failed : ∀ {c : Chip},
    P c → P (c.modCtl fun f => { f with persistFailures := saturatingSucc Config.saturate8 f.persistFailures })
  logTime : ∀ {c : Chip} (x : Word), P c → P (c.modCtl fun f => { f with logTime := x })
  mlink : ∀ {c : Chip} (m : MlinkCtl), m.slots = c.mlink.slots → CountsOn c.mlink m → P c → P { c with mlink := m }
  copyRead : ∀ {c : Chip} (x : Copy), P c → P (readCopy x c)
  advanced : ∀ {c : Chip} (x : StartStep), c.cfg.step ≠ none → P c → P (setStep x c)
  recovering : ∀ {c : Chip}, c.cfg.bridge = .service →
    P c → P (c.modCfg fun u => { u with bridge := .recover })
  serving : ∀ {c : Chip}, c.cfg.bridge = .recover →
    P c → P (c.modCfg fun u => { u with bridge := .service })
  faulted : ∀ {c : Chip},
    P c → P (c.modCfg fun u => { u with bridge := .fault, step := none, queue := [], writer := .idle })
  started : ∀ {c : Chip}, NoneOpen c → P c → P (started c)
  loaded : ∀ {c : Chip} (x : Option Copy) (r : ConfigRecord), c.cfg.step = some .readB → Loadable r →
    P c → P (loadedInto x r c)

theorem eq_of_id_eq {l : List Hold} (hp : l.Pairwise fun a b => a.id < b.id) {x y : Hold} (hx : x ∈ l) (hy : y ∈ l)
    (h : x.id = y.id) : x = y :=
  List.inj_on_of_nodup_map (List.pairwise_map.2 (hp.imp Nat.ne_of_lt)) hx hy h

theorem sameClass_of_mem {c : Chip} {h : Hold} (hm : h ∈ c.hold.table) : SameClass c h :=
  fun hp _ hx hid => congrArg Hold.cls (eq_of_id_eq hp hx hm hid)

theorem sameClasses_table {c : Chip} (f : Hold → Bool) : SameClasses c (c.hold.table.filter f) := by
  intro hp h hh
  have hm := (List.mem_filter.1 hh).1
  exact ⟨fun x hx hid => sameClass_of_mem hm hp x hx hid,
    fun x hx hid => sameClass_of_mem hm hp x (List.mem_filter.1 hx).1 hid⟩

theorem endedHold_cls (h : Hold) : (Laws.endedHold h).cls = h.cls := by
  unfold Laws.endedHold
  cases h.cls <;> rfl

theorem sameClasses_endWait {c : Chip} {h : Hold} {l : List Hold} (hl : SameClasses c (h :: l)) :
    SameClasses (endWait h c) l := by
  have hid (y : Hold) : (if y.id = h.id then Laws.endedHold h else y).id = y.id := by
    split
    · rename_i he
      rw [Laws.endedHold_id, he]
    · rfl
  intro hp x hx
  rw [Laws.endWait_table, List.pairwise_map] at hp
  simp only [hid] at hp
  obtain ⟨htable, hlist⟩ := hl hp x (List.mem_cons_of_mem _ hx)
  refine ⟨fun y hy hyx => ?_, fun y hy => hlist y (List.mem_cons_of_mem _ hy)⟩
  rw [Laws.endWait_table, List.mem_map] at hy
  obtain ⟨z, hz, rfl⟩ := hy
  rw [hid] at hyx
  split
  · rename_i hzh
    rw [endedHold_cls]
    exact hlist h List.mem_cons_self (hzh.symm.trans hyx)
  · exact htable z hz hyx

theorem each_keeps {P : Chip → Prop} {α : Type} {f : α → Chip → Chip} (hf : ∀ a c, P c → P (f a c)) (l : List α)
    {c : Chip} (h : P c) : P (each f l c) := by
  induction l generalizing c with
  | nil => exact h
  | cons a l ih => exact ih (hf a c h)

theorem each_keeps_mem {P : Chip → Prop} {α : Type} {f : α → Chip → Chip} {l : List α} {c : Chip}
    (hf : ∀ a ∈ l, ∀ c, P c → P (f a c)) (h : P c) : P (each f l c) := by
  induction l generalizing c with
  | nil => exact h
  | cons a l ih => exact ih (fun b hb => hf b (List.mem_cons_of_mem _ hb)) (hf a List.mem_cons_self c h)

theorem eachPort_keeps {P : Chip → Prop} {f : Port → Chip → Chip} (hf : ∀ p c, P c → P (f p c)) {c : Chip} (h : P c) :
    P (eachPort f c) := hf _ _ (hf _ _ (hf _ _ h))

namespace KeptCoarse

variable {P : Chip → Prop} {c : Chip} (k : KeptCoarse P)
include k

theorem sendPort (p : Port) (f : PFrame) (h : P c) : P (sendPort p f c) := by
  unfold Machine.sendPort
  split
  · exact k.frames _ c.free h
  · exact h

theorem sendMedia (f : MFrame) (h : P c) : P (sendMedia f c) := by
  unfold Machine.sendMedia
  split
  · exact k.frames _ c.free h
  · exact h

theorem raiseFlag (f : Flag) (p : Port) (hf : f ≠ .map) (h : P c) : P (raiseFlag f p c) := by
  unfold Machine.raiseFlag
  dsimp only
  split
  · rename_i hopen
    have hset := k.raised f p hf hopen.1 h
    split
    · exact k.sendPort _ _ hset
    · exact hset
  · exact h

theorem kept : Kept P where
  responded p t _ _ _ h := k.freed p t (k.sendPort p _ h)
  raised f p hf _ h := k.raiseFlag f p hf h
  closed reason p hs h := k.sendPort p _ (k.closed reason p hs h)
  media := k.sendMedia
  stopped _ _ _ _ h := k.frames _ _ (each_keeps (fun _ d (hd : P d) => k.frames _ d.free hd) _ h)
  taken h := k.frames _ _ h
  merged _ h _ := k.frames _ _ h
  frames := k.frames
  freed := k.freed
  handed := k.handed
  staged := k.staged
  cleared := k.cleared
  delivered := k.delivered
  left reason p _ h := k.left reason p h
  dequeued := k.dequeued
  enqueued := k.enqueued
  freedSlot := k.freedSlot
  keptSlot := k.keptSlot
  granted := k.granted
  filled := k.filled
  handedOver := k.handedOver
  deliveryEnded := k.deliveryEnded
  arb := k.arb
  commit := k.commit
  swapped := k.swapped
  holds := k.holds
  fewerHolds := k.fewerHolds
  oneChanged := k.oneChanged
  oneHold := k.oneHold
  jobs := k.jobs
  refused := k.refused
  emptied := k.emptied
  failed := k.failed
  logTime := k.logTime
  mlink := k.mlink
  copyRead := k.copyRead
  advanced := k.advanced
  recovering := k.recovering
  serving := k.serving
  faulted := k.faulted
  started := k.started
  loaded := k.loaded

end KeptCoarse

namespace KeptFine

variable {P : Chip → Prop} {c : Chip} (k : KeptFine P)
include k

/-! ### Frames and tags -/

theorem emit (x : Sent) (h : P c) : P (c.emit x) := k.frames _ c.free h

theorem takeFree (h : P c) : P c.takeFree := k.frames c.sent _ h

theorem sendPort (p : Port) (f : PFrame) (h : P c) : P (sendPort p f c) := by
  unfold Machine.sendPort
  split
  · exact k.emit _ h
  · exact h

theorem sendMedia (f : MFrame) (h : P c) : P (sendMedia f c) := by
  unfold Machine.sendMedia
  split
  · exact k.emit _ h
  · exact h

theorem setRecord (p : Port) (t : Tag) (r : Option Record) (h : P c) : P (setRecord p t r c) := k.tags p (·.set t r) h

theorem freeTag (p : Port) (t : Tag) (h : P c) : P (freeTag p t c) := k.setRecord p t none h

theorem reply (p : Port) (t : Tag) (o : Outcome) (d : List Word) (h : P c) : P (reply p t o d c) := k.sendPort _ _ h

theorem respond (p : Port) (t : Tag) (o : Outcome) (d : List Word) (h : P c) : P (respond p t o d c) := by
  unfold Machine.respond
  split
  · exact k.freeTag p t (k.reply p t o d h)
  · exact h

/-! ### Slots, pages, queues -/

theorem modArb (f : Arbiter → Arbiter) (h : P c) : P (c.modArb f) := k.arb _ h

theorem modPool (f : PagePool → PagePool) (h : P c) : P (c.modPool f) := k.pool _ h

theorem modMlink (f : MlinkCtl → MlinkCtl) (hf : CountsOn c.mlink (f c.mlink)) (h : P c) : P (c.modMlink f) :=
  k.mlink _ hf h

theorem modJobs (f : ConfigUnit → ConfigUnit) (hf : JobsOnly c.cfg (f c.cfg)) (h : P c) : P (c.modCfg f) := k.jobs _ hf h

theorem setSlot (i : SlotNo) (r : Option SlotRec) (h : P c) : P (setSlot i r c) :=
  k.modMlink _ ⟨.inl rfl, .inl rfl, .inl rfl⟩ h

theorem setBringUp (b : BringUp) (h : P c) : P (setBringUp b c) := k.modMlink _ ⟨.inl rfl, .inl rfl, .inl rfl⟩ h

theorem setMlink (l : LinkState) (h : P c) : P (setMlink l c) := k.modMlink _ ⟨.inl rfl, .inl rfl, .inl rfl⟩ h

theorem returnPages (pages : List PageNo) (h : P c) : P (returnPages pages c) := k.modPool _ h

theorem fillPage (x : PageNo) (b : Block) (h : P c) : P (fillPage x b c) := k.modPool _ h

theorem dequeue (p : Port) (t : Tag) (h : P c) : P (dequeue p t c) := by
  unfold Machine.dequeue
  refine k.modArb _ ?_
  split
  · exact k.usage _ _ h
  · exact h

theorem setStage (p : Port) (t : Tag) (s : Stage) (h : P c) : P (setStage p t s c) := by
  unfold Machine.setStage
  split
  · exact k.setRecord _ _ _ h
  · exact h

theorem issueSlot (i : SlotNo) (r : SlotRec) (n : Nat) (h : P c) : P (issueSlot i r n c) :=
  k.sendMedia _ (k.setSlot _ _ h)

theorem sendWriteData (i : SlotNo) (pages : List PageNo) (h : P c) : P (sendWriteData i pages c) :=
  each_keeps (fun _ _ hc => k.sendMedia _ hc) _ h

theorem issuePort (p : Port) (t : Tag) (i : SlotNo) (r : SlotRec) (h : P c) : P (issuePort p t i r c) := by
  unfold Machine.issuePort
  have hissued := k.setStage p t (.issued i) (k.issueSlot i r c.map.active.params.response h)
  dsimp only
  split
  · exact k.sendWriteData _ _ hissued
  · exact hissued

theorem freeKept (p : Port) (i : SlotNo) (h : P c) : P (freeKept p i c) := by
  refine each_keeps (fun t d hd => ?_) _ h
  split
  · exact k.freeTag _ _ hd
  · exact hd

theorem leaveWaits (i : SlotNo) (h : P c) : P (leaveWaits i c) :=
  k.holds _ (fun h => by cases h.state <;> exact ⟨rfl, rfl⟩) h

theorem uncount (p : Port) (r : SlotRec) (h : P c) : P (uncount p r c) := by
  unfold Machine.uncount
  have hport := k.inFlight p (· - 1) h
  have hmark : P (if r.ordered then (c.modPort p fun pc => { pc with inFlight := pc.inFlight - 1 }).modArb fun a =>
      { a with ordered := a.ordered.set p false } else c.modPort p fun pc => { pc with inFlight := pc.inFlight - 1 }) := by
    split
    · exact k.modArb _ hport
    · exact hport
  dsimp only
  cases r.window with
  | none => exact hmark
  | some w => exact k.usage w _ hmark

theorem freeSlot (i : SlotNo) (h : P c) : P (freeSlot i c) := by
  unfold Machine.freeSlot
  split
  · exact h
  · rename_i r _
    have hfree := k.leaveWaits i (k.setSlot i none h)
    dsimp only
    split
    · exact hfree
    · rename_i p _
      have hback := k.returnPages r.pages (k.uncount p r hfree)
      split
      · exact hback
      · exact k.freeKept _ _ hback

theorem freeAllSlots (h : P c) : P (freeAllSlots c) := each_keeps (fun i _ hc => k.freeSlot i hc) _ h

/-! ### Grants -/

theorem setArea (x : Copy) (b : Option Block) (h : P c) : P (setArea x b c) :=
  k.modJobs _ (by cases x <;> exact ⟨rfl, rfl, rfl, fun j hj => .inl hj⟩) h

theorem setMark (x : Copy) (m : Mark) (h : P c) : P (setMark x m c) :=
  k.modJobs _ (by cases x <;> exact ⟨rfl, rfl, rfl, fun j hj => .inl hj⟩) h

theorem setWriter {w : Writer} (hw : ∀ j, w ≠ .awaitingSlot j) (h : P c) : P (setWriter w c) :=
  k.modJobs _ ⟨rfl, rfl, rfl, fun j hj => absurd hj (hw j)⟩ h

theorem reloadCredits (h : P c) : P (reloadCredits c) := k.modArb _ h

theorem grantHead (reserved : Bool) (p : Port) (t : Tag) (d : DataRec) (i : SlotNo) (h : P c) :
    P (grantHead reserved p t d i c) := by
  unfold Machine.grantHead
  dsimp only
  split
  · exact k.sendPort _ _ (k.setStage _ _ _ (k.setSlot _ _ (k.inFlight p (· + 1) (k.usage _ _
      (k.modPool (fun pool => { pool with free := _ }) (k.modArb _ h))))))
  · exact k.issuePort _ _ _ _ (k.inFlight p (· + 1) (k.usage _ _
      (k.modPool (fun pool => { pool with free := _ }) (k.modArb _ h))))

theorem grantPersist (j : Job) (i : SlotNo) (h : P c) : P (grantPersist j i c) := by
  unfold Machine.grantPersist
  exact k.sendMedia _ (k.issueSlot _ _ _ (k.setArea _ _
    (k.modJobs _ ⟨rfl, rfl, rfl, fun j hj => by cases hj⟩ h)))

theorem decision {d : Chip} (hd : grantDecision c = some d) (h : P c) : P d := by
  obtain ⟨-, ⟨j, i, -, -, rfl⟩ | ⟨reserved, p, t, r, i, c', hc', -, -, -, rfl⟩⟩ := Grants.grantDecision_cases hd
  · exact k.grantPersist j i h
  · refine k.grantHead reserved p t r i ?_
    rcases hc' with rfl | rfl
    · exact h
    · exact k.reloadCredits h

theorem coarse : KeptCoarse P where
  frames := k.frames
  freed := k.freeTag
  handed p t x ws v h := k.setRecord p t (some (.handed x ws v)) h
  staged p t s _ h := k.setStage p t s h
  raised := k.raised
  cleared := k.cleared
  delivered := k.delivered
  left := k.left
  closed := k.closed
  dequeued := k.dequeue
  enqueued p t d _ h := k.usage _ _ (k.modArb _ (k.setRecord p t (some (.data d)) h))
  freedSlot := k.freeSlot
  keptSlot i _ r' _ _ h := k.setSlot i (some r') h
  granted := k.decision
  filled := k.fillPage
  handedOver p t i _ _ h := k.setStage p t _ (k.freeSlot i (k.setSlot i _ h))
  deliveryEnded p t _ pages _ _ h := k.freeTag p t (k.returnPages pages h)
  arb a _ h := k.arb a h
  commit := k.commit
  swapped := k.swapped
  holds := k.holds
  fewerHolds := k.fewerHolds
  oneChanged := k.oneChanged
  oneHold := k.oneHold
  jobs := k.jobs
  refused := k.refused
  emptied := k.emptied
  failed := k.failed
  logTime := k.logTime
  mlink m _ hm h := k.mlink m hm h
  copyRead _ h := k.issueSlot _ _ _ h
  advanced := k.advanced
  recovering := k.recovering
  serving := k.serving
  faulted := k.faulted
  started := k.started
  loaded := k.loaded

theorem kept : Kept P := k.coarse.kept

end KeptFine

namespace KeptSettling

variable {P : Chip → Prop} {c : Chip} (k : KeptSettling P)
include k

/-! ### Answers and notices -/

theorem respond (p : Port) (t : Tag) (o : Outcome) (d : List Word) (h : P c) : P (respond p t o d c) := by
  unfold Machine.respond
  split
  · rename_i hopen
    exact k.responded p t o d (of_decide_eq_true hopen) h
  · exact h

theorem raiseFlag (f : Flag) (p : Port) (hf : f ≠ .map) (h : P c) : P (raiseFlag f p c) := by
  by_cases hopen : (c.ports.get p).session = .opened
  · exact k.raised f p hf hopen h
  · have hsame : Machine.raiseFlag f p c = c := if_neg fun hd => hopen hd.1
    exact hsame.symm ▸ h

theorem raiseMedia (h : P c) : P (raiseMedia c) :=
  eachPort_keeps (fun p _ hc => k.raiseFlag .media p (by decide) hc) h

theorem raiseHolds (r : MediaRange) (p : Port) (h : P c) : P (raiseHolds r p c) := by
  unfold Machine.raiseHolds
  split
  · exact k.raiseFlag .holds p (by decide) h
  · exact h

theorem holdsNotice (r : MediaRange) (h : P c) : P (holdsNotice r c) :=
  eachPort_keeps (fun p _ hc => k.raiseHolds r p hc) h

theorem answerAbort (p : Port) (o : Outcome) (a : Option Tag) (h : P c) : P (answerAbort p o a c) := by
  unfold Machine.answerAbort
  split
  · exact k.respond _ _ _ _ h
  · exact h

theorem answerOwner (o : Outcome) (d : List Word) (o' : Outcome) (a : Option Tag) (r : SlotRec) (h : P c) :
    P (answerOwner o d o' a r c) := by
  unfold Machine.answerOwner
  split
  · exact k.answerAbort _ _ _ (k.respond _ _ _ _ h)
  · exact h

/-! ### The configuration unit -/

theorem modJobs (f : ConfigUnit → ConfigUnit) (hf : JobsOnly c.cfg (f c.cfg)) (h : P c) : P (c.modCfg f) := k.jobs _ hf h

theorem setArea (x : Copy) (b : Option Block) (h : P c) : P (setArea x b c) :=
  k.modJobs _ (by cases x <;> exact ⟨rfl, rfl, rfl, fun j hj => .inl hj⟩) h

theorem setMark (x : Copy) (m : Mark) (h : P c) : P (setMark x m c) :=
  k.modJobs _ (by cases x <;> exact ⟨rfl, rfl, rfl, fun j hj => .inl hj⟩) h

theorem setWriter {w : Writer} (hw : ∀ j, w ≠ .awaitingSlot j) (h : P c) : P (setWriter w c) :=
  k.modJobs _ ⟨rfl, rfl, rfl, fun j hj => absurd hj (hw j)⟩ h

theorem readLost (h : P c) : P (readLost c) := by
  unfold Machine.readLost
  split
  · split
    · exact k.setMark _ _ h
    · exact h
  · exact h

theorem judgeCopy (x : Copy) (h : P c) : P (judgeCopy x c) := k.setMark _ _ h

/-! ### Holds -/

theorem answerPlacement (x : Hold) (o : Outcome) (d : List Word) (h : P c) : P (answerPlacement x o d c) := by
  unfold Machine.answerPlacement
  split
  · exact k.respond _ _ _ _ h
  · exact h

theorem removeHold (x : Hold) (h : P c) : P (removeHold x c) := k.holdsNotice _ (k.fewerHolds _ h)

theorem activateHold {x : Hold} (hx : SameClass c x) (h : P c) : P (activateHold x c) :=
  k.answerPlacement _ _ _ (k.holdsNotice _ (k.oneChanged _ hx h))

theorem appendJob (j : Job) (h : P c) : P (appendJob j c) :=
  k.modJobs _ ⟨rfl, rfl, rfl, fun _ hj => .inl hj⟩ h

theorem endWait {x : Hold} (hx : SameClass c x) (h : P c) : P (endWait x c) := by
  unfold Machine.endWait
  split
  · exact k.activateHold hx h
  · exact k.activateHold hx h
  · exact k.appendJob _ (k.oneChanged _ hx h)

theorem endWaitsOf (l : List Hold) (hl : SameClasses c l) (h : P c) : P (each Machine.endWait l c) := by
  induction l generalizing c with
  | nil => exact h
  | cons x l ih =>
    exact ih (sameClasses_endWait hl) (k.endWait (fun hp => (hl hp x List.mem_cons_self).1) h)

theorem endWaits (h : P c) : P (endWaits c) := k.endWaitsOf _ (sameClasses_table _) h

/-! ### The commit and the writer -/

theorem answerCommit (info : CommitInfo) (o : Outcome) (d : List Word) (h : P c) : P (answerCommit info o d c) := by
  unfold Machine.answerCommit
  split
  · exact k.respond _ _ _ _ h
  · exact h

theorem deliverCommit (info : CommitInfo) (h : P c) : P (deliverCommit info c) := by
  unfold Machine.deliverCommit
  split
  · split
    · exact k.delivered _ h
    · exact h
  · exact h

theorem swap (info : CommitInfo) (h : P c) : P (swap info c) := by
  unfold Machine.swap
  split
  · exact k.answerCommit _ _ _ (k.deliverCommit _ (k.swapped _ h))
  · exact h
  · exact h

theorem drainEnd (info : CommitInfo) (h : P c) : P (drainEnd info c) := by
  unfold Machine.drainEnd
  split
  · exact k.appendJob _ (k.commit c.map.staging (.persisting info) h)
  · exact k.swap info h

theorem drainTest (h : P c) : P (drainTest c) := by
  unfold Machine.drainTest
  split
  · split
    · exact k.drainEnd _ h
    · exact h
  · exact h
  · exact h

theorem endCommit (x : Staging) (h : P c) : P (endCommit x c) := k.commit x .idle h

theorem setStaging (x : Staging) (h : P c) : P (setStaging x c) := k.commit x c.map.commit h

theorem commitFailed (info : CommitInfo) (h : P c) : P (commitFailed info c) :=
  k.answerCommit _ _ _ (k.endCommit _ h)

theorem holdJobFailed (id : Nat) (h : P c) : P (holdJobFailed id c) := by
  unfold Machine.holdJobFailed
  split
  · exact k.answerPlacement _ _ _ (k.removeHold _ h)
  · exact h

theorem jobFailed (j : Job) (h : P c) : P (jobFailed j c) := by
  unfold Machine.jobFailed
  have hcount := k.failed h
  dsimp only
  split
  · exact k.holdJobFailed _ hcount
  · split
    · exact k.commitFailed _ hcount
    · exact hcount
    · exact hcount

theorem jobSucceeded (j : Job) (h : P c) : P (jobSucceeded j c) := by
  unfold Machine.jobSucceeded
  split
  · split
    · rename_i x hx
      exact k.activateHold (sameClass_of_mem (List.mem_of_find?_eq_some hx)) h
    · exact h
  · split
    · exact k.swap _ h
    · exact h
    · exact h

theorem writerTake (h : P c) : P (writerTake c) := by
  unfold Machine.writerTake
  split
  · rename_i hmay
    have hmark : c.cfg.resetMark = false := by
      simp only [Chip.writerMayTake, Bool.and_eq_true, Bool.not_eq_true'] at hmay
      exact hmay.1.2
    split
    · exact each_keeps (fun j _ hc => k.jobFailed j hc) _ (k.modJobs _ ⟨rfl, rfl, rfl, fun _ hj => .inl hj⟩ h)
    · split
      · exact k.modJobs _ ⟨rfl, rfl, rfl, fun _ _ => .inr hmark⟩ h
      · exact h
  · exact h

theorem writeFailed {w : Writer} (hw : ∀ j, w ≠ .awaitingSlot j) (h : P c) : P (writeFailed w c) := by
  unfold Machine.writeFailed
  split
  · exact k.jobFailed _ (k.setWriter hw (k.setMark _ _ h))
  all_goals exact h

theorem writeSucceeded (h : P c) : P (writeSucceeded c) := by
  unfold Machine.writeSucceeded
  split
  · exact k.jobSucceeded _ (k.setMark _ _ (k.modJobs _ ⟨rfl, rfl, rfl, fun _ hj => by cases hj⟩ h))
  all_goals exact h

theorem settle (h : P c) : P (settle c) := k.writerTake (k.drainTest (k.endWaits h))

theorem writerRecovers (h : P c) : P (writerRecovers c) := by
  unfold Machine.writerRecovers
  split
  · exact k.writeFailed (fun _ h => by cases h) h
  · exact k.setWriter (fun _ h => by cases h) h
  · exact h
  · exact h

/-! ### What a reset and FAULT drop -/

theorem dropJob (j : Job) (h : P c) : P (dropJob j c) := by
  unfold Machine.dropJob
  split
  · split
    · exact k.removeHold _ h
    · exact h
  · exact k.endCommit _ h

/-- The jobs dropped and the FIXED holds removed before START. -/
theorem beforeStart (f : Hold → Bool) (l : List Job) (h : P c) :
    P (each (fun x c => Machine.removeHold x c) ((each Machine.dropJob l c).hold.table.filter f)
      (each Machine.dropJob l c)) :=
  each_keeps (fun x _ hc => k.removeHold x hc) _ (each_keeps (fun j _ hc => k.dropJob j hc) _ h)

theorem faultHolds (h : P c) : P (faultHolds c) :=
  each_keeps (fun _ _ hc => k.answerPlacement _ _ _ (k.removeHold _ hc)) _ h

theorem faultMap (h : P c) : P (faultMap c) := by
  unfold Machine.faultMap
  split
  · exact k.answerCommit _ _ _ (k.endCommit _ h)
  · exact k.endCommit _ h
  · exact h

end KeptSettling

namespace KeptConcluding

variable {P : Chip → Prop} {c : Chip} (k : KeptConcluding P)
include k

theorem modArb (f : Arbiter → Arbiter) (hf : (f c.arb).queues = c.arb.queues) (h : P c) : P (c.modArb f) := k.arb _ hf h

theorem reloadCredits (h : P c) : P (reloadCredits c) := k.modArb _ rfl h

theorem freeAllSlots (h : P c) : P (freeAllSlots c) := each_keeps (fun i _ hc => k.freedSlot i hc) _ h

theorem decisions (n : Nat) (h : P c) : P (decisions n c) := by
  induction n generalizing c with
  | zero => exact h
  | succ n ih =>
    unfold Machine.decisions
    split
    · rename_i d hd
      exact ih (k.granted hd h)
    · exact h

theorem arbitrate (h : P c) : P (arbitrate c) := k.decisions 16 h

theorem closeIfIdle (p : Port) (h : P c) : P (closeIfIdle p c) := by
  unfold Machine.closeIfIdle
  dsimp only
  split
  · rename_i reason hs
    split
    · exact k.closed reason p hs h
    · exact h
  all_goals exact h

/-- The end of an event, when its answers and what follows have been. -/
theorem ends (h : P c) : P (Machine.arbitrate (eachPort Machine.closeIfIdle c)) :=
  k.arbitrate (eachPort_keeps (fun p _ hc => k.closeIfIdle p hc) h)

theorem conclude_id (h : P c) : P (conclude id c) := by
  have horder : eitherOrder id Machine.settle c = Machine.settle c := if_pos rfl
  unfold conclude
  rw [horder]
  exact k.ends (k.settle h)

/-- The end of an event, for a property of which the frames sent may come from another state that has it. -/
theorem conclude_of {answers : Chip → Chip} (hmerged : ∀ {c d : Chip} (n : Nat), P c → P d → P { c with sent := d.sent, free := n })
    (ha : ∀ {d : Chip}, P d → P (answers d)) (h : P c) : P (conclude answers c) := by
  have hfirst := k.settle (ha h)
  have hsecond := ha (k.settle h)
  refine k.ends ?_
  unfold eitherOrder
  dsimp only
  split
  · exact hfirst
  · split
    · exact hmerged _ hfirst hfirst
    · exact hmerged _ hfirst hsecond

theorem faultQueue (p : Port) (h : P c) : P (faultQueue p c) :=
  each_keeps (fun _ _ hc => k.respond _ _ _ _ (k.dequeued _ _ hc)) _ h

end KeptConcluding

namespace KeptRunning

variable {P : Chip → Prop} {c : Chip} (k : KeptRunning P)
include k

theorem modMlink (f : MlinkCtl → MlinkCtl) (hs : (f c.mlink).slots = c.mlink.slots) (hf : CountsOn c.mlink (f c.mlink))
    (h : P c) : P (c.modMlink f) := k.mlink _ hs hf h

theorem setBringUp (b : BringUp) (h : P c) : P (setBringUp b c) := k.modMlink _ rfl ⟨.inl rfl, .inl rfl, .inl rfl⟩ h

theorem setMlink (l : LinkState) (h : P c) : P (setMlink l c) := k.modMlink _ rfl ⟨.inl rfl, .inl rfl, .inl rfl⟩ h

theorem sendLinkReset (h : P c) : P (sendLinkReset c) := by
  unfold Machine.sendLinkReset
  have hsent := k.media .linkReset h
  dsimp only
  split
  · exact k.conclude_id (k.freeAllSlots hsent)
  · exact hsent

theorem beginAttempt (h : P c) : P (beginAttempt c) := by
  unfold Machine.beginAttempt
  split
  · exact k.sendLinkReset (k.setBringUp _ h)
  · exact k.setBringUp _ h

theorem beginBringUp (h : P c) : P (beginBringUp c) :=
  k.beginAttempt (k.modMlink _ rfl ⟨.inl rfl, .inl rfl, .inl rfl⟩ h)

theorem restartLogTime (h : P c) : P (restartLogTime c) := k.logTime _ h

theorem enterFault (h : P c) : P (enterFault c) := by
  unfold Machine.enterFault
  have hstart : P (if c.cfg.bridge = .start then Machine.restartLogTime (conclude id (Machine.freeAllSlots c)) else c) := by
    split
    · exact k.restartLogTime (k.conclude_id (k.freeAllSlots h))
    · exact h
  refine k.modMlink _ rfl ⟨.inl rfl, .inl rfl, .inl rfl⟩ (k.faultMap (k.faultHolds (k.modArb _ rfl ?_)))
  exact eachPort_keeps (fun p _ hc => k.faultQueue p hc)
    (k.raiseMedia (each_keeps (fun j _ hc => k.jobFailed j hc) _ (k.faulted hstart)))

theorem readCopy (x : Copy) (h : P c) : P (readCopy x c) := k.copyRead x h

theorem load (x : Option Copy) {r : ConfigRecord} (hstep : c.cfg.step = some .readB) (hr : Loadable r) (h : P c) :
    P (load x r c) :=
  k.conclude_id (k.restartLogTime (k.reloadCredits (k.modArb (fun a => { a with pointer := .p0 }) rfl
    (k.loaded x r hstep hr h))))

theorem selectCopy (hstep : c.cfg.step = some .readB) (h : P c) : P (selectCopy c) := by
  have hvalid {x : Copy} {r : ConfigRecord} (hx : c.validRecord x = some r) : Loadable r := by
    unfold Chip.validRecord at hx
    split at hx
    · obtain ⟨b, -, hb⟩ := Option.bind_eq_some_iff.1 hx
      exact .inr ⟨_, b, hb⟩
    · cases hx
  unfold Machine.selectCopy
  split
  · rename_i a b ha hb
    split
    · exact k.load _ hstep (hvalid hb) h
    · exact k.load _ hstep (hvalid ha) h
  · rename_i a ha _
    exact k.load _ hstep (hvalid ha) h
  · rename_i b _ hb
    exact k.load _ hstep (hvalid hb) h
  · exact k.load _ hstep (.inl rfl) h

theorem nextStartStep (h : P c) : P (nextStartStep c) := by
  unfold Machine.nextStartStep
  split
  · rename_i hs
    exact k.readCopy _ (k.advanced _ (by simp [hs]) h)
  · rename_i hs
    exact k.selectCopy hs h
  · exact h
  · exact h

theorem bringUpAgain (h : P c) : P (bringUpAgain c) := k.beginBringUp (k.readLost h)

theorem bringUpDone (capacity : Word) (slots : Nat) (h : P c) : P (bringUpDone capacity slots c) := by
  unfold Machine.bringUpDone
  have hidle : P (c.modMlink fun m => { m with bringUp := .idle, attempts := 0, slotCount := slots }) :=
    k.modMlink _ rfl ⟨.inl rfl, .inl rfl, .inl rfl⟩ h
  dsimp only
  split
  · split
    · rename_i hs
      have hcap := k.modMlink (fun m => { m with capacity := capacity }) rfl ⟨.inl rfl, .inl rfl, .inl rfl⟩ hidle
      split
      · exact k.enterFault hcap
      · exact k.readCopy _ (k.advanced _ (by simpa using (by rw [show c.cfg.step = _ from hs]; simp : c.cfg.step ≠ none)) hcap)
    · split
      · exact k.nextStartStep hidle
      · exact k.enterFault hidle
  · rename_i hb
    split
    · exact k.conclude_id (k.serving (by simpa using hb) (k.modMlink _ rfl ⟨.inl rfl, .inr rfl, .inl rfl⟩ hidle))
    · exact k.enterFault hidle
  · exact hidle
  · exact hidle

theorem attemptFailed (h : P c) : P (attemptFailed c) := by
  unfold Machine.attemptFailed
  have hcount : P (c.modMlink fun m => { m with attempts := m.attempts + 1 }) :=
    k.modMlink _ rfl ⟨.inl rfl, .inl rfl, .inl rfl⟩ h
  dsimp only
  split
  · exact k.beginAttempt hcount
  · exact k.enterFault hcount

end KeptRunning

namespace KeptEnding

variable {P : Chip → Prop} {O : Port → Prop} {c : Chip} (k : KeptEnding P O)
include k

/-- A slot record, when there is one, changed without a change of its loan. -/
theorem mapSlot (i : SlotNo) {f : SlotRec → SlotRec} (hf : ∀ r, SameLoan r (f r)) (h : P c) :
    P (setSlot i ((c.slot i).map f) c) := by
  cases hs : c.slot i with
  | none =>
    have hsame : setSlot i none c = c := by
      have hslots : c.mlink.slots.set i none = c.mlink.slots := Laws.Table.set_get _ _ _ hs
      simp only [setSlot, Chip.modMlink, hslots]
    exact hsame.symm ▸ h
  | some r => exact k.keptSlot i hs (hf r) h

theorem disown (i : SlotNo) (h : P c) : P (disown i c) := k.mapSlot i (fun _ => ⟨rfl, rfl, rfl⟩) h

theorem endRecord {p : Port} (hp : O p) (t : Tag) (h : P c) : P (endRecord p t c) := by
  unfold Machine.endRecord
  split
  · exact h
  · exact k.freed _ _ h
  · rename_i d hd
    split
    · exact k.freed _ _ (k.dequeued _ _ h)
    · exact k.freed _ _ (k.freedSlot _ h)
    · exact k.disown _ h
    · exact k.disown _ h
    · rename_i pages hs
      have hrecord : (Machine.stopDelivery p t pages c).dataRecord p t = some d := by
        unfold Chip.dataRecord Chip.record at *
        rw [Laws.stopDelivery_ports, hd]
      exact k.deliveryEnded p t hrecord hs (k.stopped _ _ _ hp h)

theorem endSessionHolds (p : Port) (h : P c) : P (endSessionHolds p c) :=
  k.holds _ (fun x => by split <;> exact ⟨rfl, rfl⟩) (each_keeps (fun x _ hc => k.removeHold x hc) _ h)

theorem endSessionStaging (p : Port) (h : P c) : P (endSessionStaging p c) := by
  unfold Machine.endSessionStaging
  split
  · split
    · exact k.endCommit _ h
    · exact h
  · split
    · exact k.commit _ _ h
    · exact h
  · split
    · exact k.endCommit _ h
    · exact h
  · exact h

theorem drainBesideEnd (p : Port) (h : P c) : P (drainBesideEnd p c) := by
  unfold Machine.drainBesideEnd
  split
  · split
    · dsimp only
      split
      · exact k.drainEnd _ (k.endWaits (k.taken h))
      · exact k.taken h
    · exact h
  all_goals exact h

theorem cleanUp {p : Port} (hp : O p) (h : P c) : P (cleanUp p c) :=
  k.endSessionStaging p (k.drainBesideEnd p (k.endSessionHolds p
    (k.modArb _ rfl (each_keeps (fun t _ hc => k.endRecord hp t hc) _ h))))

theorem closeSession (reason : CloseReason) {p : Port} (hp : O p) (h : P c) : P (closeSession reason p c) := by
  unfold Machine.closeSession
  split
  · exact k.conclude_id (k.cleanUp hp (k.left reason p hp h))
  · exact h

theorem resetPorts {ports : List Port} (hports : ∀ p ∈ ports, c.isOpen p → O p) (h : P c) : P (resetPorts ports c) := by
  have hreached : ∀ p ∈ ports.filter c.isOpen, O p := fun p hp =>
    hports p (List.mem_filter.1 hp).1 (List.mem_filter.1 hp).2
  exact k.conclude_id (each_keeps_mem (fun p hp _ hc => k.cleanUp (hreached p hp) hc)
    (each_keeps_mem (fun p hp _ hc => k.left .reset p (hreached p hp) hc) h))

end KeptEnding

namespace KeptInEvent

variable {P : Chip → Prop} {c : Chip} (k : KeptInEvent P)
include k

theorem emit (x : Sent) (h : P c) : P (c.emit x) := k.frames _ c.free h

theorem takeFree (h : P c) : P c.takeFree := k.frames c.sent _ h

theorem sendPort (p : Port) (f : PFrame) (h : P c) : P (sendPort p f c) := by
  unfold Machine.sendPort
  split
  · exact k.emit _ h
  · exact h

theorem sendMedia (f : MFrame) (h : P c) : P (sendMedia f c) := by
  unfold Machine.sendMedia
  split
  · exact k.emit _ h
  · exact h

theorem reply (p : Port) (t : Tag) (o : Outcome) (d : List Word) (h : P c) : P (reply p t o d c) := k.sendPort _ _ h

theorem abandonSlot (i : SlotNo) (cause : AbandonCause) (h : P c) : P (abandonSlot i cause c) :=
  k.sendMedia _ (k.mapSlot i (fun _ => ⟨rfl, rfl, rfl⟩) h)

theorem sendWriteData (i : SlotNo) (pages : List PageNo) (h : P c) : P (sendWriteData i pages c) :=
  each_keeps (fun _ _ hc => k.sendMedia _ hc) _ h

theorem issuePort (p : Port) (t : Tag) (i : SlotNo) {r : SlotRec} (hr : c.slot i = some r) (h : P c) :
    P (issuePort p t i r c) := by
  unfold Machine.issuePort Machine.issueSlot
  have hissued := k.staged p t (.issued i) (fun _ => Stage.noConfusion)
    (k.sendMedia (.command i r.op r.durable (r.range.getD ⟨0, 0⟩).first (r.range.getD ⟨0, 0⟩).count)
      (k.keptSlot i (r' := { r with phase := .issued c.map.active.params.response }) hr ⟨rfl, rfl, rfl⟩ h))
  dsimp only
  split
  · exact k.sendWriteData _ _ hissued
  · exact hissued

theorem concludes {answers : Chip → Chip} (ha : ∀ {d : Chip}, P d → P (answers d)) (h : P c) : P (conclude answers c) :=
  k.conclude_of (fun _ hc _ => k.frames _ _ hc) ha h

end KeptInEvent

end Sys2Proof.Keeping
end

section
/-! SUPPORT. The end of all sessions, the bridge states and whole commands keep what every single change keeps. -/

namespace Sys2Proof.Keeping

open Sys2Proof.Machine Sys2Proof.Safety Sys2Proof.Commands

/-! ### MAP compared -/

/-- A port controller with its MAP notice compared with the epoch `e` (R68). -/
def compared (e : Word) (pc : PortCtl) : PortCtl :=
  if pc.delivered = e then { pc with flags := { pc.flags with map := false } }
  else if pc.session = .opened then { pc with flags := { pc.flags with map := true } }
  else pc

theorem compareEpoch_ports (p : Port) (c : Chip) :
    (compareEpoch p c).ports = c.ports.modify p (compared c.map.epoch) := by
  have hself (f : PortCtl → PortCtl) (h : f (c.ports.get p) = compared c.map.epoch (c.ports.get p)) :
      c.ports.modify p f = c.ports.modify p (compared c.map.epoch) := by
    cases p <;> simp only [PerPort.get] at h <;> simp [PerPort.modify, PerPort.set, PerPort.get, h]
  have hid (h : c.ports.get p = compared c.map.epoch (c.ports.get p)) :
      c.ports = c.ports.modify p (compared c.map.epoch) := by
    rw [← hself id h]
    exact (Laws.PerPort.modify_eq_self _ _ _ rfl).symm
  unfold compareEpoch
  split
  · rename_i he
    exact hself (fun pc => { pc with flags := (c.ports.get p).flags.set .map false }) (by simp [compared, he, Flags.set])
  · rename_i he
    unfold raiseFlag
    dsimp only
    split
    · rename_i hopen
      have hset : (setFlags p ((c.ports.get p).flags.set .map true) c).ports = c.ports.modify p (compared c.map.epoch) :=
        hself (fun pc => { pc with flags := (c.ports.get p).flags.set .map true })
          (by simp [compared, he, hopen.1, Flags.set])
      split
      · rw [Laws.sendPort_ports, hset]
      · exact hset
    · rename_i hnot
      refine hid ?_
      by_cases hopen : (c.ports.get p).session = .opened
      · have hmap : (c.ports.get p).flags.map = true := by
          have := fun hm => hnot ⟨hopen, hm⟩
          simpa [Flags.get] using this
        have hflags : (⟨true, (c.ports.get p).flags.holds, (c.ports.get p).flags.media⟩ : Flags) = (c.ports.get p).flags := by
          rw [← hmap]
        simp only [compared, if_neg he, if_pos hopen, hflags]
      · simp only [compared, if_neg he, if_neg hopen]

theorem swapped_port (cfg : Configuration) (c : Chip) (q : Port) : (swapped cfg c).ports.get q =
    if (c.ports.get q).session = .opened then compared (c.map.epoch + 1) (c.ports.get q) else c.ports.get q := by
  have hstep (p : Port) (d : Chip) : (if d.isOpen p then compareEpoch p d else d).map = d.map ∧
      ∀ r, (if d.isOpen p then compareEpoch p d else d).ports.get r =
        if r = p ∧ (d.ports.get p).session = .opened then compared d.map.epoch (d.ports.get r) else d.ports.get r := by
    by_cases ho : (d.ports.get p).session = .opened
    · simp only [Chip.isOpen, ho, decide_true, if_true, Laws.compareEpoch_map, compareEpoch_ports,
        Laws.PerPort.get_modify, and_true, implies_true]
    · simp [Chip.isOpen, ho]
  simp only [swapped, eachPort, (hstep _ _).1, (hstep _ _).2]
  cases q <;> simp

theorem compared_session (e : Word) (pc : PortCtl) : (compared e pc).session = pc.session := by
  unfold compared
  split
  · rfl
  · split <;> rfl

theorem swapped_session (cfg : Configuration) (c : Chip) (q : Port) :
    ((swapped cfg c).ports.get q).session = (c.ports.get q).session := by
  rw [swapped_port]
  split
  · exact compared_session _ _
  · rfl

theorem deliver_session (p q : Port) (c : Chip) :
    ((deliver p c.map.epoch c).ports.get q).session = (c.ports.get q).session := by
  rw [Management.deliver_epoch]
  simp only [Laws.modPort_ports, Laws.PerPort.get_modify]
  split <;> rfl

/-! ### No session opens -/

theorem noneOpen_modify {c : Chip} (p : Port) {f : PortCtl → PortCtl}
    (hf : ∀ pc, pc.session ≠ .opened → (f pc).session ≠ .opened) (h : NoneOpen c) : NoneOpen (c.modPort p f) := by
  intro q
  rw [Laws.modPort_ports, Laws.PerPort.get_modify]
  split
  · exact hf _ (h q)
  · exact h q

theorem noneOpen_fine : KeptFine NoneOpen where
  frames _ _ h := h
  tags p _ h := noneOpen_modify p (fun _ hs => hs) h
  inFlight p _ h := noneOpen_modify p (fun _ hs => hs) h
  raised _ p _ _ h := noneOpen_modify p (fun _ hs => hs) h
  cleared _ p _ h := noneOpen_modify p (fun _ hs => hs) h
  delivered p h q := by rw [deliver_session]; exact h q
  left _ p h := noneOpen_modify p (fun _ _ hs => by cases hs) h
  closed _ p _ h := noneOpen_modify p (fun _ _ hs => by cases hs) h
  usage _ _ h := h
  commit _ _ h := h
  swapped cfg h q := by rw [swapped_session]; exact h q
  holds _ _ h := h
  fewerHolds _ h := h
  oneChanged _ _ h := h
  oneHold _ _ _ h := h
  arb _ h := h
  pool _ h := h
  mlink _ _ h := h
  jobs _ _ h := h
  advanced _ _ h := h
  recovering _ h := h
  serving _ h := h
  faulted h := h
  started _ h := h
  loaded _ _ _ _ h := h
  refused _ _ _ _ _ _ h := h
  emptied h := h
  failed h := h
  logTime _ h := h

theorem noneOpen_kept : Kept NoneOpen := noneOpen_fine.kept

theorem leaveOpen_session (reason : CloseReason) (p q : Port) (c : Chip) :
    ((leaveOpen reason p c).ports.get q).session = if q = p then .closing reason else (c.ports.get q).session := by
  simp only [leaveOpen, Laws.modPort_ports, Laws.PerPort.get_modify]
  split <;> rfl

/-- After the sessions of a list have left OPEN, none of them is OPEN, and no other has opened. -/
theorem each_leaveOpen_session (reason : CloseReason) (l : List Port) (c : Chip) (q : Port) :
    ((each (leaveOpen reason) l c).ports.get q).session = if q ∈ l then .closing reason else (c.ports.get q).session := by
  induction l generalizing c with
  | nil => rfl
  | cons p l ih =>
    change ((each (leaveOpen reason) l (leaveOpen reason p c)).ports.get q).session = _
    rw [ih, leaveOpen_session]
    by_cases hq : q ∈ l <;> by_cases hp : q = p <;> simp [hq, hp]

theorem resetPorts_noneOpen {ports : List Port} {c : Chip}
    (h : ∀ q, (c.ports.get q).session = .opened → q ∈ ports) : NoneOpen (resetPorts ports c) := by
  refine noneOpen_kept.conclude_id (each_keeps (fun p _ hc => noneOpen_kept.cleanUp (p := p) trivial hc) _ fun q hq => ?_)
  rw [each_leaveOpen_session] at hq
  split at hq
  · cases hq
  · rename_i hnot
    exact hnot (List.mem_filter.2 ⟨h q hq, by simpa [Chip.isOpen] using hq⟩)

namespace KeptReset

variable {P : Chip → Prop} {c : Chip} (k : KeptReset P)
include k

theorem enterStart (h : P (Keeping.started c)) : P (enterStart c) :=
  k.beginBringUp (k.modMlink _ rfl ⟨.inl rfl, .inl rfl, .inl rfl⟩ h)

theorem finishReset (h : P c) : P (finishReset c) := by
  have hbefore {Q : Chip → Prop} (kq : KeptReset Q) (hq : Q (Machine.resetPorts Port.all c)) :=
    kq.beforeStart Hold.unfinished (Machine.resetPorts Port.all c).cfg.queue
      (kq.modJobs (fun u => { u with queue := [] }) ⟨rfl, rfl, rfl, fun _ hj => .inl hj⟩ hq)
  exact k.enterStart (k.started (hbefore noneOpen_kept.toKeptReset (resetPorts_noneOpen fun q _ => by cases q <;> decide))
    (hbefore k (k.resetPorts (fun _ _ _ => trivial) h)))

theorem resumeReset (h : P c) : P (resumeReset c) := by
  unfold Machine.resumeReset
  split
  · exact k.finishReset h
  · exact h

theorem startRecovery (hb : c.cfg.bridge = .service) (h : P c) : P (startRecovery c) := by
  unfold Machine.startRecovery
  dsimp only
  have hended (l : List (SlotRec × Option Tag)) := k.conclude_of
    (answers := each (fun x => Machine.answerOwner .mediaReset [] .tooLate x.2 x.1) l) k.merged
    (each_keeps (fun x _ hc => k.answerOwner _ _ _ _ _ hc) l)
    (k.writerRecovers (k.freeAllSlots (k.raiseMedia (k.recovering hb h))))
  split
  · exact k.finishReset (hended _)
  · exact k.beginBringUp (hended _)

theorem protocolError (h : P c) : P (protocolError c) := by
  unfold Machine.protocolError
  split
  · rename_i hb
    exact k.startRecovery hb h
  · exact h

end KeptReset

end Sys2Proof.Keeping
end

section
/-! SUPPORT. The action of a whole command keeps what every single change keeps. -/

namespace Sys2Proof.Keeping

open Sys2Proof.Machine Sys2Proof.Safety Sys2Proof.Commands

/-- A placement that no check refuses finds room in the table. -/
theorem room_of_verdict {c : Chip} {q : PlaceParams} {w : Window} (hverdict : c.placeVerdict q w = none) :
    c.holdsFull q.cls = false := by
  by_contra hfull
  rw [Bool.not_eq_false] at hfull
  simp only [Chip.placeVerdict, hfull, if_true] at hverdict
  split at hverdict
  · cases hverdict
  · split at hverdict <;> cases hverdict

namespace KeptInEvent

variable {P : Chip → Prop} {c : Chip} (k : KeptInEvent P)
include k

/-! ### Data requests -/

theorem noSession (p : Port) (t : Option Tag) (h : P c) : P (noSession p t c) := k.sendPort _ _ h

theorem intake (p : Port) (r : Request) (form : Header → Bool) {take : Header → Chip → Chip}
    (ht : ∀ x, P (take x c)) (h : P c) : P (intake p r form take c) := by
  unfold Machine.intake
  dsimp only
  split
  · exact h
  split
  · exact k.noSession _ _ h
  split
  · exact k.reply _ _ _ _ h
  split
  · split
    · exact ht _
    · exact k.reply _ _ _ _ h
  · exact k.reply _ _ _ _ h

theorem enqueue (p : Port) (t : Tag) {d : DataRec} (hd : d.stage = .admitted) (h : P c) : P (enqueue p t d c) :=
  k.arbitrate (k.enqueued p t d hd h)

theorem admission (kind : DataKind) (p : Port) (t : Tag) (x : Header) (h : P c) : P (admission kind p t x c) := by
  unfold Machine.admission
  split
  · exact k.reply _ _ _ _ h
  split
  · exact k.reply _ _ _ _ h
  split
  · exact k.reply _ _ _ _ h
  split
  · exact k.reply _ _ _ _ h
  · exact k.reply _ _ _ _ h
  · split
    · exact k.reply _ _ _ _ (k.refused _ _ _ _ _ _ h)
    · exact k.enqueue _ _ rfl h

theorem dataRequest (kind : DataKind) (p : Port) (r : Request) (h : P c) : P (dataRequest kind p r c) :=
  k.intake p r _ (fun x => k.admission kind p r.tag x h) h

theorem takeBlock (p : Port) (t : Tag) (n : Nat) (b : Block) (h : P c) : P (takeBlock p t n b c) := by
  unfold Machine.takeBlock
  split
  · split
    · split
      · rename_i r hr
        split
        · have hslot : (match r.pages[n]? with | some page => Machine.fillPage page b c | none => c).slot = c.slot := by
            split <;> rfl
          have hfill : P (match r.pages[n]? with | some page => Machine.fillPage page b c | none => c) := by
            split
            · exact k.filled _ _ h
            · exact h
          dsimp only
          split
          · exact k.issuePort _ _ _ ((congrFun hslot _).trans hr) hfill
          · exact k.staged _ _ _ (fun _ => Stage.noConfusion) hfill
        · exact h
      · exact h
    · exact h
  · exact h

theorem takeData (p : Port) (d : DataFrame) (h : P c) : P (takeData p d c) := by
  unfold Machine.takeData
  split
  · exact h
  · split
    · exact h
    · exact k.noSession _ _ h
  · split
    · exact k.takeBlock _ _ _ _ h
    · exact k.noSession _ _ h

omit k in
theorem received (p : Port) {take : Chip → Chip} (ht : (c.ports.get p).link = .up → P (take c)) (h : P c) :
    P (received p take c) := by
  unfold Machine.received
  split
  · rename_i hup
    exact ht hup
  · exact h

theorem abortTarget (p : Port) (abort target : Tag) (h : P c) : P (abortTarget p abort target c) := by
  unfold Machine.abortTarget
  dsimp only
  split
  · exact k.respond _ _ _ _ h
  · exact k.concludes (fun hd => k.respond _ _ _ _ (k.respond _ _ _ _ hd)) (k.dequeued _ _ h)
  · exact k.concludes (fun hd => k.respond _ _ _ _ (k.respond _ _ _ _ hd)) (k.freedSlot _ h)
  · exact k.staged _ _ _ (fun _ => Stage.noConfusion) (k.abandonSlot _ _ h)
  · exact k.respond _ _ _ _ h
  · exact k.respond _ _ _ _ h

theorem takeAbort (p : Port) (t : Tag) (x : Header) (h : P c) : P (takeAbort p t x c) := by
  unfold Machine.takeAbort
  have hset := k.handed p t .abort (items x.list) none h
  dsimp only
  split
  · exact k.abortTarget _ _ _ hset
  · exact k.respond _ _ _ _ hset

theorem transferExpiry (p : Port) (t : Tag) (h : P c) : P (transferExpiry p t c) := by
  unfold Machine.transferExpiry
  split
  · exact k.concludes (fun hd => k.respond _ _ _ _ hd) (k.freedSlot _ h)
  · exact h

/-- The end of a delivery: its frames, its pages back, its answer. -/
theorem deliveryAnswered (p : Port) (t : Tag) {d : DataRec} {pages : List PageNo} (hd : c.dataRecord p t = some d)
    (hs : d.stage = .delivering pages) (hopen : c.isOpen p = true) (h : P c) :
    P (Machine.respond p t .ok [] (Machine.returnPages pages (Machine.emitData p t pages pages.length c))) := by
  have hends := k.deliveryEnded p t hd hs h
  rw [Laws.emitData_all]
  unfold Machine.respond
  split
  · unfold Machine.reply Machine.sendPort
    split
    · exact k.frames _ _ hends
    · exact k.frames _ _ hends
  · rename_i hclosed
    exact absurd hopen hclosed

theorem deliveryDone (p : Port) (t : Tag) (h : P c) : P (deliveryDone p t c) := by
  unfold Machine.deliveryDone
  split
  · rename_i pages hstage
    obtain ⟨d, hd, hs⟩ := Option.map_eq_some_iff.1 hstage
    split
    · rename_i hopen
      exact k.arbitrate (k.deliveryAnswered p t hd hs hopen h)
    · exact h
  · exact h

/-! ### Management requests -/

theorem answer (a : Asked) (o : Outcome) (d : List Word) (h : P c) : P (a.answer o d c) := k.respond _ _ _ _ h

theorem notPrivileged (a : Asked) (w : Option WindowNo) (h : P c) : P (a.notPrivileged w c) :=
  k.answer a _ _ (k.refused _ _ _ _ _ _ h)

theorem adminOnly {take : Asked → Chip → Chip} (a : Asked) (ht : P (take a c)) (h : P c) : P (adminOnly take a c) := by
  unfold Machine.adminOnly
  split
  · exact ht
  · exact k.notPrivileged _ _ h

theorem emptyList {take : Asked → Chip → Chip} (a : Asked) (ht : P (take a c)) (h : P c) : P (emptyList take a c) := by
  unfold Machine.emptyList
  split
  · exact ht
  · exact k.answer _ _ _ h

theorem unlessFault {take : Asked → Chip → Chip} (a : Asked) (ht : P (take a c)) (h : P c) :
    P (unlessFault take a c) := by
  unfold Machine.unlessFault
  split
  · exact k.answer _ _ _ h
  · exact ht

theorem editing {α : Type} (parse : List Word → Option α) {take : α → Configuration → Asked → Chip → Chip} (a : Asked)
    (ht : ∀ x cfg, P (take x cfg a c)) (h : P c) : P (editing parse take a c) := by
  refine k.unlessFault a ?_ h
  split
  · exact k.answer _ _ _ h
  · split
    · exact k.answer _ _ _ h
    · exact ht _ _

theorem edited (cfg : Configuration) (a : Asked) (h : P c) : P (edited cfg a c) := k.answer _ _ _ (k.setStaging _ h)

theorem takeStageBegin (a : Asked) (h : P c) : P (takeStageBegin a c) := by
  refine k.unlessFault a ?_ h
  have hboth (mayBegin : Bool) : P (if !mayBegin then a.answer .stagingBusy [] c
      else if a.list ≠ [] then a.answer .badRequest [] c else Machine.edited c.map.active a c) := by
    split
    · exact k.answer _ _ _ h
    split
    · exact k.answer _ _ _ h
    · exact k.edited _ _ h
  exact hboth _

theorem takeStageRead (a : Asked) (h : P c) : P (takeStageRead a c) := by
  refine k.unlessFault a ?_ h
  split
  · exact k.answer _ _ _ h
  · split
    · exact k.answer _ _ _ h
    · exact k.answer _ _ _ h

theorem takeCommit (persist : Bool) (cfg : Configuration) (a : Asked) (h : P c) : P (takeCommit persist cfg a c) := by
  unfold Machine.takeCommit
  split
  · exact k.answer _ _ _ h
  · exact k.conclude_id (k.commit _ _ h)

theorem drainExpiry (h : P c) : P (drainExpiry c) := by
  unfold Machine.drainExpiry
  split
  · exact k.answerCommit _ _ _ (k.endCommit _ h)
  · exact h
  · exact h

theorem createHold (a : Asked) (q : PlaceParams) (w : Window) (hroom : c.holdsFull q.cls = false) (h : P c) :
    P (createHold a q w c) := by
  unfold Machine.createHold
  exact k.concludes (each_keeps (fun x _ hc => k.respond _ _ _ _ hc) _)
    (each_keeps (fun x _ hc => k.dequeued _ _ hc) _ (k.oneHold _ hroom rfl h))

theorem takeHoldPlace (a : Asked) (h : P c) : P (takeHoldPlace a c) := by
  unfold Machine.takeHoldPlace
  cases placeParams a.list with
  | none => exact k.answer _ _ _ h
  | some q =>
    dsimp only
    split
    · exact k.notPrivileged _ _ h
    split
    · exact k.answer _ _ _ h
    · exact k.answer _ _ _ h
    · split
      · exact k.answer _ _ _ h
      · rename_i hverdict
        exact k.createHold a q _ (room_of_verdict hverdict) h

theorem releaseHold (a : Asked) (x : Hold) (h : P c) : P (releaseHold a x c) := by
  unfold Machine.releaseHold
  have hremoved := k.removeHold x h
  dsimp only
  refine k.answer _ _ _ ?_
  split
  · exact k.answerPlacement _ _ _ hremoved
  · exact hremoved
  · exact hremoved

theorem takeHoldRelease (a : Asked) (h : P c) : P (takeHoldRelease a c) := by
  unfold Machine.takeHoldRelease
  split
  · exact k.answer _ _ _ h
  split
  · exact k.answer _ _ _ h
  split
  · exact k.answer _ _ _ h
  split
  · exact k.releaseHold _ _ h
  · exact k.notPrivileged _ _ h

theorem expireHold (id : Nat) (h : P c) : P (expireHold id c) := by
  unfold Machine.expireHold
  split
  · split
    · exact k.removeHold _ h
    · exact h
    · exact h
    · exact h
  · exact h

theorem toControl (kind : ReqKind) (p : Port) (r : Request) {take : Asked → Chip → Chip}
    (ht : ∀ a {d : Chip}, P d → P (take a d)) (h : P c) : P (toControl kind p r take c) :=
  k.intake p r _ (fun _ => ht _ (k.handed _ _ _ _ _ h)) h

theorem placeBlock (r : SlotRec) (n : Nat) (b : Block) (h : P c) : P (placeBlock r n b c) := by
  unfold Machine.placeBlock
  split
  · split
    · exact k.filled _ _ h
    · exact h
  · split
    · exact k.setArea _ _ h
    · exact h

omit k in
theorem placeBlock_slot (r : SlotRec) (n : Nat) (b : Block) (c : Chip) : (Machine.placeBlock r n b c).slot = c.slot := by
  unfold Machine.placeBlock
  split
  · split <;> rfl
  · split
    · rename_i x _
      cases x <;> rfl
    · rfl

theorem startDelivery (p : Port) (t : Tag) (i : SlotNo) {r : SlotRec} (hr : c.slot i = some r) (h : P c) :
    P (startDelivery p t i r c) :=
  k.concludes (fun hd => k.answerAbort _ _ _ hd) (k.handedOver p t i hr h)

theorem portComplete (i : SlotNo) (status : MediaStatus) (p : Port) {r : SlotRec} (hr : c.slot i = some r) (h : P c) :
    P (portComplete i status p r c) := by
  unfold Machine.portComplete
  split
  · exact k.conclude_id (k.freedSlot _ h)
  · split
    · exact k.startDelivery _ _ _ hr h
    · exact k.concludes (fun hd => k.answerOwner _ _ _ _ _ hd) (k.freedSlot _ h)

theorem closeFrame (p : Port) (h : P c) :
    P (if c.isOpen p then Machine.closeSession .close p c else Machine.noSession p none c) := by
  split
  · exact k.closeSession _ trivial h
  · exact k.noSession _ _ h

end KeptInEvent

namespace Kept

variable {P : Chip → Prop} {c : Chip} (k : Kept P)
include k

theorem returnJob (h : P c) : P (returnJob c) := by
  unfold Machine.returnJob
  split
  · exact k.modJobs _ ⟨rfl, rfl, rfl, fun _ hj => by cases hj⟩ h
  all_goals exact h

theorem joinReset (a : Asked) (h : P c) : P (joinReset a c) := by
  unfold Machine.joinReset
  split
  · exact k.answer _ _ _ (k.takeFree h)
  · exact k.takeFree h

theorem reachPorts (waiting : List Instr) (p : Port) (h : P c) : P (reachPorts waiting p c) := by
  unfold Machine.reachPorts
  have hreached (l : List Port) := k.resetPorts (ports := l) (fun _ _ _ => trivial) (k.takeFree h)
  dsimp only
  split
  · exact hreached _
  · exact k.resetPorts (fun _ _ _ => trivial) (hreached _)

theorem takeResetBridge (hmark : ∀ d : Chip, P d → P (d.modCfg fun u => { u with resetMark := true }))
    (waiting : List Instr) (a : Asked) (h : P c) : P (takeResetBridge waiting a c) := by
  have hbegun : P (if c.cfg.resetMark then Machine.joinReset a c else Machine.beginReset (a.answer .ok [] c)) := by
    split
    · exact k.joinReset _ h
    · exact k.modArb _ rfl (hmark _ (k.answer _ _ _ h))
  have hreturned := k.returnJob hbegun
  unfold Machine.takeResetBridge
  by_cases hidle : (Machine.returnJob
      (if c.cfg.resetMark then Machine.joinReset a c else Machine.beginReset (a.answer .ok [] c))).cfg.writer = .idle
  · exact (if_pos hidle).symm ▸ k.finishReset hreturned
  · exact (if_neg hidle).symm ▸ k.reachPorts waiting a.port hreturned

/-! ### The M-link -/

theorem mlinkUp (h : P c) : P (mlinkUp c) := by
  unfold Machine.mlinkUp
  have hset := k.setMlink .up h
  dsimp only
  split
  · exact k.sendLinkReset (k.setBringUp _ hset)
  all_goals exact hset

theorem mlinkDown (h : P c) : P (mlinkDown c) := by
  unfold Machine.mlinkDown
  have hset := k.setMlink .down h
  dsimp only
  split
  · rename_i hb
    exact k.startRecovery hb hset
  · exact k.setBringUp _ hset
  · exact k.setBringUp _ hset
  · exact k.bringUpAgain hset
  · exact hset
  · exact hset

theorem linkReadyTaken (h : P c) : P (linkReadyTaken c) := by
  unfold Machine.linkReadyTaken
  split
  · exact k.sendMedia _ (k.setBringUp _ h)
  all_goals exact h

theorem identifyTaken (capacity : Word) (slots : Byte) (h : P c) : P (identifyTaken capacity slots c) := by
  unfold Machine.identifyTaken
  split
  · split
    · exact k.bringUpDone _ _ h
    · exact k.attemptFailed h
  all_goals exact h

theorem attemptExpiry (h : P c) : P (attemptExpiry c) := by
  unfold Machine.attemptExpiry
  split
  · exact k.attemptFailed h
  · exact h

theorem mediaDataTaken (i : SlotNo) (n : Nat) (b : Block) (h : P c) : P (mediaDataTaken i n b c) := by
  unfold Machine.mediaDataTaken
  split
  · split
    · rename_i r hr
      split
      · exact k.protocolError h
      split
      · exact h
      · exact k.keptSlot i ((congrFun (KeptInEvent.placeBlock_slot r n b c) i).trans hr) ⟨rfl, rfl, rfl⟩ (k.placeBlock _ _ _ h)
    · exact k.protocolError h
  · exact h

theorem configComplete (i : SlotNo) (status : MediaStatus) (r : SlotRec) (h : P c) :
    P (configComplete i status r c) := by
  unfold Machine.configComplete
  have hfree := k.freedSlot i h
  dsimp only
  split
  · refine k.conclude_id (k.resumeReset ?_)
    split
    · exact k.writeSucceeded hfree
    · exact k.writeFailed (fun _ h => by cases h) hfree
  split
  · split
    · refine k.nextStartStep ?_
      split
      · exact k.judgeCopy _ hfree
      · exact k.setMark _ _ hfree
    · exact hfree
  · exact hfree

theorem endTimeout (i : SlotNo) (r : SlotRec) (h : P c) : P (endTimeout i r c) := by
  unfold Machine.endTimeout
  have hfree := k.freedSlot i h
  dsimp only
  split
  · exact k.conclude_id hfree
  · split
    · exact k.conclude_id (k.resumeReset (k.setWriter (fun _ h => by cases h) hfree))
    split
    · exact k.nextStartStep hfree
    · exact hfree

theorem countLate (i : SlotNo) (r : SlotRec) (h : P c) : P (countLate i r c) := by
  unfold Machine.countLate
  split
  · split
    · exact h
    · exact k.modMlink _ rfl ⟨.inr rfl, .inl rfl, .inl rfl⟩ h
  · exact h

theorem commandComplete (i : SlotNo) (status : MediaStatus) {r : SlotRec} (hr : c.slot i = some r) (h : P c) :
    P (commandComplete i status r c) := by
  unfold Machine.commandComplete
  split
  · exact k.portComplete _ _ _ hr h
  · exact k.configComplete _ _ _ h

theorem completeTaken (i : SlotNo) (status : MediaStatus) (h : P c) : P (completeTaken i status c) := by
  unfold Machine.completeTaken
  split
  · split
    · rename_i hr
      split
      · exact k.protocolError h
      · exact k.commandComplete _ _ hr h
      · exact k.commandComplete _ _ hr h
      · exact k.endTimeout _ _ (k.countLate _ _ h)
    · exact k.protocolError h
  · exact h

theorem abandonAckTaken (i : SlotNo) (h : P c) : P (abandonAckTaken i c) := by
  unfold Machine.abandonAckTaken
  split
  · split
    · split
      · exact k.protocolError h
      · exact k.protocolError h
      · exact k.concludes (fun hd => k.answerOwner _ _ _ _ _ hd) (k.freedSlot _ h)
      · exact k.endTimeout _ _ h
    · exact k.protocolError h
  · exact h

theorem responseExpiry (i : SlotNo) (h : P c) : P (responseExpiry i c) := by
  unfold Machine.responseExpiry
  split
  · rename_i r _
    split
    · have habandoned := k.abandonSlot i .timeout (k.disown i h)
      dsimp only
      split
      · exact k.respond _ _ _ _ habandoned
      · exact habandoned
      · split
        · exact k.writeFailed (fun _ h => by cases h) habandoned
        · exact k.readLost habandoned
    · exact h
    · exact h
  · exact h

theorem abandonExpiry (i : SlotNo) (h : P c) : P (abandonExpiry i c) := by
  unfold Machine.abandonExpiry
  split
  · split
    · split
      · rename_i hb
        exact k.startRecovery hb h
      split
      · exact k.bringUpAgain h
      · exact h
    · exact h
    · exact h
  · exact h

end Kept

/-- What the actions outside the single changes must keep too: a link report, a counted check failure, an accepted OPEN. -/
structure KeptOutside (P : Chip → Prop) : Prop where
  linked : ∀ {c : Chip} (p : Port) (l : LinkState), P c → P (setLink p l c)
  checkFailed : ∀ {c : Chip} (p : Port),
    P c → P (c.modPort p fun pc => { pc with checkFails := saturatingSucc Config.saturate16 pc.checkFails })
  opened : ∀ {c : Chip} (p : Port), (c.ports.get p).session = .down → c.cfg.bridge ≠ .start → c.cfg.resetMark = false →
    P c → P (c.modPort p fun pc => { pc with session := .opened, delivered := c.map.epoch, flags := Flags.clear })

/-- What the commands of the M-link must keep: those that can change the bridge state are among them. -/
structure KeptByMlink (P : Chip → Prop) : Prop where
  linkUp : ∀ {c : Chip}, P c → P (mlinkUp c)
  linkDown : ∀ {c : Chip}, P c → P (mlinkDown c)
  checkFailed : ∀ {c : Chip},
    P c → P (c.modMlink fun m => { m with checkFails := saturatingSucc Config.saturate16 m.checkFails })
  linkReady : ∀ {c : Chip}, P c → P (linkReadyTaken c)
  identified : ∀ {c : Chip} (capacity : Word) (slots : Byte), P c → P (identifyTaken capacity slots c)
  attemptExpired : ∀ {c : Chip}, P c → P (attemptExpiry c)
  protocolError : ∀ {c : Chip}, P c → P (protocolError c)
  mediaData : ∀ {c : Chip} (i : SlotNo) (n : Nat) (b : Block), P c → P (mediaDataTaken i n b c)
  completed : ∀ {c : Chip} (i : SlotNo) (status : MediaStatus), P c → P (completeTaken i status c)
  abandonAcked : ∀ {c : Chip} (i : SlotNo), P c → P (abandonAckTaken i c)
  responseExpired : ∀ {c : Chip} (i : SlotNo), P c → P (responseExpiry i c)
  abandonExpired : ∀ {c : Chip} (i : SlotNo), P c → P (abandonExpiry i c)

namespace KeptInEvent

variable {P : Chip → Prop} {c : Chip} (k : KeptInEvent P) (o : KeptOutside P)
include k o

theorem answerOpen (p : Port) (revision : Option Byte) (h : P c) : P (answerOpen p revision c) := by
  unfold Machine.answerOpen
  split
  · rename_i hdown
    split
    · exact k.sendPort _ _ h
    split
    · exact k.sendPort _ _ h
    · rename_i hready
      have hmark : c.cfg.resetMark = false := by
        rw [← Bool.not_eq_true]
        exact fun hm => hready (.inr hm)
      exact k.sendPort _ _ (o.opened p hdown (fun hs => hready (.inl hs)) hmark h)
  · exact k.sendPort _ _ h
  · exact k.sendPort _ _ h

/-- The action of every command keeps what the changes of an event, the commands of the M-link and RESET-BRIDGE keep. -/
theorem action (m : KeptByMlink P) (waiting : List Instr) (i : Instr)
    (hreset : (∀ p r, i ≠ .resetBridge p r) ∨ ∀ a {d : Chip}, P d → P (takeResetBridge waiting a d))
    (h : P c) : P (action waiting i c) := by
  cases i
  case plinkLinkUp p => exact o.linked p .up h
  case plinkLinkDown p => exact k.closeSession _ (p := p) trivial (o.linked p .down h)
  case plinkCheckFail p => exact KeptInEvent.received p (take := fun c => c.modPort p fun pc =>
    { pc with checkFails := saturatingSucc Config.saturate16 pc.checkFails }) (fun _ => o.checkFailed p h) h
  case openFrame p revision => exact KeptInEvent.received p (fun _ => k.answerOpen o p revision h) h
  case closeFrame p =>
    change P (Machine.received p
      (fun c => if c.isOpen p then Machine.closeSession .close p c else Machine.noSession p none c) c)
    exact KeptInEvent.received p (fun _ => k.closeFrame p h) h
  case dataFrame p d => exact KeptInEvent.received p (fun _ => k.takeData p d h) h
  case read p r => exact k.dataRequest .read p r h
  case write p r => exact k.dataRequest .write p r h
  case discard p r => exact k.dataRequest .discard p r h
  case flush p r => exact k.dataRequest .flush p r h
  case abort p r => exact k.intake p r _ (fun x => k.takeAbort p r.tag x h) h
  case mapRead p r =>
    exact k.toControl _ p r (fun a _ hd => k.emptyList a (k.answer _ _ _ (k.delivered _ hd)) hd) h
  case holdList p r =>
    exact k.toControl _ p r (fun a _ hd => k.emptyList a (k.answer _ _ _ (k.cleared _ _ (by decide) hd)) hd) h
  case statusRead p r =>
    exact k.toControl _ p r (fun a _ hd => k.emptyList a (k.answer _ _ _ (k.cleared _ _ (by decide) hd)) hd) h
  case logRead p r =>
    exact k.toControl _ p r (fun a _ hd => k.adminOnly a (k.emptyList a (k.answer _ _ _ hd) hd) hd) h
  case logClear p r =>
    exact k.toControl _ p r (fun a _ hd => k.adminOnly a (k.emptyList a (k.answer _ _ _ (k.emptied hd)) hd) hd) h
  case resetBridge p r =>
    have hreset := hreset.resolve_left fun h => h p r rfl
    exact k.toControl _ p r
      (fun a _ hd => k.adminOnly a (k.emptyList a (hreset a hd) hd) hd) h
  case holdPlace p r => exact k.toControl _ p r (fun a _ hd => k.takeHoldPlace a hd) h
  case holdRelease p r => exact k.toControl _ p r (fun a _ hd => k.takeHoldRelease a hd) h
  case stageBegin p r => exact k.toControl _ p r (fun a _ hd => k.adminOnly a (k.takeStageBegin a hd) hd) h
  case stageWindow p r =>
    exact k.toControl _ p r (fun a _ hd => k.adminOnly a (k.editing _ a (fun _ _ => k.edited _ a hd) hd) hd) h
  case stageDrop p r =>
    exact k.toControl _ p r (fun a _ hd => k.adminOnly a (k.editing _ a (fun _ _ => k.edited _ a hd) hd) hd) h
  case stagePort p r =>
    exact k.toControl _ p r (fun a _ hd => k.adminOnly a (k.editing _ a (fun _ _ => k.edited _ a hd) hd) hd) h
  case stageParams p r =>
    exact k.toControl _ p r (fun a _ hd => k.adminOnly a (k.editing _ a (fun _ _ => k.edited _ a hd) hd) hd) h
  case stageRead p r => exact k.toControl _ p r (fun a _ hd => k.adminOnly a (k.takeStageRead a hd) hd) h
  case stageAbandon p r =>
    exact k.toControl _ p r
      (fun a _ hd => k.adminOnly a (k.editing _ a (fun _ _ => k.answer _ _ _ (k.setStaging _ hd)) hd) hd) h
  case commit p r =>
    exact k.toControl _ p r
      (fun a _ hd => k.adminOnly a (k.editing _ a (fun persist cfg => k.takeCommit persist cfg a hd) hd) hd) h
  case transferTimeout p t => exact k.transferExpiry p t h
  case lastDataFrameSent p t => exact k.deliveryDone p t h
  case mlinkLinkUp => exact m.linkUp h
  case mlinkLinkDown => exact m.linkDown h
  case mlinkCheckFail => exact m.checkFailed h
  case linkReady => exact m.linkReady h
  case identifyReply capacity slots => exact m.identified capacity slots h
  case mediaData i n b => exact m.mediaData i n.toNat b h
  case complete i status => exact m.completed i status h
  case abandonAck i => exact m.abandonAcked i h
  case responseTimerExpiry i => exact m.responseExpired i h
  case abandonTimerExpiry i => exact m.abandonExpired i h
  case attemptLimitExpiry => exact m.attemptExpired h
  case drainLimitExpiry => exact k.drainExpiry h
  case holdExpiry id => exact k.expireHold id h
  case unknownMediaFrameKind frame => exact m.protocolError h
  case unknownRequestKind p tag kind =>
    cases tag with
    | none => exact h
    | some t => exact k.intake p ⟨t, none⟩ (fun _ => false) (take := fun _ c => c) (fun _ => h) h
  case coldReset | rstnRelease | unknownKind => exact h

end KeptInEvent

namespace Kept

variable {P : Chip → Prop} {c : Chip} (k : Kept P)
include k

theorem byMlink : KeptByMlink P where
  linkUp h := k.mlinkUp h
  linkDown h := k.mlinkDown h
  checkFailed h := k.modMlink _ rfl ⟨.inl rfl, .inl rfl, .inr rfl⟩ h
  linkReady h := k.linkReadyTaken h
  identified capacity slots h := k.identifyTaken capacity slots h
  attemptExpired h := k.attemptExpiry h
  protocolError h := k.protocolError h
  mediaData i n b h := k.mediaDataTaken i n b h
  completed i status h := k.completeTaken i status h
  abandonAcked i h := k.abandonAckTaken i h
  responseExpired i h := k.responseExpiry i h
  abandonExpired i h := k.abandonExpiry i h

variable (o : KeptOutside P)
include o

/-- The action of every command keeps what the single changes keep; that of RESET-BRIDGE sets the reset mark besides. -/
theorem action (waiting : List Instr) (i : Instr)
    (hmark : (∀ p r, i ≠ .resetBridge p r) ∨ ∀ d : Chip, P d → P (d.modCfg fun u => { u with resetMark := true }))
    (h : P c) : P (action waiting i c) :=
  k.toKeptInEvent.action o k.byMlink waiting i (hmark.imp_right fun hm a _ hd => k.takeResetBridge hm waiting a hd) h

/-- Every step keeps what the single changes, the actions outside them and the commands of the pin keep. -/
theorem step {s t : State} (hmark : ∀ d : Chip, P d → P (d.modCfg fun u => { u with resetMark := true }))
    (htick : ∀ d : Chip, P d → P (tickChip d)) (hcold : ∀ d : Chip, P (coldChip d))
    (hstart : ∀ d : Chip, P d → P (Keeping.started d)) (hstep : Machine.step s = .next t) (h : P s.chip) :
    P t.chip := by
  rcases step_cases hstep with ⟨-, rfl⟩ | ⟨i, rest, -, ⟨-, rfl⟩ | ⟨-, -, rfl⟩ | ⟨-, -, -, rfl⟩ | ⟨-, rfl, -⟩⟩
  · unfold tick
    split
    · exact htick _ h
    · exact h
  · exact hcold _
  · exact k.enterStart (hstart _ h)
  · exact k.action o rest i (.inr hmark) h
  · exact h

end Kept
end Sys2Proof.Keeping
end

section
/-! SUPPORT. The invariants that every single change keeps by itself: the log and the counts (R48, R115, R192, R193), the
notice flags (R68), the hold table (R21, R25). -/

namespace Sys2Proof.Keeping

open Sys2Proof.Machine Sys2Proof.Safety Sys2Proof.Commands

/-! ### What a swap leaves alone -/

theorem swapped_map (cfg : Configuration) (c : Chip) : (swapped cfg c).map =
    { c.map with active := cfg, epoch := c.map.epoch + 1, staging := .empty, commit := .idle } :=
  (Laws.eachPort_proj (fun c => c.map) _ (by intro p c; split <;> simp) _).trans (by simp)

theorem swapped_hold (cfg : Configuration) (c : Chip) : (swapped cfg c).hold = c.hold :=
  (Laws.eachPort_proj (fun c => c.hold) _ (by intro p c; split <;> simp) _).trans (by simp)

theorem swapped_mlink (cfg : Configuration) (c : Chip) : (swapped cfg c).mlink = c.mlink :=
  (Laws.eachPort_proj (fun c => c.mlink) _ (by intro p c; split <;> simp) _).trans (by simp)

theorem swapped_cfg (cfg : Configuration) (c : Chip) : (swapped cfg c).cfg = c.cfg :=
  (Laws.eachPort_proj (fun c => c.cfg) _ (by intro p c; split <;> simp) _).trans (by simp)

theorem swapped_ctl (cfg : Configuration) (c : Chip) : (swapped cfg c).ctl = c.ctl :=
  (Laws.eachPort_proj (fun c => c.ctl) _ (by intro p c; split <;> simp) _).trans (by simp)

theorem forall_modify {α : Type} {R : α → Prop} {t : PerPort α} {p : Port} {f : α → α} (h : ∀ q, R (t.get q))
    (hf : R (t.get p) → R (f (t.get p))) (q : Port) : R ((t.modify p f).get q) := by
  rw [Laws.PerPort.get_modify]
  split
  · rename_i hq
    subst hq
    exact hf (h q)
  · exact h q

theorem saturatingSucc_le (greatest n : Nat) : saturatingSucc greatest n ≤ greatest := Nat.min_le_left _ _

/-! ### The log and the counts -/

/-- The log and its counts in range (R192, R193). -/
def LogFits (c : Chip) : Prop := c.ctl.log.length ≤ 16 ∧ c.ctl.overflow ≤ 255 ∧ c.ctl.persistFailures ≤ 255

theorem logFits_fine : KeptFine LogFits where
  frames _ _ h := h
  tags _ _ h := h
  inFlight _ _ h := h
  raised _ _ _ _ h := h
  cleared _ _ _ h := h
  delivered p h := by unfold LogFits; rw [Laws.deliver_ctl]; exact h
  left _ _ h := h
  closed _ _ _ h := h
  usage _ _ h := h
  commit _ _ h := h
  swapped cfg h := by unfold LogFits; rw [swapped_ctl]; exact h
  holds _ _ h := h
  fewerHolds _ h := h
  oneChanged _ _ h := h
  oneHold _ _ _ h := h
  arb _ h := h
  pool _ h := h
  mlink _ _ h := h
  jobs _ _ h := h
  advanced _ _ h := h
  recovering _ h := h
  serving _ h := h
  faulted h := h
  started _ h := h
  loaded _ _ _ _ h := h
  refused p t k w o b h := by
    obtain ⟨hlog, hover, hfail⟩ := h
    rw [Laws.logRefusal_eq]
    unfold LogFits logged withEntry
    split
    · exact ⟨by simp only [List.length_append, List.length_singleton]; omega, hover, hfail⟩
    · refine ⟨?_, Nat.min_le_left _ _, hfail⟩
      simp only [List.length_append, List.length_tail, List.length_singleton]
      omega
  emptied h := ⟨Nat.zero_le _, Nat.zero_le _, h.2.2⟩
  failed h := ⟨h.1, h.2.1, saturatingSucc_le _ _⟩
  logTime _ h := h

theorem logFits_kept : Kept LogFits := logFits_fine.kept

theorem logFits_outside : KeptOutside LogFits where
  linked _ _ h := h
  checkFailed _ h := h
  opened _ _ _ _ h := h

/-- The saturating counts in range (R48, R115). -/
def CountsFit (c : Chip) : Prop :=
  (∀ p, (c.ports.get p).checkFails ≤ 65535) ∧ c.mlink.lateCompletions ≤ 65535 ∧ c.mlink.recoveries ≤ 255 ∧
    c.mlink.checkFails ≤ 65535

theorem countsFit_modify {c : Chip} (p : Port) {f : PortCtl → PortCtl} (h : CountsFit c)
    (hf : ∀ pc, pc.checkFails ≤ 65535 → (f pc).checkFails ≤ 65535) : CountsFit (c.modPort p f) :=
  ⟨forall_modify (R := fun pc : PortCtl => pc.checkFails ≤ 65535) h.1 (hf _), h.2⟩

theorem compared_checkFails (e : Word) (pc : PortCtl) : (compared e pc).checkFails = pc.checkFails := by
  unfold compared
  split
  · rfl
  · split <;> rfl

theorem countsFit_fine : KeptFine CountsFit where
  frames _ _ h := h
  tags p _ h := countsFit_modify p h fun _ h => h
  inFlight p _ h := countsFit_modify p h fun _ h => h
  raised _ p _ _ h := countsFit_modify p h fun _ h => h
  cleared _ p _ h := countsFit_modify p h fun _ h => h
  delivered p h := by rw [Management.deliver_epoch]; exact countsFit_modify p h fun _ h => h
  left _ p h := countsFit_modify p h fun _ h => h
  closed _ p _ h := countsFit_modify p h fun _ h => h
  usage _ _ h := h
  commit _ _ h := h
  swapped cfg h := by
    refine ⟨fun q => ?_, by rw [swapped_mlink]; exact h.2⟩
    rw [swapped_port]
    split
    · rw [compared_checkFails]
      exact h.1 q
    · exact h.1 q
  holds _ _ h := h
  fewerHolds _ h := h
  oneChanged _ _ h := h
  oneHold _ _ _ h := h
  arb _ h := h
  pool _ h := h
  mlink m hm h := by
    obtain ⟨hlate, hrecoveries, hfails⟩ := hm
    obtain ⟨hports, hl, hr, hf⟩ := h
    refine ⟨hports, ?_, ?_, ?_⟩
    · rcases hlate with e | e <;> rw [e]
      · exact hl
      · exact saturatingSucc_le _ _
    · rcases hrecoveries with e | e <;> rw [e]
      · exact hr
      · exact saturatingSucc_le _ _
    · rcases hfails with e | e <;> rw [e]
      · exact hf
      · exact saturatingSucc_le _ _
  jobs _ _ h := h
  advanced _ _ h := h
  recovering _ h := h
  serving _ h := h
  faulted h := h
  started _ h := h
  loaded _ _ _ _ h := h
  refused _ _ _ _ _ _ h := h
  emptied h := h
  failed h := h
  logTime _ h := h

theorem countsFit_kept : Kept CountsFit := countsFit_fine.kept

theorem countsFit_outside : KeptOutside CountsFit where
  linked p _ h := countsFit_modify p h fun _ h => h
  checkFailed p h := countsFit_modify p h fun _ _ => saturatingSucc_le _ _
  opened p _ _ _ h := countsFit_modify p h fun _ h => h

/-- A cold reset leaves only the frames sent and the index of the next free value. -/
theorem coldChip_keeps {P : Chip → Prop} (h : ∀ x n, P { Chip.reset with sent := x, free := n }) (c : Chip) :
    P (coldChip c) := by
  rw [PinAndTime.coldChip_quiet]
  exact h _ _

/-- Settles O6: no single change takes the log or a count out of range. -/
theorem stepKeepsLogAndCountsInRange : Obligations.StepKeepsLogAndCountsInRange := by
  unfold Obligations.StepKeepsLogAndCountsInRange
  intro s t hstep
  refine ⟨logFits_kept.step logFits_outside (fun _ h => h) (fun d h => ?_) (coldChip_keeps fun _ _ => ?_) (fun _ h => h) hstep,
    countsFit_kept.step countsFit_outside (fun _ h => h) (fun d h => ?_) (coldChip_keeps fun _ _ => ?_) (fun _ h => h) hstep⟩
  · unfold LogFits tickChip
    dsimp only
    split <;> exact h
  · exact ⟨Nat.zero_le _, Nat.zero_le _, Nat.zero_le _⟩
  · refine ⟨fun p => ?_, h.2⟩
    simp only [tickChip, PinAndTime.perPort_map_get]
    exact h.1 p
  · exact ⟨fun p => by cases p <;> exact Nat.zero_le _, Nat.zero_le _, Nat.zero_le _, Nat.zero_le _⟩

/-! ### The notice flags -/

/-- Outside OPEN the notice flags of a port are clear (R68). -/
def QuietFlags (pc : PortCtl) : Prop := pc.session ≠ .opened → pc.flags = Flags.clear

/-- So it is at every port. -/
def FlagsQuiet (c : Chip) : Prop := ∀ p, QuietFlags (c.ports.get p)

theorem flagsQuiet_fine : KeptFine FlagsQuiet where
  frames _ _ h := h
  tags p _ h := forall_modify h fun hp => hp
  inFlight p _ h := forall_modify h fun hp => hp
  raised _ p _ hopen h := forall_modify h fun _ hs => absurd hopen hs
  cleared f p _ h := forall_modify h fun hp hs => by
    dsimp only at hs ⊢
    rw [hp hs]
    cases f <;> rfl
  delivered p h := by
    rw [Management.deliver_epoch]
    refine forall_modify h fun hp hs => ?_
    dsimp only at hs ⊢
    rw [hp hs]
    rfl
  left _ p h := forall_modify h fun _ _ => rfl
  closed reason p hs h := forall_modify h fun hp _ => hp (by rw [hs]; exact Session.noConfusion)
  usage _ _ h := h
  commit _ _ h := h
  swapped cfg {c} h q := by
    rw [swapped_port]
    split
    · rename_i hopen
      intro hs
      rw [compared_session] at hs
      exact absurd hopen hs
    · exact h q
  holds _ _ h := h
  fewerHolds _ h := h
  oneChanged _ _ h := h
  oneHold _ _ _ h := h
  arb _ h := h
  pool _ h := h
  mlink _ _ h := h
  jobs _ _ h := h
  advanced _ _ h := h
  recovering _ h := h
  serving _ h := h
  faulted h := h
  started _ h := h
  loaded _ _ _ _ h := h
  refused _ _ _ _ _ _ h := h
  emptied h := h
  failed h := h
  logTime _ h := h

theorem flagsQuiet_kept : Kept FlagsQuiet := flagsQuiet_fine.kept

theorem flagsQuiet_outside : KeptOutside FlagsQuiet where
  linked _ _ h := forall_modify h fun hp => hp
  checkFailed _ h := forall_modify h fun hp => hp
  opened _ _ _ _ h := forall_modify h fun _ hs => absurd rfl hs

theorem step_keeps_flagsOnlyInOpen {s t : State} (hstep : step s = .next t) (h : FlagsOnlyInOpen s) :
    FlagsOnlyInOpen t := by
  refine flagsQuiet_kept.step flagsQuiet_outside (fun _ h => h) (fun {d} h q => ?_) (coldChip_keeps fun _ _ q => ?_)
    (fun _ h => h) hstep h
  · simp only [tickChip, PinAndTime.perPort_map_get]
    exact h q
  · intro _
    cases q <;> rfl

end Sys2Proof.Keeping
end

section
/-! SUPPORT. The MAP notice (R68) and the reset mark (R57, R179, R180). -/

namespace Sys2Proof.Keeping

open Sys2Proof.Machine Sys2Proof.Safety Sys2Proof.Commands

/-! ### The MAP notice -/

/-- A port under a bridge state and an epoch: not OPEN in START, and MAP set exactly when the epoch is not the delivered
one. -/
def MapPort (bridge : BridgeState) (epoch : Word) (pc : PortCtl) : Prop :=
  (bridge = .start → pc.session ≠ .opened) ∧ (pc.session = .opened → (pc.flags.map = true ↔ epoch ≠ pc.delivered))

/-- So it is at every port, and a start-up step exists in START only. -/
def MapExact (c : Chip) : Prop :=
  (c.cfg.step ≠ none → c.cfg.bridge = .start) ∧ ∀ p, MapPort c.cfg.bridge c.map.epoch (c.ports.get p)

theorem mapExact_modify {c : Chip} (p : Port) {f : PortCtl → PortCtl} (h : MapExact c)
    (hf : MapPort c.cfg.bridge c.map.epoch (c.ports.get p) → MapPort c.cfg.bridge c.map.epoch (f (c.ports.get p))) :
    MapExact (c.modPort p f) := ⟨h.1, forall_modify h.2 hf⟩

/-- A port whose MAP has been compared. -/
theorem mapPort_compared {bridge : BridgeState} {e : Word} {pc : PortCtl} (h : bridge = .start → pc.session ≠ .opened) :
    MapPort bridge e (compared e pc) := by
  refine ⟨fun hb => by rw [compared_session]; exact h hb, fun hopen => ?_⟩
  rw [compared_session] at hopen
  unfold compared
  split
  · rename_i he
    simp [he]
  · rename_i he
    simp [Ne.symm he]

theorem mapPort_of_closed {bridge : BridgeState} {e : Word} {pc : PortCtl} (h : pc.session ≠ .opened) :
    MapPort bridge e pc := ⟨fun _ => h, fun ho => absurd ho h⟩

/-- A new bridge state other than START, the step gone. -/
theorem mapExact_bridge {c : Chip} {u : ConfigUnit} (hb : u.bridge ≠ .start) (hs : u.step = none) (h : MapExact c) :
    MapExact { c with cfg := u } :=
  ⟨fun hstep => absurd hs hstep, fun p => ⟨fun e => absurd e hb, (h.2 p).2⟩⟩

theorem mapExact_step {c : Chip} (h : MapExact c) (hb : c.cfg.bridge ≠ .start) : c.cfg.step = none := by
  by_contra hs
  exact hb (h.1 hs)

theorem mapExact_fine : KeptFine MapExact where
  frames _ _ h := h
  tags p _ h := mapExact_modify p h fun hp => hp
  inFlight p _ h := mapExact_modify p h fun hp => hp
  raised f p hf _ h := mapExact_modify p h fun hp => ⟨hp.1, by cases f <;> first | exact absurd rfl hf | exact hp.2⟩
  cleared f p hf h := mapExact_modify p h fun hp => ⟨hp.1, by cases f <;> first | exact absurd rfl hf | exact hp.2⟩
  delivered p h := by
    rw [Management.deliver_epoch]
    exact mapExact_modify p h fun hp => ⟨hp.1, fun _ => by simp⟩
  left reason p h := mapExact_modify p h fun _ => mapPort_of_closed Session.noConfusion
  closed _ p _ h := mapExact_modify p h fun _ => mapPort_of_closed Session.noConfusion
  usage _ _ h := h
  commit _ _ h := h
  swapped cfg h := by
    unfold MapExact
    rw [swapped_cfg, swapped_map]
    refine ⟨h.1, fun q => ?_⟩
    rw [swapped_port]
    split
    · exact mapPort_compared (h.2 q).1
    · rename_i hclosed
      exact mapPort_of_closed hclosed
  holds _ _ h := h
  fewerHolds _ h := h
  oneChanged _ _ h := h
  oneHold _ _ _ h := h
  arb _ h := h
  pool _ h := h
  mlink _ _ h := h
  jobs u hu h := by
    obtain ⟨hbridge, hstep, -, -⟩ := hu
    unfold MapExact
    rw [hbridge, hstep]
    exact h
  advanced x hs h := ⟨fun _ => h.1 hs, h.2⟩
  recovering hb h := mapExact_bridge BridgeState.noConfusion (mapExact_step h (by rw [hb]; decide)) h
  serving hb h := mapExact_bridge BridgeState.noConfusion (mapExact_step h (by rw [hb]; decide)) h
  faulted h := mapExact_bridge BridgeState.noConfusion rfl h
  started hclosed _ := ⟨fun _ => rfl, fun p => mapPort_of_closed (hclosed p)⟩
  loaded x r hs _ h :=
    ⟨fun hstep => absurd rfl hstep, fun p => mapPort_of_closed ((h.2 p).1 (h.1 (by rw [hs]; exact Option.some_ne_none _)))⟩
  refused _ _ _ _ _ _ h := h
  emptied h := h
  failed h := h
  logTime _ h := h

theorem mapExact_kept : Kept MapExact := mapExact_fine.kept

theorem mapExact_outside : KeptOutside MapExact where
  linked p _ h := mapExact_modify p h fun hp => hp
  checkFailed p h := mapExact_modify p h fun hp => hp
  opened p _ hb _ h := mapExact_modify p h fun _ => ⟨fun e => absurd e hb, fun _ => by simp [Flags.clear]⟩

theorem mapNoticeExact_iff (s : State) :
    MapNoticeExact s ↔ (s.rstn = .low → NoneOpen s.chip) ∧ MapExact s.chip := by
  constructor
  · rintro ⟨⟨hclosed, hstep⟩, hmap⟩
    exact ⟨fun hlow => hclosed (.inr hlow), hstep, fun p => ⟨fun hb => hclosed (.inl hb) p, hmap p⟩⟩
  · rintro ⟨hlow, hstep, hport⟩
    exact ⟨⟨fun hc p => hc.elim (fun hb => (hport p).1 hb) fun hl => hlow hl p, hstep⟩, fun p => (hport p).2⟩

theorem reset_session (p : Port) : (Chip.reset.ports.get p).session ≠ .opened := by
  cases p <;> exact Session.noConfusion

theorem coldChip_noneOpen (c : Chip) : NoneOpen (coldChip c) := coldChip_keeps (fun _ _ => reset_session) c

/-- Settles O8: each single change leaves MAP exact; an entry to START and a load meet no OPEN session. -/
theorem stepKeepsMapNoticeExact : Obligations.StepKeepsMapNoticeExact := by
  unfold Obligations.StepKeepsMapNoticeExact
  intro s t hs hstep
  obtain ⟨hlow, hexact⟩ := (mapNoticeExact_iff s).1 hs
  rw [mapNoticeExact_iff]
  rcases step_cases hstep with
    ⟨-, rfl⟩ | ⟨i, rest, -, ⟨-, rfl⟩ | ⟨-, hl, rfl⟩ | ⟨-, -, hhigh, rfl⟩ | ⟨-, rfl, -⟩⟩
  · unfold tick
    split
    · rename_i hhigh
      refine ⟨fun hl => absurd (hhigh.symm.trans hl) (by decide), hexact.1, fun p => ?_⟩
      simp only [tickChip, PinAndTime.perPort_map_get]
      exact hexact.2 p
    · exact ⟨hlow, hexact⟩
  · refine ⟨fun _ => coldChip_noneOpen _, ?_⟩
    exact coldChip_keeps (fun _ _ => ⟨fun _ => rfl, fun p => mapPort_of_closed (reset_session p)⟩) _
  · refine ⟨fun h => Level.noConfusion h, mapExact_kept.enterStart (mapExact_kept.started (hlow hl) hexact)⟩
  · refine ⟨fun h => absurd (hhigh.symm.trans h) (by decide), mapExact_kept.action mapExact_outside rest i ?_ hexact⟩
    exact .inr fun d h => h
  · exact ⟨hlow, hexact⟩

/-! ### The reset mark -/

/-- The reset mark is clear. -/
def Unmarked (c : Chip) : Prop := c.cfg.resetMark = false

theorem unmarked_fine : KeptFine Unmarked where
  frames _ _ h := h
  tags _ _ h := h
  inFlight _ _ h := h
  raised _ _ _ _ h := h
  cleared _ _ _ h := h
  delivered p h := by unfold Unmarked; rw [Laws.deliver_cfg]; exact h
  left _ _ h := h
  closed _ _ _ h := h
  usage _ _ h := h
  commit _ _ h := h
  swapped cfg h := by unfold Unmarked; rw [swapped_cfg]; exact h
  holds _ _ h := h
  fewerHolds _ h := h
  oneChanged _ _ h := h
  oneHold _ _ _ h := h
  arb _ h := h
  pool _ h := h
  mlink _ _ h := h
  jobs _ hu h := hu.2.2.1.trans h
  advanced _ _ h := h
  recovering _ h := h
  serving _ h := h
  faulted h := h
  started _ _ := rfl
  loaded _ _ _ _ h := h
  refused _ _ _ _ _ _ h := h
  emptied h := h
  failed h := h
  logTime _ h := h

theorem unmarked_kept : Kept Unmarked := unmarked_fine.kept

/-- Under the reset mark the writer does not wait for a slot (R179). -/
def WaitsForNoSlot (c : Chip) : Prop := c.cfg.resetMark = true → ∀ j, c.cfg.writer ≠ .awaitingSlot j

theorem waitsForNoSlot_fine : KeptFine WaitsForNoSlot where
  frames _ _ h := h
  tags _ _ h := h
  inFlight _ _ h := h
  raised _ _ _ _ h := h
  cleared _ _ _ h := h
  delivered p h := by unfold WaitsForNoSlot; rw [Laws.deliver_cfg]; exact h
  left _ _ h := h
  closed _ _ _ h := h
  usage _ _ h := h
  commit _ _ h := h
  swapped cfg h := by unfold WaitsForNoSlot; rw [swapped_cfg]; exact h
  holds _ _ h := h
  fewerHolds _ h := h
  oneChanged _ _ h := h
  oneHold _ _ _ h := h
  arb _ h := h
  pool _ h := h
  mlink _ _ h := h
  jobs u hu h := by
    obtain ⟨-, -, hmark, hwriter⟩ := hu
    intro hm j hj
    have hold := hmark.symm.trans hm
    rcases hwriter j hj with hw | hw
    · exact h hold j hw
    · exact absurd (hold.symm.trans hw) (by decide)
  advanced _ _ h := h
  recovering _ h := h
  serving _ h := h
  faulted _ := fun _ _ hj => by cases hj
  started _ _ := fun hm => by cases hm
  loaded _ _ _ _ h := h
  refused _ _ _ _ _ _ h := h
  emptied h := h
  failed h := h
  logTime _ h := h

theorem waitsForNoSlot_kept : Kept WaitsForNoSlot := waitsForNoSlot_fine.kept

/-- Under the reset mark no session is OPEN. -/
def ClosedUnderMark (c : Chip) : Prop := c.cfg.resetMark = true → NoneOpen c

theorem closedUnderMark_fine : KeptFine ClosedUnderMark where
  frames _ _ h := h
  tags p f h hm := noneOpen_fine.tags p f (h hm)
  inFlight p f h hm := noneOpen_fine.inFlight p f (h hm)
  raised f p hf ho h hm := noneOpen_fine.raised f p hf ho (h hm)
  cleared f p hf h hm := noneOpen_kept.cleared f p hf (h hm)
  delivered p h hm := noneOpen_kept.delivered p (h (by rwa [Laws.deliver_cfg] at hm))
  left reason p h hm := noneOpen_kept.left reason p trivial (h hm)
  closed reason p hs h hm := noneOpen_fine.closed reason p hs (h hm)
  usage _ _ h := h
  commit _ _ h := h
  swapped cfg h hm := noneOpen_kept.swapped cfg (h (by rwa [swapped_cfg] at hm))
  holds _ _ h := h
  fewerHolds _ h := h
  oneChanged _ _ h := h
  oneHold _ _ _ h := h
  arb _ h := h
  pool _ h := h
  mlink _ _ h := h
  jobs _ hu h hm := h (hu.2.2.1.symm.trans hm)
  advanced _ _ h := h
  recovering _ h := h
  serving _ h := h
  faulted h := h
  started hclosed _ _ := hclosed
  loaded _ _ _ _ h := h
  refused _ _ _ _ _ _ h := h
  emptied h := h
  failed h := h
  logTime _ h := h

theorem closedUnderMark_kept : Kept ClosedUnderMark := closedUnderMark_fine.kept

theorem waitsForNoSlot_outside : KeptOutside WaitsForNoSlot where
  linked _ _ h := h
  checkFailed _ h := h
  opened _ _ _ _ h := h

theorem closedUnderMark_outside : KeptOutside ClosedUnderMark where
  linked p _ h hm := noneOpen_modify p (fun _ hs => hs) (h hm)
  checkFailed p h hm := noneOpen_modify p (fun _ hs => hs) (h hm)
  opened _ _ _ hmark _ hm := absurd (hmark.symm.trans hm) (by decide)

/-! ### RESET-BRIDGE under the mark -/

theorem resetBridge_returned (a : Asked) (c : Chip) :
    let d := returnJob (if c.cfg.resetMark then joinReset a c else beginReset (a.answer .ok [] c))
    d.cfg.resetMark = true ∧ ∀ j, d.cfg.writer ≠ .awaitingSlot j := by
  have hmark : (if c.cfg.resetMark then joinReset a c else beginReset (a.answer .ok [] c)).cfg.resetMark = true := by
    split
    · rename_i hm
      have hjoin : (joinReset a c).cfg = c.cfg := by
        unfold joinReset Asked.answer
        split <;> simp
      rw [hjoin, hm]
    · rfl
  dsimp only
  generalize (if c.cfg.resetMark then joinReset a c else beginReset (a.answer .ok [] c)) = e at hmark
  unfold returnJob
  split
  · exact ⟨hmark, fun _ hj => by cases hj⟩
  · rename_i hw
    exact ⟨hmark, fun j hj => by rw [hj] at hw; cases hw⟩
  · rename_i hw
    exact ⟨hmark, fun j hj => by rw [hj] at hw; cases hw⟩
  · rename_i hw
    exact ⟨hmark, fun j hj => by rw [hj] at hw; cases hw⟩

/-- After the reset has reached the ports, every OPEN session is one whose RESET-BRIDGE can still join. -/
theorem reachPorts_open (waiting : List Instr) (p : Port) (c : Chip) {q : Port}
    (hq : ((reachPorts waiting p c).ports.get q).session = .opened) :
    q ∈ (reachPorts waiting p c).joiners waiting := by
  unfold reachPorts at hq ⊢
  dsimp only at hq ⊢
  split
  · rename_i honly
    rw [if_pos honly] at hq
    have hall := List.all_eq_true.1 honly q (Grants.mem_portAll q)
    rw [Chip.isOpen, hq] at hall
    simpa using hall
  · rename_i honly
    rw [if_neg honly] at hq
    exact absurd hq (resetPorts_noneOpen (fun r _ => Grants.mem_portAll r) q)

/-- The state that a RESET-BRIDGE leaves behind, which its port may ask for. -/
theorem takeResetBridge_reached {s : State} (hhigh : s.rstn = .high) (a : Asked) (c : Chip)
    (hs : s.chip = takeResetBridge s.pending a c) : ReachedUnderMark s := by
  obtain ⟨hmark, hwriter⟩ := resetBridge_returned a c
  unfold takeResetBridge at hs
  dsimp only at hs hmark hwriter
  generalize returnJob (if c.cfg.resetMark then joinReset a c else beginReset (a.answer .ok [] c)) = d at hs hmark hwriter
  split at hs
  · intro hm
    have hclear : Unmarked s.chip := by
      rw [hs]
      exact unmarked_kept.enterStart rfl
    exact absurd (hclear.symm.trans hm) (by decide)
  · intro hm
    refine ⟨?_, fun q hq => ?_⟩
    · have hwait : WaitsForNoSlot s.chip := by
        rw [hs]
        exact waitsForNoSlot_kept.reachPorts _ _ fun _ => hwriter
      exact hwait hm
    · rw [hs] at hq
      obtain ⟨before, r, after, hp, hb, hwould⟩ := Laws.mem_joiners (reachPorts_open _ _ _ hq)
      rw [← hs] at hwould
      exact ⟨before, r, after, hp, hb, Laws.ready_of_wouldReset hhigh hwould⟩

/-- Configuration, map, sessions and links as before, and no tag in use that was free. -/
def Undisturbed (c d : Chip) : Prop :=
  d.cfg = c.cfg ∧ d.map = c.map ∧ ∀ q, (d.ports.get q).session = (c.ports.get q).session ∧
    (d.ports.get q).link = (c.ports.get q).link ∧
    ∀ u, (c.ports.get q).tags.get u = none → (d.ports.get q).tags.get u = none

theorem undisturbed_of_ports {c d : Chip} (hcfg : d.cfg = c.cfg) (hmap : d.map = c.map) (hports : d.ports = c.ports) :
    Undisturbed c d := ⟨hcfg, hmap, fun q => by rw [hports]; exact ⟨rfl, rfl, fun _ h => h⟩⟩

/-- A management request that is answered at once leaves everything as it was. -/
theorem undisturbed_answered {c : Chip} {p : Port} {t : Tag} (x : Option Record) (k : ReqKind) (v : Privilege)
    (ws : List Word) (o : Outcome) (f : Chip → Chip) (hf : ∀ d : Chip, (f d).cfg = d.cfg ∧ (f d).map = d.map ∧ (f d).ports = d.ports)
    (hopen : (c.ports.get p).session = .opened) :
    Undisturbed c ((⟨p, t, k, v, ws⟩ : Asked).answer o [] (f (setRecord p t x c))) := by
  obtain ⟨hcfg, hmap, hports⟩ := hf (setRecord p t x c)
  have hsession : ((f (setRecord p t x c)).ports.get p).session = .opened := by
    rw [hports, Laws.setRecord_eq, Laws.withRecord_session, hopen]
  have hans : (⟨p, t, k, v, ws⟩ : Asked).answer o [] (f (setRecord p t x c)) =
      freeTag p t (reply p t o [] (f (setRecord p t x c))) := by
    unfold Asked.answer respond
    rw [if_pos (by simpa [Chip.isOpen] using hsession)]
  rw [hans]
  refine ⟨by simp [hcfg], by simp [hmap], fun q => ?_⟩
  have hq : (freeTag p t (reply p t o [] (f (setRecord p t x c)))).ports =
      c.ports.modify p fun pc => { pc with tags := (pc.tags.set t x).set t none } := by
    change ((reply p t o [] (f (setRecord p t x c))).ports.modify p fun pc => { pc with tags := pc.tags.set t none }) = _
    rw [Laws.reply_ports, hports]
    exact Laws.PerPort.modify_modify c.ports p (fun pc => { pc with tags := pc.tags.set t x })
      (fun pc => { pc with tags := pc.tags.set t none })
  rw [hq, Laws.PerPort.get_modify]
  split
  · refine ⟨rfl, rfl, fun u hu => ?_⟩
    simp only [Laws.Table.set_set, Laws.Table.get_set]
    split
    · rfl
    · exact hu
  · exact ⟨rfl, rfl, fun _ hu => hu⟩

/-- What a RESET-BRIDGE that is taken has passed. -/
def ResetTaken (p : Port) (r : Request) (c : Chip) : Prop :=
  ∃ h, (c.ports.get p).link = .up ∧ (c.ports.get p).session = .opened ∧ (c.ports.get p).tags.get r.tag = none ∧
    r.header = some h ∧ Header.controlForm h = true ∧ items h.list = [] ∧ (c.map.active.ports.get p).privilege = .admin

theorem may_of_taken {s : State} (hhigh : s.rstn = .high) {p : Port} {r : Request} (h : ResetTaken p r s.chip) :
    Ready s p r.tag ∧ Carries r [] ∧ privilegeOf s p = .admin := by
  obtain ⟨x, hup, hopen, hfree, hheader, hform, hempty, hadmin⟩ := h
  obtain ⟨htarget, hlength, hwhole⟩ := (controlForm_iff x).1 hform
  exact ⟨⟨⟨hhigh, hup, hopen⟩, hfree⟩, ⟨x, hheader, htarget, hlength, hwhole, hempty⟩, hadmin⟩

/-- A RESET-BRIDGE is taken, when its port may ask for it, or leaves everything as it was. -/
theorem resetBridge_cases (waiting : List Instr) (p : Port) (r : Request) (c : Chip) :
    ResetTaken p r c ∨
      Undisturbed c (action waiting (.resetBridge p r) c) := by
  have hsent {f : Chip → Chip} (h1 : (f c).cfg = c.cfg) (h2 : (f c).map = c.map) (h3 : (f c).ports = c.ports) :=
    undisturbed_of_ports h1 h2 h3
  simp only [action, toControl, intake]
  split
  · exact .inr (undisturbed_of_ports rfl rfl rfl)
  rename_i hlink
  split
  · exact .inr (undisturbed_of_ports (by simp) (by simp) (by simp))
  rename_i hopen
  split
  · exact .inr (undisturbed_of_ports (by simp) (by simp) (by simp))
  rename_i hfree
  have hup : (c.ports.get p).link = .up := by
    cases h : (c.ports.get p).link
    · exact absurd h hlink
    · rfl
  have hopen' : (c.ports.get p).session = .opened := not_not.1 hopen
  have hfree' : (c.ports.get p).tags.get r.tag = none := by simpa using hfree
  split
  · rename_i h hheader
    split
    · rename_i hform
      unfold adminOnly
      split
      · rename_i hadmin
        unfold emptyList
        split
        · rename_i hempty
          exact .inl ⟨h, hup, hopen', hfree', hheader, hform, hempty, hadmin⟩
        · exact .inr (undisturbed_answered _ _ _ _ _ id (fun _ => ⟨rfl, rfl, rfl⟩) hopen')
      · exact .inr (undisturbed_answered _ _ _ _ _ (logRefusal _ _ _ _ _ _)
          (fun _ => ⟨rfl, rfl, rfl⟩) hopen')
    · exact .inr (undisturbed_of_ports (by simp) (by simp) (by simp))
  · exact .inr (undisturbed_of_ports (by simp) (by simp) (by simp))

/-- The rest of the queue still holds the RESET-BRIDGE of every OPEN session, when the front one was not taken. -/
theorem reachedUnderMark_undisturbed {s t : State} {p : Port} {r : Request} {rest : List Instr}
    (hs : ReachedUnderMark s) (hpending : s.pending = .resetBridge p r :: rest) (ht : t.pending = rest)
    (hrstn : t.rstn = s.rstn) (hd : Undisturbed s.chip t.chip)
    (hnot : ¬ (Ready s p r.tag ∧ Carries r [] ∧ privilegeOf s p = .admin)) : ReachedUnderMark t := by
  obtain ⟨hcfg, hmap, hports⟩ := hd
  intro hmark
  rw [hcfg] at hmark ⊢
  obtain ⟨hwriter, hopen⟩ := hs hmark
  refine ⟨hwriter, fun q hq => ?_⟩
  obtain ⟨hsession, hlink, htags⟩ := hports q
  obtain ⟨before, r', after, hsplit, hbefore, hready, hcarries, hadmin⟩ := hopen q (hsession.symm.trans hq)
  rw [hpending] at hsplit
  cases before with
  | nil =>
    simp only [List.nil_append, List.cons.injEq, Instr.resetBridge.injEq] at hsplit
    obtain ⟨⟨rfl, rfl⟩, -⟩ := hsplit
    exact absurd ⟨hready, hcarries, hadmin⟩ hnot
  | cons i before =>
    simp only [List.cons_append, List.cons.injEq] at hsplit
    obtain ⟨⟨hh, hu, ho⟩, hf⟩ := hready
    refine ⟨before, r', after, ht.trans hsplit.2, fun j hj => hbefore j (List.mem_cons_of_mem _ hj),
      ⟨⟨hrstn.trans hh, hlink.trans hu, hq⟩, htags _ hf⟩, hcarries, ?_⟩
    unfold privilegeOf at hadmin ⊢
    rw [hmap]
    exact hadmin

/-- With another command at the front no session is OPEN under the mark. -/
theorem closedUnderMark_of_front {s : State} (hs : ReachedUnderMark s)
    (hfront : ∀ p r rest, s.pending ≠ .resetBridge p r :: rest) : ClosedUnderMark s.chip := by
  intro hmark q hq
  obtain ⟨before, r, after, hsplit, hbefore, -⟩ := (hs hmark).2 q hq
  cases before with
  | nil => exact hfront q r after hsplit
  | cons i before =>
    obtain ⟨p, r', hi⟩ := hbefore i List.mem_cons_self
    exact hfront p r' _ (by rw [hsplit, hi]; rfl)

theorem closedUnderMark_of_low {s : State} (hs : ReachedUnderMark s) (hlow : s.rstn = .low) : ClosedUnderMark s.chip := by
  intro hmark q hq
  obtain ⟨_, _, _, -, -, hready, -⟩ := (hs hmark).2 q hq
  exact absurd (hlow.symm.trans hready.1.1) (by decide)

theorem reachedUnderMark_of_closed {s : State} (hclosed : ClosedUnderMark s.chip) (hwait : WaitsForNoSlot s.chip) :
    ReachedUnderMark s := fun hmark => ⟨hwait hmark, fun q hq => absurd hq (hclosed hmark q)⟩

theorem reachedUnderMark_of_unmarked {s : State} (h : Unmarked s.chip) : ReachedUnderMark s :=
  fun hmark => absurd (h.symm.trans hmark) (by decide)

theorem step_keeps_reachedUnderMark {s t : State} (hstep : step s = .next t) (hs : ReachedUnderMark s) :
    ReachedUnderMark t := by
  have hwait : WaitsForNoSlot s.chip := fun hmark => (hs hmark).1
  rcases step_cases hstep with
    ⟨hempty, rfl⟩ | ⟨i, rest, hp, ⟨-, rfl⟩ | ⟨-, hl, rfl⟩ | ⟨-, -, hhigh, rfl⟩ | ⟨-, rfl, hl⟩⟩
  · have hclosed := closedUnderMark_of_front hs (by simp [hempty])
    unfold tick
    split
    · refine reachedUnderMark_of_closed (fun hmark p => ?_) hwait
      simp only [tickChip, PinAndTime.perPort_map_get]
      exact hclosed hmark p
    · exact hs
  · exact reachedUnderMark_of_unmarked (coldChip_keeps (fun _ _ => rfl) s.chip)
  · exact reachedUnderMark_of_unmarked (unmarked_kept.enterStart rfl)
  · by_cases hreset : ∃ p r, i = .resetBridge p r
    · obtain ⟨p, r, rfl⟩ := hreset
      by_cases hmay : Ready s p r.tag ∧ Carries r [] ∧ privilegeOf s p = .admin
      · obtain ⟨hready, hcarries, hadmin⟩ := hmay
        refine takeResetBridge_reached hhigh (Management.asked s p r.tag .resetBridge [])
          (Management.handed s p r.tag .resetBridge [])
          ((Laws.toControl_carries .resetBridge _ hready hcarries).trans ?_)
        exact (Management.adminOnly_asked_admin _ _ hadmin _ _).trans (Management.emptyList_nil _ _ _ _)
      · rcases resetBridge_cases rest p r s.chip with htaken | hrefused
        · exact absurd (may_of_taken hhigh htaken) hmay
        · exact reachedUnderMark_undisturbed hs hp rfl rfl hrefused hmay
    · have hother (p : Port) (r : Request) : i ≠ .resetBridge p r := fun h => hreset ⟨p, r, h⟩
      have hclosed := closedUnderMark_of_front hs fun p r rest' h => by
        rw [hp] at h
        exact hother p r (List.cons.inj h).1
      exact reachedUnderMark_of_closed
        (closedUnderMark_kept.action closedUnderMark_outside rest i (.inl hother) hclosed)
        (waitsForNoSlot_kept.action waitsForNoSlot_outside rest i (.inl hother) hwait)
  · rcases hl with hl | rfl
    · exact reachedUnderMark_of_closed (s := { s with pending := rest }) (closedUnderMark_of_low (s := s) hs hl) hwait
    · have hclosed := closedUnderMark_of_front hs (by rw [hp]; intro _ _ _ h; cases h)
      exact reachedUnderMark_of_closed hclosed hwait

/-- Settles O7: flags by the single changes; under the mark by what RESET-BRIDGE leaves behind. -/
theorem stepKeepsFlagsClearOutsideOpen : Obligations.StepKeepsFlagsClearOutsideOpen := by
  unfold Obligations.StepKeepsFlagsClearOutsideOpen
  exact fun s t hstep => ⟨step_keeps_flagsOnlyInOpen hstep, step_keeps_reachedUnderMark hstep⟩

end Sys2Proof.Keeping
end

section
/-! SUPPORT. The hold table (R21, R25, R40, R46) and the writer that is served (R164). -/

namespace Sys2Proof.Keeping

open Sys2Proof.Machine Sys2Proof.Safety Sys2Proof.Commands

/-! ### A fresh id (R40) -/

/-- The ids that follow one another: up to 65535, then from 1 on. -/
theorem idStep_eq (k n : Nat) (hk : k ≤ 65535) : Laws.idStep k n =
    if n + k ≤ 65535 then n + k else if 65535 < n then (if k = 0 then n else k) else n + k - 65535 := by
  induction k generalizing n with
  | zero => simp only [Laws.idStep]; split_ifs <;> omega
  | succ k ih =>
    rw [Laws.idStep, ih _ (by omega), if_neg (Nat.succ_ne_zero k)]
    by_cases hn : 65535 ≤ n
    · rw [show idAfter n = 1 from if_pos hn]
      split_ifs <;> omega
    · rw [show idAfter n = n + 1 from if_neg hn]
      split_ifs <;> omega

/-- A search over the whole table finds an id that no record has. -/
theorem freeId_fresh (n : Nat) (l : List Hold) (hl : l.length < 65535) : ∀ x ∈ l, x.id ≠ freeId l.length n l := by
  obtain ⟨k, hk, hid, htaken, hfree⟩ := Laws.freeId_spec l.length n l
  rw [hid]
  rcases Nat.lt_or_eq_of_le hk with hlt | rfl
  · exact hfree hlt
  · intro x hx hxid
    have hnodup : ((List.range (l.length + 1)).map fun j => Laws.idStep j n).Nodup := by
      refine List.Nodup.map_on (fun a ha b hb hab => ?_) List.nodup_range
      rw [List.mem_range] at ha hb
      rw [idStep_eq a n (by omega), idStep_eq b n (by omega)] at hab
      split_ifs at hab <;> omega
    have hsub : ((List.range (l.length + 1)).map fun j => Laws.idStep j n) ⊆ l.map Hold.id := by
      intro y hy
      obtain ⟨j, hj, rfl⟩ := List.mem_map.1 hy
      rw [List.mem_range] at hj
      rcases Nat.lt_or_eq_of_le (Nat.le_of_lt_succ hj) with hjl | rfl
      · obtain ⟨z, hz, hzid⟩ := htaken j hjl
        exact List.mem_map.2 ⟨z, hz, hzid⟩
      · exact List.mem_map.2 ⟨x, hx, hxid⟩
    have := (List.subperm_of_subset hnodup hsub).length_le
    simp only [List.length_map, List.length_range] at this
    omega

/-! ### The record's holds -/

theorem length_decodeHoldSlots (limit n : Nat) (bs : List Byte) {l : List StoredHold}
    (h : decodeHoldSlots limit n bs = some l) : l.length ≤ n := by
  fun_induction decodeHoldSlots limit n bs generalizing l with
  | case1 =>
    cases h
    exact Nat.le_refl _
  | case2 n m s o _ i1 i0 _ _ f3 f2 f1 f0 l3 l2 l1 l0 tail ih =>
    simp only [Option.bind_eq_bind, Option.bind_eq_some_iff, Option.some.injEq] at h
    obtain ⟨x, -, hs, hhs, rfl⟩ := h
    have hrest := ih hhs
    have hx : x.toList.length ≤ 1 := by cases x <;> simp
    rw [List.length_append]
    omega
  | case3 => cases h

/-- A record that the bridge loads has at most eight holds, of different ids. -/
theorem loadable_holds {r : ConfigRecord} (h : Loadable r) : r.holds.length ≤ 8 ∧ (r.holds.map StoredHold.id).Nodup := by
  rcases h with rfl | ⟨cap, b, h⟩
  · exact ⟨Nat.zero_le _, List.nodup_nil⟩
  · unfold readRecord at h
    dsimp only at h
    split at h
    · unfold decodeFields at h
      split at h
      · simp only [Option.bind_eq_bind, Option.bind_eq_some_iff, Option.some.injEq] at h
        obtain ⟨_, -, params, -, p0, -, p1, -, p2, -, windows, -, holds, hholds, _, hform, rfl⟩ := h
        refine ⟨length_decodeHoldSlots _ _ _ hholds, ?_⟩
        unfold inForm at hform
        split at hform
        · rename_i hok
          simp only [Bool.and_eq_true, decide_eq_true_eq] at hok
          exact hok.2
        · cases hform
      · cases h
    · cases h

/-! ### The table that a load leaves (R46) -/

/-- In strictly ascending id. -/
abbrev Ascending (l : List Hold) : Prop := l.Pairwise fun a b => a.id < b.id

theorem insertHold_perm (h : Hold) (l : List Hold) : (insertHold h l).Perm (h :: l) := by
  induction l with
  | nil => exact .refl _
  | cons x l ih =>
    unfold insertHold
    split
    · exact .refl _
    · exact (ih.cons x).trans (.swap h x l)

theorem filter_insertHold (f : Hold → Bool) (h : Hold) (l : List Hold) :
    ((insertHold h l).filter f).length = (if f h then 1 else 0) + (l.filter f).length := by
  rw [((insertHold_perm h l).filter f).length_eq, List.filter_cons]
  split <;> simp [Nat.add_comm]

/-- The FIXED holds of a record, put in their places. -/
def storedTable (l : List StoredHold) : List Hold := l.foldr (fun s t => insertHold s.loaded t) []

theorem mem_storedTable (l : List StoredHold) (x : Hold) : x ∈ storedTable l ↔ ∃ z ∈ l, x = z.loaded := by
  induction l with
  | nil => simp [storedTable]
  | cons z l ih =>
    change x ∈ insertHold z.loaded (storedTable l) ↔ _
    rw [Laws.mem_insertHold, ih]
    simp

theorem length_storedTable (l : List StoredHold) : (storedTable l).length = l.length := by
  induction l with
  | nil => rfl
  | cons z l ih =>
    change (insertHold z.loaded (storedTable l)).length = _
    rw [Laws.length_insertHold, ih, List.length_cons]

theorem storedTable_ascending {l : List StoredHold} (h : (l.map StoredHold.id).Nodup) : Ascending (storedTable l) := by
  induction l with
  | nil => exact List.Pairwise.nil
  | cons z l ih =>
    obtain ⟨hz, hl⟩ := List.nodup_cons.1 h
    refine Laws.insertHold_ascending (ih hl) fun x hx he => hz ?_
    obtain ⟨y, hy, rfl⟩ := (mem_storedTable l x).1 hx
    exact List.mem_map.2 ⟨y, hy, he⟩

/-- A table in its limits (R21, R25). -/
def TableFits (l : List Hold) : Prop :=
  l.length ≤ 48 ∧ (l.filter fun h => h.cls = .fixed).length ≤ 8 ∧ Ascending l

theorem storedTable_fits {l : List StoredHold} (hl : l.length ≤ 8) (h : (l.map StoredHold.id).Nodup) :
    TableFits (storedTable l) := by
  refine ⟨by rw [length_storedTable]; omega, ?_, storedTable_ascending h⟩
  exact (List.length_filter_le _ _).trans (by rw [length_storedTable]; exact hl)

/-- POWER holds that take their places again keep the table in its limits. -/
theorem keepPower_fits {limit : Nat} {ids : List Nat} {old table : List Hold} (hold : Ascending old)
    (hpower : ∀ h ∈ old, h.cls = .power) (htable : TableFits table)
    (hids : ∀ h ∈ old, h.id ∉ ids → ∀ x ∈ table, x.id ≠ h.id) :
    TableFits (old.foldl (keepPower limit ids) table) := by
  induction old generalizing table with
  | nil => exact htable
  | cons h old ih =>
    obtain ⟨hfirst, hrest⟩ := List.pairwise_cons.1 hold
    have hold' : ∀ y ∈ old, y.cls = .power := fun y hy => hpower y (List.mem_cons_of_mem _ hy)
    rw [List.foldl_cons]
    unfold keepPower
    split
    · rename_i hkeep
      simp only [Bool.and_eq_true, decide_eq_true_eq, Bool.not_eq_true', List.contains_eq_mem,
        decide_eq_false_iff_not] at hkeep
      obtain ⟨⟨hnew, -⟩, hroom⟩ := hkeep
      obtain ⟨-, hfixed, hasc⟩ := htable
      refine ih hrest hold' ⟨?_, ?_, ?_⟩ fun y hy hyids x hx => ?_
      · rw [Laws.length_insertHold]
        exact hroom
      · rw [filter_insertHold]
        simpa [hpower h List.mem_cons_self] using hfixed
      · exact Laws.insertHold_ascending hasc (hids h List.mem_cons_self hnew)
      · rcases (Laws.mem_insertHold h x table).1 hx with rfl | hx
        · exact Nat.ne_of_lt (hfirst y hy)
        · exact hids y (List.mem_cons_of_mem _ hy) hyids x hx
    · exact ih hrest hold' htable fun y hy => hids y (List.mem_cons_of_mem _ hy)

theorem loadedTable_fits {limit : Nat} {stored : List StoredHold} {old : List Hold} (hl : stored.length ≤ 8)
    (hstored : (stored.map StoredHold.id).Nodup) (hold : Ascending old) : TableFits (loadedTable limit stored old) := by
  refine keepPower_fits (hold.sublist List.filter_sublist) (fun h hh => of_decide_eq_true (List.mem_filter.1 hh).2)
    (storedTable_fits hl hstored) fun h _ hnew x hx hid => hnew ?_
  obtain ⟨z, hz, rfl⟩ := (mem_storedTable stored x).1 hx
  exact List.mem_map.2 ⟨z, hz, hid⟩

/-! ### The hold table -/

/-- The hold table in its limits. -/
def HoldsFit (c : Chip) : Prop := TableFits c.hold.table

theorem tableFits_map {l : List Hold} {f : Hold → Hold} (hf : ∀ h ∈ l, (f h).id = h.id ∧ (f h).cls = h.cls)
    (h : TableFits l) : TableFits (l.map f) := by
  obtain ⟨hlen, hfixed, hasc⟩ := h
  refine ⟨by rw [List.length_map]; exact hlen, ?_, ?_⟩
  · rw [List.filter_map, List.length_map, List.filter_congr (q := fun h => h.cls = .fixed)]
    · exact hfixed
    · intro x hx
      simp [(hf x hx).2]
  · rw [Ascending, List.pairwise_map]
    refine List.Pairwise.imp_of_mem (fun ha hb hab => ?_) hasc
    rwa [(hf _ ha).1, (hf _ hb).1]

theorem holdsFit_fine : KeptFine HoldsFit where
  frames _ _ h := h
  tags _ _ h := h
  inFlight _ _ h := h
  raised _ _ _ _ h := h
  cleared _ _ _ h := h
  delivered p h := by unfold HoldsFit; rw [Laws.deliver_hold]; exact h
  left _ _ h := h
  closed _ _ _ h := h
  usage _ _ h := h
  commit _ _ h := h
  swapped cfg h := by unfold HoldsFit; rw [swapped_hold]; exact h
  holds f hf h := tableFits_map (fun x _ => hf x) h
  fewerHolds f h :=
    ⟨(List.length_filter_le _ _).trans h.1, ((List.filter_sublist.filter _).length_le).trans h.2.1,
      h.2.2.sublist List.filter_sublist⟩
  oneChanged x hx h := by
    refine tableFits_map (fun y hy => ?_) h
    split
    · rename_i hid
      exact ⟨hid.symm, (hx h.2.2 y hy hid).symm⟩
    · exact ⟨rfl, rfl⟩
  oneHold {c} x hroom hid h := by
    simp only [Chip.holdsFull, Bool.or_eq_false_iff, decide_eq_false_iff_not, Nat.not_le, Bool.and_eq_false_iff] at hroom
    obtain ⟨hlen, hfixed⟩ := hroom
    obtain ⟨-, hold, hasc⟩ := h
    have hlen' : c.hold.table.length < 48 := hlen
    have hfresh := freeId_fresh c.hold.nextId c.hold.table (by omega)
    refine ⟨?_, ?_, Laws.insertHold_ascending hasc (by rw [hid]; exact hfresh)⟩
    · exact (Laws.length_insertHold _ _).trans_le hlen
    · refine (filter_insertHold (fun h => h.cls = .fixed) x _).trans_le ?_
      rcases hfixed with hx | hx
      · simpa [hx] using hold
      · have hx' : (c.hold.table.filter fun h => h.cls = .fixed).length < 8 := hx
        split <;> omega
  arb _ h := h
  pool _ h := h
  mlink _ _ h := h
  jobs _ _ h := h
  advanced _ _ h := h
  recovering _ h := h
  serving _ h := h
  faulted h := h
  started _ h := h
  loaded x r _ hr h := by
    obtain ⟨hlen, hnodup⟩ := loadable_holds hr
    exact loadedTable_fits hlen hnodup h.2.2
  refused _ _ _ _ _ _ h := h
  emptied h := h
  failed h := h
  logTime _ h := h

theorem holdsFit_kept : Kept HoldsFit := holdsFit_fine.kept

theorem holdsFit_outside : KeptOutside HoldsFit where
  linked _ _ h := h
  checkFailed _ h := h
  opened _ _ _ _ h := h

theorem step_keeps_holdTableInRange {s t : State} (hstep : step s = .next t) (h : HoldTableInRange s) :
    HoldTableInRange t := by
  refine holdsFit_kept.step holdsFit_outside (fun _ h => h) (fun d h => ?_) (coldChip_keeps fun _ _ => ?_) (fun _ h => h)
    hstep h
  · exact tableFits_map (fun x _ => ⟨rfl, rfl⟩) h
  · exact ⟨Nat.zero_le _, Nat.zero_le _, List.Pairwise.nil⟩

end Sys2Proof.Keeping
end

section
/-! SUPPORT. The writer is served (R164): every event that can leave it free to take a job ends with its look at the queue. -/

namespace Sys2Proof.Keeping

open Sys2Proof.Machine Sys2Proof.Safety Sys2Proof.Commands

/-- A writer that may take a job leaves none in the queue. -/
def Served (c : Chip) : Prop := c.writerMayTake = true → c.cfg.queue = []

theorem writerServed_iff (s : State) : WriterServed s ↔ Served s.chip := by
  unfold WriterServed Served
  rw [Laws.writerMayTake_iff]

namespace Served

variable {c d : Chip}

theorem of_cfg (h : Served c) (hd : d.cfg = c.cfg) : Served d := by
  unfold Served Chip.writerMayTake at *
  rw [hd]
  exact h

theorem of_bridge (h1 : c.cfg.bridge ≠ .service) (h2 : c.cfg.bridge ≠ .recover) : Served c := by
  intro hmay
  simp [Chip.writerMayTake, h1, h2] at hmay

theorem of_writer (h : c.cfg.writer ≠ .idle) : Served c := by
  intro hmay
  simp [Chip.writerMayTake, h] at hmay

theorem of_start (h : c.cfg.bridge = .start) : Served c := of_bridge (by rw [h]; decide) (by rw [h]; decide)

theorem of_fault (h : c.cfg.bridge = .fault) : Served c := of_bridge (by rw [h]; decide) (by rw [h]; decide)

/-! ### The end of an event -/

theorem decision (hd : grantDecision c = some d) (h : Served c) : Served d := by
  obtain ⟨-, ⟨j, i, -, -, rfl⟩ | ⟨reserved, p, t, r, i, c', hc', -, -, -, rfl⟩⟩ := Grants.grantDecision_cases hd
  · exact of_writer (by simp [grantPersist, setArea, Chip.modCfg]; cases c.cfg.target <;> exact Writer.noConfusion)
  · rcases hc' with rfl | rfl
    · exact h.of_cfg (Laws.grantHead_cfg ..)
    · exact h.of_cfg ((Laws.grantHead_cfg ..).trans (by simp))

theorem arbitrate (h : Served c) : Served (arbitrate c) := by
  unfold Machine.arbitrate
  generalize 16 = n
  induction n generalizing c with
  | zero => exact h
  | succ n ih =>
    unfold decisions
    split
    · rename_i d hd
      exact ih (h.decision hd)
    · exact h

theorem conclude (answers : Chip → Chip) (c : Chip) : Served (conclude answers c) := by
  have hsettle : Served (settle (answers c)) := Laws.writerTake_served _
  have heither : Served (eitherOrder answers settle c) := by
    unfold eitherOrder
    dsimp only
    split
    · exact hsettle
    · exact hsettle
  exact arbitrate (heither.of_cfg (Laws.eachPort_proj (fun c => c.cfg) _ (by simp) _))

/-! ### Bring-up, START, FAULT -/

theorem sendLinkReset (h : Served c) : Served (sendLinkReset c) := by
  unfold Machine.sendLinkReset
  dsimp only
  split
  · exact conclude id _
  · exact h.of_cfg (by simp)

theorem beginAttempt (h : Served c) : Served (beginAttempt c) := by
  unfold Machine.beginAttempt
  split
  · exact sendLinkReset h
  · exact h

theorem beginBringUp (h : Served c) : Served (beginBringUp c) := beginAttempt (c := c.modMlink _) h

theorem enterStart (c : Chip) : Served (enterStart c) :=
  beginBringUp (c := (started c).modMlink fun m => { m with capacity := 0#32, slotCount := 0, bringUp := .idle })
    (of_start rfl)

theorem faultQueue_cfg (p : Port) (c : Chip) : (faultQueue p c).cfg = c.cfg :=
  Laws.each_proj (fun c => c.cfg) _ (by simp) _ _

theorem enterFault_bridge (c : Chip) : (enterFault c).cfg.bridge = .fault := by
  unfold enterFault
  have heach (l : List Job) (d : Chip) : (each jobFailed l d).cfg = d.cfg :=
    Laws.each_proj (fun c => c.cfg) _ (by simp) _ _
  have hqueue (d : Chip) : (eachPort faultQueue d).cfg = d.cfg :=
    Laws.eachPort_proj (fun c => c.cfg) _ faultQueue_cfg _
  simp [hqueue, heach]

theorem enterFault (c : Chip) : Served (enterFault c) := of_fault (enterFault_bridge c)

theorem setMark (x : Copy) (m : Mark) (h : Served c) : Served (setMark x m c) := by cases x <;> exact h

theorem setArea (x : Copy) (b : Option Block) (h : Served c) : Served (setArea x b c) := by cases x <;> exact h

theorem readCopy (x : Copy) (h : Served c) : Served (readCopy x c) := h.of_cfg (by simp)

theorem selectCopy (c : Chip) : Served (selectCopy c) := by
  unfold Machine.selectCopy
  split
  · split <;> exact conclude id _
  all_goals exact conclude id _

theorem nextStartStep (h : Served c) : Served (nextStartStep c) := by
  unfold Machine.nextStartStep
  split
  · exact readCopy .b (c := setStep .readB c) h
  · exact selectCopy c
  · exact h
  · exact h

theorem readLost (h : Served c) : Served (readLost c) := by
  unfold Machine.readLost
  split
  · split
    · exact h.setMark _ _
    · exact h
  · exact h

theorem bringUpAgain (h : Served c) : Served (bringUpAgain c) := beginBringUp h.readLost

theorem bringUpDone (capacity : Word) (slots : Nat) (h : Served c) : Served (bringUpDone capacity slots c) := by
  unfold Machine.bringUpDone
  dsimp only
  split
  · split
    · split
      · exact enterFault _
      · exact readCopy .a (c := setStep .readA _) h
    · split
      · exact nextStartStep (c := c.modMlink _) h
      · exact enterFault _
  · split
    · exact conclude id _
    · exact enterFault _
  · exact h
  · exact h

theorem attemptFailed (h : Served c) : Served (attemptFailed c) := by
  unfold Machine.attemptFailed
  dsimp only
  split
  · exact beginAttempt (c := c.modMlink _) h
  · exact enterFault _

theorem finishReset (c : Chip) : Served (finishReset c) := enterStart _

theorem resumeReset (h : Served c) : Served (resumeReset c) := by
  unfold Machine.resumeReset
  split
  · exact finishReset c
  · exact h

theorem startRecovery (c : Chip) : Served (startRecovery c) := by
  unfold Machine.startRecovery
  dsimp only
  split
  · exact finishReset _
  · exact beginBringUp (conclude _ _)

theorem protocolError (h : Served c) : Served (protocolError c) := by
  unfold Machine.protocolError
  split
  · exact startRecovery c
  · exact h

/-! ### Requests -/

theorem intake (p : Port) (r : Request) (form : Header → Bool) {take : Header → Chip → Chip}
    (ht : ∀ x, Served (take x c)) (h : Served c) : Served (intake p r form take c) := by
  unfold Machine.intake
  dsimp only
  split
  · exact h
  split
  · exact h.of_cfg (by simp)
  split
  · exact h.of_cfg (by simp)
  split
  · split
    · exact ht _
    · exact h.of_cfg (by simp)
  · exact h.of_cfg (by simp)

theorem admission (k : DataKind) (p : Port) (t : Tag) (x : Header) (h : Served c) : Served (admission k p t x c) := by
  have hreply (d : Chip) (hd : d.cfg = c.cfg) (o : Outcome) : Served (reply p t o [] d) := h.of_cfg (by simp [hd])
  unfold Machine.admission
  split
  · exact hreply c rfl _
  split
  · exact hreply c rfl _
  split
  · exact hreply c rfl _
  split
  · exact hreply c rfl _
  · exact hreply c rfl _
  · split
    · exact hreply _ (by simp) _
    · exact arbitrate (h.of_cfg (by simp))

theorem takeBlock (p : Port) (t : Tag) (n : Nat) (b : Block) (h : Served c) : Served (takeBlock p t n b c) := by
  unfold Machine.takeBlock
  split
  · split
    · split
      · rename_i r _
        split
        · have hfill : (match r.pages[n]? with | some page => fillPage page b c | none => c).cfg = c.cfg := by
            split <;> simp
          dsimp only
          split
          · exact h.of_cfg ((Laws.issuePort_cfg ..).trans hfill)
          · exact h.of_cfg ((Laws.setStage_cfg ..).trans hfill)
        · exact h
      · exact h
    · exact h
  · exact h

theorem takeData (p : Port) (d : DataFrame) (h : Served c) : Served (takeData p d c) := by
  unfold Machine.takeData
  split
  · exact h
  · split
    · exact h
    · exact h.of_cfg (by simp)
  · split
    · exact h.takeBlock _ _ _ _
    · exact h.of_cfg (by simp)

theorem takeAbort (p : Port) (t : Tag) (x : Header) (h : Served c) : Served (takeAbort p t x c) := by
  unfold Machine.takeAbort
  dsimp only
  split
  · unfold Machine.abortTarget
    dsimp only
    split
    · exact h.of_cfg (by simp)
    · exact conclude _ _
    · exact conclude _ _
    · exact h.of_cfg (by simp)
    · exact h.of_cfg (by simp)
    · exact h.of_cfg (by simp)
  · exact h.of_cfg (by simp)

theorem closeSession (reason : CloseReason) (p : Port) (h : Served c) : Served (closeSession reason p c) := by
  unfold Machine.closeSession
  split
  · exact conclude id _
  · exact h

theorem toControl (k : ReqKind) (p : Port) (r : Request) {take : Asked → Chip → Chip}
    (ht : ∀ a d, d.cfg = c.cfg → Served (take a d)) (h : Served c) : Served (toControl k p r take c) :=
  intake p r _ (fun _ => ht _ _ (by simp)) h

theorem answer (a : Asked) (o : Outcome) (x : List Word) (h : Served c) : Served (a.answer o x c) :=
  h.of_cfg (by simp [Asked.answer])

theorem adminOnly {take : Asked → Chip → Chip} (a : Asked) (ht : Served (take a c)) (h : Served c) :
    Served (adminOnly take a c) := by
  unfold Machine.adminOnly
  split
  · exact ht
  · exact h.of_cfg (by simp [Asked.notPrivileged, Asked.answer])

theorem emptyList {take : Asked → Chip → Chip} (a : Asked) (ht : Served (take a c)) (h : Served c) :
    Served (emptyList take a c) := by
  unfold Machine.emptyList
  split
  · exact ht
  · exact h.answer _ _ _

theorem unlessFault {take : Asked → Chip → Chip} (a : Asked) (ht : Served (take a c)) (h : Served c) :
    Served (unlessFault take a c) := by
  unfold Machine.unlessFault
  split
  · exact h.answer _ _ _
  · exact ht

theorem editing {α : Type} (parse : List Word → Option α) {take : α → Configuration → Asked → Chip → Chip} (a : Asked)
    (ht : ∀ x cfg, Served (take x cfg a c)) (h : Served c) : Served (editing parse take a c) := by
  refine unlessFault a ?_ h
  split
  · exact h.answer _ _ _
  · split
    · exact h.answer _ _ _
    · exact ht _ _

theorem takeStageBegin (a : Asked) (h : Served c) : Served (takeStageBegin a c) := by
  refine unlessFault a ?_ h
  have hboth (mayBegin : Bool) : Served (if !mayBegin then a.answer .stagingBusy [] c
      else if a.list ≠ [] then a.answer .badRequest [] c else edited c.map.active a c) := by
    split
    · exact h.answer _ _ _
    split
    · exact h.answer _ _ _
    · exact answer (c := setStaging _ c) _ _ _ h
  exact hboth _

theorem takeStageRead (a : Asked) (h : Served c) : Served (takeStageRead a c) := by
  refine unlessFault a ?_ h
  split
  · exact h.answer _ _ _
  · split <;> exact h.answer _ _ _

theorem takeCommit (persist : Bool) (cfg : Configuration) (a : Asked) (h : Served c) :
    Served (takeCommit persist cfg a c) := by
  unfold Machine.takeCommit
  split
  · exact h.answer _ _ _
  · exact conclude id _

theorem takeHoldPlace (a : Asked) (h : Served c) : Served (takeHoldPlace a c) := by
  unfold Machine.takeHoldPlace
  split
  · exact h.answer _ _ _
  split
  · exact h.of_cfg (by simp [Asked.notPrivileged, Asked.answer])
  split
  · exact h.answer _ _ _
  · exact h.answer _ _ _
  · split
    · exact h.answer _ _ _
    · exact conclude _ _

theorem takeHoldRelease (a : Asked) (h : Served c) : Served (takeHoldRelease a c) := by
  unfold Machine.takeHoldRelease
  split
  · exact h.answer _ _ _
  split
  · exact h.answer _ _ _
  split
  · exact h.answer _ _ _
  split
  · unfold releaseHold
    refine answer _ _ _ ?_
    split <;> exact h.of_cfg (by simp)
  · exact h.of_cfg (by simp [Asked.notPrivileged, Asked.answer])

theorem expireHold (id : Nat) (h : Served c) : Served (expireHold id c) := by
  unfold Machine.expireHold
  split
  · split
    · exact h.of_cfg (by simp)
    all_goals exact h
  · exact h

theorem takeResetBridge (waiting : List Instr) (a : Asked) (c : Chip) : Served (takeResetBridge waiting a c) := by
  unfold Machine.takeResetBridge
  dsimp only
  generalize returnJob _ = d
  split
  · exact finishReset d
  · unfold reachPorts
    dsimp only
    split <;> exact conclude id _

theorem drainExpiry (h : Served c) : Served (drainExpiry c) := by
  unfold Machine.drainExpiry
  split
  · exact h.of_cfg (by simp)
  all_goals exact h

theorem deliveryDone (p : Port) (t : Tag) (h : Served c) : Served (deliveryDone p t c) := by
  have hemit (pages : List PageNo) (n : Nat) : (emitData p t pages n c).cfg = c.cfg :=
    Laws.each_proj (fun c => c.cfg)
      (fun (x : PageNo × Nat) c => c.emit (.toPort p (.data t x.2 (c.pool.content.get x.1)))) (fun _ _ => rfl) _ _
  unfold Machine.deliveryDone
  split
  · split
    · exact arbitrate (h.of_cfg (by simp [hemit]))
    · exact h
  · exact h

/-! ### The M-link -/

theorem mlinkUp (h : Served c) : Served (mlinkUp c) := by
  unfold Machine.mlinkUp
  dsimp only
  split
  · exact sendLinkReset (c := setBringUp _ (setMlink .up c)) h
  all_goals exact h

theorem mlinkDown (h : Served c) : Served (mlinkDown c) := by
  unfold Machine.mlinkDown
  dsimp only
  split
  · exact startRecovery _
  · exact h
  · exact h
  · exact bringUpAgain (c := setMlink .down c) h
  · exact h
  · exact h

theorem linkReadyTaken (h : Served c) : Served (linkReadyTaken c) := by
  unfold Machine.linkReadyTaken
  split
  · exact h.of_cfg (by simp)
  all_goals exact h

theorem identifyTaken (capacity : Word) (slots : Byte) (h : Served c) : Served (identifyTaken capacity slots c) := by
  unfold Machine.identifyTaken
  split
  · split
    · exact h.bringUpDone _ _
    · exact h.attemptFailed
  all_goals exact h

theorem attemptExpiry (h : Served c) : Served (attemptExpiry c) := by
  unfold Machine.attemptExpiry
  split
  · exact h.attemptFailed
  · exact h

theorem placeBlock (r : SlotRec) (n : Nat) (b : Block) (h : Served c) : Served (placeBlock r n b c) := by
  unfold Machine.placeBlock
  split
  · split
    · exact h.of_cfg (by simp)
    · exact h
  · split
    · exact h.setArea _ _
    · exact h

theorem mediaDataTaken (i : SlotNo) (n : Nat) (b : Block) (h : Served c) : Served (mediaDataTaken i n b c) := by
  unfold Machine.mediaDataTaken
  split
  · split
    · split
      · exact h.protocolError
      split
      · exact h
      · exact (h.placeBlock _ n b).of_cfg (Laws.setSlot_cfg ..)
    · exact h.protocolError
  · exact h

theorem portComplete (i : SlotNo) (status : MediaStatus) (p : Port) (r : SlotRec) (c : Chip) :
    Served (portComplete i status p r c) := by
  unfold Machine.portComplete
  split
  · exact conclude id _
  · split
    · exact conclude _ _
    · exact conclude _ _

theorem configComplete (i : SlotNo) (status : MediaStatus) (r : SlotRec) (h : Served c) :
    Served (configComplete i status r c) := by
  have hfree : Served (freeSlot i c) := h.of_cfg (by simp)
  unfold Machine.configComplete
  dsimp only
  split
  · exact conclude id _
  split
  · split
    · refine nextStartStep ?_
      split
      · exact hfree.setMark _ _
      · exact hfree.setMark _ _
    · exact hfree
  · exact hfree

theorem endTimeout (i : SlotNo) (r : SlotRec) (h : Served c) : Served (endTimeout i r c) := by
  have hfree : Served (freeSlot i c) := h.of_cfg (by simp)
  unfold Machine.endTimeout
  dsimp only
  split
  · exact conclude id _
  split
  · exact conclude id _
  split
  · exact hfree.nextStartStep
  · exact hfree

theorem commandComplete (i : SlotNo) (status : MediaStatus) (r : SlotRec) (h : Served c) :
    Served (commandComplete i status r c) := by
  unfold Machine.commandComplete
  split
  · exact portComplete _ _ _ _ _
  · exact h.configComplete _ _ _

theorem completeTaken (i : SlotNo) (status : MediaStatus) (h : Served c) : Served (completeTaken i status c) := by
  unfold Machine.completeTaken
  split
  · split
    · split
      · exact h.protocolError
      · exact h.commandComplete _ _ _
      · exact h.commandComplete _ _ _
      · exact endTimeout _ _ (h.of_cfg (by simp))
    · exact h.protocolError
  · exact h

theorem abandonAckTaken (i : SlotNo) (h : Served c) : Served (abandonAckTaken i c) := by
  unfold Machine.abandonAckTaken
  split
  · split
    · split
      · exact h.protocolError
      · exact h.protocolError
      · exact conclude _ _
      · exact h.endTimeout _ _
    · exact h.protocolError
  · exact h

/-- A write that has failed and whose slot is not free yet leaves the writer in AWAITING-FREE. -/
theorem writeFailed_awaitingFree (h : Served c) : Served (writeFailed .awaitingFree c) := by
  unfold writeFailed
  split
  · refine of_writer ?_
    rw [Laws.jobFailed_cfg]
    exact Writer.noConfusion
  all_goals exact h

theorem responseExpiry (i : SlotNo) (h : Served c) : Served (responseExpiry i c) := by
  unfold Machine.responseExpiry
  split
  · split
    · have habandoned : Served (abandonSlot i .timeout (disown i c)) := h.of_cfg (by simp)
      dsimp only
      split
      · exact habandoned.of_cfg (by simp)
      · exact habandoned
      · split
        · exact writeFailed_awaitingFree habandoned
        · exact habandoned.readLost
    · exact h
    · exact h
  · exact h

theorem abandonExpiry (i : SlotNo) (h : Served c) : Served (abandonExpiry i c) := by
  unfold Machine.abandonExpiry
  split
  · split
    · split
      · exact startRecovery c
      split
      · exact h.bringUpAgain
      · exact h
    · exact h
    · exact h
  · exact h

theorem received (p : Port) {take : Chip → Chip} (ht : Served (take c)) (h : Served c) : Served (received p take c) := by
  unfold Machine.received
  split
  · exact ht
  · exact h

theorem answerOpen (p : Port) (revision : Option Byte) (h : Served c) : Served (answerOpen p revision c) := by
  unfold Machine.answerOpen
  split
  · split
    · exact h.of_cfg (by simp)
    split
    · exact h.of_cfg (by simp)
    · exact h.of_cfg (by simp [acceptOpen])
  · exact h.of_cfg (by simp)
  · exact h.of_cfg (by simp)

/-- Every command leaves the writer served. -/
theorem action (waiting : List Instr) (i : Instr) (h : Served c) : Served (action waiting i c) := by
  have hcfg {d : Chip} (hd : d.cfg = c.cfg) : Served d := h.of_cfg hd
  cases i
  case plinkLinkDown p => exact closeSession _ _ (c := setLink p .down c) h
  case openFrame p revision => exact received p (h.answerOpen p revision) h
  case closeFrame p =>
    change Served (Machine.received p
      (fun c => if c.isOpen p then Machine.closeSession .close p c else Machine.noSession p none c) c)
    refine received p ?_ h
    split
    · exact h.closeSession _ _
    · exact hcfg (by simp)
  case dataFrame p d => exact received p (h.takeData p d) h
  case read p r => exact intake p r _ (fun x => h.admission .read p r.tag x) h
  case write p r => exact intake p r _ (fun x => h.admission .write p r.tag x) h
  case discard p r => exact intake p r _ (fun x => h.admission .discard p r.tag x) h
  case flush p r => exact intake p r _ (fun x => h.admission .flush p r.tag x) h
  case abort p r => exact intake p r _ (fun x => h.takeAbort p r.tag x) h
  case mapRead p r =>
    exact toControl _ p r (fun a d hd => emptyList a (answer _ _ _ (hcfg (by simp [hd]))) (hcfg hd)) h
  case holdList p r =>
    exact toControl _ p r (fun a d hd => emptyList a (answer _ _ _ (hcfg (by simp [hd]))) (hcfg hd)) h
  case statusRead p r =>
    exact toControl _ p r (fun a d hd => emptyList a (answer _ _ _ (hcfg (by simp [hd]))) (hcfg hd)) h
  case logRead p r =>
    exact toControl _ p r (fun a d hd => adminOnly a (emptyList a (answer _ _ _ (hcfg hd)) (hcfg hd)) (hcfg hd)) h
  case logClear p r =>
    exact toControl _ p r (fun a d hd => adminOnly a (emptyList a (answer _ _ _ (hcfg hd)) (hcfg hd)) (hcfg hd)) h
  case resetBridge p r =>
    exact toControl _ p r
      (fun a d hd => adminOnly a (emptyList a (takeResetBridge waiting a d) (hcfg hd)) (hcfg hd)) h
  case holdPlace p r => exact toControl _ p r (fun a d hd => takeHoldPlace a (hcfg hd)) h
  case holdRelease p r => exact toControl _ p r (fun a d hd => takeHoldRelease a (hcfg hd)) h
  case stageBegin p r => exact toControl _ p r (fun a d hd => adminOnly a (takeStageBegin a (hcfg hd)) (hcfg hd)) h
  case stageWindow p r =>
    exact toControl _ p r (fun a d hd => adminOnly a (editing _ a (fun _ _ =>
      answer (c := setStaging _ d) _ _ _ (hcfg hd)) (hcfg hd)) (hcfg hd)) h
  case stageDrop p r =>
    exact toControl _ p r (fun a d hd => adminOnly a (editing _ a (fun _ _ =>
      answer (c := setStaging _ d) _ _ _ (hcfg hd)) (hcfg hd)) (hcfg hd)) h
  case stagePort p r =>
    exact toControl _ p r (fun a d hd => adminOnly a (editing _ a (fun _ _ =>
      answer (c := setStaging _ d) _ _ _ (hcfg hd)) (hcfg hd)) (hcfg hd)) h
  case stageParams p r =>
    exact toControl _ p r (fun a d hd => adminOnly a (editing _ a (fun _ _ =>
      answer (c := setStaging _ d) _ _ _ (hcfg hd)) (hcfg hd)) (hcfg hd)) h
  case stageRead p r => exact toControl _ p r (fun a d hd => adminOnly a (takeStageRead a (hcfg hd)) (hcfg hd)) h
  case stageAbandon p r =>
    exact toControl _ p r (fun a d hd => adminOnly a (editing _ a (fun _ _ =>
      answer (c := setStaging _ d) _ _ _ (hcfg hd)) (hcfg hd)) (hcfg hd)) h
  case commit p r =>
    exact toControl _ p r (fun a d hd => adminOnly a (editing _ a (fun persist cfg =>
      takeCommit persist cfg a (hcfg hd)) (hcfg hd)) (hcfg hd)) h
  case transferTimeout p t =>
    change Served (transferExpiry p t c)
    unfold transferExpiry
    split
    · exact conclude _ _
    · exact h
  case lastDataFrameSent p t => exact h.deliveryDone p t
  case mlinkLinkUp => exact h.mlinkUp
  case mlinkLinkDown => exact h.mlinkDown
  case linkReady => exact h.linkReadyTaken
  case identifyReply capacity slots => exact h.identifyTaken capacity slots
  case mediaData i n b => exact h.mediaDataTaken i n.toNat b
  case complete i status => exact h.completeTaken i status
  case abandonAck i => exact h.abandonAckTaken i
  case responseTimerExpiry i => exact h.responseExpiry i
  case abandonTimerExpiry i => exact h.abandonExpiry i
  case attemptLimitExpiry => exact h.attemptExpiry
  case drainLimitExpiry => exact h.drainExpiry
  case holdExpiry id => exact h.expireHold id
  case unknownMediaFrameKind frame => exact h.protocolError
  case unknownRequestKind p tag kind =>
    cases tag with
    | none => exact h
    | some t => exact intake p ⟨t, none⟩ (fun _ => false) (take := fun _ c => c) (fun _ => h) h
  case plinkCheckFail p =>
    exact received p (take := fun c => c.modPort p fun pc =>
      { pc with checkFails := saturatingSucc Config.saturate16 pc.checkFails }) (hcfg rfl) h
  case coldReset | rstnRelease | unknownKind | plinkLinkUp | mlinkCheckFail => exact h

end Served

/-- Settles O9: the hold table by the single changes, the writer by the end of each event. -/
theorem stepKeepsHoldTableInRangeAndWriterServed : Obligations.StepKeepsHoldTableInRangeAndWriterServed := by
  unfold Obligations.StepKeepsHoldTableInRangeAndWriterServed
  intro s t hstep
  refine ⟨step_keeps_holdTableInRange hstep, fun hs => ?_⟩
  rw [writerServed_iff] at hs ⊢
  rcases step_cases hstep with ⟨-, rfl⟩ | ⟨i, rest, -, ⟨-, rfl⟩ | ⟨-, -, rfl⟩ | ⟨-, -, -, rfl⟩ | ⟨-, rfl, -⟩⟩
  · unfold tick
    split
    · exact hs
    · exact hs
  · exact coldChip_keeps (fun _ _ => Served.of_start rfl) s.chip
  · exact Served.enterStart s.chip
  · exact hs.action rest i
  · exact hs

end Sys2Proof.Keeping
end

section
/-! SUPPORT. The slot operations, block by block: what the return of a slot to FREE and a grant leave in the slot table, the
counts, the pages and the request records (R99, R119). -/

namespace Sys2Proof.SlotOps

open Sys2Proof.Machine Sys2Proof.Safety Sys2Proof.Commands Sys2Proof.Grants Sys2Proof.DataPath

/-! ### Records -/

theorem setRecord_record (p q : Port) (t u : Tag) (x : Option Record) (c : Chip) :
    (setRecord p t x c).record q u = if q = p ∧ u = t then x else c.record q u := by
  simp only [setRecord, Chip.record, Laws.modPort_ports, Laws.PerPort.get_modify]
  by_cases hq : q = p
  · simp only [hq, if_true, true_and, Laws.Table.get_set]
  · simp [hq]

theorem freeTag_record (p q : Port) (t u : Tag) (c : Chip) :
    (freeTag p t c).record q u = if q = p ∧ u = t then none else c.record q u := setRecord_record p q t u none c

theorem freeTag_session (p q : Port) (t : Tag) (c : Chip) :
    ((freeTag p t c).ports.get q).session = (c.ports.get q).session := Laws.withRecord_session p q t none c

/-- What the freeing of the records kept for a slot leaves under each tag. -/
theorem freeKept_record (p q : Port) (i : SlotNo) (u : Tag) (c : Chip) :
    (freeKept p i c).record q u = if q = p ∧ Record.holdsSlot i (c.record q u) = true then none else c.record q u := by
  unfold freeKept
  suffices h : ∀ (l : List Tag) (d : Chip),
      (each (fun t c => if Record.holdsSlot i (c.record p t) then freeTag p t c else c) l d).record q u =
        if (q = p ∧ u ∈ l) ∧ Record.holdsSlot i (d.record q u) = true then none else d.record q u by
    rw [h]
    simp
  intro l
  induction l with
  | nil => intro d; simp [each]
  | cons t l ih =>
    intro d
    change (each _ l (if Record.holdsSlot i (d.record p t) then freeTag p t d else d)).record q u = _
    rw [ih]
    have hstep : (if Record.holdsSlot i (d.record p t) then freeTag p t d else d).record q u =
        if (q = p ∧ u = t) ∧ Record.holdsSlot i (d.record q u) = true then none else d.record q u := by
      split
      · rename_i hkept
        rw [freeTag_record]
        by_cases hqu : q = p ∧ u = t
        · obtain ⟨rfl, rfl⟩ := hqu
          simp [hkept]
        · simp [hqu]
      · rename_i hkept
        by_cases hqu : q = p ∧ u = t
        · obtain ⟨rfl, rfl⟩ := hqu
          simp [hkept]
        · simp [hqu]
    rw [hstep]
    generalize d.record q u = x
    have hnone : Record.holdsSlot i none = false := rfl
    cases hx : Record.holdsSlot i x
    · simp [hx]
    · by_cases hqu : q = p ∧ u = t
      · simp [hqu, hnone]
      · have hmem : (q = p ∧ u ∈ t :: l) ↔ (q = p ∧ u ∈ l) := by
          rw [List.mem_cons]
          tauto
        simp only [hqu, false_and, if_false, hx, hmem]

/-- Nothing about a port but its records changes. -/
theorem freeKept_port (p q : Port) (i : SlotNo) (c : Chip) :
    ∃ tags, (freeKept p i c).ports.get q = { c.ports.get q with tags := tags } := by
  refine Keeping.each_keeps (P := fun d => ∃ tags, d.ports.get q = { c.ports.get q with tags := tags })
    (fun t d hd => ?_) allTags ⟨_, rfl⟩
  obtain ⟨tags, hd⟩ := hd
  dsimp only
  split
  · simp only [freeTag, setRecord, Laws.modPort_ports, Laws.PerPort.get_modify, hd]
    split
    · exact ⟨_, rfl⟩
    · exact ⟨_, rfl⟩
  · exact ⟨tags, hd⟩

theorem freeKept_session (p q : Port) (i : SlotNo) (c : Chip) :
    ((freeKept p i c).ports.get q).session = (c.ports.get q).session := by
  obtain ⟨tags, h⟩ := freeKept_port p q i c
  rw [h]

/-! ### The return of a slot -/

/-- A port's slot without its record, its counts and its pages, before the records kept for it are freed. -/
def givenUp (i : SlotNo) (p : Port) (r : SlotRec) (c : Chip) : Chip :=
  returnPages r.pages (uncount p r (leaveWaits i (setSlot i none c)))

theorem freeSlot_of_none {i : SlotNo} {c : Chip} (h : c.slot i = none) : freeSlot i c = c := by
  unfold freeSlot
  rw [h]

theorem freeSlot_of_configuration {i : SlotNo} {c : Chip} {r : SlotRec} (h : c.slot i = some r)
    (hh : r.holder = .configuration) : freeSlot i c = leaveWaits i (setSlot i none c) := by
  unfold freeSlot
  simp only [h, hh]

theorem uncount_session (p q : Port) (r : SlotRec) (c : Chip) :
    ((uncount p r c).ports.get q).session = (c.ports.get q).session := by
  unfold uncount
  cases r.window <;> cases r.ordered <;> simp only [Bool.false_eq_true, if_false, if_true, Laws.modUsage_ports,
    Laws.modArb_ports, Laws.modPort_ports, Laws.PerPort.get_modify] <;> split <;> rfl

theorem uncount_record (p q : Port) (u : Tag) (r : SlotRec) (c : Chip) : (uncount p r c).record q u = c.record q u := by
  unfold uncount Chip.record
  cases r.window <;> cases r.ordered <;> simp only [Bool.false_eq_true, if_false, if_true, Laws.modUsage_ports,
    Laws.modArb_ports, Laws.modPort_ports, Laws.PerPort.get_modify] <;> split <;> rfl

theorem uncount_inFlight (p q : Port) (r : SlotRec) (c : Chip) :
    ((uncount p r c).ports.get q).inFlight = (c.ports.get q).inFlight - if q = p then 1 else 0 := by
  unfold uncount
  cases r.window <;> cases r.ordered <;> simp only [Bool.false_eq_true, if_false, if_true, Laws.modUsage_ports,
    Laws.modArb_ports, Laws.modPort_ports, Laws.PerPort.get_modify] <;> split <;> rfl

theorem uncount_usage (p : Port) (w : WindowNo) (r : SlotRec) (c : Chip) :
    (uncount p r c).map.usage.get w =
      { c.map.usage.get w with
        inFlight := (c.map.usage.get w).inFlight - if r.window = some w then 1 else 0 } := by
  unfold uncount
  cases hw : r.window with
  | none => cases r.ordered <;> simp
  | some v =>
    by_cases hv : w = v
    · subst hv
      cases r.ordered <;> simp [modUsage]
    · have hne : ¬ (some v = some w) := fun h => hv (Option.some.inj h).symm
      cases r.ordered <;> simp [modUsage, Laws.Table.get_modify_ne _ _ hv, hne]

theorem uncount_queues (p : Port) (r : SlotRec) (c : Chip) : (uncount p r c).arb.queues = c.arb.queues := by
  unfold uncount
  cases r.window <;> cases r.ordered <;> simp

theorem freeSlot_of_port {i : SlotNo} {c : Chip} {r : SlotRec} {p : Port} (h : c.slot i = some r)
    (hh : r.holder = .port p) :
    freeSlot i c = if c.isOpen p then givenUp i p r c else freeKept p i (givenUp i p r c) := by
  have hopen : (givenUp i p r c).isOpen p = c.isOpen p := by
    unfold Chip.isOpen givenUp
    rw [Laws.returnPages_ports, uncount_session]
    rfl
  unfold freeSlot
  simp only [h, hh]
  change (if (givenUp i p r c).isOpen p then givenUp i p r c else freeKept p i (givenUp i p r c)) = _
  rw [hopen]

/-- What `freeSlot` leaves in a block that the freeing of kept records does not touch. -/
theorem freeSlot_proj {β : Type} (g : Chip → β) (hkept : ∀ p i c, g (freeKept p i c) = g c) {i : SlotNo} {c : Chip}
    {r : SlotRec} {p : Port} (h : c.slot i = some r) (hh : r.holder = .port p) :
    g (freeSlot i c) = g (givenUp i p r c) := by
  rw [freeSlot_of_port h hh]
  split
  · rfl
  · exact hkept _ _ _

theorem givenUp_slot (i j : SlotNo) (p : Port) (r : SlotRec) (c : Chip) :
    (givenUp i p r c).slot j = if j = i then none else c.slot j := by
  have hslots : (givenUp i p r c).mlink.slots = (setSlot i none c).mlink.slots := by
    unfold givenUp uncount
    cases r.window <;> cases r.ordered <;> simp
  exact slot_of_setSlot (i := i) (r := none) (d := c) hslots j

theorem freeSlot_slot (i j : SlotNo) (c : Chip) : (freeSlot i c).slot j = if j = i then none else c.slot j := by
  cases h : c.slot i with
  | none =>
    rw [freeSlot_of_none h]
    split
    · rename_i hj
      rw [hj, h]
    · rfl
  | some r =>
    cases hh : r.holder with
    | configuration =>
      rw [freeSlot_of_configuration h hh]
      exact setSlot_slot i j none c
    | port p =>
      rw [freeSlot_proj (fun c => c.slot j) (fun p i c => slot_congr (by rw [Laws.freeKept_mlink]) j) h hh]
      exact givenUp_slot i j p r c

/-- Whether the return of slot `i` frees the record under a tag: the slot's port is not OPEN, and the record holds the slot. -/
def keptFor (i : SlotNo) (c : Chip) (q : Port) (u : Tag) : Bool :=
  decide ((c.slot i).map SlotRec.holder = some (.port q)) && !c.isOpen q && Record.holdsSlot i (c.record q u)

theorem freeSlot_record (i : SlotNo) (q : Port) (u : Tag) (c : Chip) :
    (freeSlot i c).record q u = if keptFor i c q u then none else c.record q u := by
  unfold keptFor
  cases h : c.slot i with
  | none =>
    rw [freeSlot_of_none h]
    simp
  | some r =>
    cases hh : r.holder with
    | configuration =>
      rw [freeSlot_of_configuration h hh]
      simp only [Option.map_some, hh, Option.some.injEq, reduceCtorEq, decide_false, Bool.false_and, Bool.false_eq_true,
        if_false]
      rfl
    | port p =>
      have hgiven : (givenUp i p r c).record q u = c.record q u := by
        unfold givenUp
        rw [record_congr (Laws.returnPages_ports _ _), uncount_record]
        rfl
      rw [freeSlot_of_port h hh]
      by_cases hq : q = p
      · subst hq
        cases ho : c.isOpen q
        · simp only [Bool.false_eq_true, if_false, freeKept_record, hgiven, true_and, Option.map_some, hh, decide_true,
            Bool.true_and, Bool.not_false]
        · simp [hgiven]
      · have hne : ¬ (Holder.port p = Holder.port q) := fun e => hq (Holder.port.inj e).symm
        split
        · simp [hgiven, hh, hne]
        · simp [freeKept_record, hgiven, hq, hh, hne]

theorem freeSlot_session (i : SlotNo) (q : Port) (c : Chip) :
    ((freeSlot i c).ports.get q).session = (c.ports.get q).session := by
  cases h : c.slot i with
  | none => rw [freeSlot_of_none h]
  | some r =>
    cases hh : r.holder with
    | configuration =>
      rw [freeSlot_of_configuration h hh]
      rfl
    | port p =>
      rw [freeSlot_proj (fun c => (c.ports.get q).session) (fun p i c => freeKept_session p q i c) h hh]
      unfold givenUp
      rw [Laws.returnPages_ports, uncount_session]
      rfl

theorem freeSlot_inFlight (i : SlotNo) (q : Port) (c : Chip) :
    ((freeSlot i c).ports.get q).inFlight =
      (c.ports.get q).inFlight - if (c.slot i).map SlotRec.holder = some (.port q) then 1 else 0 := by
  cases h : c.slot i with
  | none =>
    rw [freeSlot_of_none h]
    simp
  | some r =>
    cases hh : r.holder with
    | configuration =>
      rw [freeSlot_of_configuration h hh]
      simp only [Option.map_some, hh, Option.some.injEq, reduceCtorEq, if_false]
      rfl
    | port p =>
      rw [freeSlot_proj (fun c => (c.ports.get q).inFlight) (fun p i c => freeKept_inFlight p q i c) h hh]
      unfold givenUp
      rw [Laws.returnPages_ports, uncount_inFlight]
      simp only [Option.map_some, hh, Option.some.injEq, Holder.port.injEq, eq_comm (a := p)]
      rfl

theorem freeSlot_usage (i : SlotNo) (w : WindowNo) (c : Chip) :
    (freeSlot i c).map.usage.get w = { c.map.usage.get w with
      inFlight := (c.map.usage.get w).inFlight -
        if (c.slot i).any (fun r => decide (r.holder ≠ .configuration) && decide (r.window = some w)) then 1 else 0 } := by
  cases h : c.slot i with
  | none =>
    rw [freeSlot_of_none h]
    simp
  | some r =>
    cases hh : r.holder with
    | configuration =>
      rw [freeSlot_of_configuration h hh]
      simp [hh]
    | port p =>
      rw [freeSlot_proj (fun c => c.map.usage.get w) (fun p i c => by rw [Laws.freeKept_map]) h hh]
      unfold givenUp
      rw [Laws.returnPages_map, uncount_usage]
      simp [hh]

theorem freeSlot_queues (i : SlotNo) (c : Chip) : (freeSlot i c).arb.queues = c.arb.queues := by
  cases h : c.slot i with
  | none => rw [freeSlot_of_none h]
  | some r =>
    cases hh : r.holder with
    | configuration => rw [freeSlot_of_configuration h hh]; simp
    | port p =>
      rw [freeSlot_proj (fun c => c.arb.queues) (fun p i c => by rw [Laws.freeKept_arb]) h hh]
      unfold givenUp
      rw [Laws.returnPages_arb, uncount_queues]
      simp

theorem freeSlot_free (i : SlotNo) (c : Chip) : (freeSlot i c).pool.free = c.pool.free ∨
    ∃ r, c.slot i = some r ∧ (freeSlot i c).pool.free = r.pages.foldr insertPage c.pool.free := by
  cases h : c.slot i with
  | none => exact .inl (by rw [freeSlot_of_none h])
  | some r =>
    cases hh : r.holder with
    | configuration => exact .inl (by rw [freeSlot_of_configuration h hh]; simp)
    | port p =>
      refine .inr ⟨r, rfl, ?_⟩
      rw [freeSlot_proj (fun c => c.pool.free) (fun p i c => by rw [Laws.freeKept_pool]) h hh]
      unfold givenUp
      simp [returnPages]

theorem freeSlot_mlink (i : SlotNo) (c : Chip) :
    (freeSlot i c).mlink = { c.mlink with slots := (freeSlot i c).mlink.slots } := by
  cases h : c.slot i with
  | none => rw [freeSlot_of_none h]
  | some r =>
    cases hh : r.holder with
    | configuration => rw [freeSlot_of_configuration h hh]; simp [setSlot]
    | port p =>
      rw [freeSlot_proj (fun c => c.mlink) (fun p i c => by rw [Laws.freeKept_mlink]) h hh]
      have hm : (givenUp i p r c).mlink = (setSlot i none c).mlink := by
        unfold givenUp uncount
        cases r.window <;> cases r.ordered <;> simp
      rw [hm]
      rfl

end Sys2Proof.SlotOps
end

section
/-! SUPPORT. No page is lent twice (R101, R102): how often a page stands on the free list and on page lists together, and what
each change makes of it. -/

namespace Sys2Proof.Pages

open Sys2Proof.Machine Sys2Proof.Safety Sys2Proof.Commands Sys2Proof.Grants Sys2Proof.DataPath Sys2Proof.SlotOps
  Sys2Proof.Keeping

/-! ### Sums over the slots and the tags -/

/-- Two sums over a list that differ at one place only. -/
theorem sum_map_update {α : Type} {l : List α} (hl : l.Nodup) {i : α} (hi : i ∈ l) {f g : α → Nat}
    (h : ∀ j, j ≠ i → f j = g j) : (l.map f).sum + g i = (l.map g).sum + f i := by
  induction l with
  | nil => cases hi
  | cons a l ih =>
    obtain ⟨ha, hl'⟩ := List.nodup_cons.1 hl
    simp only [List.map_cons, List.sum_cons]
    by_cases hai : a = i
    · subst hai
      have hrest : l.map f = l.map g := List.map_congr_left fun j hj => h j fun e => ha (e ▸ hj)
      rw [hrest]
      omega
    · have := ih hl' ((List.mem_cons.1 hi).resolve_left (Ne.symm hai))
      rw [h a hai]
      omega

theorem sum_map_le {α : Type} {l : List α} {f g : α → Nat} (h : ∀ j, f j ≤ g j) : (l.map f).sum ≤ (l.map g).sum := by
  induction l with
  | nil => exact Nat.le_refl _
  | cons a l ih =>
    simp only [List.map_cons, List.sum_cons]
    exact Nat.add_le_add (h a) ih

theorem nodup_allSlots : allSlots.Nodup := by decide

theorem nodup_allTags : allTags.Nodup := by decide

theorem nodup_portAll : Port.all.Nodup := by decide

/-! ### How often a page is there -/

/-- The page list of a slot. -/
def slotPages (c : Chip) (i : SlotNo) : List PageNo := ((c.slot i).map SlotRec.pages).getD []

/-- The page list of a read that is DELIVERING, of any other record none. -/
def recordPages : Option Record → List PageNo
  | some (.data d) =>
    match d.stage with
    | .delivering pages => pages
    | .admitted | .granted _ _ _ | .issued _ | .abandoning _ _ => []
  | some (.handed _ _ _) | none => []

/-- How often a page stands on the lists of the slots. -/
def slotCount (x : PageNo) (c : Chip) : Nat := (allSlots.map fun i => (slotPages c i).count x).sum

/-- How often a page stands on the lists of the records of a port. -/
def portCount (x : PageNo) (c : Chip) (p : Port) : Nat := (allTags.map fun t => (recordPages (c.record p t)).count x).sum

/-- How often a page stands on the lists of the records. -/
def recordCount (x : PageNo) (c : Chip) : Nat := (Port.all.map fun p => portCount x c p).sum

/-- How often a page is there at all. -/
def pageCount (x : PageNo) (c : Chip) : Nat := c.pool.free.count x + slotCount x c + recordCount x c

/-- Pages in strictly ascending order. -/
abbrev AscendingPages (l : List PageNo) : Prop := l.Pairwise fun a b => a.val < b.val

/-- No page is there twice, and the free ones ascend. -/
def LentOnce (c : Chip) : Prop := (∀ x, pageCount x c ≤ 1) ∧ AscendingPages c.pool.free

theorem recordPages_eq (c : Chip) (p : Port) (t : Tag) : recordPages (c.record p t) =
    match (c.dataRecord p t).map DataRec.stage with
    | some (.delivering pages) => pages
    | _ => [] := by
  unfold Chip.dataRecord
  rcases c.record p t with _ | (d | _)
  · rfl
  · obtain ⟨_, _, _, _, _, _, _, _, _, _, stage⟩ := d
    cases stage <;> rfl
  · rfl

theorem pagesLentOnce_iff (s : State) : PagesLentOnce s ↔ LentOnce s.chip := by
  have hlists : heldPages s.chip = allSlots.flatMap (slotPages s.chip) ++
      Port.all.flatMap fun p => allTags.flatMap fun t => recordPages (s.chip.record p t) := by
    simp only [heldPages, recordPages_eq] <;> rfl
  have hheld (x : PageNo) : (s.chip.pool.free ++ heldPages s.chip).count x = pageCount x s.chip := by
    simp only [hlists, List.count_append, List.count_flatMap, pageCount, slotCount, recordCount, portCount,
      Function.comp_def, Nat.add_assoc]
  unfold PagesLentOnce LentOnce
  rw [List.nodup_iff_count_le_one]
  simp only [hheld]

/-! ### What leaves the pages alone -/

/-- Fewer lists: each list of `d` is that of `c`, or empty. -/
theorem slotCount_le {c d : Chip} (h : ∀ i, slotPages d i = slotPages c i ∨ slotPages d i = []) (x : PageNo) :
    slotCount x d ≤ slotCount x c :=
  sum_map_le fun i => by rcases h i with e | e <;> simp [e]

theorem recordCount_le {c d : Chip}
    (h : ∀ p t, recordPages (d.record p t) = recordPages (c.record p t) ∨ recordPages (d.record p t) = []) (x : PageNo) :
    recordCount x d ≤ recordCount x c :=
  sum_map_le fun p => sum_map_le fun t => by rcases h p t with e | e <;> simp [e]

theorem lentOnce_of_fewer {c d : Chip} (hfree : d.pool.free = c.pool.free)
    (hslots : ∀ i, slotPages d i = slotPages c i ∨ slotPages d i = [])
    (hrecords : ∀ p t, recordPages (d.record p t) = recordPages (c.record p t) ∨ recordPages (d.record p t) = [])
    (h : LentOnce c) : LentOnce d := by
  refine ⟨fun x => Nat.le_trans ?_ (h.1 x), hfree ▸ h.2⟩
  have hs := slotCount_le hslots x
  have hr := recordCount_le hrecords x
  unfold pageCount
  rw [hfree]
  omega

theorem lentOnce_of_records {c d : Chip} (hpool : d.pool = c.pool) (hmlink : d.mlink = c.mlink)
    (hrecords : ∀ p t, recordPages (d.record p t) = recordPages (c.record p t) ∨ recordPages (d.record p t) = [])
    (h : LentOnce c) : LentOnce d :=
  lentOnce_of_fewer (by rw [hpool]) (fun i => .inl (by unfold slotPages Chip.slot; rw [hmlink])) hrecords h

theorem lentOnce_of_tags {c d : Chip} (hpool : d.pool = c.pool) (hmlink : d.mlink = c.mlink)
    (htags : ∀ p, (d.ports.get p).tags = (c.ports.get p).tags) (h : LentOnce c) : LentOnce d :=
  lentOnce_of_records hpool hmlink (fun p t => .inl (by unfold Chip.record; rw [htags])) h

theorem lentOnce_modPort {c : Chip} (p : Port) {f : PortCtl → PortCtl} (hf : ∀ pc, (f pc).tags = pc.tags) (h : LentOnce c) :
    LentOnce (c.modPort p f) := by
  refine lentOnce_of_tags (c := c) rfl rfl (fun q => ?_) h
  rw [Laws.modPort_ports, Laws.PerPort.get_modify]
  split
  · exact hf _
  · rfl

theorem lentOnce_setRecord {c : Chip} (p : Port) (t : Tag) {x : Option Record} (hx : recordPages x = []) (h : LentOnce c) :
    LentOnce (setRecord p t x c) := by
  refine lentOnce_of_records (Laws.setRecord_pool ..) (Laws.setRecord_mlink ..) (fun q u => ?_) h
  rw [setRecord_record]
  split
  · exact .inr hx
  · exact .inl rfl

theorem recordPages_data {d : DataRec} (h : ∀ pages, d.stage ≠ .delivering pages) : recordPages (some (.data d)) = [] := by
  simp only [recordPages]
  split
  · rename_i pages hs
    exact absurd hs (h pages)
  all_goals rfl

/-! ### Pages that come back -/

theorem insertPage_perm (x : PageNo) (l : List PageNo) : (insertPage x l).Perm (x :: l) := by
  induction l with
  | nil => exact .refl _
  | cons y l ih =>
    unfold insertPage
    split
    · exact .refl _
    · exact (ih.cons y).trans (.swap x y l)

theorem foldr_insertPage_perm (pages l : List PageNo) : (pages.foldr insertPage l).Perm (pages ++ l) := by
  induction pages with
  | nil => exact .refl _
  | cons x pages ih => exact (insertPage_perm x _).trans (ih.cons x)

theorem insertPage_ascending {x : PageNo} {l : List PageNo} (hl : AscendingPages l) (hx : x ∉ l) :
    AscendingPages (insertPage x l) := by
  induction l with
  | nil => simp [insertPage]
  | cons y l ih =>
    obtain ⟨hy, hrest⟩ := List.pairwise_cons.1 hl
    simp only [List.mem_cons, not_or] at hx
    obtain ⟨hxy, hxl⟩ := hx
    unfold insertPage
    split
    · rename_i hlt
      refine List.pairwise_cons.2 ⟨fun z hz => ?_, hl⟩
      rcases List.mem_cons.1 hz with rfl | hz
      · exact hlt
      · exact Nat.lt_trans hlt (hy z hz)
    · rename_i hle
      refine List.pairwise_cons.2 ⟨fun z hz => ?_, ih hrest hxl⟩
      rcases List.mem_cons.1 ((insertPage_perm x l).mem_iff.1 hz) with rfl | hz
      · have : y.val ≠ z.val := fun e => hxy (Fin.ext e.symm)
        omega
      · exact hy z hz

theorem foldr_insertPage_ascending {pages l : List PageNo} (hl : AscendingPages l) (hn : (pages ++ l).Nodup) :
    AscendingPages (pages.foldr insertPage l) := by
  induction pages with
  | nil => exact hl
  | cons x pages ih =>
    obtain ⟨hx, hn'⟩ := List.nodup_cons.1 hn
    exact insertPage_ascending (ih hn') fun hm => hx ((foldr_insertPage_perm pages l).mem_iff.1 hm)

/-! ### A slot returns, a delivery ends -/

/-- A page list that leaves its slot, against the rest. -/
theorem slotCount_update {c d : Chip} {i : SlotNo} (h : ∀ j, j ≠ i → slotPages d j = slotPages c j) (x : PageNo) :
    slotCount x d + (slotPages c i).count x = slotCount x c + (slotPages d i).count x :=
  sum_map_update (f := fun j => (slotPages d j).count x) (g := fun j => (slotPages c j).count x) nodup_allSlots
    (mem_allSlots i) fun j hj => by simp only [h j hj]

theorem recordCount_update {c d : Chip} {p : Port} {t : Tag}
    (h : ∀ q u, ¬ (q = p ∧ u = t) → recordPages (d.record q u) = recordPages (c.record q u)) (x : PageNo) :
    recordCount x d + (recordPages (c.record p t)).count x = recordCount x c + (recordPages (d.record p t)).count x := by
  have hport : portCount x d p + (recordPages (c.record p t)).count x =
      portCount x c p + (recordPages (d.record p t)).count x :=
    sum_map_update (f := fun u => (recordPages (d.record p u)).count x)
      (g := fun u => (recordPages (c.record p u)).count x) nodup_allTags (mem_allTags t)
      fun u hu => by simp only [h p u fun e => hu e.2]
  have hall : recordCount x d + portCount x c p = recordCount x c + portCount x d p := by
    refine sum_map_update (f := fun q => portCount x d q) (g := fun q => portCount x c q) nodup_portAll (mem_portAll p)
      fun q hq => ?_
    unfold portCount
    exact congrArg List.sum (List.map_congr_left fun u _ => by rw [h q u fun e => hq e.1])
  omega

/-- Pages that come back from a list that is gone: no page is there more often, and the free ones ascend. -/
theorem lentOnce_of_back {c d : Chip} {pages : List PageNo} (hfree : d.pool.free = pages.foldr insertPage c.pool.free)
    (hcount : ∀ x, slotCount x d + recordCount x d + pages.count x ≤ slotCount x c + recordCount x c) (h : LentOnce c) :
    LentOnce d := by
  have hback (x : PageNo) : d.pool.free.count x = pages.count x + c.pool.free.count x := by
    rw [hfree, (foldr_insertPage_perm pages c.pool.free).count_eq, List.count_append]
  refine ⟨fun x => ?_, ?_⟩
  · have h1 := h.1 x
    have h2 := hcount x
    unfold pageCount at h1 ⊢
    rw [hback]
    omega
  · rw [hfree]
    refine foldr_insertPage_ascending h.2 (List.nodup_iff_count_le_one.2 fun x => ?_)
    have h1 := h.1 x
    have h2 := hcount x
    unfold pageCount at h1
    rw [List.count_append]
    omega

theorem freeSlot_recordPages (i : SlotNo) (q : Port) (u : Tag) (c : Chip) :
    recordPages ((freeSlot i c).record q u) = recordPages (c.record q u) ∨
      recordPages ((freeSlot i c).record q u) = [] := by
  rw [freeSlot_record]
  split
  · exact .inr rfl
  · exact .inl rfl

theorem freeSlot_slotPages (i j : SlotNo) (c : Chip) :
    slotPages (freeSlot i c) j = if j = i then [] else slotPages c j := by
  unfold slotPages
  rw [freeSlot_slot]
  split <;> rfl

theorem lentOnce_freeSlot {c : Chip} (i : SlotNo) (h : LentOnce c) : LentOnce (freeSlot i c) := by
  rcases SlotOps.freeSlot_free i c with hfree | ⟨r, hr, hfree⟩
  · refine lentOnce_of_fewer hfree (fun j => ?_) (fun q u => freeSlot_recordPages i q u c) h
    rw [freeSlot_slotPages]
    split
    · exact .inr rfl
    · exact .inl rfl
  · refine lentOnce_of_back hfree (fun x => ?_) h
    have hslot := slotCount_update (c := c) (d := freeSlot i c) (i := i)
      (fun j hj => by rw [freeSlot_slotPages, if_neg hj]) x
    have hrecord := recordCount_le (fun q u => freeSlot_recordPages i q u c) x
    have hpages : slotPages c i = r.pages := by simp [slotPages, hr]
    rw [freeSlot_slotPages, if_pos rfl, List.count_nil, hpages] at hslot
    omega

theorem lentOnce_deliveryEnded {c : Chip} (p : Port) (t : Tag) {d : DataRec} {pages : List PageNo}
    (hd : c.dataRecord p t = some d) (hs : d.stage = .delivering pages) (h : LentOnce c) :
    LentOnce (freeTag p t (returnPages pages c)) := by
  refine lentOnce_of_back (pages := pages) (by simp [returnPages]) (fun x => ?_) h
  have hrecord := recordCount_update (c := c) (d := freeTag p t (returnPages pages c)) (p := p) (t := t)
    (fun q u hqu => by rw [freeTag_record, if_neg hqu]; rfl) x
  have hpages : recordPages (c.record p t) = pages := by
    rw [record_of_dataRecord hd]
    simp [recordPages, hs]
  rw [hpages, freeTag_record, if_pos ⟨rfl, rfl⟩] at hrecord
  have hslot : slotCount x (freeTag p t (returnPages pages c)) = slotCount x c := rfl
  have hnone : (recordPages none).count x = 0 := rfl
  omega

/-! ### Grants and handing over -/

/-- One slot set: the other lists stay. -/
theorem setSlot_slotPages (i j : SlotNo) (r : Option SlotRec) (c : Chip) :
    slotPages (setSlot i r c) j = if j = i then (r.map SlotRec.pages).getD [] else slotPages c j := by
  unfold slotPages
  rw [setSlot_slot]
  split <;> rfl

theorem lentOnce_setSlot {c : Chip} (i : SlotNo) {r : Option SlotRec}
    (hr : (r.map SlotRec.pages).getD [] = slotPages c i ∨ (r.map SlotRec.pages).getD [] = []) (h : LentOnce c) :
    LentOnce (setSlot i r c) := by
  refine lentOnce_of_fewer (c := c) rfl (fun j => ?_) (fun _ _ => .inl rfl) h
  rw [setSlot_slotPages]
  split
  · rename_i hj
    subst hj
    exact hr
  · exact .inl rfl

theorem setStage_record (p q : Port) (t u : Tag) (s : Stage) (c : Chip) :
    (setStage p t s c).record q u =
      if q = p ∧ u = t then
        match c.dataRecord p t with
        | some d => some (.data { d with stage := s })
        | none => c.record q u
      else c.record q u := by
  unfold setStage
  cases c.dataRecord p t with
  | none => simp
  | some d => rw [setRecord_record]

theorem setStage_recordPages (p q : Port) (t u : Tag) {s : Stage} (hs : ∀ pages, s ≠ .delivering pages) (c : Chip) :
    recordPages ((setStage p t s c).record q u) = recordPages (c.record q u) ∨
      recordPages ((setStage p t s c).record q u) = [] := by
  rw [setStage_record]
  split
  · cases c.dataRecord p t with
    | none => exact .inl rfl
    | some d => exact .inr (recordPages_data hs)
  · exact .inl rfl

theorem lentOnce_setStage {c : Chip} (p : Port) (t : Tag) {s : Stage} (hs : ∀ pages, s ≠ .delivering pages)
    (h : LentOnce c) : LentOnce (setStage p t s c) :=
  lentOnce_of_records (Laws.setStage_pool ..) (Laws.setStage_mlink ..) (fun q u => setStage_recordPages p q t u hs c) h

theorem lentOnce_handedOver {c : Chip} (p : Port) (t : Tag) (i : SlotNo) {r : SlotRec} (hr : c.slot i = some r)
    (h : LentOnce c) : LentOnce (handedOver p t i r c) := by
  set e := setSlot i (some { r with pages := [] }) c with he
  set f := freeSlot i e with hf
  have hfree : f.pool.free = c.pool.free := by
    rcases SlotOps.freeSlot_free i e with hfree | ⟨r', hr', hfree⟩
    · exact hfree
    · rw [he, setSlot_slot, if_pos rfl] at hr'
      cases hr'
      exact hfree
  have hslots (x : PageNo) : slotCount x f + r.pages.count x ≤ slotCount x c := by
    have hgone := slotCount_update (c := c) (d := e) (i := i) (fun j hj => by rw [he, setSlot_slotPages, if_neg hj]) x
    have hfewer := slotCount_le (c := e) (d := f) (fun j => by
      rw [hf, freeSlot_slotPages]
      split
      · exact .inr rfl
      · exact .inl rfl) x
    have hnew : slotPages e i = [] := by rw [he, setSlot_slotPages, if_pos rfl]; rfl
    have hold : slotPages c i = r.pages := by simp [slotPages, hr]
    rw [hnew, hold, List.count_nil] at hgone
    omega
  have hrecords (x : PageNo) : recordCount x (handedOver p t i r c) ≤ recordCount x c + r.pages.count x := by
    have hstaged := recordCount_update (c := f) (d := handedOver p t i r c) (p := p) (t := t)
      (fun q u hqu => by
        change recordPages ((setStage p t _ f).record q u) = _
        rw [setStage_record, if_neg hqu]) x
    have hfewer : recordCount x f ≤ recordCount x c := recordCount_le (fun q u => freeSlot_recordPages i q u e) x
    have hnew : (recordPages ((handedOver p t i r c).record p t)).count x ≤
        (recordPages (f.record p t)).count x + r.pages.count x := by
      change (recordPages ((setStage p t _ f).record p t)).count x ≤ _
      rw [setStage_record, if_pos ⟨rfl, rfl⟩]
      cases f.dataRecord p t with
      | none => exact Nat.le_add_right _ _
      | some d => exact Nat.le_add_left _ _
    omega
  have hpool : (handedOver p t i r c).pool = f.pool := Laws.setStage_pool ..
  have hslots' (x : PageNo) : slotCount x (handedOver p t i r c) = slotCount x f := by
    unfold slotCount slotPages Chip.slot handedOver
    rw [Laws.setStage_mlink]
  refine ⟨fun x => ?_, by rw [hpool, hfree]; exact h.2⟩
  have h1 := h.1 x
  have h2 := hslots x
  have h3 := hrecords x
  unfold pageCount at h1 ⊢
  rw [hpool, hfree, hslots']
  omega

/-- The pages of a grant go from the free list to the slot. -/
theorem lentOnce_granted {c d : Chip} (hd : grantDecision c = some d) (h : LentOnce c) : LentOnce d := by
  obtain ⟨-, ⟨j, i, -, hi, rfl⟩ | ⟨reserved, p, t, r, i, c', hc', -, -, hi, rfl⟩⟩ := grantDecision_cases hd
  · refine lentOnce_of_fewer (c := c) (by simp) (fun n => ?_) (fun _ _ => .inl (by unfold Chip.record; rw [Laws.grantPersist_ports])) h
    unfold slotPages
    rw [grantPersist_slot]
    split
    · exact .inr rfl
    · exact .inl rfl
  · have hsame : c'.pool = c.pool ∧ c'.slot = c.slot ∧ c'.record = c.record := by
      rcases hc' with rfl | rfl <;> exact ⟨rfl, rfl, rfl⟩
    obtain ⟨hpool, hslot, hrecord⟩ := hsame
    have hfree : (grantHead reserved p t r i c').pool.free = c.pool.free.drop r.need := by rw [grantHead_pool, hpool]
    have hslots (j : SlotNo) : slotPages (grantHead reserved p t r i c') j =
        if j = i then c.pool.free.take r.need else slotPages c j := by
      unfold slotPages
      rw [grantHead_slot]
      split
      · rw [← hpool]
        rfl
      · rw [hslot]
    have hi' : slotPages c i = [] := by
      unfold slotPages
      rw [Grants.freeSlot_free hi]
      rfl
    have hrecords (q : Port) (u : Tag) :
        recordPages ((grantHead reserved p t r i c').record q u) = recordPages (c.record q u) ∨
          recordPages ((grantHead reserved p t r i c').record q u) = [] := by
      have hkeep (s : Stage) (hs : ∀ pages, s ≠ .delivering pages) (e : Chip) (he : e.ports = (takenByGrant reserved p r c').ports) :
          recordPages ((setStage p t s e).record q u) = recordPages (c.record q u) ∨
            recordPages ((setStage p t s e).record q u) = [] := by
        have hrec : e.record q u = c.record q u := by
          rw [record_congr he, ← hrecord]
          simp only [Chip.record, takenByGrant, Laws.PerPort.get_modify]
          split <;> rfl
        rw [← hrec]
        exact setStage_recordPages p q t u hs e
      rw [grantHead_eq]
      split
      · rw [record_congr (Laws.sendPort_ports ..)]
        exact hkeep _ (fun _ => Stage.noConfusion) _ rfl
      · unfold issuePort
        dsimp only
        split
        · rw [record_congr (Laws.sendWriteData_ports ..)]
          exact hkeep _ (fun _ => Stage.noConfusion) _ (by simp)
        · exact hkeep _ (fun _ => Stage.noConfusion) _ (by simp)
    refine ⟨fun x => ?_, by rw [hfree]; exact h.2.sublist (List.drop_sublist _ _)⟩
    have h1 := h.1 x
    have h2 := slotCount_update (c := c) (d := grantHead reserved p t r i c') (i := i)
      (fun j hj => by rw [hslots, if_neg hj]) x
    have h3 := recordCount_le hrecords x
    have h4 : c.pool.free.count x = (c.pool.free.take r.need).count x + (c.pool.free.drop r.need).count x := by
      rw [← List.count_append, List.take_append_drop]
    rw [hi', hslots, if_pos rfl, List.count_nil] at h2
    unfold pageCount at h1 ⊢
    rw [hfree]
    omega

/-! ### Every step -/

theorem lentOnce_swapped {c : Chip} (cfg : Configuration) (h : LentOnce c) : LentOnce (swapped cfg c) := by
  have htags (e : Word) (pc : PortCtl) : (compared e pc).tags = pc.tags := by
    unfold compared
    split
    · rfl
    · split <;> rfl
  refine lentOnce_of_tags (c := c) ?_ (swapped_mlink cfg c) (fun p => ?_) h
  · exact (Laws.eachPort_proj (fun c => c.pool) _ (by intro p c; split <;> simp) _).trans (by simp)
  · rw [swapped_port]
    split
    · exact htags _ _
    · rfl

/-- Nothing that holds a page changes. -/
theorem lentOnce_congr {c d : Chip} (h : LentOnce c) (hfree : d.pool.free = c.pool.free)
    (hslots : d.mlink.slots = c.mlink.slots) (hports : d.ports = c.ports) : LentOnce d :=
  lentOnce_of_fewer hfree (fun i => .inl (by unfold slotPages Chip.slot; rw [hslots]))
    (fun p t => .inl (by unfold Chip.record; rw [hports])) h

theorem lentOnce_coarse : KeptCoarse LentOnce where
  frames _ _ h := lentOnce_congr h rfl rfl rfl
  freed p t h := lentOnce_setRecord p t rfl h
  handed p t _ _ _ h := lentOnce_setRecord p t rfl h
  staged p t _ hs h := lentOnce_setStage p t hs h
  raised _ p _ _ h := lentOnce_modPort p (fun _ => rfl) h
  cleared _ p _ h := lentOnce_modPort p (fun _ => rfl) h
  delivered p h := by rw [Management.deliver_epoch]; exact lentOnce_modPort p (fun _ => rfl) h
  left _ p h := lentOnce_modPort p (fun _ => rfl) h
  closed _ p _ h := lentOnce_modPort p (fun _ => rfl) h
  dequeued p t h := lentOnce_of_tags (by simp) (by simp) (fun _ => by rw [Laws.dequeue_ports]) h
  enqueued {c} p t d hs h :=
    lentOnce_setRecord (c := c) p t (recordPages_data fun pages => by rw [hs]; exact Stage.noConfusion) h
  freedSlot i h := lentOnce_freeSlot i h
  keptSlot i r r' hr hl h := lentOnce_setSlot i (.inl (by simp [slotPages, hr, hl.2.2])) h
  granted hd h := lentOnce_granted hd h
  filled _ _ h := lentOnce_congr h rfl rfl rfl
  handedOver p t i _ hr h := lentOnce_handedOver p t i hr h
  deliveryEnded p t _ _ hd hs h := lentOnce_deliveryEnded p t hd hs h
  arb _ _ h := lentOnce_congr h rfl rfl rfl
  commit _ _ h := lentOnce_congr h rfl rfl rfl
  swapped cfg h := lentOnce_swapped cfg h
  holds _ _ h := lentOnce_congr h rfl rfl rfl
  fewerHolds _ h := lentOnce_congr h rfl rfl rfl
  oneChanged _ _ h := lentOnce_congr h rfl rfl rfl
  oneHold _ _ _ h := lentOnce_congr h rfl rfl rfl
  jobs _ _ h := lentOnce_congr h rfl rfl rfl
  refused _ _ _ _ _ _ h := lentOnce_congr h rfl rfl rfl
  emptied h := lentOnce_congr h rfl rfl rfl
  failed h := lentOnce_congr h rfl rfl rfl
  logTime _ h := lentOnce_congr h rfl rfl rfl
  mlink _ hs _ h := lentOnce_congr h rfl hs rfl
  copyRead {c} x h := by
    refine lentOnce_of_fewer (c := c) (by simp) (fun i => ?_) (fun q u => .inl (by unfold Chip.record; rw [Laws.readCopy_ports])) h
    have hslots : (readCopy x c).mlink.slots =
        (setSlot 0 (some { configSlot .read (c.copyBlock x) false with phase := .issued Config.factoryResponse }) c).mlink.slots := by
      simp [readCopy, issueSlot]
    unfold slotPages
    rw [slot_of_setSlot hslots]
    split
    · exact .inr rfl
    · exact .inl rfl
  advanced _ _ h := lentOnce_congr h rfl rfl rfl
  recovering _ h := lentOnce_congr h rfl rfl rfl
  serving _ h := lentOnce_congr h rfl rfl rfl
  faulted h := lentOnce_congr h rfl rfl rfl
  started _ h := lentOnce_congr h rfl rfl rfl
  loaded _ _ _ _ h := lentOnce_congr h rfl rfl rfl

theorem lentOnce_outside : KeptOutside LentOnce where
  linked p _ h := lentOnce_modPort p (fun _ => rfl) h
  checkFailed p h := lentOnce_modPort p (fun _ => rfl) h
  opened p _ _ _ h := lentOnce_modPort p (fun _ => rfl) h

theorem recordPages_tick (x : Option Record) : recordPages (x.map Record.tick) = recordPages x := by
  rcases x with _ | (d | _)
  · rfl
  · obtain ⟨_, _, _, _, _, _, _, _, _, _, stage⟩ := d
    cases stage <;> rfl
  · rfl

theorem lentOnce_tick {c : Chip} (h : LentOnce c) : LentOnce (tickChip c) := by
  refine lentOnce_of_fewer (c := c) rfl (fun i => .inl ?_) (fun p t => .inl ?_) h
  · unfold slotPages
    rw [PinAndTime.tickChip_slot]
    cases c.slot i <;> rfl
  · rw [PinAndTime.tickChip_record, recordPages_tick]

theorem step_keeps_pagesLentOnce {s t : State} (hstep : step s = .next t) (h : PagesLentOnce s) : PagesLentOnce t := by
  rw [pagesLentOnce_iff] at h ⊢
  refine lentOnce_coarse.kept.step lentOnce_outside (fun _ h => h) (fun _ h => lentOnce_tick h) (coldChip_keeps fun x n => ?_)
    (fun _ h => h) hstep h
  exact (pagesLentOnce_iff State.reset).1 resetSatisfiesTheInvariants.2.2.2.2.2.2.2.2.2.2

end Sys2Proof.Pages
end

section
/-! SUPPORT. The staging requests (R140 to R147) and the drain limit (R151). -/

namespace Sys2Proof.StagingRequests

open Sys2Proof.Machine Sys2Proof.Safety Sys2Proof.Commands Sys2Proof.Management

variable {s : State} {p : Port} {r : Request} {ws : List Word}

/-! ### The checks of R140 -/

theorem unlessFault_fault (take : Asked → Chip → Chip) {c : Chip} (h : c.cfg.bridge = .fault) (a : Asked) :
    unlessFault take a c = a.answer .mediaFault [] c := if_pos h

theorem unlessFault_of_not (take : Asked → Chip → Chip) {c : Chip} (h : c.cfg.bridge ≠ .fault) (a : Asked) :
    unlessFault take a c = take a c := if_neg h

theorem editing_refused {α : Type} (parse : List Word → Option α) (take : α → Configuration → Asked → Chip → Chip)
    {a : Asked} {c : Chip} {o : Outcome} (hfault : c.cfg.bridge ≠ .fault) (hown : c.map.staging.editable a.port = .error o) :
    editing parse take a c = a.answer o [] c := by
  simp only [editing, unlessFault_of_not _ hfault, hown]

/-- A staging request of an ADMIN port is taken behind the privilege check. -/
theorem does_of_admin {k : ReqKind} {take : Asked → Chip → Chip} {d : Chip} (hr : Ready s p r.tag) (hc : Carries r ws)
    (hadmin : privilegeOf s p = .admin) (hk : k ∈ managementKinds) (htaker : taker s.pending k = adminOnly take)
    (hd : take (asked s p r.tag k ws) (handed s p r.tag k ws) = d) : Does (.ofRequest k p r) s d := by
  refine does_of_taker hr hc hk ?_
  rw [htaker, adminOnly_asked_admin _ _ hadmin, hd]

/-- Every staging request and COMMIT checks for FAULT behind the privilege. -/
theorem taker_stagingKinds {k : ReqKind} (hk : k ∈ stagingKinds) (waiting : List Instr) :
    k ∈ managementKinds ∧ ∃ take, taker waiting k = adminOnly (unlessFault take) := by
  simp only [stagingKinds, editKinds, List.mem_cons, List.not_mem_nil, or_false] at hk
  rcases hk with rfl | rfl | rfl | rfl | rfl | rfl | rfl | rfl <;> exact ⟨by decide, _, rfl⟩

/-- The kinds that edit or commit need the requester's own OPEN staging. -/
theorem taker_editKinds {k : ReqKind} (hk : k ∈ editKinds) (waiting : List Instr) :
    k ∈ managementKinds ∧ ∃ (α : Type) (parse : List Word → Option α) (take : α → Configuration → Asked → Chip → Chip),
      taker waiting k = adminOnly (editing parse take) := by
  simp only [editKinds, List.mem_cons, List.not_mem_nil, or_false] at hk
  rcases hk with rfl | rfl | rfl | rfl | rfl | rfl <;> exact ⟨by decide, _, _, _, rfl⟩

/-- A kind that edits or commits, refused by the owner check. -/
theorem does_edit_refused {k : ReqKind} {o : Outcome} (hr : Ready s p r.tag) (hc : Carries r ws)
    (hadmin : privilegeOf s p = .admin) (hfault : s.chip.cfg.bridge ≠ .fault) (hk : k ∈ editKinds)
    (hown : s.chip.map.staging.editable p = .error o) : Does (.ofRequest k p r) s (answered p r.tag o [] s.chip) := by
  obtain ⟨hkind, α, parse, take, htaker⟩ := taker_editKinds hk s.pending
  exact does_of_admin hr hc hadmin hkind htaker
    ((editing_refused parse take (a := asked s p r.tag k ws) (c := handed s p r.tag k ws) hfault hown).trans
      (asked_answer_handed hr k o []))

theorem takeStageBegin_of_not {a : Asked} {c : Chip} (h : c.cfg.bridge ≠ .fault) : takeStageBegin a c =
    (match c.map.staging with
    | .empty => if a.list ≠ [] then a.answer .badRequest [] c else edited c.map.active a c
    | .opened q _ =>
      if q = a.port then if a.list ≠ [] then a.answer .badRequest [] c else edited c.map.active a c
      else a.answer .stagingBusy [] c
    | .committing _ _ => a.answer .stagingBusy [] c) := by
  unfold takeStageBegin
  rw [unlessFault_of_not _ h]
  cases c.map.staging with
  | empty => rfl
  | opened q cfg => by_cases hq : q = a.port <;> simp [hq]
  | committing o cfg => rfl

theorem takeStageRead_of_not {a : Asked} {c : Chip} (h : c.cfg.bridge ≠ .fault) : takeStageRead a c =
    (match c.map.staging.readable a.port with
    | none => a.answer .notOwner [] c
    | some cfg => if a.list = [] then a.answer .ok (stagingItems cfg) c else a.answer .badRequest [] c) := by
  unfold takeStageRead
  rw [unlessFault_of_not _ h] <;> rfl

/-! ### The obligations -/

/-- Settles O44: FAULT first, then the owner check. -/
theorem stagingIsRefusedInOrder : Obligations.StagingIsRefusedInOrder := by
  unfold Obligations.StagingIsRefusedInOrder
  intro s p r ws hr hc hadmin
  refine ⟨fun hfault k hk => ?_, fun hfault => ⟨fun hbusy => ?_, fun hother k hk => ?_, fun ⟨cfg, hown⟩ k hk => ?_⟩⟩
  · obtain ⟨hkind, take, htaker⟩ := taker_stagingKinds hk s.pending
    exact does_of_admin hr hc hadmin hkind htaker
      ((unlessFault_fault take (c := handed s p r.tag k ws) hfault _).trans (asked_answer_handed hr k _ _))
  · refine does_of_admin (k := .stageBegin) hr hc hadmin (by decide) rfl ?_
    rw [takeStageBegin_of_not (c := handed s p r.tag .stageBegin ws) hfault]
    have hstaging : (handed s p r.tag .stageBegin ws).map.staging = s.chip.map.staging := rfl
    rw [hstaging]
    rcases hbusy with ⟨q, cfg, hs, hq⟩ | ⟨o, cfg, hs⟩
    · simp only [hs]
      exact (if_neg hq).trans (asked_answer_handed hr _ _ _)
    · simp only [hs]
      rw [asked_answer_handed hr]
  · have hedit : s.chip.map.staging.editable p = .error .notOwner := by
      rcases hother with hs | ⟨q, cfg, hs, hq⟩ | ⟨o, cfg, hs, ho⟩
      · rw [hs]; rfl
      · rw [hs]; exact if_neg hq
      · rw [hs]; exact if_neg ho
    have hread : s.chip.map.staging.readable p = none := by
      rcases hother with hs | ⟨q, cfg, hs, hq⟩ | ⟨o, cfg, hs, ho⟩
      · rw [hs]; rfl
      · rw [hs]; exact if_neg hq
      · rw [hs]; exact if_neg ho
    rcases List.mem_cons.1 hk with rfl | hk
    · refine does_of_admin (k := .stageRead) hr hc hadmin (by decide) rfl ?_
      rw [takeStageRead_of_not (c := handed s p r.tag .stageRead ws) hfault]
      have hreadable : (handed s p r.tag .stageRead ws).map.staging.readable (asked s p r.tag .stageRead ws).port = none :=
        hread
      rw [hreadable]
      exact asked_answer_handed hr _ _ _
    · exact does_edit_refused hr hc hadmin hfault hk hedit
  · exact does_edit_refused hr hc hadmin hfault hk (by rw [hown]; exact if_pos rfl)

/-- An edit of the requester's own OPEN staging: its list alone decides. -/
theorem does_edit {k : ReqKind} {α : Type} {parse : List Word → Option α}
    {take : α → Configuration → Asked → Chip → Chip} {cfg : Configuration} (hr : Ready s p r.tag) (hc : Carries r ws)
    (hadmin : privilegeOf s p = .admin) (hfault : s.chip.cfg.bridge ≠ .fault) (hown : s.chip.map.staging = .opened p cfg)
    (hk : k ∈ managementKinds) (htaker : taker s.pending k = adminOnly (editing parse take)) :
    Does (.ofRequest k p r) s ((parse ws).elim (answered p r.tag .badRequest [] s.chip) fun x =>
      take x cfg (asked s p r.tag k ws) (handed s p r.tag k ws)) := by
  refine does_of_admin hr hc hadmin hk htaker ?_
  rw [StageParamsProofs.editing_opened (a := asked s p r.tag k ws) (c := handed s p r.tag k ws) _ _ hfault hown,
    asked_answer_handed hr] <;> rfl

theorem edited_asked (hr : Ready s p r.tag) (k : ReqKind) (cfg : Configuration) :
    edited cfg (asked s p r.tag k ws) (handed s p r.tag k ws) = answered p r.tag .ok [] (staged (.opened p cfg) s.chip) := by
  obtain ⟨⟨-, hup, hopen⟩, hfree⟩ := hr
  exact StageParamsProofs.edited_handed hopen hup hfree ..

/-- Settles O45. -/
theorem stagingBeginsReadsAndEnds : Obligations.StagingBeginsReadsAndEnds := by
  unfold Obligations.StagingBeginsReadsAndEnds
  intro s p r ws hr hc hadmin hfault
  refine ⟨fun hbegin => ?_, fun cfg hread => ?_, fun cfg hown => ?_⟩
  · have htake : takeStageBegin (asked s p r.tag .stageBegin ws) (handed s p r.tag .stageBegin ws) =
        if ws ≠ [] then answered p r.tag .badRequest [] s.chip
        else answered p r.tag .ok [] (staged (.opened p s.chip.map.active) s.chip) := by
      rw [takeStageBegin_of_not (c := handed s p r.tag .stageBegin ws) hfault, asked_answer_handed hr, edited_asked hr]
      have hstaging : (handed s p r.tag .stageBegin ws).map.staging = s.chip.map.staging := rfl
      rw [hstaging]
      rcases hbegin with hs | ⟨cfg, hs⟩
      · simp only [hs] <;> rfl
      · simp only [hs]
        exact if_pos rfl
    have hdoes := does_of_admin (k := .stageBegin) hr hc hadmin (by decide) rfl htake
    exact ⟨fun hws => by rwa [if_neg (not_not.2 hws)] at hdoes, fun hws => by rwa [if_pos hws] at hdoes⟩
  · have hreadable : s.chip.map.staging.readable p = some cfg := by
      rcases hread with hs | hs <;> (rw [hs]; exact if_pos rfl)
    have htake : takeStageRead (asked s p r.tag .stageRead ws) (handed s p r.tag .stageRead ws) =
        if ws = [] then answered p r.tag .ok (stagingItems cfg) s.chip else answered p r.tag .badRequest [] s.chip := by
      rw [takeStageRead_of_not (c := handed s p r.tag .stageRead ws) hfault]
      have hown : (handed s p r.tag .stageRead ws).map.staging.readable (asked s p r.tag .stageRead ws).port = some cfg :=
        hreadable
      simp only [hown, asked_answer_handed hr] <;> rfl
    have hdoes := does_of_admin (k := .stageRead) hr hc hadmin (by decide) rfl htake
    exact ⟨fun hws => by rwa [if_pos hws] at hdoes, fun hws => by rwa [if_neg hws] at hdoes⟩
  · have hdoes := does_edit (k := .stageAbandon) hr hc hadmin hfault hown (by decide) rfl
    constructor
    · rintro rfl
      have hend : (asked s p r.tag .stageAbandon []).answer .ok [] (setStaging .empty (handed s p r.tag .stageAbandon [])) =
          answered p r.tag .ok [] (staged .empty s.chip) :=
        asked_answer (c := staged .empty s.chip) hr _ _ _ _ rfl
      rw [← hend]
      exact hdoes
    · intro hws
      cases ws with
      | nil => exact absurd rfl hws
      | cons x ws => exact hdoes

/-- Settles O46. -/
theorem stagingEditsChangeStagingAlone : Obligations.StagingEditsChangeStagingAlone := by
  unfold Obligations.StagingEditsChangeStagingAlone
  intro s p r ws cfg hr hc hadmin hfault hown
  have hwindow := does_edit (k := .stageWindow) hr hc hadmin hfault hown (by decide) rfl
  have hdrop := does_edit (k := .stageDrop) hr hc hadmin hfault hown (by decide) rfl
  have hport := does_edit (k := .stagePort) hr hc hadmin hfault hown (by decide) rfl
  simp only [edited_asked hr] at hwindow hdrop hport
  refine ⟨fun n w hw hws => ?_, fun hbad => ?_, fun n hws => ?_, fun hbad => ?_, fun q v x h1 h8 hws => ?_, fun hbad => ?_⟩
  · rwa [(Laws.stageWindowParams_eq_some ws n w).2 ⟨hw, hws⟩] at hwindow
  · have hnone : stageWindowParams ws = none := Option.eq_none_iff_forall_ne_some.2 fun ⟨n, w⟩ h => by
      obtain ⟨hw, hws⟩ := (Laws.stageWindowParams_eq_some ws n w).1 h
      exact hbad n w hw hws
    rwa [hnone] at hwindow
  · rwa [(Laws.stageDropParams_eq_some ws n).2 hws] at hdrop
  · have hnone : stageDropParams ws = none := Option.eq_none_iff_forall_ne_some.2 fun n h =>
      hbad n ((Laws.stageDropParams_eq_some ws n).1 h)
    rwa [hnone] at hdrop
  · rwa [(Laws.stagePortParams_eq_some ws q ⟨v, x⟩).2 ⟨h1, h8, hws⟩] at hport
  · have hnone : stagePortParams ws = none := Option.eq_none_iff_forall_ne_some.2 fun ⟨q, v, x⟩ h => by
      obtain ⟨h1, h8, hws⟩ := (Laws.stagePortParams_eq_some ws q ⟨v, x⟩).1 h
      exact hbad q v x h1 h8 hws
    rwa [hnone] at hport

/-! ### The drain limit (R151) -/

theorem drainExpiry_of_not {c : Chip} (h : ∀ info left, c.map.commit ≠ .draining info left) : drainExpiry c = c := by
  unfold drainExpiry
  split
  · rename_i info left hd
    exact absurd hd (h info left)
  all_goals rfl

/-- Settles O50. -/
theorem drainLimitReturnsStaging : Obligations.DrainLimitReturnsStaging := by
  unfold Obligations.DrainLimitReturnsStaging
  intro s hhigh
  refine ⟨fun p tag persist changes left owner cfg ⟨_, hup, hopen⟩ hcommit hstaging => ?_, fun hno => ?_⟩
  · refine does_of_action hhigh (by simp) (by simp) ?_
    change drainExpiry s.chip = _
    simp only [drainExpiry, hcommit, reopenStaging, hstaging, answerCommit]
    exact Laws.respond_open (c := endCommit (.opened p cfg) s.chip) hopen hup ..
  · exact does_of_action hhigh (by simp) (by simp) (drainExpiry_of_not hno)

end Sys2Proof.StagingRequests
end

section
/-! SUPPORT. The expiry of a hold (R39), the blocks of a read from the media (R122), and what is discarded outside SERVICE
(R131, R136, R172). -/

namespace Sys2Proof.MediaFrames

open Sys2Proof.Machine Sys2Proof.Safety Sys2Proof.Commands Sys2Proof.HoldProofs

/-! ### The expiry of a hold -/

theorem noTags_iff {pc : PortCtl} : pc.noTags = true ↔ ∀ t, pc.tags.get t = none := by
  refine ⟨fun h t => ?_, noTags_of_get⟩
  exact Option.isNone_iff_eq_none.1 (List.all_eq_true.1 h _ (List.getElem_mem _))

/-- The NOTICE frames of the HOLDS notice are those that are due. -/
theorem mem_noticeFrames {s : State} {r : MediaRange} {q : Port} {x : Sent} : x ∈ noticeFrames r s.chip q ↔
    HoldNoticeDue s q r ∧ x = .toPort q (.notice { (s.chip.ports.get q).flags with holds := true }) := by
  refine ⟨fun h => ?_, fun ⟨hdue, hx⟩ => by rw [noticeFrames_of_due hdue, hx]; exact List.mem_singleton.2 rfl⟩
  unfold noticeFrames at h
  dsimp only at h
  split at h
  · rename_i hdue
    obtain ⟨hreach, hclear, htags, hup⟩ := hdue
    obtain ⟨hopen, hsees⟩ := (noticeReaches_iff s q r).1 hreach
    exact ⟨⟨⟨hopen, hclear, noTags_iff.1 htags, hup⟩, hsees⟩, List.mem_singleton.1 h⟩
  · cases h

theorem expireHold_of_active {id ms : Nat} {c : Chip} {h : Hold} (hf : c.findHold id = some h)
    (hs : h.state = .active (some ms)) : expireHold id c = removeHold h c := by
  simp only [expireHold, hf, hs]

theorem expireHold_of_not {id : Nat} {c : Chip} (h : ∀ x, c.findHold id = some x → ∀ ms, x.state ≠ .active (some ms)) :
    expireHold id c = c := by
  unfold expireHold
  split
  · rename_i x hx
    split
    · rename_i ms hms
      exact absurd hms (h x hx ms)
    all_goals rfl
  · rfl

theorem findHold_some {c : Chip} {id : Nat} {h : Hold} (hf : c.findHold id = some h) : h ∈ c.hold.table ∧ h.id = id :=
  ⟨List.mem_of_find?_eq_some hf, of_decide_eq_true (List.find?_some (p := fun x : Hold => decide (x.id = id)) hf)⟩

theorem removeHold_record (h : Hold) (c : Chip) (q : Port) (u : Tag) : (removeHold h c).record q u = c.record q u := by
  unfold Chip.record
  rw [removeHold_port]
  split <;> rfl

/-- Settles O43. -/
theorem holdExpiryRemovesTheHold : Obligations.HoldExpiryRemovesTheHold := by
  unfold Obligations.HoldExpiryRemovesTheHold
  intro s id hhigh hrange
  refine ⟨fun h hm ms hid hs => ?_, fun hno => ?_⟩
  · have hf : s.chip.findHold id = some h := hid ▸ Laws.findHold_of_mem hrange hm
    have hdoes : Does (.holdExpiry id) s (removeHold h s.chip) :=
      does_of_action hhigh (by simp) (by simp) (expireHold_of_active hf hs)
    refine ⟨_, Port.all.flatMap (noticeFrames h.range s.chip), hdoes, ?_, by simp, by simp, by simp, by simp, by simp,
      by simp, fun q hopen hsees => ?_, removeHold_record h s.chip, removeHold_sent h s.chip, fun x => ?_⟩
    · rw [removeHold_hold, hid]
    · change ((removeHold h s.chip).ports.get q).flags.holds = true
      rw [removeHold_port, if_pos ((noticeReaches_iff s q h.range).2 ⟨hopen, hsees⟩)]
      rfl
    · simp only [List.mem_flatMap, mem_noticeFrames, Grants.mem_portAll, true_and]
  · refine does_of_action hhigh (by simp) (by simp) (expireHold_of_not fun x hx ms => ?_)
    obtain ⟨hm, hid⟩ := findHold_some hx
    exact hno x hm hid ms

/-! ### Blocks from the media -/

/-- A block that a read awaits: received before, or put in its place. -/
theorem mediaDataTaken_awaited {c : Chip} {i : SlotNo} {index : Nat} {b : Block} {r : SlotRec} {g : MediaRange}
    (hbridge : c.cfg.bridge = .service ∨ c.cfg.bridge = .start) (hr : c.slot i = some r) (hop : r.op = .read)
    (hphase : r.phase ≠ .taken) (hg : r.range = some g) (hindex : index < g.count) :
    mediaDataTaken i index b c =
      if index ∈ r.received then c
      else setSlot i (some { r with received := insertIndex index r.received }) (placeBlock r index b c) := by
  have htakes : c.takesCommandFrames = true := by
    rcases hbridge with h | h <;> simp [Chip.takesCommandFrames, h]
  have hgood : ¬ (r.op ≠ .read ∨ r.phase = .taken ∨ (r.range.getD ⟨0, 0⟩).count ≤ index) := by
    simp [hop, hphase, hg, hindex]
  unfold mediaDataTaken
  rw [if_pos htakes]
  simp only [hr, if_neg hgood, List.contains_iff_mem]

theorem placeBlock_port {c : Chip} {p : Port} {r : SlotRec} {index : Nat} {page : PageNo} (b : Block)
    (hh : r.holder = .port p) (hp : r.pages[index]? = some page) : placeBlock r index b c = fillPage page b c := by
  simp only [placeBlock, hh, hp]

theorem placeBlock_configuration {c : Chip} {x : Copy} {r : SlotRec} (index : Nat) (b : Block)
    (hh : r.holder = .configuration) (hx : c.cfg.step.bind StartStep.copy? = some x) :
    placeBlock r index b c = setArea x (some b) c := by
  simp only [placeBlock, hh, hx]

/-- Settles O54. -/
theorem mediaDataGoesToItsPlace : Obligations.MediaDataGoesToItsPlace := by
  unfold Obligations.MediaDataGoesToItsPlace
  intro s i index b r g hhigh hbridge hr hop hphase hg hindex
  have hdoes : Does (.mediaData i index b) s (mediaDataTaken i index.toNat b s.chip) :=
    does_of_action hhigh (by simp) (by simp) rfl
  rw [mediaDataTaken_awaited hbridge hr hop hphase hg hindex] at hdoes
  refine ⟨fun hin => ?_, fun p page hout hh hp => ?_, fun hout hh => ⟨fun hstep => ?_, fun hstep => ?_⟩⟩
  · rwa [if_pos hin] at hdoes
  · rwa [if_neg hout, placeBlock_port b hh hp] at hdoes
  · rwa [if_neg hout, placeBlock_configuration (x := .a) _ b hh (by rw [hstep]; rfl)] at hdoes
  · rwa [if_neg hout, placeBlock_configuration (x := .b) _ b hh (by rw [hstep]; rfl)] at hdoes

/-! ### Outside SERVICE -/

theorem protocolError_of_not {c : Chip} (h : c.cfg.bridge ≠ .service) : protocolError c = c := if_neg h

/-- A command's frame for a slot that is FREE is a protocol error, which is discarded outside SERVICE. -/
theorem commandFrames_discarded {c : Chip} {i : SlotNo} (h : c.cfg.bridge ≠ .service)
    (hi : c.takesCommandFrames = true → c.slot i = none) :
    (∀ index b, mediaDataTaken i index b c = c) ∧ (∀ status, completeTaken i status c = c) ∧ abandonAckTaken i c = c := by
  cases htakes : c.takesCommandFrames with
  | false => simp [mediaDataTaken, completeTaken, abandonAckTaken, htakes]
  | true =>
    have hslot := hi htakes
    simp [mediaDataTaken, completeTaken, abandonAckTaken, htakes, hslot, protocolError_of_not h]

theorem abandonExpiry_of_not {c : Chip} (hs : c.cfg.bridge ≠ .service) (hstart : c.cfg.bridge ≠ .start) (i : SlotNo) :
    abandonExpiry i c = c := by
  unfold abandonExpiry
  cases c.slot i with
  | none => rfl
  | some r => cases hp : r.phase <;> simp [hs, hstart, hp]

/-- Settles O59. -/
theorem mediaFramesAreDiscardedOutsideService : Obligations.MediaFramesAreDiscardedOutsideService := by
  unfold Obligations.MediaFramesAreDiscardedOutsideService
  intro s i hhigh
  have does {k : Instr} (hk : k ≠ .coldReset ∧ k ≠ .rstnRelease) (h : action s.pending k s.chip = s.chip) :
      Does k s s.chip := does_of_action hhigh hk.1 hk.2 h
  refine ⟨fun hbridge => ?_, fun hbridge hi => ?_⟩
  · have hs : s.chip.cfg.bridge ≠ .service := by rcases hbridge with h | h <;> simp [h]
    have hstart : s.chip.cfg.bridge ≠ .start := by rcases hbridge with h | h <;> simp [h]
    obtain ⟨hdata, hcomplete, hack⟩ := commandFrames_discarded (i := i) hs fun htakes => by
      simp [Chip.takesCommandFrames, hs, hstart] at htakes
    exact ⟨fun index b => does (by simp) (hdata _ b), fun status => does (by simp) (hcomplete status),
      does (by simp) hack, fun _ => does (by simp) (protocolError_of_not hs),
      does (by simp) (abandonExpiry_of_not hs hstart i)⟩
  · have hs : s.chip.cfg.bridge ≠ .service := by simp [hbridge]
    obtain ⟨hdata, hcomplete, hack⟩ := commandFrames_discarded (i := i) hs fun _ => hi
    exact ⟨fun index b => does (by simp) (hdata _ b), fun status => does (by simp) (hcomplete status),
      does (by simp) hack, fun _ => does (by simp) (protocolError_of_not hs)⟩

end Sys2Proof.MediaFrames
end

section
/-! SUPPORT. The check at COMMIT (R10, R11, R148): the first pair of windows that intersect, the first window that is badly
placed, and an ADMIN port. -/

namespace Sys2Proof.CommitCheck

open Sys2Proof.Machine Sys2Proof.Safety

/-! ### The present windows in their order -/

theorem mem_allWindows (n : WindowNo) : n ∈ allWindows := by
  simp only [allWindows, List.mem_map, List.mem_range]
  exact ⟨n.val, n.isLt, by ext; simp [Fin.ofNat, Nat.mod_eq_of_lt n.isLt]⟩

theorem allWindows_ascending : allWindows.Pairwise fun n m => n.val < m.val := by decide

theorem mem_entries {m : WindowMap} {n : WindowNo} {w : Window} : (n, w) ∈ m.entries ↔ m.get n = some w := by
  simp only [WindowMap.entries, List.mem_filterMap, Option.map_eq_some_iff, Prod.mk.injEq]
  constructor
  · rintro ⟨_, -, v, hv, rfl, rfl⟩
    exact hv
  · exact fun h => ⟨n, mem_allWindows n, w, h, rfl, rfl⟩

/-- Windows by ascending number. -/
abbrev Ascending (l : List (WindowNo × Window)) : Prop := l.Pairwise fun x y => x.1.val < y.1.val

theorem entries_ascending (m : WindowMap) : Ascending m.entries := by
  refine List.Pairwise.filterMap _ (fun a b hab x hx y hy => ?_) allWindows_ascending
  obtain ⟨_, -, rfl⟩ := Option.map_eq_some_iff.1 hx
  obtain ⟨_, -, rfl⟩ := Option.map_eq_some_iff.1 hy
  exact hab

theorem intersects_comm (a b : MediaRange) : a.intersects b = b.intersects a := by
  simp only [MediaRange.intersects, Bool.and_comm]

theorem intersects_false_iff (w v : Window) : w.blocks.intersects v.blocks = false ↔
    ¬ (w.base.toNat < v.base.toNat + v.length.toNat ∧ v.base.toNat < w.base.toNat + w.length.toNat) := by
  rw [← Bool.not_eq_true, HoldProofs.intersects_iff]
  rfl

/-! ### The first pair that intersects -/

/-- The pair of windows `n` and `m` is the first of a list that intersect, lower number first. -/
def FirstPair (l : List (WindowNo × Window)) (n m : WindowNo) : Prop :=
  n.val < m.val ∧ ∃ w v, (n, w) ∈ l ∧ (m, v) ∈ l ∧ w.blocks.intersects v.blocks = true ∧
    ∀ n' m' w' v', n'.val < m'.val → (n', w') ∈ l → (m', v') ∈ l → w'.blocks.intersects v'.blocks = true →
      n.val < n'.val ∨ (n = n' ∧ m.val ≤ m'.val)

theorem find?_first {l : List (WindowNo × Window)} (hl : Ascending l) {p : WindowNo × Window → Bool} {x : WindowNo × Window}
    (h : l.find? p = some x) : x ∈ l ∧ p x = true ∧ ∀ y ∈ l, p y = true → x.1.val ≤ y.1.val := by
  obtain ⟨hx, before, after, rfl, hbefore⟩ := List.find?_eq_some_iff_append.1 h
  obtain ⟨-, hafter, hcross⟩ := List.pairwise_append.1 hl
  refine ⟨by simp, hx, fun y hy hpy => ?_⟩
  rcases List.mem_append.1 hy with hy | hy
  · exact absurd hpy (by simpa using hbefore y hy)
  · rcases List.mem_cons.1 hy with rfl | hy
    · exact Nat.le_refl _
    · exact Nat.le_of_lt ((List.pairwise_cons.1 hafter).1 y hy)

/-- No window of a list intersects a later one. -/
theorem firstOverlap_none {l : List (WindowNo × Window)} (hl : Ascending l) (h : firstOverlap l = none) :
    ∀ n m w v, n.val < m.val → (n, w) ∈ l → (m, v) ∈ l → w.blocks.intersects v.blocks = false := by
  induction l with
  | nil => intro n m w v _ hn; cases hn
  | cons x l ih =>
    obtain ⟨hx, hl'⟩ := List.pairwise_cons.1 hl
    unfold firstOverlap at h
    split at h
    · cases h
    · rename_i hnone
      intro n m w v hnm hn hm
      rcases List.mem_cons.1 hm with rfl | hml
      · rcases List.mem_cons.1 hn with heq | hnl
        · cases heq
          exact absurd hnm (Nat.lt_irrefl _)
        · exact absurd (hx _ hnl) (Nat.not_lt_of_lt hnm)
      · rcases List.mem_cons.1 hn with rfl | hnl
        · simpa using List.find?_eq_none.1 hnone (m, v) hml
        · exact ih hl' h n m w v hnm hnl hml

theorem firstOverlap_some {l : List (WindowNo × Window)} (hl : Ascending l) {f : MapFailure} (h : firstOverlap l = some f) :
    ∃ n m, f = .overlap n m ∧ FirstPair l n m := by
  induction l with
  | nil => cases h
  | cons x l ih =>
    obtain ⟨n, w⟩ := x
    obtain ⟨hx, hl'⟩ := List.pairwise_cons.1 hl
    unfold firstOverlap at h
    split at h
    · rename_i m v hfind
      obtain ⟨hmem, hmeet, hleast⟩ := find?_first hl' hfind
      cases h
      refine ⟨n, m, rfl, hx _ hmem, w, v, by simp, List.mem_cons_of_mem _ hmem, hmeet, fun n' m' w' v' hlt hn' hm' hmeet' => ?_⟩
      rcases List.mem_cons.1 hn' with heq | hn'
      · cases heq
        rcases List.mem_cons.1 hm' with heq | hm'
        · cases heq
          exact absurd hlt (Nat.lt_irrefl _)
        · exact .inr ⟨rfl, hleast _ hm' hmeet'⟩
      · exact .inl (hx _ hn')
    · rename_i hnone
      obtain ⟨n₁, m₁, hf, hlt, w₁, v₁, hn₁, hm₁, hmeet, hfirst⟩ := ih hl' h
      refine ⟨n₁, m₁, hf, hlt, w₁, v₁, List.mem_cons_of_mem _ hn₁, List.mem_cons_of_mem _ hm₁, hmeet,
        fun n' m' w' v' hlt' hn' hm' hmeet' => ?_⟩
      have hm' : (m', v') ∈ l := by
        rcases List.mem_cons.1 hm' with heq | hm'
        · cases heq
          rcases List.mem_cons.1 hn' with heq | hn'
          · cases heq
            exact absurd hlt' (Nat.lt_irrefl _)
          · exact absurd (hx _ hn') (Nat.not_lt_of_lt hlt')
        · exact hm'
      rcases List.mem_cons.1 hn' with heq | hn'
      · cases heq
        exact absurd hmeet' (by simpa using List.find?_eq_none.1 hnone (m', v') hm')
      · exact hfirst n' m' w' v' hlt' hn' hm' hmeet'

theorem firstPair_unique {l : List (WindowNo × Window)} {n m n' m' : WindowNo} (h : FirstPair l n m)
    (h' : FirstPair l n' m') : n = n' ∧ m = m' := by
  obtain ⟨hlt, w, v, hn, hm, hmeet, hfirst⟩ := h
  obtain ⟨hlt', w', v', hn', hm', hmeet', hfirst'⟩ := h'
  have h1 := hfirst n' m' w' v' hlt' hn' hm' hmeet'
  have h2 := hfirst' n m w v hlt hn hm hmeet
  simp only [Fin.ext_iff] at h1 h2 ⊢
  omega

theorem firstOverlap_eq_some {l : List (WindowNo × Window)} (hl : Ascending l) {n m : WindowNo} :
    firstOverlap l = some (.overlap n m) ↔ FirstPair l n m := by
  constructor
  · intro h
    obtain ⟨n', m', heq, hpair⟩ := firstOverlap_some hl h
    cases heq
    exact hpair
  · intro h
    cases hf : firstOverlap l with
    | none =>
      obtain ⟨hlt, w, v, hn, hm, hmeet, -⟩ := h
      exact absurd hmeet (by simp [firstOverlap_none hl hf n m w v hlt hn hm])
    | some f =>
      obtain ⟨n', m', rfl, hpair⟩ := firstOverlap_some hl hf
      obtain ⟨rfl, rfl⟩ := firstPair_unique h hpair
      rfl

theorem firstOverlap_eq_none (m : WindowMap) : firstOverlap m.entries = none ↔ NoOverlap m := by
  constructor
  · intro h n k w v hne hw hv
    have hno := firstOverlap_none (entries_ascending m) h
    rcases Nat.lt_or_gt_of_ne (fun e => hne (Fin.ext e) : n.val ≠ k.val) with hlt | hlt
    · exact hno n k w v hlt (mem_entries.2 hw) (mem_entries.2 hv)
    · rw [intersects_comm]
      exact hno k n v w hlt (mem_entries.2 hv) (mem_entries.2 hw)
  · intro h
    cases hf : firstOverlap m.entries with
    | none => rfl
    | some f =>
      obtain ⟨n, k, -, hlt, w, v, hn, hk, hmeet, -⟩ := firstOverlap_some (entries_ascending m) hf
      have := h n k w v (fun e => Nat.ne_of_lt hlt (congrArg Fin.val e)) (mem_entries.1 hn) (mem_entries.1 hk)
      simp [this] at hmeet

/-! ### The first window that is badly placed -/

theorem placementFailure_none (cap : Nat) (n : WindowNo) (w : Window) :
    placementFailure cap n w = none ↔ w.base.toNat + w.length.toNat ≤ cap - 2 := by
  unfold placementFailure
  split
  · simp only [reduceCtorEq, false_iff]; omega
  · split
    · simp only [reduceCtorEq, false_iff]; omega
    · simp only [true_iff]; omega

/-- The first placement failure of a map. -/
abbrev firstMisplaced (cap : Nat) (m : WindowMap) : Option MapFailure :=
  m.entries.findSome? fun x => placementFailure cap x.1 x.2

theorem firstMisplaced_none (cap : Nat) (m : WindowMap) : firstMisplaced cap m = none ↔
    ∀ n w, m.get n = some w → w.base.toNat + w.length.toNat ≤ cap - 2 := by
  rw [List.findSome?_eq_none_iff]
  exact ⟨fun h n w hw => (placementFailure_none cap n w).1 (h (n, w) (mem_entries.2 hw)),
    fun h x hx => (placementFailure_none cap x.1 x.2).2 (h x.1 x.2 (mem_entries.1 hx))⟩

theorem firstMisplaced_some (cap : Nat) (m : WindowMap) (f : MapFailure) : firstMisplaced cap m = some f ↔
    ∃ n w, m.get n = some w ∧ placementFailure cap n w = some f ∧ PlacedBelow cap m n := by
  rw [List.findSome?_eq_some_iff]
  constructor
  · rintro ⟨before, ⟨n, w⟩, after, heq, hf, hbefore⟩
    have hasc := entries_ascending m
    rw [heq] at hasc
    have hmem (x : WindowNo × Window) : m.get x.1 = some x.2 ↔ x ∈ before ++ (n, w) :: after := by
      rw [← heq]
      exact mem_entries.symm
    refine ⟨n, w, (hmem (n, w)).2 (by simp), hf, fun k v hk hv => ?_⟩
    obtain ⟨-, hafter, -⟩ := List.pairwise_append.1 hasc
    rcases List.mem_append.1 ((hmem (k, v)).1 hv) with hin | hin
    · exact (placementFailure_none cap k v).1 (hbefore _ hin)
    · rcases List.mem_cons.1 hin with heq' | hin
      · cases heq'
        exact absurd hk (Nat.lt_irrefl _)
      · exact absurd ((List.pairwise_cons.1 hafter).1 _ hin) (Nat.not_lt_of_lt hk)
  · rintro ⟨n, w, hw, hf, hbelow⟩
    obtain ⟨before, after, heq⟩ := List.append_of_mem (mem_entries.2 hw)
    refine ⟨before, (n, w), after, heq, hf, fun x hx => ?_⟩
    have hasc := entries_ascending m
    rw [heq] at hasc
    obtain ⟨-, -, hcross⟩ := List.pairwise_append.1 hasc
    have hmem : x ∈ m.entries := by rw [heq]; exact List.mem_append_left _ hx
    exact (placementFailure_none cap x.1 x.2).2 (hbelow x.1 x.2 (hcross x hx _ List.mem_cons_self) (mem_entries.1 hmem))

theorem placementFailure_some (cap : Nat) (n : WindowNo) (w : Window) (f : MapFailure) :
    placementFailure cap n w = some f ↔
      (f = .beyondMedia n ∧ cap < w.base.toNat + w.length.toNat) ∨
        (f = .inConfigArea n ∧ w.base.toNat + w.length.toNat ≤ cap ∧ cap - 2 < w.base.toNat + w.length.toNat) := by
  unfold placementFailure
  split
  · rename_i h
    have : ¬ w.base.toNat + w.length.toNat ≤ cap := by omega
    simp [h, this, eq_comm]
  · rename_i h
    have : w.base.toNat + w.length.toNat ≤ cap := by omega
    split
    · rename_i h'
      simp [h, h', this, eq_comm]
    · rename_i h'
      simp [h, h']

/-! ### The whole check -/

theorem mapCheck_eq (cap : Nat) (m : WindowMap) : mapCheck cap m = (firstOverlap m.entries).or (firstMisplaced cap m) := rfl

theorem mapCheck_none (cap : Nat) (m : WindowMap) : mapCheck cap m = none ↔ ValidMap cap m := by
  rw [mapCheck_eq, Option.or_eq_none_iff, firstOverlap_eq_none, firstMisplaced_none, ValidMap, NoOverlap]
  simp only [intersects_false_iff]

/-- The map check fails with a pair that intersects, or else with a window badly placed. -/
theorem mapCheck_some (cap : Nat) (m : WindowMap) (f : MapFailure) : mapCheck cap m = some f ↔
    firstOverlap m.entries = some f ∨ (NoOverlap m ∧ firstMisplaced cap m = some f) := by
  rw [mapCheck_eq, Option.or_eq_some_iff, firstOverlap_eq_none]

theorem commitCheck_some (cap : Nat) (c : Configuration) (f : MapFailure) : commitCheck cap c = some f ↔
    mapCheck cap c.map = some f ∨
      (ValidMap cap c.map ∧ (∀ p, (c.ports.get p).privilege ≠ .admin) ∧ f = .noAdmin) := by
  have hadmin : (Port.all.any fun p => decide ((c.ports.get p).privilege = .admin)) = true ↔
      ¬ ∀ p, (c.ports.get p).privilege ≠ .admin := by
    simp [List.any_eq_true, Grants.mem_portAll]
  unfold commitCheck
  rw [Option.or_eq_some_iff, mapCheck_none]
  refine or_congr Iff.rfl (and_congr Iff.rfl ?_)
  split
  · rename_i h
    simp [hadmin.1 h]
  · rename_i h
    simp [not_not.1 (fun hn => h (hadmin.2 hn)), eq_comm]

theorem commitCheck_none (cap : Nat) (c : Configuration) : commitCheck cap c = none ↔ ValidConfiguration cap c := by
  unfold commitCheck ValidConfiguration
  rw [Option.or_eq_none_iff, mapCheck_none]
  refine and_congr Iff.rfl ?_
  split
  · rename_i h
    obtain ⟨p, -, hp⟩ := List.any_eq_true.1 h
    simp only [true_iff]
    exact ⟨p, of_decide_eq_true hp⟩
  · rename_i h
    simp only [reduceCtorEq, false_iff]
    exact fun ⟨p, hp⟩ => h (List.any_eq_true.2 ⟨p, Grants.mem_portAll p, decide_eq_true hp⟩)

theorem firstOverlap_not {m : WindowMap} {f : MapFailure} (hf : ∀ n k, f ≠ .overlap n k) : firstOverlap m.entries ≠ some f :=
  fun h => by
    obtain ⟨n, k, he, -⟩ := firstOverlap_some (entries_ascending m) h
    exact hf n k he

theorem firstMisplaced_not {cap : Nat} {m : WindowMap} {f : MapFailure} (hb : ∀ n, f ≠ .beyondMedia n)
    (hc : ∀ n, f ≠ .inConfigArea n) : firstMisplaced cap m ≠ some f := fun h => by
  obtain ⟨n, w, -, hf, -⟩ := (firstMisplaced_some cap m f).1 h
  rcases (placementFailure_some cap n w f).1 hf with ⟨he, -⟩ | ⟨he, -⟩
  · exact hb n he
  · exact hc n he

/-- Settles O48. -/
theorem commitCheckFindsTheFirstFault : Obligations.CommitCheckFindsTheFirstFault := by
  unfold Obligations.CommitCheckFindsTheFirstFault
  intro cap c
  refine ⟨commitCheck_none cap c, ?_, fun n m => ?_, fun n => ?_, fun n => ?_⟩
  · rw [commitCheck_some, mapCheck_some]
    have h1 := firstOverlap_not (m := c.map) (f := .noAdmin) (by simp)
    have h2 := firstMisplaced_not (cap := cap) (m := c.map) (f := .noAdmin) (by simp) (by simp)
    simp [h1, h2]
  · rw [commitCheck_some, mapCheck_some, firstOverlap_eq_some (entries_ascending c.map)]
    have h2 := firstMisplaced_not (cap := cap) (m := c.map) (f := .overlap n m) (by simp) (by simp)
    simp only [h2, FirstPair, mem_entries, reduceCtorEq, and_false, or_false]
  · rw [commitCheck_some, mapCheck_some, firstMisplaced_some]
    have h1 := firstOverlap_not (m := c.map) (f := .beyondMedia n) (by simp)
    simp only [h1, placementFailure_some, MapFailure.beyondMedia.injEq, reduceCtorEq, false_and, and_false, or_false, false_or]
    refine and_congr Iff.rfl ⟨?_, ?_⟩
    · rintro ⟨_, w, hw, ⟨rfl, hend⟩, hbelow⟩
      exact ⟨hbelow, w, hw, hend⟩
    · rintro ⟨hbelow, w, hw, hend⟩
      exact ⟨n, w, hw, ⟨rfl, hend⟩, hbelow⟩
  · rw [commitCheck_some, mapCheck_some, firstMisplaced_some]
    have h1 := firstOverlap_not (m := c.map) (f := .inConfigArea n) (by simp)
    simp only [h1, placementFailure_some, MapFailure.inConfigArea.injEq, reduceCtorEq, false_and, and_false, or_false, false_or]
    refine and_congr Iff.rfl ⟨?_, ?_⟩
    · rintro ⟨_, w, hw, ⟨rfl, hend⟩, hbelow⟩
      exact ⟨hbelow, w, hw, hend⟩
    · rintro ⟨hbelow, w, hw, hend⟩
      exact ⟨n, w, hw, ⟨rfl, hend⟩, hbelow⟩

end Sys2Proof.CommitCheck
end

section
/-! SUPPORT. Frames read back (R199 to R203): the fields of a frame, the check value, and the commands they spell. -/

namespace Sys2Proof.Formats

open Sys2Proof.Machine Sys2Proof.Safety

/-! ### Fields -/

theorem half_bytes16 (h : Half) : half (h.extractLsb' 8 8) (h.extractLsb' 0 8) = h := by
  unfold half
  ext i hi
  simp only [BitVec.getElem_append, BitVec.getElem_extractLsb', Nat.zero_add]
  split
  · exact (BitVec.getLsbD_eq_getElem hi)
  · rw [show 8 + (i - 8) = i by omega]
    exact BitVec.getLsbD_eq_getElem hi

theorem word_bytes32 (w : Word) :
    word (w.extractLsb' 24 8) (w.extractLsb' 16 8) (w.extractLsb' 8 8) (w.extractLsb' 0 8) = w := by
  unfold word
  ext i hi
  simp only [BitVec.getElem_append, BitVec.getElem_extractLsb', Nat.zero_add]
  split
  · exact BitVec.getLsbD_eq_getElem hi
  · split
    · rw [show 8 + (i - 8) = i by omega]
      exact BitVec.getLsbD_eq_getElem hi
    · split
      · rw [show 16 + (i - 8 - 8) = i by omega]
        exact BitVec.getLsbD_eq_getElem hi
      · rw [show 24 + (i - 8 - 8 - 8) = i by omega]
        exact BitVec.getLsbD_eq_getElem hi

theorem tagOf_tagByte (t : Tag) : tagOf (tagByte t) = t := by
  have := t.isLt
  ext
  simp only [tagOf, tagByte, BitVec.toNat_ofNat]
  omega

theorem slotOf_slotByte (i : SlotNo) : slotOf (slotByte i) = i := by
  have := i.isLt
  ext
  simp only [slotOf, slotByte, BitVec.toNat_ofNat]
  omega

theorem length_bytes32 (w : Word) : (bytes32 w).length = 4 := rfl

/-- A frame that begins with a kind byte is read with the check value it was sent with. -/
theorem checked_withCheck {body : List Byte} (h : body ≠ []) : checked (withCheck body) = some body := by
  have hlength : (withCheck body).length - 4 = body.length := by simp [withCheck, length_bytes32]
  have hpos := List.length_pos_iff.2 h
  unfold checked
  rw [hlength]
  simp only [withCheck, List.take_left, List.drop_left, List.length_append, length_bytes32]
  rw [if_pos ⟨by omega, trivial⟩]

theorem ofCode_code (k : ReqKind) : ReqKind.ofCode k.code = some k := by
  cases k <;> decide

theorem ofCode_unknown {b : Byte} (h : requestCodes.contains b = false) : ReqKind.ofCode b = none := by
  rw [ReqKind.ofCode, List.find?_eq_none]
  intro k hk hb
  have hmem : k.code ∈ requestCodes := by cases k <;> decide
  rw [eq_of_beq hb] at hmem
  simp [hmem] at h

/-! ### Blocks -/

/-- A list is itself without the zeros at its end, and those zeros. -/
theorem trimZeros_append (l : List Byte) : trimZeros l ++ List.replicate (l.length - (trimZeros l).length) 0#8 = l := by
  have hsplit : trimZeros l ++ l.rtakeWhile (· == 0#8) = l := List.rdropWhile_append_rtakeWhile ..
  have hzeros : l.rtakeWhile (· == 0#8) = List.replicate (l.rtakeWhile (· == 0#8)).length 0#8 :=
    List.eq_replicate_iff.2 ⟨rfl, fun b hb => eq_of_beq (List.mem_rtakeWhile_imp (p := (· == 0#8)) hb)⟩
  have hlength : l.length - (trimZeros l).length = (l.rtakeWhile (· == 0#8)).length := by
    have := congrArg List.length hsplit
    rw [List.length_append] at this
    omega
  rw [hlength, ← hzeros, hsplit]

theorem toBytes_ofBytes {l : List Byte} (h : l.length = 4096) : (Block.ofBytes l).toBytes = l := by
  have htake : l.take Config.blockBytes = l := List.take_of_length_le (Nat.le_of_eq h)
  have hbytes : (Block.ofBytes l).bytes = trimZeros l := congrArg trimZeros htake
  have hlength : Config.blockBytes = l.length := h.symm
  rw [Block.toBytes, hbytes, hlength, trimZeros_append]

theorem length_toBytes (b : Block) : b.toBytes.length = 4096 := by
  have hle : b.bytes.length ≤ 4096 := b.canonical.1
  simp only [Block.toBytes, List.length_append, List.length_replicate, Config.blockBytes]
  omega

theorem trimZeros_replicate (l : List Byte) (n : Nat) : trimZeros (l ++ List.replicate n 0#8) = trimZeros l := by
  induction n with
  | zero => simp
  | succ n ih =>
    rw [List.replicate_succ', ← List.append_assoc]
    exact (List.rdropWhile_concat_pos _ _ _ rfl).trans ih

theorem trimZeros_of_last {l : List Byte} (h : l.getLast? ≠ some 0#8) : trimZeros l = l := by
  refine List.rdropWhile_eq_self_iff.2 fun hne he => h ?_
  rw [List.getLast?_eq_some_getLast hne, eq_of_beq he]

theorem ofBytes_toBytes (b : Block) : Block.ofBytes b.toBytes = b := by
  have htake : b.toBytes.take Config.blockBytes = b.toBytes := List.take_of_length_le (Nat.le_of_eq (length_toBytes b))
  have hbytes : (Block.ofBytes b.toBytes).bytes = b.bytes := by
    change trimZeros (b.toBytes.take Config.blockBytes) = b.bytes
    rw [htake, Block.toBytes, trimZeros_replicate, trimZeros_of_last b.canonical.2]
  cases h : Block.ofBytes b.toBytes with
  | mk bytes canonical =>
    cases b
    simp_all

/-! ### P-link frames -/

theorem decodePlink_withCheck (p : Port) (kind : Byte) (rest : List Byte) : decodePlink p (withCheck (kind :: rest)) =
    if kind = 0x01#8 then .openFrame p rest.head?
    else if kind = 0x02#8 then .closeFrame p
    else if kind = 0x03#8 then decodeRequest p rest
    else if kind = 0x04#8 then .dataFrame p (decodeData rest)
    else .unknownKind p kind := by
  simp only [decodePlink, checked_withCheck (List.cons_ne_nil _ _)]

theorem decodeHeader_encodeHeader (h : Header) : decodeHeader (encodeHeader h) = some h := by
  obtain ⟨target, ordered, durable, count, offset, listLength, list⟩ := h
  simp only [encodeHeader, bytes16, bytes32, List.cons_append, List.nil_append, decodeHeader, half_bytes16, word_bytes32]
  cases ordered <;> cases durable <;> rfl

theorem decodeRequest_encodeRequest (p : Port) (k : ReqKind) (r : Request) :
    decodePlink p (withCheck (encodeRequest k r)) = .ofRequest k p r := by
  obtain ⟨tag, header⟩ := r
  rw [encodeRequest, decodePlink_withCheck]
  simp only [decodeRequest, ofCode_code, tagOf_tagByte]
  cases header with
  | none => rfl
  | some h =>
    simp only [Option.map_some, Option.getD_some, decodeHeader_encodeHeader] <;> rfl

/-- Settles O11. -/
theorem plinkFrameReadsBack : Obligations.PlinkFrameReadsBack := by
  unfold Obligations.PlinkFrameReadsBack
  intro i frame hwf hframe
  have request {k : ReqKind} {p : Port} {r : Request} (h : some (withCheck (encodeRequest k r)) = some frame) :
      decodePlink p frame = .ofRequest k p r := by
    cases h
    exact decodeRequest_encodeRequest p k r
  cases i
  case read p r | write p r | discard p r | flush p r | abort p r | mapRead p r | holdList p r | statusRead p r
      | logRead p r | logClear p r | resetBridge p r | holdPlace p r | holdRelease p r | stageBegin p r
      | stageWindow p r | stageDrop p r | stagePort p r | stageParams p r | stageRead p r | stageAbandon p r
      | commit p r => exact request hframe
  case plinkCheckFail p =>
    cases hframe
    rfl
  case unknownKind p kind =>
    cases hframe
    have hno : initiatorKinds.contains kind = false := by simpa [Instr.wf] using hwf
    simp only [initiatorKinds, List.contains_eq_mem, List.mem_cons, List.not_mem_nil, or_false, decide_eq_false_iff_not,
      not_or] at hno
    obtain ⟨h1, h2, h3, h4⟩ := hno
    rw [decodePlink_withCheck, if_neg h1, if_neg h2, if_neg h3, if_neg h4]
    rfl
  case openFrame p revision =>
    cases hframe
    rw [decodePlink_withCheck, if_pos rfl]
    cases revision <;> rfl
  case closeFrame p =>
    cases hframe
    exact decodePlink_withCheck ..
  case dataFrame p d =>
    cases d with
    | noTag =>
      cases hframe
      exact decodePlink_withCheck ..
    | wrongLength t =>
      cases hframe
      refine (decodePlink_withCheck ..).trans ?_
      simp [decodeData, tagOf_tagByte, Instr.portOf]
    | whole t index b =>
      cases hframe
      refine (decodePlink_withCheck ..).trans ?_
      simp [decodeData, bytes16, tagOf_tagByte, half_bytes16, length_toBytes, ofBytes_toBytes, Config.blockBytes,
        Instr.portOf]
  case unknownRequestKind p tag kind =>
    cases hframe
    refine (decodePlink_withCheck ..).trans ?_
    rcases tag with _ | t <;> rcases kind with _ | k
    · rfl
    · cases hwf
    · simp [decodeRequest, tagOf_tagByte, Instr.portOf]
    · have hno : requestCodes.contains k = false := by simpa [Instr.wf] using hwf
      simp [decodeRequest, ofCode_unknown hno, tagOf_tagByte, Instr.portOf]
  all_goals cases hframe

/-! ### M-link frames -/

theorem decodeMlink_withCheck {body : List Byte} (h : body ≠ []) : decodeMlink (withCheck body) = decodeMediaBody body := by
  simp only [decodeMlink, checked_withCheck h]

theorem decodeMediaBody_block (i : SlotNo) (index : Half) (b : Block) :
    decodeMediaBody (0x44#8 :: slotByte i :: (bytes16 index ++ b.toBytes)) = .mediaData i index b := by
  have hlength := length_toBytes b
  have hblock := ofBytes_toBytes b
  generalize b.toBytes = l at hlength hblock
  match l, hlength with
  | x :: y :: z :: l, hlength =>
    simp only [bytes16, List.cons_append, List.nil_append, decodeMediaBody, half_bytes16, slotOf_slotByte]
    rw [if_pos ⟨trivial, hlength⟩, hblock]

/-- A frame of no kind of R203 is read as such. -/
theorem decodeMediaBody_unknown {body : List Byte} (hne : body ≠ []) (h : mediaFrameKnown body = false) :
    decodeMediaBody body = .unknownMediaFrameKind body := by
  unfold decodeMediaBody
  split
  · split
    · rename_i hk
      subst hk
      cases h
    · rfl
  · rename_i k s st
    split
    · rename_i hk
      subst hk
      have hst : ¬ st.toNat ≤ 2 := by simpa [mediaFrameKnown] using h
      rw [if_neg (by rintro rfl; simp at hst), if_neg (by rintro rfl; simp at hst), if_neg (by rintro rfl; simp at hst)]
    · split
      · rename_i hk
        obtain ⟨rfl, rfl⟩ := hk
        cases h
      · rfl
  · split
    · rename_i hk
      subst hk
      cases h
    · rfl
  · split
    · rename_i hk
      obtain ⟨rfl, hlength⟩ := hk
      simp [mediaFrameKnown, hlength, Config.blockBytes] at h
    · rfl
  · rfl

/-- Settles O12. -/
theorem mlinkFrameReadsBack : Obligations.MlinkFrameReadsBack := by
  unfold Obligations.MlinkFrameReadsBack
  intro i frame hwf hframe
  cases i
  case mlinkCheckFail =>
    cases hframe
    rfl
  case linkReady =>
    cases hframe
    exact decodeMlink_withCheck (by simp)
  case identifyReply c n =>
    cases hframe
    refine (decodeMlink_withCheck (by simp)).trans ?_
    simp [bytes32, decodeMediaBody, word_bytes32]
  case complete slot status =>
    cases hframe
    refine (decodeMlink_withCheck (by simp)).trans ?_
    cases status <;> simp [decodeMediaBody, MediaStatus.code, slotOf_slotByte]
  case mediaData slot index b =>
    cases hframe
    exact (decodeMlink_withCheck (by simp)).trans (decodeMediaBody_block slot index b)
  case abandonAck slot =>
    cases hframe
    refine (decodeMlink_withCheck (by simp)).trans ?_
    simp [decodeMediaBody, slotOf_slotByte]
  case unknownMediaFrameKind body =>
    cases hframe
    obtain ⟨hne, hunknown⟩ : body ≠ [] ∧ mediaFrameKnown body = false := by simpa [Instr.wf] using hwf
    exact (decodeMlink_withCheck hne).trans (decodeMediaBody_unknown hne hunknown)
  all_goals cases hframe

end Sys2Proof.Formats
end

section
/-! SUPPORT. The configuration record read back (R159, R161, R204): each slot of its layout, then the whole. -/

namespace Sys2Proof.Formats

open Sys2Proof.Machine Sys2Proof.Safety

/-! ### Codes -/

theorem byte_toNat {n : Nat} (h : n < 256) : (byte n).toNat = n := by
  simp only [byte, BitVec.toNat_ofNat]
  omega

theorem rights_read (r : Rights) : Rights.ofCode (byte r.code).toNat = some r := by cases r <;> rfl

theorem discard_read (d : DiscardRule) : DiscardRule.ofCode (byte d.code).toNat = some d := by cases d <;> rfl

theorem durable_read (d : DurableRule) : DurableRule.ofCode (byte d.code).toNat = some d := by cases d <;> rfl

theorem scope_read (x : HoldScope) : HoldScope.ofCode (byte x.code).toNat = some x := by cases x <;> rfl

theorem port_read (p : Port) : portOfCode (byte (portCode p)).toNat = some p := by cases p <;> rfl

theorem privilege_read (v : Privilege) : Privilege.ofCode (byte v.code).toNat = some v := by cases v <;> rfl

theorem quota_read {q : Option Nat} (h : q = none ∨ ∃ n, q = some n ∧ 1 ≤ n ∧ n ≤ 16) :
    quotaOfCode (byte (quotaCode q)).toNat = some q := by
  rcases h with rfl | ⟨n, rfl, h1, h16⟩
  · rfl
  · rw [quotaCode, Option.getD_some, byte_toNat (by omega), quotaOfCode, if_neg (by omega), if_pos h16]

theorem half_read {n : Nat} (h : n < 65536) : (BitVec.ofNat 16 n).toNat = n := by
  simp only [BitVec.toNat_ofNat]
  omega

theorem portEntry_read {e : PortEntry} (h1 : 1 ≤ e.weight) (h8 : e.weight ≤ 8) :
    decodePortEntry (byte e.privilege.code) (byte e.weight) = some e := by
  simp only [decodePortEntry, privilege_read, byte_toNat (Nat.lt_of_le_of_lt h8 (by decide)), weightOk, inForm, h1, h8]
  rfl

/-! ### The map slots -/

theorem mapSlot_read {w : Window} (h : WindowForm w) :
    decodeMapSlot 1#8 (byte w.rights.p0.code) (byte w.rights.p1.code) (byte w.rights.p2.code) (byte w.discard.code)
      (byte w.durable.code) (byte (quotaCode w.quota)) w.base w.length = some (some w) := by
  obtain ⟨hlength, hquota⟩ := h
  have hfields : windowOfFields w.base w.length (byte w.rights.p0.code).toNat (byte w.rights.p1.code).toNat
      (byte w.rights.p2.code).toNat (byte w.discard.code).toNat (byte w.durable.code).toNat
      (byte (quotaCode w.quota)).toNat = some w := by
    simp only [windowOfFields, rights_read, discard_read, durable_read, quota_read hquota, inForm, decide_eq_true hlength]
    rfl
  simp [decodeMapSlot, hfields]

theorem mapSlots_read (rows : List (Option Window)) (h : ∀ w, some w ∈ rows → WindowForm w) (rest : List Byte) :
    decodeMapSlots rows.length (rows.flatMap encodeMapSlot ++ rest) = some (rows, rest) := by
  induction rows with
  | nil => rfl
  | cons row rows ih =>
    have hrest := ih fun w hw => h w (List.mem_cons_of_mem _ hw)
    rw [List.flatMap_cons, List.append_assoc]
    cases row with
    | none =>
      change (do
        let w ← decodeMapSlot 0#8 0#8 0#8 0#8 0#8 0#8 0#8 (word 0#8 0#8 0#8 0#8) (word 0#8 0#8 0#8 0#8)
        let (ws, rest) ← decodeMapSlots rows.length ((zeros 16 ++ (rows.flatMap encodeMapSlot ++ rest)).drop 16)
        some (w :: ws, rest)) = _
      rw [List.drop_left' (by rfl), hrest]
      rfl
    | some w =>
      simp only [encodeMapSlot, bytes32, List.cons_append, List.nil_append, List.length_cons,
        decodeMapSlots, word_bytes32, mapSlot_read (h w (by simp))]
      rw [List.drop_left' (by rfl), hrest]
      rfl

/-! ### The hold slots -/

/-- A stored hold whose fields fit their bytes, inside the medium. -/
def HoldForm (limit : Nat) (h : StoredHold) : Prop :=
  1 ≤ h.id ∧ h.id ≤ 65535 ∧ 1 ≤ h.range.count ∧ h.range.first + h.range.count ≤ limit

theorem holdSlot_read {limit : Nat} {h : StoredHold} (hlimit : limit < 4294967296) (hf : HoldForm limit h) :
    decodeHoldSlot limit 1#8 (byte h.scope.code) (byte (portCode h.owner)) (BitVec.ofNat 16 h.id) (item h.range.first)
      (item h.range.count) = some (some h) := by
  obtain ⟨hid1, hid, hcount, hend⟩ := hf
  have hidRead := half_read (n := h.id) (by omega)
  have hfirst := Laws.item_toNat (n := h.range.first) (by omega)
  have hlength := Laws.item_toNat (n := h.range.count) (by omega)
  have hid0 : BitVec.ofNat 16 h.id ≠ 0#16 := fun e => by
    have := congrArg BitVec.toNat e
    rw [hidRead] at this
    simp only [BitVec.toNat_ofNat, Nat.zero_mod] at this
    omega
  have hcount0 : item h.range.count ≠ 0#32 := fun e => by
    have := congrArg BitVec.toNat e
    rw [hlength] at this
    simp only [BitVec.toNat_ofNat, Nat.zero_mod] at this
    omega
  simp [decodeHoldSlot, scope_read, port_read, inForm, hid0, hcount0, hidRead, hfirst, hlength, hend]

theorem emptySlots_read (limit k : Nat) (rest : List Byte) :
    decodeHoldSlots limit k ((List.replicate k none).flatMap encodeHoldSlot ++ rest) = some [] := by
  induction k with
  | zero => rfl
  | succ k ih =>
    rw [List.replicate_succ, List.flatMap_cons, List.append_assoc]
    change (do
      let h ← decodeHoldSlot limit 0#8 0#8 0#8 (half 0#8 0#8) (word 0#8 0#8 0#8 0#8) (word 0#8 0#8 0#8 0#8)
      let hs ← decodeHoldSlots limit k ((zeros 8 ++ ((List.replicate k none).flatMap encodeHoldSlot ++ rest)).drop 8)
      some (h.toList ++ hs)) = _
    rw [List.drop_left' (by rfl), ih]
    rfl

theorem holdSlots_read {limit : Nat} (hlimit : limit < 4294967296) (l : List StoredHold) (h : ∀ x ∈ l, HoldForm limit x)
    (k : Nat) (rest : List Byte) :
    decodeHoldSlots limit (l.length + k) ((l.map some ++ List.replicate k none).flatMap encodeHoldSlot ++ rest) = some l := by
  induction l with
  | nil => simpa using emptySlots_read limit k rest
  | cons x l ih =>
    have hrest := ih fun y hy => h y (List.mem_cons_of_mem _ hy)
    rw [List.length_cons, Nat.add_right_comm]
    simp only [List.map_cons, List.cons_append, List.flatMap_cons, encodeHoldSlot, bytes16, bytes32, List.append_assoc,
      List.nil_append]
    change (do
      let y ← decodeHoldSlot limit 1#8 (byte x.scope.code) (byte (portCode x.owner))
        (half ((BitVec.ofNat 16 x.id).extractLsb' 8 8) ((BitVec.ofNat 16 x.id).extractLsb' 0 8))
        (word ((item x.range.first).extractLsb' 24 8) ((item x.range.first).extractLsb' 16 8)
          ((item x.range.first).extractLsb' 8 8) ((item x.range.first).extractLsb' 0 8))
        (word ((item x.range.count).extractLsb' 24 8) ((item x.range.count).extractLsb' 16 8)
          ((item x.range.count).extractLsb' 8 8) ((item x.range.count).extractLsb' 0 8))
      let hs ← decodeHoldSlots limit (l.length + k)
        ((zeros 8 ++ ((l.map some ++ List.replicate k none).flatMap encodeHoldSlot ++ rest)).drop 8)
      some (y.toList ++ hs)) = _
    rw [half_bytes16, word_bytes32, word_bytes32, holdSlot_read hlimit (h x (by simp)), List.drop_left' (by rfl), hrest]
    rfl

theorem holdSlots_eq {l : List StoredHold} (h : l.length ≤ 8) :
    holdSlots l = l.map some ++ List.replicate (8 - l.length) none := by
  unfold holdSlots
  rw [List.take_append, List.take_of_length_le (by rw [List.length_map]; exact h), List.length_map, List.take_replicate]
  congr 2
  simp only [Config.maxFixed]
  omega

/-! ### The record -/

theorem ofList_rows {n : Nat} {α : Type} (t : Table n α) (d : α) : Table.ofList n d t.rows = t := by
  have hrows : (List.range n).map (fun i => t.rows.getD i d) = t.rows := by
    refine List.ext_getElem (by simp [t.size]) fun i h1 h2 => ?_
    simp [List.getElem?_eq_getElem h2]
  cases t
  exact Table.mk.injEq .. ▸ hrows

theorem length_encodeMapSlot (w : Option Window) : (encodeMapSlot w).length = 32 := by cases w <;> rfl

theorem length_encodeHoldSlot (h : Option StoredHold) : (encodeHoldSlot h).length = 24 := by cases h <;> rfl

theorem length_encodeFields {r : ConfigRecord} (h : r.holds.length ≤ 8) : (encodeFields r).length = 736 := by
  have hslots : (holdSlots r.holds).length = 8 := by
    rw [holdSlots_eq h]
    simp
    omega
  simp [encodeFields, List.length_flatMap, length_encodeMapSlot, length_encodeHoldSlot, r.config.map.size, hslots, bytes16,
    bytes32, zeros, Port.all]

theorem decodeFields_encodeFields {cap : Nat} {r : ConfigRecord} (h : RecordInRange cap r) (rest : List Byte) :
    decodeFields cap (encodeFields r ++ rest) = some r := by
  obtain ⟨hcap, hparams, hweights, hwindows, hmap, hlength, hids, hholds⟩ := h
  have hform : ∀ w, some w ∈ r.config.map.rows → WindowForm w := fun w hw => by
    obtain ⟨i, hi, he⟩ := List.getElem_of_mem hw
    exact hwindows ⟨i, r.config.map.size ▸ hi⟩ w he
  have hslots : decodeHoldSlots (cap - 2) Config.maxFixed ((holdSlots r.holds).flatMap encodeHoldSlot ++ rest) =
      some r.holds := by
    have := holdSlots_read (limit := cap - 2) (by omega) r.holds (fun x hx => hholds x hx) (8 - r.holds.length) rest
    rwa [← holdSlots_eq hlength, Nat.add_sub_cancel' hlength] at this
  have hrows := mapSlots_read r.config.map.rows hform ((holdSlots r.holds).flatMap encodeHoldSlot ++ rest)
  rw [r.config.map.size] at hrows
  have hp : paramsOfFields r.config.params.response r.config.params.transfer r.config.params.drain = some r.config.params :=
    (Laws.paramsOfFields_eq_some ..).2 ⟨hparams, rfl⟩
  obtain ⟨-, hresponse, -, -, htransfer, -, -, hdrain, -⟩ := hparams
  have hcheck : mapCheck cap r.config.map = none := (CommitCheck.mapCheck_none cap _).2 hmap
  obtain ⟨⟨h0, h0'⟩, ⟨h1, h1'⟩, ⟨h2, h2'⟩⟩ := And.intro (hweights .p0) (And.intro (hweights .p1) (hweights .p2))
  simp only [encodeFields, bytes16, bytes32, Port.all, List.flatMap_cons, List.flatMap_nil, List.append_assoc,
    List.cons_append, List.nil_append, zeros, List.replicate, decodeFields, half_bytes16, word_bytes32,
    half_read (Nat.lt_of_le_of_lt hresponse (by decide)), half_read (Nat.lt_of_le_of_lt htransfer (by decide)),
    half_read (Nat.lt_of_le_of_lt hdrain (by decide)), hp, portEntry_read h0 h0', portEntry_read h1 h1',
    portEntry_read h2 h2', List.drop_succ_cons, List.drop_zero, hrows, inForm]
  simp only [Option.bind_eq_bind, Option.bind_some, hslots, ofList_rows, hcheck, hids]
  rfl

/-- Settles O13. -/
theorem configurationRecordReadsBack : Obligations.ConfigurationRecordReadsBack := by
  unfold Obligations.ConfigurationRecordReadsBack
  intro cap r h
  have hholds : r.holds.length ≤ 8 := by
    obtain ⟨-, -, -, -, -, hholds, -⟩ := h
    exact hholds
  have hbody : (encodeFields r ++ zeros 3356).length = 4092 := by
    rw [List.length_append, length_encodeFields hholds, zeros, List.length_replicate]
  have hbytes : (Block.ofBytes (encodeRecord r)).toBytes = encodeRecord r :=
    toBytes_ofBytes (by rw [encodeRecord, withCheck, List.length_append, hbody]; rfl)
  simp only [readRecord, hbytes]
  rw [encodeRecord, withCheck, List.take_left' hbody, List.drop_left' hbody, if_pos rfl]
  exact decodeFields_encodeFields h _

end Sys2Proof.Formats
end

section
/-! SUPPORT. What an event leaves of earlier blocks: OPEN sessions and links stay, a notice that is set stays set, a free tag
stays free, and frames sent stay sent. -/

namespace Sys2Proof.Aftermath

open Sys2Proof.Machine Sys2Proof.Safety Sys2Proof.Keeping Sys2Proof.Grants Sys2Proof.DataPath Sys2Proof.SlotOps

/-! ### Blocks that follow others -/

/-- What answers, grants, and the ends of CLOSING sessions keep of the blocks `c`. -/
structure Silent (c d : Chip) : Prop where
  opened : ∀ q, (d.ports.get q).session = .opened ↔ (c.ports.get q).session = .opened
  link : ∀ q, (d.ports.get q).link = (c.ports.get q).link
  flags : ∀ q, (d.ports.get q).flags = (c.ports.get q).flags
  delivered : ∀ q, (d.ports.get q).delivered = (c.ports.get q).delivered
  gone : ∀ q u, c.record q u = none → d.record q u = none
  sent : c.sent <+: d.sent

/-- What notices and swaps keep too: a notice but MAP that is set stays set. -/
structure Onward (c d : Chip) : Prop where
  opened : ∀ q, (d.ports.get q).session = .opened ↔ (c.ports.get q).session = .opened
  link : ∀ q, (d.ports.get q).link = (c.ports.get q).link
  flag : ∀ q f, f ≠ .map → (c.ports.get q).flags.get f = true → (d.ports.get q).flags.get f = true
  gone : ∀ q u, c.record q u = none → d.record q u = none
  sent : c.sent <+: d.sent

/-- A relation of one port controller to an earlier one, for every port, when one port changes. -/
theorem forall_ports {c d : Chip} {p : Port} {f : PortCtl → PortCtl} (hports : d.ports = c.ports.modify p f)
    {R : PortCtl → PortCtl → Prop} (hp : R (c.ports.get p) (f (c.ports.get p))) (hself : ∀ pc, R pc pc) (q : Port) :
    R (c.ports.get q) (d.ports.get q) := by
  rw [hports, Laws.PerPort.get_modify]
  split
  · rename_i hq; rw [hq]; exact hp
  · exact hself _

namespace Silent

variable {b c d : Chip}

theorem refl (c : Chip) : Silent c c :=
  ⟨fun _ => Iff.rfl, fun _ => rfl, fun _ => rfl, fun _ => rfl, fun _ _ h => h, List.prefix_refl _⟩

theorem trans (h : Silent b c) (h' : Silent c d) : Silent b d where
  opened q := (h'.opened q).trans (h.opened q)
  link q := (h'.link q).trans (h.link q)
  flags q := (h'.flags q).trans (h.flags q)
  delivered q := (h'.delivered q).trans (h.delivered q)
  gone q u hnone := h'.gone q u (h.gone q u hnone)
  sent := h.sent.trans h'.sent

/-- The blocks but the ports change, and frames go out. -/
theorem of_ports (hports : d.ports = c.ports) (hsent : c.sent <+: d.sent) : Silent c d where
  opened q := by rw [hports]
  link q := by rw [hports]
  flags q := by rw [hports]
  delivered q := by rw [hports]
  gone q u h := (record_congr hports q u).trans h
  sent := hsent

theorem of_same (hports : d.ports = c.ports) (hsent : d.sent = c.sent) : Silent c d :=
  of_ports hports (hsent ▸ List.prefix_refl _)

/-- One port changes: nothing of it but counts, or tags that are used. -/
theorem of_modify {p : Port} {f : PortCtl → PortCtl} (hports : d.ports = c.ports.modify p f) (hsent : d.sent = c.sent)
    (hsession : (f (c.ports.get p)).session = .opened ↔ (c.ports.get p).session = .opened)
    (hrest : (f (c.ports.get p)).link = (c.ports.get p).link ∧ (f (c.ports.get p)).flags = (c.ports.get p).flags ∧
      (f (c.ports.get p)).delivered = (c.ports.get p).delivered)
    (hgone : ∀ u, (c.ports.get p).tags.get u = none → (f (c.ports.get p)).tags.get u = none) : Silent c d :=
  ⟨forall_ports hports (R := fun a b => b.session = .opened ↔ a.session = .opened) hsession fun _ => Iff.rfl,
    forall_ports hports (R := fun a b => b.link = a.link) hrest.1 fun _ => rfl,
    forall_ports hports (R := fun a b => b.flags = a.flags) hrest.2.1 fun _ => rfl,
    forall_ports hports (R := fun a b => b.delivered = a.delivered) hrest.2.2 fun _ => rfl,
    forall_ports hports (R := fun a b => ∀ u, a.tags.get u = none → b.tags.get u = none) hgone fun _ _ h => h,
    hsent ▸ List.prefix_refl _⟩

theorem onward (h : Silent c d) : Onward c d :=
  ⟨h.opened, h.link, fun q f _ hset => by rw [h.flags]; exact hset, h.gone, h.sent⟩

/-! ### Single changes -/

theorem sendPort (p : Port) (f : PFrame) (c : Chip) : Silent c (sendPort p f c) :=
  of_ports (Laws.sendPort_ports ..) (sendPort_sent p f c ▸ List.prefix_append _ _)

theorem sendMedia (f : MFrame) (c : Chip) : Silent c (sendMedia f c) :=
  of_ports (Laws.sendMedia_ports ..) (sendMedia_sent f c ▸ List.prefix_append _ _)

theorem setSlot (i : SlotNo) (r : Option SlotRec) (c : Chip) : Silent c (setSlot i r c) := of_same rfl rfl

theorem freeTag (p : Port) (t : Tag) (c : Chip) : Silent c (freeTag p t c) := by
  refine of_modify (p := p) (f := fun pc => { pc with tags := pc.tags.set t none }) rfl rfl Iff.rfl ⟨rfl, rfl, rfl⟩
    fun u hu => ?_
  rw [Laws.Table.get_set]
  split
  · rfl
  · exact hu

theorem respond (p : Port) (t : Tag) (o : Outcome) (d : List Word) (c : Chip) : Silent c (respond p t o d c) := by
  unfold Machine.respond
  split
  · exact (sendPort p _ c).trans (freeTag p t _)
  · exact refl c

theorem each {α : Type} {f : α → Chip → Chip} (hf : ∀ a c, Silent c (f a c)) (l : List α) (c : Chip) :
    Silent c (each f l c) :=
  each_keeps (P := Silent c) (fun a _ hc => hc.trans (hf a _)) l (refl c)

theorem answerAbort (p : Port) (o : Outcome) (a : Option Tag) (c : Chip) : Silent c (answerAbort p o a c) := by
  unfold Machine.answerAbort
  split
  · exact respond _ _ _ _ c
  · exact refl c

theorem answerOwner (o : Outcome) (d : List Word) (o' : Outcome) (a : Option Tag) (r : SlotRec) (c : Chip) :
    Silent c (answerOwner o d o' a r c) := by
  unfold Machine.answerOwner
  split
  · exact (respond _ _ _ _ c).trans (answerAbort _ _ _ _)
  · exact refl c

theorem setStage (p : Port) (t : Tag) (s : Stage) (c : Chip) : Silent c (setStage p t s c) := by
  unfold Machine.setStage
  cases hd : c.dataRecord p t with
  | none => exact refl c
  | some d =>
    have hrecord := record_of_dataRecord hd
    refine of_modify (p := p) (f := fun pc => { pc with tags := pc.tags.set t _ }) rfl rfl Iff.rfl ⟨rfl, rfl, rfl⟩
      fun u hu => ?_
    rw [Laws.Table.get_set]
    split
    · rename_i hut
      subst hut
      exact absurd (hrecord.symm.trans hu) (by simp)
    · exact hu

theorem issuePort (p : Port) (t : Tag) (i : SlotNo) (r : SlotRec) (c : Chip) : Silent c (issuePort p t i r c) := by
  unfold Machine.issuePort Machine.issueSlot
  have hissued : Silent c (Machine.setStage p t (.issued i) (Machine.sendMedia
      (.command i r.op r.durable (r.range.getD ⟨0, 0⟩).first (r.range.getD ⟨0, 0⟩).count)
      (Machine.setSlot i (some { r with phase := .issued c.map.active.params.response }) c))) :=
    ((setSlot i _ c).trans (sendMedia _ _)).trans (setStage _ _ _ _)
  dsimp only
  split
  · exact hissued.trans (each (fun x d => sendMedia _ d) _ _)
  · exact hissued

theorem grantHead (reserved : Bool) (p : Port) (t : Tag) (d : DataRec) (i : SlotNo) (c : Chip) :
    Silent c (grantHead reserved p t d i c) := by
  have htaken : Silent c (takenByGrant reserved p d c) :=
    of_modify (p := p) (f := fun pc => { pc with inFlight := pc.inFlight + 1 }) rfl rfl Iff.rfl ⟨rfl, rfl, rfl⟩
      fun _ h => h
  rw [grantHead_eq]
  split
  · exact ((htaken.trans (setSlot _ _ _)).trans (setStage _ _ _ _)).trans (sendPort _ _ _)
  · exact htaken.trans (issuePort _ _ _ _ _)

theorem decision (h : grantDecision c = some d) : Silent c d := by
  obtain ⟨-, ⟨j, i, -, -, rfl⟩ | ⟨reserved, p, t, r, i, c', hc', -, -, -, rfl⟩⟩ := grantDecision_cases h
  · unfold grantPersist issueSlot
    exact Silent.trans (Silent.trans (of_same (by simp) (by simp)) (sendMedia _ _)) (sendMedia _ _)
  · refine Silent.trans (c := c') ?_ (grantHead reserved p t r i c')
    rcases hc' with rfl | rfl
    · exact refl _
    · exact of_same rfl rfl

theorem decisions (n : Nat) (c : Chip) : Silent c (decisions n c) := by
  induction n generalizing c with
  | zero => exact refl c
  | succ n ih =>
    unfold Machine.decisions
    split
    · rename_i d hd
      exact (decision hd).trans (ih d)
    · exact refl c

theorem arbitrate (c : Chip) : Silent c (arbitrate c) := decisions 16 c

theorem dequeue (p : Port) (t : Tag) (c : Chip) : Silent c (dequeue p t c) := of_same (by simp) (by simp)

theorem uncount (p : Port) (r : SlotRec) (c : Chip) : Silent c (uncount p r c) := by
  refine of_modify (p := p) (f := fun pc => { pc with inFlight := pc.inFlight - 1 }) ?_ (Laws.uncount_sent ..) Iff.rfl
    ⟨rfl, rfl, rfl⟩ fun _ h => h
  unfold Machine.uncount
  dsimp only
  cases r.window <;> cases r.ordered <;> rfl

theorem freeSlot (i : SlotNo) (c : Chip) : Silent c (freeSlot i c) := by
  cases hr : c.slot i with
  | none => rw [freeSlot_of_none hr]; exact refl c
  | some r =>
    cases hh : r.holder with
    | configuration =>
      rw [freeSlot_of_configuration hr hh]
      exact of_same rfl rfl
    | port p =>
      have hgiven : Silent c (givenUp i p r c) :=
        (Silent.trans (b := c) (c := leaveWaits i (Machine.setSlot i none c)) (of_same rfl rfl) (uncount p r _)).trans
          (of_same (d := givenUp i p r c) rfl rfl)
      rw [freeSlot_of_port hr hh]
      split
      · exact hgiven
      · refine hgiven.trans (each (fun t d => ?_) _ _)
        split
        · exact freeTag p t d
        · exact refl d

theorem closed {p : Port} {reason : CloseReason} (h : (c.ports.get p).session = .closing reason) :
    Silent c (Machine.sendPort p (.closed reason) (c.modPort p fun pc => { pc with session := .down })) := by
  refine Silent.trans (of_modify (d := c.modPort p fun pc => { pc with session := .down }) (p := p)
    (f := fun pc => { pc with session := .down }) rfl rfl ?_ ⟨rfl, rfl, rfl⟩ fun _ h => h) (sendPort _ _ _)
  rw [h]
  simp

theorem closeIfIdle (p : Port) (c : Chip) : Silent c (closeIfIdle p c) := by
  unfold Machine.closeIfIdle
  dsimp only
  split
  · rename_i reason hs
    split
    · exact closed hs
    · exact refl c
  all_goals exact refl c

/-- The end of an event after the answers and what follows them. -/
theorem ends (c : Chip) : Silent c (Machine.arbitrate (eachPort Machine.closeIfIdle c)) :=
  (((closeIfIdle .p0 c).trans (closeIfIdle .p1 _)).trans (closeIfIdle .p2 _)).trans (arbitrate _)

end Silent

/-! ### Flags raised -/

/-- The NOTICE that setting a flag of port `p` sends (R69). -/
def noticeOf (f : Flag) (p : Port) (c : Chip) : List Sent :=
  let pc := c.ports.get p
  if pc.flags.get f = false ∧ pc.noTags = true ∧ pc.link = .up then [.toPort p (.notice (pc.flags.set f true))] else []

theorem raiseFlag_open {f : Flag} {p : Port} {c : Chip} (h : (c.ports.get p).session = .opened) : raiseFlag f p c =
    { c with
      ports := c.ports.modify p fun pc => { pc with flags := pc.flags.set f true }
      sent := c.sent ++ noticeOf f p c } := by
  cases hflag : (c.ports.get p).flags.get f with
  | true =>
    have hset : (c.ports.get p).flags.set f true = (c.ports.get p).flags := by rw [← hflag, Laws.Flags.set_get]
    have hsame : (c.ports.modify p fun pc => { pc with flags := pc.flags.set f true }) = c.ports :=
      Laws.PerPort.modify_eq_self _ _ _ (by rw [hset])
    simp [raiseFlag, noticeOf, hflag, hsame]
  | false =>
    have hset : setFlags p ((c.ports.get p).flags.set f true) c =
        { c with ports := c.ports.modify p fun pc => { pc with flags := pc.flags.set f true } } := by
      cases p <;> rfl
    cases htags : (c.ports.get p).noTags <;> cases hlink : (c.ports.get p).link <;>
      simp [raiseFlag, noticeOf, h, hflag, htags, hlink, hset, sendPort, Chip.emit]

theorem raiseFlag_closed {f : Flag} {p : Port} {c : Chip} (h : (c.ports.get p).session ≠ .opened) : raiseFlag f p c = c :=
  if_neg fun hd => h hd.1

theorem flag_set {fs : Flags} (f : Flag) {x : Flag} (h : fs.get x = true) : (fs.set f true).get x = true := by
  cases f <;> cases x <;> simp_all [Flags.get, Flags.set]

theorem flag_set_ne {fs : Flags} {f x : Flag} (b : Bool) (h : x ≠ f) : (fs.set f b).get x = fs.get x := by
  cases f <;> cases x <;> simp_all [Flags.get, Flags.set]

namespace Onward

variable {b c d : Chip}

theorem refl (c : Chip) : Onward c c := (Silent.refl c).onward

theorem trans (h : Onward b c) (h' : Onward c d) : Onward b d where
  opened q := (h'.opened q).trans (h.opened q)
  link q := (h'.link q).trans (h.link q)
  flag q f hf hset := h'.flag q f hf (h.flag q f hf hset)
  gone q u hnone := h'.gone q u (h.gone q u hnone)
  sent := h.sent.trans h'.sent

theorem of_merged (n : Nat) (h : Onward b c) (h' : Onward b d) : Onward b { c with sent := d.sent, free := n } :=
  ⟨h.opened, h.link, h.flag, h.gone, h'.sent⟩

theorem of_same (hports : d.ports = c.ports) (hsent : d.sent = c.sent) : Onward c d := (Silent.of_same hports hsent).onward

/-- The flags of one port change, and only MAP is cleared. -/
theorem of_flags {p : Port} {f : PortCtl → PortCtl} (hports : d.ports = c.ports.modify p f) (hsent : c.sent <+: d.sent)
    (hrest : (f (c.ports.get p)).session = (c.ports.get p).session ∧ (f (c.ports.get p)).link = (c.ports.get p).link ∧
      (f (c.ports.get p)).tags = (c.ports.get p).tags)
    (hflag : ∀ x, x ≠ .map → (c.ports.get p).flags.get x = true → (f (c.ports.get p)).flags.get x = true) : Onward c d :=
  ⟨forall_ports hports (R := fun a b => b.session = .opened ↔ a.session = .opened) (by rw [hrest.1]) fun _ => Iff.rfl,
    forall_ports hports (R := fun a b => b.link = a.link) hrest.2.1 fun _ => rfl,
    forall_ports hports (R := fun a b => ∀ x, x ≠ .map → a.flags.get x = true → b.flags.get x = true) hflag
      fun _ _ _ h => h,
    forall_ports hports (R := fun a b => ∀ u, a.tags.get u = none → b.tags.get u = none)
      (fun u hu => by rw [hrest.2.2]; exact hu) fun _ _ h => h, hsent⟩

theorem raiseFlag (f : Flag) (p : Port) (c : Chip) : Onward c (raiseFlag f p c) := by
  by_cases hopen : (c.ports.get p).session = .opened
  · rw [raiseFlag_open hopen]
    exact of_flags (p := p) (f := fun pc => { pc with flags := pc.flags.set f true }) rfl (List.prefix_append _ _)
      ⟨rfl, rfl, rfl⟩ fun x _ h => flag_set f h
  · rw [raiseFlag_closed hopen]
    exact refl c

theorem clearMap (p : Port) (c : Chip) : Onward c (clearFlag .map p c) := by
  rw [Management.clearFlag_eq]
  exact of_flags (p := p) (f := fun pc => { pc with flags := pc.flags.set .map false }) rfl (List.prefix_refl _)
    ⟨rfl, rfl, rfl⟩ fun x hx h => (flag_set_ne false hx).trans h

theorem compareEpoch (p : Port) (c : Chip) : Onward c (compareEpoch p c) := by
  unfold Machine.compareEpoch
  split
  · exact clearMap p c
  · exact raiseFlag .map p c

theorem deliver (p : Port) (e : Word) (c : Chip) : Onward c (deliver p e c) :=
  (of_flags (c := c) (p := p) (f := fun pc => { pc with delivered := e })
    (d := c.modPort p fun pc => { pc with delivered := e }) rfl (List.prefix_refl _) ⟨rfl, rfl, rfl⟩
    fun _ _ h => h).trans (compareEpoch p _)

theorem eachPort {f : Port → Chip → Chip} (hf : ∀ p c, Onward c (f p c)) (c : Chip) : Onward c (eachPort f c) :=
  ((hf _ _).trans (hf _ _)).trans (hf _ _)

theorem swapped (cfg : Configuration) (c : Chip) : Onward c (swapped cfg c) := by
  refine Onward.trans (c := reloadCredits (c.modMap fun m =>
    { m with active := cfg, epoch := m.epoch + 1, staging := .empty, commit := .idle })) (of_same rfl rfl)
    (eachPort (fun p d => ?_) _)
  split
  · exact compareEpoch p d
  · exact refl d

/-- The changes of an event and of the bridge state, but for the end of a session, go on from the blocks before them. -/
theorem running (b : Chip) : KeptRunning (Onward b) where
  responded p t _ _ _ h := h.trans ((Silent.sendPort p _ _).trans (Silent.freeTag p t _)).onward
  raised f p _ _ h := h.trans (raiseFlag f p _)
  delivered p h := h.trans (deliver p _ _)
  commit _ _ h := h.trans (of_same rfl rfl)
  swapped cfg h := h.trans (swapped cfg _)
  holds _ _ h := h.trans (of_same rfl rfl)
  fewerHolds _ h := h.trans (of_same rfl rfl)
  oneChanged _ _ h := h.trans (of_same rfl rfl)
  jobs _ _ h := h.trans (of_same rfl rfl)
  failed h := h.trans (of_same rfl rfl)
  closed _ _ hs h := h.trans (Silent.closed hs).onward
  granted hd h := h.trans (Silent.decision hd).onward
  dequeued p t h := h.trans (Silent.dequeue p t _).onward
  freedSlot i h := h.trans (Silent.freeSlot i _).onward
  arb _ _ h := h.trans (of_same rfl rfl)
  media f h := h.trans (Silent.sendMedia f _).onward
  mlink _ _ _ h := h.trans (of_same rfl rfl)
  copyRead _ h := h.trans ((Silent.setSlot _ _ _).trans (Silent.sendMedia _ _)).onward
  advanced _ _ h := h.trans (of_same rfl rfl)
  recovering _ h := h.trans (of_same rfl rfl)
  serving _ h := h.trans (of_same rfl rfl)
  faulted h := h.trans (of_same rfl rfl)
  loaded _ _ _ _ h := h.trans (of_same rfl rfl)
  logTime _ h := h.trans (of_same rfl rfl)

theorem conclude {answers : Chip → Chip} (ha : ∀ d, Onward d (answers d)) (c : Chip) : Onward c (conclude answers c) :=
  (running c).conclude_of (fun n h h' => of_merged n h h') (fun h => h.trans (ha _)) (refl c)

end Onward

/-! ### Frames since the event began -/

theorem noticed_mono {s t t' : State} {q : Port} {f : Flag} (h : Noticed s t q f) (hsent : t.chip.sent <+: t'.chip.sent) :
    Noticed s t' q f := by
  obtain ⟨before, fs, after, hs, hf⟩ := h
  obtain ⟨more, hmore⟩ := hsent
  exact ⟨before, fs, after ++ more, by rw [← hmore, hs]; simp, hf⟩

theorem answered_mono {s t t' : State} {p : Port} {u : Tag} {o : Outcome} {d : List Word} (h : Answered s t p u o d)
    (hsent : t.chip.sent <+: t'.chip.sent) : Answered s t' p u o d := by
  obtain ⟨fs, before, after, hs⟩ := h
  obtain ⟨more, hmore⟩ := hsent
  exact ⟨fs, before, after ++ more, by rw [← hmore, hs]; simp⟩

/-- An answer given to a session that speaks. -/
theorem answered_respond {s : State} {c : Chip} {p : Port} (hopen : (c.ports.get p).session = .opened)
    (hup : (c.ports.get p).link = .up) (hsent : s.chip.sent <+: c.sent) (u : Tag) (o : Outcome) (d : List Word) :
    Answered s { s with chip := respond p u o d c } p u o d := by
  obtain ⟨before, hbefore⟩ := hsent
  refine ⟨(c.ports.get p).flags, before, [], ?_⟩
  rw [Laws.respond_open hopen hup, hbefore, List.append_nil, ← Laws.withRecord_flags p p u none c]
  exact HoldProofs.answered_sent p u o d (withRecord p u none c)

theorem respond_gone {c : Chip} {p : Port} (hopen : (c.ports.get p).session = .opened) (u : Tag) (o : Outcome)
    (d : List Word) : (respond p u o d c).record p u = none := by
  unfold respond
  rw [if_pos (show c.isOpen p = true from decide_eq_true hopen), freeTag_record, if_pos ⟨rfl, rfl⟩]

/-! ### Notices that are due -/

/-- Setting flag `f` of port `q` would send a NOTICE (R69). -/
abbrev Due (d : Chip) (q : Port) (f : Flag) : Prop :=
  (d.ports.get q).session = .opened ∧ (d.ports.get q).flags.get f = false ∧ (∀ u, d.record q u = none) ∧
    (d.ports.get q).link = .up

/-- A NOTICE with flag `f` set that was due when the event began is due still, or it has gone out. The port that has sent
the request of the event has its tag in use, and is left out. -/
def Awaits (asker : Option Port) (s : State) (d : Chip) : Prop :=
  ∀ q f, asker ≠ some q → NoticeDue s q f → Due d q f ∨ Noticed s { s with chip := d } q f

namespace Awaits

variable {asker : Option Port} {s : State} {c d : Chip}

theorem of_onward (h : Awaits asker s c) (hd : Onward c d)
    (hkeep : ∀ q f, Due c q f → (d.ports.get q).flags.get f = false ∨ Noticed s { s with chip := d } q f) : Awaits asker s d := by
  intro q f hq hdue
  rcases h q f hq hdue with hstill | hnoticed
  · obtain ⟨hopen, hclear, htags, hup⟩ := hstill
    rcases hkeep q f ⟨hopen, hclear, htags, hup⟩ with hclear' | hnoticed
    · exact .inl ⟨(hd.opened q).2 hopen, hclear', fun u => hd.gone q u (htags u), (hd.link q).trans hup⟩
    · exact .inr hnoticed
  · exact .inr (noticed_mono hnoticed hd.sent)

theorem of_silent (h : Awaits asker s c) (hd : Silent c d) : Awaits asker s d :=
  h.of_onward hd.onward fun q f hdue => .inl (by rw [hd.flags]; exact hdue.2.1)

theorem of_start (s : State) : Awaits asker s s.chip := fun _ _ _ h => .inl h

/-- A NOTICE that is due goes out when its flag is set. -/
theorem noticed_raiseFlag {q : Port} {f : Flag} (hsent : s.chip.sent <+: c.sent) (hdue : Due c q f) :
    Noticed s { s with chip := raiseFlag f q c } q f := by
  obtain ⟨hopen, hclear, htags, hup⟩ := hdue
  obtain ⟨before, hbefore⟩ := hsent
  refine ⟨before, (c.ports.get q).flags.set f true, [], ?_, Laws.Flags.get_set _ _ _⟩
  have hnotice : noticeOf f q c = [.toPort q (.notice ((c.ports.get q).flags.set f true))] :=
    if_pos ⟨hclear, HoldProofs.noTags_of_get htags, hup⟩
  rw [raiseFlag_open hopen, List.append_nil]
  change c.sent ++ noticeOf f q c = _
  rw [hnotice, hbefore]

theorem raiseFlag (hsent : s.chip.sent <+: c.sent) (f : Flag) (p : Port) (h : Awaits asker s c) :
    Awaits asker s (raiseFlag f p c) := by
  refine h.of_onward (Onward.raiseFlag f p c) fun q x hdue => ?_
  obtain ⟨hopen, hclear, htags, hup⟩ := hdue
  by_cases hboth : q = p ∧ x = f
  · obtain ⟨rfl, rfl⟩ := hboth
    exact .inr (noticed_raiseFlag hsent ⟨hopen, hclear, htags, hup⟩)
  · refine .inl ?_
    rw [Laws.raiseFlag_flags]
    split
    · rename_i hp
      obtain ⟨rfl, -⟩ := hp
      rw [flag_set_ne true fun hx => hboth ⟨rfl, hx⟩]
      exact hclear
    · exact hclear

theorem clearMap (p : Port) (h : Awaits asker s c) : Awaits asker s (clearFlag .map p c) := by
  refine h.of_onward (Onward.clearMap p c) fun q x hdue => .inl ?_
  rw [Management.clearFlag_eq, Laws.modPort_ports, Laws.PerPort.get_modify]
  split
  · rename_i hq
    subst hq
    by_cases hx : x = .map
    · subst hx
      exact Laws.Flags.get_set (c.ports.get q).flags .map false
    · exact (flag_set_ne false hx).trans hdue.2.1
  · exact hdue.2.1

theorem compareEpoch (hsent : s.chip.sent <+: c.sent) (p : Port) (h : Awaits asker s c) : Awaits asker s (compareEpoch p c) := by
  unfold Machine.compareEpoch
  split
  · exact h.clearMap p
  · exact h.raiseFlag hsent .map p

end Awaits

/-- The event began at `s`: frames are there since, and notices that were due are due or have gone out. -/
abbrev Since (asker : Option Port) (s : State) (d : Chip) : Prop := s.chip.sent <+: d.sent ∧ Awaits asker s d

namespace Since

variable {asker : Option Port} {s : State} {c d : Chip}

theorem of_silent (h : Since asker s c) (hd : Silent c d) : Since asker s d := ⟨h.1.trans hd.sent, h.2.of_silent hd⟩

theorem of_same (h : Since asker s c) (hports : d.ports = c.ports) (hsent : d.sent = c.sent) : Since asker s d :=
  h.of_silent (Silent.of_same hports hsent)

theorem raiseFlag (f : Flag) (p : Port) (h : Since asker s c) : Since asker s (raiseFlag f p c) :=
  ⟨h.1.trans (Onward.raiseFlag f p c).sent, h.2.raiseFlag h.1 f p⟩

theorem compareEpoch (p : Port) (h : Since asker s c) : Since asker s (compareEpoch p c) :=
  ⟨h.1.trans (Onward.compareEpoch p c).sent, h.2.compareEpoch h.1 p⟩

theorem deliver (p : Port) (e : Word) (h : Since asker s c) : Since asker s (deliver p e c) := by
  have hdelivered : Onward c (c.modPort p fun pc => { pc with delivered := e }) :=
    Onward.of_flags (p := p) (f := fun pc => { pc with delivered := e }) rfl (List.prefix_refl _) ⟨rfl, rfl, rfl⟩
      fun _ _ h => h
  have hflags (q : Port) : ((c.modPort p fun pc => { pc with delivered := e }).ports.get q).flags = (c.ports.get q).flags :=
    forall_ports (c := c) (p := p) (f := fun pc => { pc with delivered := e }) rfl (R := fun a b => b.flags = a.flags) rfl (fun _ => rfl) q
  exact compareEpoch p ⟨h.1, h.2.of_onward hdelivered fun q f hdue => .inl (by rw [hflags]; exact hdue.2.1)⟩

theorem swapped (cfg : Configuration) (h : Since asker s c) : Since asker s (swapped cfg c) := by
  refine eachPort_keeps (fun p d hd => ?_) (h.of_same (d := reloadCredits (c.modMap fun m =>
    { m with active := cfg, epoch := m.epoch + 1, staging := .empty, commit := .idle })) rfl rfl)
  split
  · exact hd.compareEpoch p
  · exact hd

/-- Every change of an event and of the bridge state, but for the end of a session, goes on with the event. -/
theorem running (asker : Option Port) (s : State) : KeptRunning (Since asker s) where
  responded p t _ _ _ h := h.of_silent ((Silent.sendPort p _ _).trans (Silent.freeTag p t _))
  raised f p _ _ h := h.raiseFlag f p
  delivered p h := h.deliver p _
  commit _ _ h := h.of_same rfl rfl
  swapped cfg h := h.swapped cfg
  holds _ _ h := h.of_same rfl rfl
  fewerHolds _ h := h.of_same rfl rfl
  oneChanged _ _ h := h.of_same rfl rfl
  jobs _ _ h := h.of_same rfl rfl
  failed h := h.of_same rfl rfl
  closed _ _ hs h := h.of_silent (Silent.closed hs)
  granted hd h := h.of_silent (Silent.decision hd)
  dequeued p t h := h.of_silent (Silent.dequeue p t _)
  freedSlot i h := h.of_silent (Silent.freeSlot i _)
  arb _ _ h := h.of_same rfl rfl
  media f h := h.of_silent (Silent.sendMedia f _)
  mlink _ _ _ h := h.of_same rfl rfl
  copyRead _ h := h.of_silent ((Silent.setSlot _ _ _).trans (Silent.sendMedia _ _))
  advanced _ _ h := h.of_same rfl rfl
  recovering _ h := h.of_same rfl rfl
  serving _ h := h.of_same rfl rfl
  faulted h := h.of_same rfl rfl
  loaded _ _ _ _ h := h.of_same rfl rfl
  logTime _ h := h.of_same rfl rfl

end Since

end Sys2Proof.Aftermath
end

section
/-! SUPPORT. Who is told of the change of a hold and of the end of a commit: HOLDS, the placement's answer and the COMMIT's
(R33, R34, R41, R152, R153); and what the failures of several jobs do (R167). -/

namespace Sys2Proof.Aftermath

open Sys2Proof.Machine Sys2Proof.Safety Sys2Proof.Keeping Sys2Proof.HoldProofs

/-! ### An event on its way -/

/-- The event that began at `s` has come to the blocks `d`: sessions as they were and the links of those that are OPEN, frames and notices so far. -/
structure Goes (asker : Option Port) (s : State) (d : Chip) : Prop where
  opened : ∀ q, (d.ports.get q).session = .opened ↔ (s.chip.ports.get q).session = .opened
  link : ∀ q, (s.chip.ports.get q).session = .opened → (d.ports.get q).link = (s.chip.ports.get q).link
  since : Since asker s d

namespace Goes

variable {asker : Option Port} {s : State} {c d : Chip}

theorem start (s : State) : Goes asker s s.chip := ⟨fun _ => Iff.rfl, fun _ _ => rfl, List.prefix_refl _, .of_start s⟩

theorem onward (h : Goes asker s c) (hd : Onward c d) (hs : Since asker s d) : Goes asker s d :=
  ⟨fun q => (hd.opened q).trans (h.opened q), fun q hq => (hd.link q).trans (h.link q hq), hs⟩

theorem silent (h : Goes asker s c) (hd : Silent c d) : Goes asker s d := h.onward hd.onward (h.since.of_silent hd)

/-- An operation that every change of a run keeps goes on with the event. -/
theorem op (h : Goes asker s c) (ho : ∀ {P : Chip → Prop}, KeptRunning P → P c → P d) : Goes asker s d :=
  h.onward (ho (Onward.running c) (Onward.refl c)) (ho (Since.running asker s) h.since)

theorem speaks (h : Goes asker s c) {p : Port} (hp : Speaks s p) :
    (c.ports.get p).session = .opened ∧ (c.ports.get p).link = .up := by
  obtain ⟨-, hup, hopen⟩ := hp
  exact ⟨(h.opened p).2 hopen, (h.link p hopen).trans hup⟩

/-- A flag that is set has been told, where a NOTICE was due. -/
theorem noticed (h : Goes asker s c) {q : Port} {f : Flag} (hset : (c.ports.get q).flags.get f = true)
    (hq : asker ≠ some q) (hdue : NoticeDue s q f) : Noticed s { s with chip := c } q f := by
  rcases h.since.2 q f hq hdue with hstill | hnoticed
  · obtain ⟨-, hclear, -⟩ := hstill
    exact absurd (hset.symm.trans hclear) (by decide)
  · exact hnoticed

theorem respond_answered (h : Goes asker s c) {p : Port} (hp : Speaks s p) (u : Tag) (o : Outcome) (x : List Word) :
    (respond p u o x c).record p u = none ∧ Answered s { s with chip := respond p u o x c } p u o x := by
  obtain ⟨hopen, hup⟩ := h.speaks hp
  exact ⟨respond_gone hopen u o x, answered_respond hopen hup h.since.1 u o x⟩

end Goes

/-! ### What stays told -/

section
variable {asker : Option Port} {s : State} {c d : Chip}

/-- HOLDS is set for every OPEN session that may see range `r` (R41). -/
def HoldsSet (s : State) (d : Chip) (r : MediaRange) : Prop :=
  ∀ q, (s.chip.ports.get q).session = .opened → Sees s q r → (d.ports.get q).flags.holds = true

theorem HoldsSet.onward {r : MediaRange} (h : HoldsSet s c r) (hd : Onward c d) : HoldsSet s d r :=
  fun q hopen hsees => hd.flag q .holds (by decide) (h q hopen hsees)

theorem HoldsSet.told {r : MediaRange} (h : HoldsSet s d r) (hd : Goes asker s d) :
    HoldsTold s { s with chip := d } r asker :=
  fun q hopen hsees => ⟨h q hopen hsees, fun hq hdue => hd.noticed (f := .holds) (h q hopen hsees) hq hdue.1⟩

theorem placementAnswered_onward {h : Hold} {o : Outcome} {x : List Word}
    (ha : PlacementAnswered s { s with chip := c } h o x) (hd : Onward c d) :
    PlacementAnswered s { s with chip := d } h o x := fun u hu hp =>
  ⟨hd.gone _ _ (ha u hu hp).1, answered_mono (ha u hu hp).2 hd.sent⟩

theorem commitAnswered_onward {info : CommitInfo} {o : Outcome} {x : List Word}
    (ha : CommitAnswered s { s with chip := c } info o x) (hd : Onward c d) :
    CommitAnswered s { s with chip := d } info o x := fun p u hp hu hs =>
  ⟨hd.gone _ _ (ha p u hp hu hs).1, answered_mono (ha p u hp hu hs).2 hd.sent⟩

/-! ### Telling -/

theorem holdsSet_notice (h : Goes asker s c) (hactive : c.map.active = s.chip.map.active) (r : MediaRange) :
    HoldsSet s (holdsNotice r c) r := by
  intro q hopen hsees
  have hsees' : Sees { s with chip := c } q r := by
    unfold Sees privilegeOf at hsees ⊢
    rw [hactive]
    exact hsees
  rw [holdsNotice_port, if_pos ((noticeReaches_iff { s with chip := c } q r).2 ⟨(h.opened q).2 hopen, hsees'⟩)]
  rfl

theorem answerPlacement_answered (h : Goes asker s c) (x : Hold) (o : Outcome) (w : List Word) :
    PlacementAnswered s { s with chip := answerPlacement x o w c } x o w := by
  intro u hu hp
  have heq : answerPlacement x o w c = respond x.owner u o w c := by unfold answerPlacement; rw [hu]
  rw [heq]
  exact h.respond_answered hp u o w

theorem answerCommit_answered (h : Goes asker s c) (info : CommitInfo) (o : Outcome) (w : List Word) :
    CommitAnswered s { s with chip := answerCommit info o w c } info o w := by
  intro p u hp hu hs
  have heq : answerCommit info o w c = respond p u o w c := by unfold answerCommit; rw [hp, hu]
  rw [heq]
  exact h.respond_answered hs u o w

theorem answerPlacement_onward (x : Hold) (o : Outcome) (w : List Word) (c : Chip) : Onward c (answerPlacement x o w c) :=
  (Onward.running c).answerPlacement x o w (Onward.refl c)

theorem removeHold_told (h : Goes asker s c) (x : Hold) (o : Outcome) (w : List Word) :
    (c.map.active = s.chip.map.active → HoldsSet s (answerPlacement x o w (removeHold x c)) x.range) ∧
      PlacementAnswered s { s with chip := answerPlacement x o w (removeHold x c) } x o w := by
  have hdropped : Goes asker s (dropHold x.id c) := h.silent (Silent.of_same rfl rfl)
  exact ⟨fun hactive => (holdsSet_notice hdropped hactive x.range).onward (answerPlacement_onward ..),
    answerPlacement_answered (h.op fun k hk => k.removeHold x hk) x o w⟩

theorem activateHold_told (h : Goes asker s c) (hactive : c.map.active = s.chip.map.active) (x : Hold) :
    HoldsSet s (activateHold x c) x.range ∧
      PlacementAnswered s { s with chip := activateHold x c } x .ok
        [item x.id, item x.cls.code, item x.scope.code, item x.range.first, item x.range.count] := by
  have hset : Goes asker s (setHold { x with state := .active (x.expiry.map (· * 1000)), answerTo := none } c) :=
    h.silent (Silent.of_same rfl rfl)
  exact ⟨(holdsSet_notice hset hactive x.range).onward (answerPlacement_onward ..),
    answerPlacement_answered (hset.op fun k hk => k.holdsNotice x.range hk) x .ok _⟩

end

/-! ### Jobs that fail (R34, R152, R167) -/

theorem filter_ids_self {l : List Hold} {id : Nat} (h : ∀ x ∈ l, x.id ≠ id) : l.filter (fun x => x.id ≠ id) = l :=
  List.filter_eq_self.2 fun x hx => decide_eq_true (h x hx)

theorem holdJobFailed_table (id : Nat) (c : Chip) :
    (holdJobFailed id c).hold.table = c.hold.table.filter fun x => x.id ≠ id := by
  unfold holdJobFailed
  split
  · rename_i h hf
    obtain ⟨-, hid⟩ := MediaFrames.findHold_some hf
    simp [hid]
  · rename_i hf
    exact (filter_ids_self fun x hx hid => absurd (List.find?_eq_none.1 hf x hx) (by simpa using hid)).symm

/-- A failure is counted. -/
def counted (c : Chip) : Chip :=
  c.modCtl fun f => { f with persistFailures := saturatingSucc Config.saturate8 f.persistFailures }

theorem jobFailed_hold (id : Nat) (c : Chip) : jobFailed (.hold id) c = holdJobFailed id (counted c) := rfl

theorem jobFailed_commit {c : Chip} {info : CommitInfo} (h : c.map.commit = .persisting info) :
    jobFailed .commit c = commitFailed info (counted c) := by
  unfold jobFailed
  dsimp only
  rw [show (c.modCtl _).map.commit = .persisting info from h]
  rfl

theorem jobFailed_commit_none {c : Chip} (h : ∀ info, c.map.commit ≠ .persisting info) :
    jobFailed .commit c = counted c := by
  unfold jobFailed
  dsimp only
  split
  · rename_i info hc
    exact absurd hc (h info)
  · rfl
  · rfl

/-- The table without the holds of the jobs `l`. -/
def without (l : List Job) (table : List Hold) : List Hold := table.filter fun x => .hold x.id ∉ l

theorem jobFailed_table (j : Job) (c : Chip) : (jobFailed j c).hold.table = without [j] c.hold.table := by
  cases j with
  | hold id =>
    rw [jobFailed_hold, holdJobFailed_table]
    simp [without, counted]
  | commit =>
    have hsame : (jobFailed .commit c).hold = c.hold := by
      by_cases hc : ∃ info, c.map.commit = .persisting info
      · obtain ⟨info, hc⟩ := hc
        rw [jobFailed_commit hc]
        simp [commitFailed, counted]
      · rw [jobFailed_commit_none fun info hi => hc ⟨info, hi⟩]
        rfl
    rw [hsame]
    simp [without]

theorem without_cons (j : Job) (l : List Job) (table : List Hold) :
    without l (without [j] table) = without (j :: l) table := by
  unfold without
  rw [List.filter_filter]
  refine List.filter_congr fun x _ => Bool.eq_iff_iff.2 ?_
  simp only [Bool.and_eq_true, decide_eq_true_eq, List.mem_cons, List.not_mem_nil, or_false, not_or]
  exact and_comm

theorem each_jobFailed_table (l : List Job) (c : Chip) : (each jobFailed l c).hold.table = without l c.hold.table := by
  induction l generalizing c with
  | nil => simp [each, without]
  | cons j l ih =>
    change (each jobFailed l (jobFailed j c)).hold.table = _
    rw [ih, jobFailed_table, without_cons]

/-- What the failure of its job leaves of a commit that is PERSISTING (R152). -/
def mapAfterFailure (c : Chip) (info : CommitInfo) : MapUnit :=
  { c.map with staging := if c.cfg.bridge = .fault then .empty else reopenStaging info c.map, commit := .idle }

theorem jobFailed_map (j : Job) (c : Chip) :
    ((∀ info, c.map.commit ≠ .persisting info) ∨ j ≠ .commit → (jobFailed j c).map = c.map) ∧
      ∀ info, c.map.commit = .persisting info → j = .commit → (jobFailed j c).map = mapAfterFailure c info := by
  constructor
  · rintro (hnot | hj)
    · cases j with
      | hold id => rw [jobFailed_hold]; simp [counted]
      | commit => rw [jobFailed_commit_none hnot]; rfl
    · cases j with
      | hold id => rw [jobFailed_hold]; simp [counted]
      | commit => exact absurd rfl hj
  · rintro info hc rfl
    rw [jobFailed_commit hc]
    simp only [commitFailed, Laws.answerCommit_map, counted, mapAfterFailure, endCommit, Chip.modMap]
    rfl

theorem each_jobFailed_map_same {l : List Job} {c : Chip} (h : (∀ info, c.map.commit ≠ .persisting info) ∨ .commit ∉ l) :
    (each jobFailed l c).map = c.map := by
  induction l generalizing c with
  | nil => rfl
  | cons j l ih =>
    have hj : (jobFailed j c).map = c.map :=
      (jobFailed_map j c).1 (h.imp id fun hl he => hl (he ▸ List.mem_cons_self))
    change (each jobFailed l (jobFailed j c)).map = _
    rw [ih (h.imp (by rw [hj]; exact id) fun hl hm => hl (List.mem_cons_of_mem _ hm)), hj]

theorem each_jobFailed_map {l : List Job} {c : Chip} {info : CommitInfo} (hc : c.map.commit = .persisting info)
    (hl : .commit ∈ l) : (each jobFailed l c).map = mapAfterFailure c info := by
  induction l generalizing c with
  | nil => cases hl
  | cons j l ih =>
    change (each jobFailed l (jobFailed j c)).map = _
    by_cases hj : j = .commit
    · subst hj
      have hmap := (jobFailed_map .commit c).2 info hc rfl
      rw [each_jobFailed_map_same (.inl fun i hi => by rw [hmap] at hi; cases hi), hmap]
    · have hmap := (jobFailed_map j c).1 (.inr hj)
      rw [ih (by rw [hmap]; exact hc) ((List.mem_cons.1 hl).resolve_left (Ne.symm hj))]
      simp [mapAfterFailure, hmap]

theorem jobFailed_active (j : Job) (c : Chip) : (jobFailed j c).map.active = c.map.active := by
  by_cases h : (∀ info, c.map.commit ≠ .persisting info) ∨ j ≠ .commit
  · rw [(jobFailed_map j c).1 h]
  · obtain ⟨hc, hj⟩ := not_or.1 h
    obtain ⟨info, hc⟩ := not_forall.1 hc
    rw [(jobFailed_map j c).2 info (not_not.1 hc) (not_not.1 hj)]
    rfl

section
variable {asker : Option Port} {s : State}

theorem onward_jobsFailed (l : List Job) (c : Chip) : Onward c (each jobFailed l c) :=
  each_keeps (P := Onward c) (fun j _ hd => (Onward.running c).jobFailed j hd) l (Onward.refl c)

/-- The failure of the job of a hold removes it, tells HOLDS, and answers its placement (R34). -/
theorem jobFailed_told {c : Chip} (h : Goes asker s c) (hp : c.hold.table.Pairwise fun a b => a.id < b.id) {x : Hold}
    (hx : x ∈ c.hold.table) :
    (c.map.active = s.chip.map.active → HoldsSet s (jobFailed (.hold x.id) c) x.range) ∧
      PlacementAnswered s { s with chip := jobFailed (.hold x.id) c } x .persistFailed [item x.id] := by
  have hfound : (counted c).findHold x.id = some x := by
    cases hf : c.findHold x.id with
    | none => exact absurd (List.find?_eq_none.1 hf x hx) (by simp)
    | some y =>
      obtain ⟨hy, hid⟩ := MediaFrames.findHold_some hf
      rw [show (counted c).findHold x.id = c.findHold x.id from rfl, hf, eq_of_id_eq hp hy hx hid]
  have heq : jobFailed (.hold x.id) c = answerPlacement x .persistFailed [item x.id] (removeHold x (counted c)) := by
    rw [jobFailed_hold]
    unfold holdJobFailed
    rw [hfound]
  have hcounted : Goes asker s (counted c) := h.silent (Silent.of_same rfl rfl)
  rw [heq]
  exact removeHold_told hcounted x _ _

theorem jobsFailed_told {l : List Job} {c : Chip} (h : Goes asker s c)
    (hp : c.hold.table.Pairwise fun a b => a.id < b.id) {x : Hold} (hx : x ∈ c.hold.table) (hl : .hold x.id ∈ l) :
    (c.map.active = s.chip.map.active → HoldsSet s (each jobFailed l c) x.range) ∧
      PlacementAnswered s { s with chip := each jobFailed l c } x .persistFailed [item x.id] := by
  induction l generalizing c with
  | nil => cases hl
  | cons j l ih =>
    have heach : each jobFailed (j :: l) c = each jobFailed l (jobFailed j c) := rfl
    rw [heach]
    by_cases hj : j = .hold x.id
    · subst hj
      obtain ⟨hset, hanswered⟩ := jobFailed_told h hp hx
      exact ⟨fun hactive => (hset hactive).onward (onward_jobsFailed l _), placementAnswered_onward hanswered (onward_jobsFailed l _)⟩
    · have htable := jobFailed_table j c
      rw [← jobFailed_active j c]
      refine ih (h.op fun k hk => k.jobFailed j hk) ?_ ?_ ((List.mem_cons.1 hl).resolve_left (Ne.symm hj))
      · rw [htable]
        exact hp.filter _
      · rw [htable]
        exact List.mem_filter.2 ⟨hx, decide_eq_true fun hm => hj (List.mem_singleton.1 hm).symm⟩

/-- The failure of the commit job answers the COMMIT (R152). -/
theorem jobsFailed_commit {l : List Job} {c : Chip} (h : Goes asker s c) {info : CommitInfo}
    (hc : c.map.commit = .persisting info) (hl : .commit ∈ l) :
    CommitAnswered s { s with chip := each jobFailed l c } info .persistFailed [] := by
  induction l generalizing c with
  | nil => cases hl
  | cons j l ih =>
    have heach : each jobFailed (j :: l) c = each jobFailed l (jobFailed j c) := rfl
    rw [heach]
    by_cases hj : j = .commit
    · subst hj
      refine commitAnswered_onward ?_ (onward_jobsFailed l _)
      rw [jobFailed_commit hc]
      have hcounted : Goes asker s (counted c) := h.silent (Silent.of_same rfl rfl)
      exact answerCommit_answered (hcounted.op fun k hk => k.endCommit _ hk) info _ _
    · refine ih (h.op fun k hk => k.jobFailed j hk) ?_ ((List.mem_cons.1 hl).resolve_left (Ne.symm hj))
      rw [(jobFailed_map j c).1 (.inr hj)]
      exact hc

end

/-- Failures are counted one by one (R167, R192). -/
theorem each_jobFailed_ctl (l : List Job) (c : Chip) (hl : l ≠ [] ∨ c.ctl.persistFailures ≤ 255) :
    (each jobFailed l c).ctl = { c.ctl with persistFailures := min 255 (c.ctl.persistFailures + l.length) } := by
  have hone (j : Job) (c : Chip) :
      (jobFailed j c).ctl = { c.ctl with persistFailures := min 255 (c.ctl.persistFailures + 1) } := by
    cases j with
    | hold id => rw [jobFailed_hold]; simp [counted, saturatingSucc, Config.saturate8]
    | commit =>
      by_cases hc : ∃ info, c.map.commit = .persisting info
      · obtain ⟨info, hc⟩ := hc
        rw [jobFailed_commit hc]
        simp [commitFailed, counted, saturatingSucc, Config.saturate8]
      · rw [jobFailed_commit_none fun info hi => hc ⟨info, hi⟩]
        simp [counted, saturatingSucc, Config.saturate8]
  induction l generalizing c with
  | nil =>
    have hle : c.ctl.persistFailures ≤ 255 := hl.resolve_left fun h => h rfl
    have hmin : min 255 (c.ctl.persistFailures + 0) = c.ctl.persistFailures := by omega
    simp [each, hle]
  | cons j l ih =>
    change (each jobFailed l (jobFailed j c)).ctl = _
    rw [ih (jobFailed j c) (.inr (by rw [hone]; exact Nat.min_le_left _ _)), hone]
    simp only [List.length_cons]
    congr 1
    omega

end Sys2Proof.Aftermath
end

section
/-! SUPPORT. The swap: the configuration that it installs, MAP at every port, the answer to the COMMIT (R97, R153, R154); and
what the blocks keep of it until the end of the event. -/

namespace Sys2Proof.Aftermath

open Sys2Proof.Machine Sys2Proof.Safety Sys2Proof.Keeping Sys2Proof.HoldProofs

/-! ### Delivered epochs and MAP -/

/-- The delivered epochs and the MAP notices stay. -/
def MapStays (c d : Chip) : Prop :=
  ∀ q, (d.ports.get q).delivered = (c.ports.get q).delivered ∧ (d.ports.get q).flags.map = (c.ports.get q).flags.map

namespace MapStays

variable {b c d : Chip}

theorem refl (c : Chip) : MapStays c c := fun _ => ⟨rfl, rfl⟩

theorem trans (h : MapStays b c) (h' : MapStays c d) : MapStays b d := fun q =>
  ⟨(h' q).1.trans (h q).1, (h' q).2.trans (h q).2⟩

theorem of_silent (h : Silent c d) : MapStays c d := fun q => ⟨h.delivered q, by rw [h.flags]⟩

theorem holdsNotice (r : MediaRange) (c : Chip) : MapStays c (holdsNotice r c) := by
  intro q
  rw [holdsNotice_port]
  split <;> exact ⟨rfl, rfl⟩

theorem answerPlacement (x : Hold) (o : Outcome) (w : List Word) (c : Chip) : MapStays c (answerPlacement x o w c) := by
  unfold Machine.answerPlacement
  split
  · exact of_silent (Silent.respond ..)
  · exact refl c

theorem answerCommit (i : CommitInfo) (o : Outcome) (w : List Word) (c : Chip) : MapStays c (answerCommit i o w c) := by
  unfold Machine.answerCommit
  split
  · exact of_silent (Silent.respond ..)
  · exact refl c

theorem of_ports (h : d.ports = c.ports) : MapStays c d := fun q => by rw [h]; exact ⟨rfl, rfl⟩

theorem removeHold (x : Hold) (c : Chip) : MapStays c (removeHold x c) :=
  (of_ports (d := dropHold x.id c) rfl).trans (holdsNotice x.range _)

theorem jobFailed (j : Job) (c : Chip) : MapStays c (jobFailed j c) := by
  cases j with
  | hold id =>
    rw [jobFailed_hold]
    refine (of_ports (d := counted c) rfl).trans ?_
    unfold holdJobFailed
    split
    · exact (removeHold _ _).trans (answerPlacement _ _ _ _)
    · exact refl _
  | commit =>
    by_cases hc : ∃ info, c.map.commit = .persisting info
    · obtain ⟨info, hc⟩ := hc
      rw [jobFailed_commit hc]
      exact (of_ports (c := c) (d := endCommit _ (counted c)) rfl).trans (answerCommit _ _ _ _)
    · rw [jobFailed_commit_none fun info hi => hc ⟨info, hi⟩]
      exact of_ports rfl

theorem each {α : Type} {f : α → Chip → Chip} (hf : ∀ a c, MapStays c (f a c)) (l : List α) (c : Chip) :
    MapStays c (each f l c) :=
  each_keeps (P := MapStays c) (fun a _ hc => hc.trans (hf a _)) l (refl c)

theorem endWait (x : Hold) (c : Chip) : MapStays c (endWait x c) := by
  have hset (y : Hold) : MapStays c (setHold y c) := of_ports rfl
  unfold Machine.endWait
  split
  · exact ((hset _).trans (holdsNotice _ _)).trans (answerPlacement _ _ _ _)
  · exact ((hset _).trans (holdsNotice _ _)).trans (answerPlacement _ _ _ _)
  · exact of_ports rfl

end MapStays

/-! ### The swap -/

/-- What a swap to `cfg` has left at the blocks `d`, before the end of the event (R97, R153, R154). -/
structure Installed (s : State) (d : Chip) (info : CommitInfo) (cfg : Configuration) : Prop where
  active : d.map.active = cfg
  epoch : d.map.epoch = s.chip.map.epoch + 1
  staging : d.map.staging = .empty
  commit : d.map.commit = .idle
  pointer : d.arb.pointer = s.chip.arb.pointer
  credit : ∀ p, d.arb.credit.get p = (cfg.ports.get p).weight
  answered : CommitAnswered s { s with chip := d } info .ok [s.chip.map.epoch + 1]
  committer : ∀ p, info.session = some p → (s.chip.ports.get p).session = .opened →
    (d.ports.get p).delivered = s.chip.map.epoch + 1 ∧ (d.ports.get p).flags.map = false
  others : ∀ q, info.session ≠ some q → (s.chip.ports.get q).session = .opened →
    ((d.ports.get q).flags.map = true ↔ (s.chip.ports.get q).delivered ≠ s.chip.map.epoch + 1)

theorem compared_map {e : Word} {pc : PortCtl} (h : pc.session = .opened) :
    (compared e pc).flags.map = decide (pc.delivered ≠ e) := by
  unfold compared
  split
  · rename_i hd; simp [hd]
  · rename_i hd; simp [hd]

/-- The delivery of the swap's epoch reaches the committer alone (R153). -/
theorem deliverCommit_port (info : CommitInfo) (c : Chip) (q : Port) :
    (deliverCommit info c).ports.get q =
      if info.session = some q ∧ (c.ports.get q).session = .opened then
        { c.ports.get q with delivered := c.map.epoch, flags := { (c.ports.get q).flags with map := false } }
      else c.ports.get q := by
  unfold deliverCommit
  split
  · rename_i p hp
    by_cases hopen : (c.ports.get p).session = .opened
    · rw [if_pos (show c.isOpen p = true from decide_eq_true hopen), Management.deliver_epoch, Laws.modPort_ports,
        Laws.PerPort.get_modify, hp]
      by_cases hq : q = p
      · subst hq; simp [hopen]
      · simp [hq, Ne.symm hq]
    · rw [if_neg (show ¬ c.isOpen p = true from fun h => hopen (of_decide_eq_true h)), if_neg]
      rw [hp]
      rintro ⟨hq, ho⟩
      exact hopen (Option.some.inj hq ▸ ho)
  · rename_i hp
    simp [hp]

theorem swapped_arb (cfg : Configuration) (c : Chip) : (swapped cfg c).arb =
    { c.arb with credit := cfg.ports.map PortEntry.weight } :=
  (Laws.eachPort_proj (fun c => c.arb) _ (by intro p c; split <;> simp) _).trans rfl

theorem swap_eq {c : Chip} {owner : Option Port} {cfg : Configuration} (h : c.map.staging = .committing owner cfg)
    (info : CommitInfo) :
    swap info c = answerCommit info .ok [c.map.epoch + 1] (deliverCommit info (swapped cfg c)) := by
  have hepoch : (swapped cfg c).map.epoch = c.map.epoch + 1 := by rw [swapped_map]
  unfold swap
  rw [h]
  dsimp only
  rw [← hepoch]
  rfl

section
variable {asker : Option Port} {s : State} {c d : Chip}

theorem installed_swap {info : CommitInfo} {owner : Option Port} {cfg : Configuration} (h : Goes asker s c)
    (hdelivered : ∀ q, (c.ports.get q).delivered = (s.chip.ports.get q).delivered)
    (hepoch : c.map.epoch = s.chip.map.epoch) (hpointer : c.arb.pointer = s.chip.arb.pointer)
    (hstaging : c.map.staging = .committing owner cfg) : Installed s (swap info c) info cfg := by
  have hswap := swap_eq hstaging info
  have hmap : (swap info c).map = (swapped cfg c).map := by rw [hswap]; simp
  have harb : (swap info c).arb = (swapped cfg c).arb := by rw [hswap]; simp
  have hstays : MapStays (deliverCommit info (swapped cfg c)) (swap info c) := by
    rw [hswap]; exact MapStays.answerCommit _ _ _ _
  have hswapped : Goes asker s (swapped cfg c) := h.op fun k hk => k.swapped cfg hk
  have hopened (q : Port) (ho : (s.chip.ports.get q).session = .opened) :
      (c.ports.get q).session = .opened ∧ ((swapped cfg c).ports.get q).session = .opened :=
    ⟨(h.opened q).2 ho, (hswapped.opened q).2 ho⟩
  have hport (q : Port) (ho : (s.chip.ports.get q).session = .opened) :
      (swapped cfg c).ports.get q = compared (s.chip.map.epoch + 1) (c.ports.get q) := by
    rw [swapped_port, if_pos (hopened q ho).1, hepoch]
  refine ⟨?_, ?_, ?_, ?_, ?_, ?_, ?_, ?_, ?_⟩
  · rw [hmap, swapped_map]
  · rw [hmap, swapped_map, hepoch]
  · rw [hmap, swapped_map]
  · rw [hmap, swapped_map]
  · rw [harb, swapped_arb, ← hpointer]
  · intro p
    rw [harb, swapped_arb]
    exact PinAndTime.perPort_map_get ..
  · rw [hswap, hepoch]
    exact answerCommit_answered (hswapped.op fun k hk => k.deliverCommit info hk) info _ _
  · intro p hp ho
    rw [(hstays p).1, (hstays p).2, deliverCommit_port, if_pos ⟨hp, (hopened p ho).2⟩]
    exact ⟨by rw [swapped_map, ← hepoch], rfl⟩
  · intro q hq ho
    rw [(hstays q).2, deliverCommit_port, if_neg fun hd => hq hd.1, hport q ho, compared_map (hopened q ho).1, hdelivered]
    exact decide_eq_true_iff

theorem Installed.keeps {info : CommitInfo} {cfg : Configuration} (h : Installed s c info cfg) (hd : Onward c d)
    (hstays : MapStays c d) (hmap : d.map = c.map) (harb : d.arb = c.arb) : Installed s d info cfg where
  active := by rw [hmap]; exact h.active
  epoch := by rw [hmap]; exact h.epoch
  staging := by rw [hmap]; exact h.staging
  commit := by rw [hmap]; exact h.commit
  pointer := by rw [harb]; exact h.pointer
  credit p := by rw [harb]; exact h.credit p
  answered := commitAnswered_onward h.answered hd
  committer p hp ho := by rw [(hstays p).1, (hstays p).2]; exact h.committer p hp ho
  others q hq ho := by rw [(hstays q).2]; exact h.others q hq ho

end

end Sys2Proof.Aftermath
end

section
/-! SUPPORT. What follows fallen counts, unit by unit: the ends of waits, the end of a drain, the writer (R33, R34, R150, R152,
R163, R164, R167). -/

namespace Sys2Proof.Aftermath

open Sys2Proof.Machine Sys2Proof.Safety Sys2Proof.Keeping Sys2Proof.HoldProofs

/-- The blocks `e` of an event that began at `s`, before what follows fallen counts: map, delivered epochs and what the writer
may do are those of `s`. -/
structure Falls (asker : Option Port) (s : State) (e : Chip) : Prop where
  goes : Goes asker s e
  delivered : ∀ q, (e.ports.get q).delivered = (s.chip.ports.get q).delivered
  active : e.map.active = s.chip.map.active
  epoch : e.map.epoch = s.chip.map.epoch
  pointer : e.arb.pointer = s.chip.arb.pointer
  exhausted : (e.cfg.generation = 0xFFFFFFFF#32 ∧ e.writerMayTake = true) ↔ Exhausted s

/-- The same, with a hold table in its order, and no job left that the writer could take. -/
structure Fallen (asker : Option Port) (s : State) (e : Chip) : Prop extends Falls asker s e where
  served : Exhausted s → e.cfg.queue = []
  ascending : e.hold.table.Pairwise fun a b => a.id < b.id

/-- A hold whose wait is over. -/
def waitOver (h : Hold) : Bool := decide (h.state = .pending [])

/-- The holds of `e` whose wait ends. -/
def overdue (e : Chip) : List Hold := e.hold.table.filter waitOver

/-- The jobs that the ends of waits append (R34, R163). -/
def newJobs (e : Chip) : List Job :=
  (e.hold.table.filter fun h => h.cls = .fixed ∧ h.state = .pending []).map fun h => .hold h.id

theorem flatMap_endedJobs (l : List Hold) :
    l.flatMap Laws.endedJobs = (l.filter fun h => h.cls = .fixed).map fun h => Job.hold h.id := by
  induction l with
  | nil => rfl
  | cons h l ih =>
    rw [List.flatMap_cons, ih, List.filter_cons]
    by_cases hc : h.cls = .fixed <;> simp [Laws.endedJobs, hc]

theorem endWaits_table {e : Chip} (hp : e.hold.table.Pairwise fun a b => a.id < b.id) :
    (endWaits e).hold.table = e.hold.table.map fun h => if h.state = .pending [] then Laws.endedHold h else h :=
  (Laws.endWaits_eq hp).1

theorem endWaits_cfg (e : Chip) : (endWaits e).cfg = { e.cfg with queue := e.cfg.queue ++ newJobs e } := by
  have hone (l : List Hold) (c : Chip) :
      (each endWait l c).cfg = { c.cfg with queue := c.cfg.queue ++ l.flatMap Laws.endedJobs } := by
    induction l generalizing c with
    | nil => simp [each]
    | cons h l ih =>
      change (each endWait l (endWait h c)).cfg = _
      rw [ih, Laws.endWait_cfg]
      simp [List.append_assoc]
  unfold endWaits
  rw [hone, flatMap_endedJobs, List.filter_filter]
  simp only [newJobs, Bool.decide_and]

theorem endWaits_ascending {e : Chip} (hp : e.hold.table.Pairwise fun a b => a.id < b.id) :
    (endWaits e).hold.table.Pairwise fun a b => a.id < b.id := by
  have hid (h : Hold) : (if h.state = .pending [] then Laws.endedHold h else h).id = h.id := by
    split
    · exact Laws.endedHold_id h
    · rfl
  rw [endWaits_table hp, List.pairwise_map]
  exact hp.imp fun h => by rw [hid, hid]; exact h

/-- The hold jobs that the ends of waits append are those of the FIXED holds. -/
theorem mem_newJobs {e : Chip} (hp : e.hold.table.Pairwise fun a b => a.id < b.id) {h : Hold} (hm : h ∈ e.hold.table) :
    .hold h.id ∈ newJobs e ↔ h.cls = .fixed ∧ h.state = .pending [] := by
  simp only [newJobs, List.mem_map, List.mem_filter, decide_eq_true_eq, Job.hold.injEq]
  constructor
  · rintro ⟨x, ⟨hx, hfixed, hover⟩, hid⟩
    rw [← eq_of_id_eq hp hx hm hid]
    exact ⟨hfixed, hover⟩
  · exact fun hh => ⟨h, ⟨hm, hh⟩, rfl⟩

theorem commit_notMem_newJobs (e : Chip) : .commit ∉ newJobs e := by
  intro hm
  obtain ⟨x, -, hx⟩ := List.mem_map.1 hm
  cases hx

section
variable {asker : Option Port} {s : State} {e : Chip}

/-! ### The ends of waits (R33, R34) -/

/-- A SESSION or POWER hold whose wait is over has been told of. -/
theorem endWaitsOf_told {l : List Hold} {c : Chip} (h : Goes asker s c) (hactive : c.map.active = s.chip.map.active)
    (hl : SameClasses c l) {x : Hold} (hx : x ∈ l) (hcls : x.cls ≠ .fixed) :
    HoldsSet s (each endWait l c) x.range ∧
      PlacementAnswered s { s with chip := each endWait l c } x .ok
        [item x.id, item x.cls.code, item x.scope.code, item x.range.first, item x.range.count] := by
  induction l generalizing c with
  | nil => cases hx
  | cons y l ih =>
    have hy : SameClass c y := fun hp => (hl hp y List.mem_cons_self).1
    have hrest : SameClasses (endWait y c) l := sameClasses_endWait hl
    have heach : each endWait (y :: l) c = each endWait l (endWait y c) := rfl
    have honward : Onward (endWait y c) (each endWait l (endWait y c)) :=
      (Onward.running _).endWaitsOf l hrest (Onward.refl _)
    rw [heach]
    by_cases hxy : x ∈ l
    · exact ih (h.op fun k hk => k.endWait hy hk) (by simpa using hactive) hrest hxy
    · have hxy : x = y := (List.mem_cons.1 hx).resolve_right hxy
      subst hxy
      have heq : endWait x c = activateHold x c := by
        unfold endWait
        cases hc : x.cls with
        | session => rfl
        | power => rfl
        | fixed => exact absurd hc hcls
      obtain ⟨hset, hanswered⟩ := activateHold_told h hactive x
      rw [heq] at honward ⊢
      exact ⟨hset.onward honward, placementAnswered_onward hanswered honward⟩

/-! ### The drain (R150, R152) -/

/-- The drain of the commit under way is over (R150, R157). -/
def DrainDone (e : Chip) (info : CommitInfo) : Prop :=
  (∀ n ∈ info.changeSet, e.map.usage.get n = ⟨0, 0⟩) ∧ e.cfg.bridge ≠ .fault

theorem drained_iff (e : Chip) (info : CommitInfo) :
    e.drained info.changeSet = true ↔ ∀ n ∈ info.changeSet, e.map.usage.get n = ⟨0, 0⟩ := by
  simp [Chip.drained]

theorem drainTest_draining {c : Chip} {info : CommitInfo} {left : Nat} (hc : c.map.commit = .draining info left) :
    drainTest c = if c.drained info.changeSet ∧ c.cfg.bridge ≠ .fault then drainEnd info c else c := by
  unfold drainTest
  rw [hc]

theorem drainTest_done {c : Chip} {info : CommitInfo} {left : Nat} (hc : c.map.commit = .draining info left)
    (h : DrainDone c info) : drainTest c = drainEnd info c := by
  rw [drainTest_draining hc]
  exact if_pos ⟨(drained_iff c info).2 h.1, h.2⟩

theorem drainTest_same {c : Chip} (h : ∀ info left, c.map.commit = .draining info left → ¬ DrainDone c info) :
    drainTest c = c := by
  cases hc : c.map.commit with
  | draining info left =>
    rw [drainTest_draining hc]
    exact if_neg fun hd => h info left hc ⟨(drained_iff c info).1 hd.1, hd.2⟩
  | idle => unfold drainTest; rw [hc]
  | persisting info => unfold drainTest; rw [hc]

theorem drainEnd_persist {info : CommitInfo} (h : info.persist = true) (c : Chip) :
    drainEnd info c = appendJob .commit (c.modMap fun m => { m with commit := .persisting info }) := if_pos h

theorem drainEnd_swap {info : CommitInfo} (h : info.persist = false) (c : Chip) : drainEnd info c = swap info c :=
  if_neg (by simp [h])

/-- The end of a drain appends the commit job, or no job (R152). -/
theorem drainTest_cfg (c : Chip) :
    ∃ last, (last = [] ∨ last = [.commit]) ∧ (drainTest c).cfg = { c.cfg with queue := c.cfg.queue ++ last } := by
  by_cases h : ∀ info left, c.map.commit = .draining info left → ¬ DrainDone c info
  · exact ⟨[], .inl rfl, by rw [drainTest_same h, List.append_nil]⟩
  · simp only [not_forall, not_not] at h
    obtain ⟨info, left, hc, hdone⟩ := h
    rw [drainTest_done hc hdone]
    cases hp : info.persist with
    | true => exact ⟨[.commit], .inr rfl, by rw [drainEnd_persist hp]; rfl⟩
    | false => exact ⟨[], .inl rfl, by rw [drainEnd_swap hp, Laws.swap_cfg, List.append_nil]⟩

/-! ### The writer (R164, R167) -/

/-- The jobs taken out of the queue, before they fail (R164). -/
def emptied (c : Chip) : Chip := c.modCfg fun u => { u with queue := [] }

theorem writerTake_exhausted {c : Chip} (hg : c.cfg.generation = 0xFFFFFFFF#32) (hw : c.writerMayTake = true) :
    writerTake c = each jobFailed c.cfg.queue (emptied c) := by
  unfold writerTake
  rw [if_pos hw, if_pos hg]
  rfl

theorem writerTake_takes {c : Chip} (h : ¬ (c.cfg.generation = 0xFFFFFFFF#32 ∧ c.writerMayTake = true)) :
    ∃ u, writerTake c = { c with cfg := u } ∧ jobsOf u = jobsOf c.cfg := by
  unfold writerTake
  split
  · rename_i hw
    rw [if_neg fun hg => h ⟨hg, hw⟩]
    split
    · rename_i j rest hq
      have hidle : c.cfg.writer = .idle := by
        simp only [Chip.writerMayTake, Bool.and_eq_true, decide_eq_true_eq] at hw
        exact hw.1.1
      exact ⟨_, rfl, by simp [jobsOf, hidle, hq]⟩
    · exact ⟨c.cfg, rfl, rfl⟩
  · exact ⟨c.cfg, rfl, rfl⟩

theorem jobsOf_append (u : ConfigUnit) (l : List Job) : jobsOf { u with queue := u.queue ++ l } = jobsOf u ++ l := by
  unfold jobsOf
  split <;> simp_all

/-! ### All three -/

/-- What the end of a drain has left at the blocks `d` (R150, R152, R164). -/
def DrainOver (s : State) (d : Chip) (info : CommitInfo) (owner : Option Port) (cfg : Configuration) : Prop :=
  (info.persist = false → Installed s d info cfg) ∧
    (info.persist = true → (¬ Exhausted s → d.map.active = s.chip.map.active ∧ d.map.epoch = s.chip.map.epoch ∧
        d.map.staging = .committing owner cfg ∧ d.map.commit = .persisting info ∧ .commit ∈ jobsOf d.cfg) ∧
      (Exhausted s → CommitFailed s { s with chip := d } info cfg))

/-- The blocks `d` after what follows fallen counts, from `e` (R33, R34, R150, R164). -/
structure Settled (asker : Option Port) (s : State) (e d : Chip) : Prop where
  goes : Goes asker s d
  waits : ∀ h ∈ e.hold.table, h.state = .pending [] → WaitEnded s { s with chip := d } h asker
  others : ∀ h ∈ e.hold.table, h.state ≠ .pending [] → h ∈ d.hold.table
  drained : ∀ info left owner cfg, e.map.commit = .draining info left → e.map.staging = .committing owner cfg →
    DrainDone e info → DrainOver s d info owner cfg
  undrained : (∀ info left, e.map.commit = .draining info left → ¬ DrainDone e info) → d.map = e.map
  jobs : ¬ Exhausted s → ∃ last, (last = [] ∨ last = [.commit]) ∧ jobsOf d.cfg = jobsOf e.cfg ++ newJobs e ++ last

/-- The blocks before the writer acts. -/
def beforeWriter (e : Chip) : Chip := drainTest (endWaits e)

theorem settle_eq (e : Chip) : settle e = writerTake (beforeWriter e) := rfl

theorem beforeWriter_cfg (e : Chip) :
    ∃ last, (last = [] ∨ last = [.commit]) ∧
      (beforeWriter e).cfg = { e.cfg with queue := e.cfg.queue ++ newJobs e ++ last } := by
  obtain ⟨last, hlast, hcfg⟩ := drainTest_cfg (endWaits e)
  exact ⟨last, hlast, by rw [beforeWriter, hcfg, endWaits_cfg]⟩

theorem beforeWriter_table (hp : e.hold.table.Pairwise fun a b => a.id < b.id) : (beforeWriter e).hold.table =
    e.hold.table.map fun h => if h.state = .pending [] then Laws.endedHold h else h := by
  rw [beforeWriter, Laws.drainTest_hold, endWaits_table hp]

theorem beforeWriter_goes (hf : Falls asker s e) : Goes asker s (beforeWriter e) :=
  hf.goes.op fun k hk => k.drainTest (k.endWaits hk)

theorem mem_beforeWriter_other (hp : e.hold.table.Pairwise fun a b => a.id < b.id) {h : Hold} (hm : h ∈ e.hold.table)
    (ho : h.state ≠ .pending []) : h ∈ (beforeWriter e).hold.table := by
  rw [beforeWriter_table hp]
  exact List.mem_map.2 ⟨h, hm, if_neg ho⟩

end

end Sys2Proof.Aftermath
end

section
/-! SUPPORT. What follows fallen counts, as a whole (R32 to R34, R119, R150, R163, R164). -/

namespace Sys2Proof.Aftermath

open Sys2Proof.Machine Sys2Proof.Safety Sys2Proof.Keeping Sys2Proof.HoldProofs

section
variable {asker : Option Port} {s : State} {e : Chip}

/-! ### The writer's turn -/

/-- The blocks `g` when the writer acts: the waits of `e` have ended, and at most the commit job stands behind their jobs. -/
structure After (asker : Option Port) (s : State) (e g : Chip) : Prop where
  goes : Goes asker s g
  onward : Onward (endWaits e) g
  table : g.hold.table = (endWaits e).hold.table
  cfg : ∃ last, (last = [] ∨ last = [.commit]) ∧ g.cfg = { e.cfg with queue := e.cfg.queue ++ newJobs e ++ last }

theorem after_beforeWriter (hf : Falls asker s e) : After asker s e (beforeWriter e) where
  goes := beforeWriter_goes hf
  onward := (Onward.running _).drainTest (Onward.refl _)
  table := by rw [beforeWriter, Laws.drainTest_hold]
  cfg := beforeWriter_cfg e

namespace After

variable {g : Chip}

theorem exhausted (ha : After asker s e g) (hf : Falls asker s e) :
    (g.cfg.generation = 0xFFFFFFFF#32 ∧ g.writerMayTake = true) ↔ Exhausted s := by
  obtain ⟨last, -, hcfg⟩ := ha.cfg
  rw [← hf.exhausted]
  simp only [Chip.writerMayTake, hcfg]

theorem taken (ha : After asker s e g) (hf : Falls asker s e) (hx : ¬ Exhausted s) :
    ∃ u, writerTake g = { g with cfg := u } ∧ jobsOf u = jobsOf g.cfg :=
  writerTake_takes fun h => hx ((ha.exhausted hf).1 h)

theorem failed (ha : After asker s e g) (hf : Falls asker s e) (hx : Exhausted s) :
    writerTake g = each jobFailed g.cfg.queue (emptied g) := by
  obtain ⟨hg, hw⟩ := (ha.exhausted hf).2 hx
  exact writerTake_exhausted hg hw

theorem hold_mem_queue (ha : After asker s e g) (hf : Fallen asker s e) (hx : Exhausted s) (id : Nat) :
    .hold id ∈ g.cfg.queue ↔ .hold id ∈ newJobs e := by
  obtain ⟨last, hlast, hcfg⟩ := ha.cfg
  rw [hcfg, hf.served hx]
  rcases hlast with rfl | rfl <;> simp

theorem onward_taken (ha : After asker s e g) : Onward (endWaits e) (writerTake g) :=
  ha.onward.trans ((Onward.running _).writerTake (Onward.refl _))

theorem goes_taken (ha : After asker s e g) : Goes asker s (writerTake g) := ha.goes.op fun k hk => k.writerTake hk

theorem goes_emptied (ha : After asker s e g) : Goes asker s (emptied g) := ha.goes.silent (Silent.of_same rfl rfl)

theorem ascending (ha : After asker s e g) (hf : Fallen asker s e) : g.hold.table.Pairwise fun a b => a.id < b.id := by
  rw [ha.table]
  exact endWaits_ascending hf.ascending

theorem mem_over (ha : After asker s e g) (hf : Fallen asker s e) {h : Hold} (hm : h ∈ e.hold.table)
    (ho : h.state = .pending []) : Laws.endedHold h ∈ g.hold.table := by
  rw [ha.table, endWaits_table hf.ascending]
  exact List.mem_map.2 ⟨h, hm, if_pos ho⟩

theorem mem_other (ha : After asker s e g) (hf : Fallen asker s e) {h : Hold} (hm : h ∈ e.hold.table)
    (ho : h.state ≠ .pending []) : h ∈ g.hold.table := by
  rw [ha.table, endWaits_table hf.ascending]
  exact List.mem_map.2 ⟨h, hm, if_neg ho⟩

/-- The writer's turn takes no hold out of the table but those of jobs that fail. -/
theorem mem_taken (ha : After asker s e g) (hf : Fallen asker s e) {x : Hold} (hx : x ∈ g.hold.table)
    (hkeep : Exhausted s → .hold x.id ∉ newJobs e) : x ∈ (writerTake g).hold.table := by
  by_cases hex : Exhausted s
  · rw [ha.failed hf.toFalls hex, each_jobFailed_table]
    exact List.mem_filter.2 ⟨hx, decide_eq_true fun hm => hkeep hex ((ha.hold_mem_queue hf hex x.id).1 hm)⟩
  · obtain ⟨u, heq, -⟩ := ha.taken hf.toFalls hex
    rw [heq]
    exact hx

theorem jobs (ha : After asker s e g) (hf : Falls asker s e) (hx : ¬ Exhausted s) :
    ∃ last, (last = [] ∨ last = [.commit]) ∧ jobsOf (writerTake g).cfg = jobsOf e.cfg ++ newJobs e ++ last := by
  obtain ⟨u, heq, hjobs⟩ := ha.taken hf hx
  obtain ⟨last, hlast, hcfg⟩ := ha.cfg
  refine ⟨last, hlast, ?_⟩
  rw [heq, hjobs, hcfg, List.append_assoc, jobsOf_append, List.append_assoc]

/-! ### The holds -/

theorem over_activated (ha : After asker s e g) (hf : Fallen asker s e) {h : Hold} (hm : h ∈ e.hold.table)
    (ho : h.state = .pending []) (hcls : h.cls ≠ .fixed) : HoldActivated s { s with chip := writerTake g } h asker := by
  have hended : Laws.endedHold h = { h with state := .active (h.expiry.map (· * 1000)), answerTo := none } := if_neg hcls
  have hover : h ∈ e.hold.table.filter fun h => h.state = .pending [] := List.mem_filter.2 ⟨hm, decide_eq_true ho⟩
  obtain ⟨hset, hanswered⟩ : HoldsSet s (endWaits e) h.range ∧ PlacementAnswered s { s with chip := endWaits e } h .ok _ :=
    endWaitsOf_told hf.goes hf.active (sameClasses_table _) hover hcls
  refine ⟨?_, (hset.onward ha.onward_taken).told ha.goes_taken, placementAnswered_onward hanswered ha.onward_taken⟩
  rw [← hended]
  refine ha.mem_taken hf (ha.mem_over hf hm ho) fun _ hjob => ?_
  rw [Laws.endedHold_id] at hjob
  exact hcls ((mem_newJobs hf.ascending hm).1 hjob).1

theorem over_persisting (ha : After asker s e g) (hf : Fallen asker s e) {h : Hold} (hm : h ∈ e.hold.table)
    (ho : h.state = .pending []) (hcls : h.cls = .fixed) (hx : ¬ Exhausted s) :
    { h with state := .persisting } ∈ (writerTake g).hold.table ∧ .hold h.id ∈ jobsOf (writerTake g).cfg := by
  have hended : Laws.endedHold h = { h with state := .persisting } := if_pos hcls
  obtain ⟨last, -, hjobs⟩ := ha.jobs hf.toFalls hx
  constructor
  · rw [← hended]
    exact ha.mem_taken hf (ha.mem_over hf hm ho) fun hex => absurd hex hx
  · rw [hjobs]
    simp [(mem_newJobs hf.ascending hm).2 ⟨hcls, ho⟩]

theorem over_failed (ha : After asker s e g) (hf : Fallen asker s e) {h : Hold} (hm : h ∈ e.hold.table)
    (ho : h.state = .pending []) (hcls : h.cls = .fixed) (hx : Exhausted s) :
    HoldFailed s { s with chip := writerTake g } h := by
  have hended : Laws.endedHold h = { h with state := .persisting } := if_pos hcls
  have hjob : .hold h.id ∈ g.cfg.queue :=
    (ha.hold_mem_queue hf hx h.id).2 ((mem_newJobs hf.ascending hm).2 ⟨hcls, ho⟩)
  constructor
  · intro x hmem hid
    rw [show (State.chip { s with chip := writerTake g }) = writerTake g from rfl, ha.failed hf.toFalls hx,
      each_jobFailed_table] at hmem
    exact of_decide_eq_true (List.mem_filter.1 hmem).2 (hid ▸ hjob)
  · have hpersisting : { h with state := .persisting } ∈ (emptied g).hold.table := by
      rw [← hended]
      exact ha.mem_over hf hm ho
    rw [ha.failed hf.toFalls hx]
    exact (jobsFailed_told ha.goes_emptied (ha.ascending hf) hpersisting hjob).2

theorem waitEnded (ha : After asker s e g) (hf : Fallen asker s e) {h : Hold} (hm : h ∈ e.hold.table)
    (ho : h.state = .pending []) : WaitEnded s { s with chip := writerTake g } h asker :=
  ⟨ha.over_activated hf hm ho, fun hcls => ⟨ha.over_persisting hf hm ho hcls, ha.over_failed hf hm ho hcls⟩⟩

theorem other_stays (ha : After asker s e g) (hf : Fallen asker s e) {h : Hold} (hm : h ∈ e.hold.table)
    (ho : h.state ≠ .pending []) : h ∈ (writerTake g).hold.table :=
  ha.mem_taken hf (ha.mem_other hf hm ho) fun _ hjob => ho ((mem_newJobs hf.ascending hm).1 hjob).2

end After

theorem settle_taken (hf : Falls asker s e) (hx : ¬ Exhausted s) :
    ∃ u, settle e = { beforeWriter e with cfg := u } ∧ jobsOf u = jobsOf (beforeWriter e).cfg :=
  (after_beforeWriter hf).taken hf hx

theorem settle_failed (hf : Falls asker s e) (hx : Exhausted s) :
    settle e = each jobFailed (beforeWriter e).cfg.queue (emptied (beforeWriter e)) :=
  (after_beforeWriter hf).failed hf hx

theorem settle_goes (hf : Falls asker s e) : Goes asker s (settle e) := hf.goes.op fun k hk => k.settle hk

/-! ### The commit -/

/-- A commit whose job has failed (R152). -/
theorem commitFailed_of_map {c d : Chip} {info : CommitInfo} {owner : Option Port} {cfg : Configuration}
    (hd : d.map = mapAfterFailure c info) (hactive : c.map.active = s.chip.map.active)
    (hepoch : c.map.epoch = s.chip.map.epoch) (hstaging : c.map.staging = .committing owner cfg)
    (hbridge : c.cfg.bridge ≠ .fault) (hanswered : CommitAnswered s { s with chip := d } info .persistFailed []) :
    CommitFailed s { s with chip := d } info cfg := by
  have hreopened : d.map.staging = reopenStaging info c.map := by rw [hd]; exact if_neg hbridge
  refine ⟨by rw [hd]; rfl, by rw [hd]; exact hactive, by rw [hd]; exact hepoch, fun p hp => ?_, fun hp => ?_, hanswered⟩
  · rw [hreopened]
    simp [reopenStaging, hp, hstaging]
  · rw [hreopened]
    simp [reopenStaging, hp]

theorem settle_undrained (hf : Falls asker s e) (hserved : Exhausted s → e.cfg.queue = [])
    (h : ∀ info left, e.map.commit = .draining info left → ¬ DrainDone e info) : (settle e).map = e.map := by
  have hbefore : beforeWriter e = endWaits e := by
    refine drainTest_same fun info left hc hd => h info left (by simpa using hc) ?_
    simpa [DrainDone, endWaits_cfg] using hd
  by_cases hx : Exhausted s
  · have hqueue : .commit ∉ (beforeWriter e).cfg.queue := by
      rw [hbefore, endWaits_cfg, hserved hx]
      exact commit_notMem_newJobs e
    rw [settle_failed hf hx, each_jobFailed_map_same (.inr hqueue), hbefore]
    exact Laws.endWaits_map e
  · obtain ⟨u, heq, -⟩ := settle_taken hf hx
    rw [heq, hbefore]
    exact Laws.endWaits_map e

theorem beforeWriter_drained {info : CommitInfo} {left : Nat} (hc : e.map.commit = .draining info left)
    (hd : DrainDone e info) :
    beforeWriter e = drainEnd info (endWaits e) := by
  refine drainTest_done (left := left) (by simpa using hc) ?_
  simpa [DrainDone, endWaits_cfg] using hd

/-- A drain that is not over goes on. -/
theorem settle_draining (hf : Falls asker s e) {info : CommitInfo} {left : Nat} (hc : e.map.commit = .draining info left)
    (hd : ¬ DrainDone e info) : (settle e).map = e.map := by
  have hbefore : (beforeWriter e).map = e.map := by
    have hsame : beforeWriter e = endWaits e := by
      refine drainTest_same fun i l hi hdone => hd ?_
      rw [Laws.endWaits_map, hc] at hi
      obtain ⟨rfl, -⟩ := Commit.draining.inj hi
      simpa [DrainDone, endWaits_cfg] using hdone
    rw [hsame, Laws.endWaits_map]
  by_cases hx : Exhausted s
  · rw [settle_failed hf hx, each_jobFailed_map_same (.inl fun i hi => ?_)]
    · exact hbefore
    · rw [show (emptied (beforeWriter e)).map = (beforeWriter e).map from rfl, hbefore, hc] at hi
      cases hi
  · obtain ⟨u, heq, -⟩ := settle_taken hf hx
    rw [heq]
    exact hbefore

theorem beforeWriter_persist {info : CommitInfo} {left : Nat} (hc : e.map.commit = .draining info left)
    (hd : DrainDone e info) (hp : info.persist = true) :
    (beforeWriter e).cfg = { e.cfg with queue := e.cfg.queue ++ newJobs e ++ [.commit] } := by
  rw [beforeWriter_drained hc hd, drainEnd_persist hp]
  change { (endWaits e).cfg with queue := (endWaits e).cfg.queue ++ [Job.commit] } = _
  rw [endWaits_cfg]

theorem settle_jobs_persist (hf : Falls asker s e) (hx : ¬ Exhausted s) {info : CommitInfo} {left : Nat}
    (hc : e.map.commit = .draining info left) (hd : DrainDone e info) (hp : info.persist = true) :
    jobsOf (settle e).cfg = jobsOf e.cfg ++ newJobs e ++ [.commit] := by
  obtain ⟨u, heq, hjobs⟩ := settle_taken hf hx
  rw [heq, hjobs, beforeWriter_persist hc hd hp, List.append_assoc, jobsOf_append, List.append_assoc]

theorem settle_drained (hf : Falls asker s e) {info : CommitInfo} {left : Nat} {owner : Option Port}
    {cfg : Configuration} (hc : e.map.commit = .draining info left) (hstaging : e.map.staging = .committing owner cfg)
    (hd : DrainDone e info) : DrainOver s (settle e) info owner cfg := by
  have hbefore := beforeWriter_drained hc hd
  have hended : Goes asker s (endWaits e) := hf.goes.op fun k hk => k.endWaits hk
  constructor
  · intro hswap
    rw [drainEnd_swap hswap] at hbefore
    have hdelivered (q : Port) : ((endWaits e).ports.get q).delivered = (s.chip.ports.get q).delivered :=
      ((MapStays.each MapStays.endWait _ e) q).1.trans (hf.delivered q)
    have hinstalled : Installed s (beforeWriter e) info cfg := by
      rw [hbefore]
      exact installed_swap hended hdelivered (by simpa using hf.epoch) (by simpa using hf.pointer)
        (by simpa using hstaging)
    by_cases hx : Exhausted s
    · rw [settle_failed hf hx]
      refine (hinstalled.keeps (d := emptied (beforeWriter e)) (Onward.of_same rfl rfl) (MapStays.of_ports rfl) rfl
        rfl).keeps (onward_jobsFailed _ _) (MapStays.each MapStays.jobFailed _ _)
        (each_jobFailed_map_same (.inl fun i hi => ?_)) (Laws.each_proj (fun c => c.arb) _ (by simp) _ _)
      exact absurd (hinstalled.commit.symm.trans hi) (by simp)
    · obtain ⟨u, heq, -⟩ := settle_taken hf hx
      rw [heq]
      exact hinstalled.keeps (Onward.of_same rfl rfl) (MapStays.of_ports rfl) rfl rfl
  · intro hpersist
    rw [drainEnd_persist hpersist] at hbefore
    have hmap : (beforeWriter e).map = { e.map with commit := .persisting info } := by
      rw [hbefore, ← Laws.endWaits_map e]
      rfl
    have hqueue : .commit ∈ (beforeWriter e).cfg.queue := by
      rw [hbefore]
      exact List.mem_append_right _ (List.mem_singleton.2 rfl)
    constructor
    · intro hx
      obtain ⟨u, heq, hjobs⟩ := settle_taken hf hx
      have hjob : .commit ∈ jobsOf u := by
        rw [hjobs]
        unfold jobsOf
        split
        · exact List.mem_cons_of_mem _ hqueue
        · exact List.mem_cons_of_mem _ hqueue
        · exact hqueue
        · exact hqueue
      rw [heq]
      change (beforeWriter e).map.active = _ ∧ (beforeWriter e).map.epoch = _ ∧ (beforeWriter e).map.staging = _ ∧
        (beforeWriter e).map.commit = _ ∧ .commit ∈ jobsOf u
      rw [hmap]
      exact ⟨hf.active, hf.epoch, hstaging, rfl, hjob⟩
    · intro hx
      have hmapEmptied : (emptied (beforeWriter e)).map = { e.map with commit := .persisting info } := hmap
      have hcommit : (emptied (beforeWriter e)).map.commit = .persisting info := by
        rw [hmapEmptied]
      have hbridge : (emptied (beforeWriter e)).cfg.bridge ≠ .fault := by
        obtain ⟨last, -, hcfg⟩ := beforeWriter_cfg e
        change (beforeWriter e).cfg.bridge ≠ .fault
        rw [hcfg]
        exact hd.2
      have hafter : (settle e).map = mapAfterFailure (emptied (beforeWriter e)) info := by
        rw [settle_failed hf hx, each_jobFailed_map hcommit hqueue]
      have hanswered : CommitAnswered s { s with chip := settle e } info .persistFailed [] := by
        rw [settle_failed hf hx]
        exact jobsFailed_commit (after_beforeWriter hf).goes_emptied hcommit hqueue
      exact commitFailed_of_map hafter (by rw [hmapEmptied]; exact hf.active) (by rw [hmapEmptied]; exact hf.epoch)
        (by rw [hmapEmptied]; exact hstaging) hbridge hanswered

/-- The consequences of fallen counts (R32 to R34, R119, R150, R163, R164). -/
theorem settled (hf : Fallen asker s e) : Settled asker s e (settle e) where
  goes := settle_goes hf.toFalls
  waits _ hm ho := (after_beforeWriter hf.toFalls).waitEnded hf hm ho
  others _ hm ho := (after_beforeWriter hf.toFalls).other_stays hf hm ho
  drained _ _ _ _ hc hstaging hd := settle_drained hf.toFalls hc hstaging hd
  undrained h := settle_undrained hf.toFalls hf.served h
  jobs hx := (after_beforeWriter hf.toFalls).jobs hf.toFalls hx

end

end Sys2Proof.Aftermath
end

section
/-! SUPPORT. From what follows fallen counts to the end of the event: the answers in either order, the ends of CLOSING
sessions, the grant decisions (R55, R93, R119). -/

namespace Sys2Proof.Aftermath

open Sys2Proof.Machine Sys2Proof.Safety Sys2Proof.Keeping Sys2Proof.HoldProofs Sys2Proof.Grants

/-! ### What grant decisions leave alone -/

/-- What grants leave of the blocks `c`: all but counts, slots, pages, tags, queues, and the write of one job. -/
structure Granted (c d : Chip) : Prop where
  hold : d.hold = c.hold
  ctl : d.ctl = c.ctl
  map : ∃ u, d.map = { c.map with usage := u }
  mlink : ∃ x, d.mlink = { c.mlink with slots := x }
  cfg : ∃ w a b, d.cfg = { c.cfg with writer := w, areaA := a, areaB := b }
  jobs : jobsOf d.cfg = jobsOf c.cfg
  writer : (∀ j, c.cfg.writer ≠ .awaitingSlot j) → d.cfg = c.cfg
  queues : ∀ q, d.arb.queues.get q <:+ c.arb.queues.get q

namespace Granted

variable {b c d : Chip}

theorem refl (c : Chip) : Granted c c := ⟨rfl, rfl, ⟨_, rfl⟩, ⟨_, rfl⟩, ⟨_, _, _, rfl⟩, rfl, fun _ => rfl, fun _ => List.suffix_refl _⟩

theorem trans (h : Granted b c) (h' : Granted c d) : Granted b d where
  hold := h'.hold.trans h.hold
  ctl := h'.ctl.trans h.ctl
  map := by
    obtain ⟨u, hu⟩ := h.map
    obtain ⟨v, hv⟩ := h'.map
    exact ⟨v, by rw [hv, hu]⟩
  mlink := by
    obtain ⟨u, hu⟩ := h.mlink
    obtain ⟨v, hv⟩ := h'.mlink
    exact ⟨v, by rw [hv, hu]⟩
  cfg := by
    obtain ⟨w, x, y, hu⟩ := h.cfg
    obtain ⟨w', x', y', hv⟩ := h'.cfg
    exact ⟨w', x', y', by rw [hv, hu]⟩
  jobs := h'.jobs.trans h.jobs
  writer hw := by
    have hc := h.writer hw
    rw [h'.writer (by rw [hc]; exact hw), hc]
  queues q := (h'.queues q).trans (h.queues q)

theorem grantPersist {j : Job} (i : SlotNo) (hw : c.cfg.writer = .awaitingSlot j) : Granted c (grantPersist j i c) := by
  have hcfg : ∃ g a b, (Machine.grantPersist j i c).cfg =
      { c.cfg with writer := .writing j c.cfg.target g, areaA := a, areaB := b } := by
    refine ⟨(c.jobRecord j).generation, (Machine.grantPersist j i c).cfg.areaA, (Machine.grantPersist j i c).cfg.areaB, ?_⟩
    unfold Machine.grantPersist setArea
    cases c.cfg.target <;> simp [issueSlot, Chip.modCfg]
  obtain ⟨g, a, b, hcfg⟩ := hcfg
  refine ⟨by simp, by simp, ⟨_, Laws.grantPersist_map ..⟩, ?_, ⟨_, _, _, hcfg⟩, ?_, fun h => absurd hw (h j), fun q => ?_⟩
  · exact ⟨(Machine.grantPersist j i c).mlink.slots, by simp [Machine.grantPersist, issueSlot, Machine.setSlot, Chip.modMlink]⟩
  · rw [hcfg]
    simp [jobsOf, hw]
  · rw [Laws.grantPersist_arb]

theorem grantHead (reserved : Bool) (p : Port) (t : Tag) (r : DataRec) (i : SlotNo) (c : Chip) :
    Granted c (grantHead reserved p t r i c) := by
  have hmlink : ∃ x, (Machine.grantHead reserved p t r i c).mlink = { c.mlink with slots := x } := by
    refine ⟨(Machine.grantHead reserved p t r i c).mlink.slots, ?_⟩
    rw [grantHead_eq]
    split
    · simp [takenByGrant, Machine.setSlot, Chip.modMlink]
    · unfold Machine.issuePort issueSlot Machine.setSlot
      dsimp only
      split <;> simp [takenByGrant, Chip.modMlink]
  refine ⟨by simp, by simp, ⟨_, grantHead_map _ _ _ _ _ _⟩, hmlink, ⟨_, _, _, Laws.grantHead_cfg ..⟩, by simp,
    fun _ => by simp, fun q => ?_⟩
  rw [grantHead_arb, grantedArb_queues, Laws.PerPort.get_modify]
  split
  · rename_i hq
    rw [hq]
    exact List.tail_suffix _
  · exact List.suffix_refl _

theorem decision (h : grantDecision c = some d) : Granted c d := by
  obtain ⟨-, ⟨j, i, hw, -, rfl⟩ | ⟨reserved, p, t, r, i, c', hc', -, -, -, rfl⟩⟩ := grantDecision_cases h
  · exact grantPersist i hw
  · refine Granted.trans (c := c') ?_ (grantHead reserved p t r i c')
    rcases hc' with rfl | rfl
    · exact refl _
    · exact ⟨rfl, rfl, ⟨_, rfl⟩, ⟨_, rfl⟩, ⟨_, _, _, rfl⟩, rfl, fun _ => rfl, fun _ => List.suffix_refl _⟩

theorem decisions (n : Nat) (c : Chip) : Granted c (decisions n c) := by
  induction n generalizing c with
  | zero => exact refl c
  | succ n ih =>
    unfold Machine.decisions
    split
    · rename_i d hd
      exact (decision hd).trans (ih d)
    · exact refl c

theorem arbitrate (c : Chip) : Granted c (arbitrate c) := decisions 16 c

end Granted

/-! ### The end of an event -/

/-- `t` ends the event whose consequences have left `f`; the frames that have gone out are those of `f` or of `g`, and what
has followed them. -/
structure Ends (f g t : Chip) : Prop where
  opened : ∀ q, (t.ports.get q).session = .opened ↔ (f.ports.get q).session = .opened
  flags : ∀ q, (t.ports.get q).flags = (f.ports.get q).flags
  delivered : ∀ q, (t.ports.get q).delivered = (f.ports.get q).delivered
  gone : ∀ q u, f.record q u = none → t.record q u = none
  granted : Granted f t
  sent : f.sent <+: t.sent ∨ g.sent <+: t.sent
  arbitrated : ∃ c, t = arbitrate c ∧ c.arb = f.arb

theorem eachPort_closeIfIdle_granted (c : Chip) : Granted c (eachPort closeIfIdle c) := by
  have h {β : Type} (g : Chip → β) (hg : ∀ p c, g (closeIfIdle p c) = g c) : g (eachPort closeIfIdle c) = g c :=
    Laws.eachPort_proj g closeIfIdle hg c
  have hcfg : (eachPort closeIfIdle c).cfg = c.cfg := h (fun c => c.cfg) (by simp)
  exact ⟨h (fun c => c.hold) (by simp), h (fun c => c.ctl) (by simp), ⟨_, h (fun c => c.map) (by simp)⟩,
    ⟨_, h (fun c => c.mlink) (by simp)⟩, ⟨_, _, _, hcfg⟩, by rw [hcfg], fun _ => hcfg, fun q => by
      rw [h (fun c => c.arb) (by simp)]⟩

theorem ends_of_merged {f g m : Chip} (hm : m = f ∨ ∃ x n, m = { f with sent := x, free := n } ∧ (f.sent <+: x ∨ g.sent <+: x)) :
    Ends f g (arbitrate (eachPort closeIfIdle m)) := by
  have hends := Silent.ends m
  have hgranted := (eachPort_closeIfIdle_granted m).trans (Granted.arbitrate _)
  have harb : (eachPort closeIfIdle m).arb = m.arb := Laws.eachPort_proj (fun c => c.arb) _ (by simp) _
  rcases hm with rfl | ⟨x, n, rfl, hx⟩
  · exact ⟨hends.opened, hends.flags, hends.delivered, hends.gone, hgranted, .inl hends.sent, _, rfl, harb⟩
  · exact ⟨hends.opened, hends.flags, hends.delivered, hends.gone,
      ⟨hgranted.hold, hgranted.ctl, hgranted.map, hgranted.mlink, hgranted.cfg, hgranted.jobs, hgranted.writer,
        hgranted.queues⟩,
      hx.imp (fun h => h.trans hends.sent) fun h => h.trans hends.sent, _, rfl, harb⟩

theorem conclude_ends {answers : Chip → Chip} (ha : ∀ d, d.sent <+: (answers d).sent) (e : Chip) :
    Ends (settle (answers e)) (settle e) (conclude answers e) := by
  refine ends_of_merged ?_
  unfold eitherOrder
  dsimp only
  split
  · exact .inl rfl
  · refine .inr ⟨_, _, rfl, ?_⟩
    split
    · exact .inl (List.prefix_refl _)
    · exact .inr (ha _)

theorem conclude_id_ends (e : Chip) : Ends (settle e) (settle e) (conclude id e) :=
  conclude_ends (fun _ => List.prefix_refl _) e

section
variable {asker : Option Port} {s : State} {f g t : Chip}

theorem noticed_ends {q : Port} {x : Flag} (hf : Noticed s { s with chip := f } q x)
    (hg : Noticed s { s with chip := g } q x) (h : Ends f g t) : Noticed s { s with chip := t } q x :=
  h.sent.elim (fun hsent => noticed_mono hf hsent) fun hsent => noticed_mono hg hsent

theorem answered_ends {p : Port} {u : Tag} {o : Outcome} {x : List Word} (hf : Answered s { s with chip := f } p u o x)
    (hg : Answered s { s with chip := g } p u o x) (h : Ends f g t) : Answered s { s with chip := t } p u o x :=
  h.sent.elim (fun hsent => answered_mono hf hsent) fun hsent => answered_mono hg hsent

theorem holdsTold_ends {r : MediaRange} (hf : HoldsTold s { s with chip := f } r asker)
    (hg : HoldsTold s { s with chip := g } r asker) (h : Ends f g t) : HoldsTold s { s with chip := t } r asker := by
  intro q ho hs
  refine ⟨?_, fun hq hdue => noticed_ends ((hf q ho hs).2 hq hdue) ((hg q ho hs).2 hq hdue) h⟩
  change (t.ports.get q).flags.holds = true
  rw [h.flags]
  exact (hf q ho hs).1

theorem placementAnswered_ends {x : Hold} {o : Outcome} {w : List Word}
    (hf : PlacementAnswered s { s with chip := f } x o w) (hg : PlacementAnswered s { s with chip := g } x o w)
    (h : Ends f g t) : PlacementAnswered s { s with chip := t } x o w := fun u hu hs =>
  ⟨h.gone _ _ (hf u hu hs).1, answered_ends (hf u hu hs).2 (hg u hu hs).2 h⟩

theorem commitAnswered_ends {info : CommitInfo} {o : Outcome} {w : List Word}
    (hf : CommitAnswered s { s with chip := f } info o w) (hg : CommitAnswered s { s with chip := g } info o w)
    (h : Ends f g t) : CommitAnswered s { s with chip := t } info o w := fun p u hp hu hs =>
  ⟨h.gone _ _ (hf p u hp hu hs).1, answered_ends (hf p u hp hu hs).2 (hg p u hp hu hs).2 h⟩

theorem holdActivated_ends {x : Hold} (hf : HoldActivated s { s with chip := f } x asker)
    (hg : HoldActivated s { s with chip := g } x asker) (h : Ends f g t) :
    HoldActivated s { s with chip := t } x asker := by
  obtain ⟨hmem, htold, hanswered⟩ := hf
  obtain ⟨-, htold', hanswered'⟩ := hg
  refine ⟨?_, holdsTold_ends htold htold' h, placementAnswered_ends hanswered hanswered' h⟩
  change _ ∈ t.hold.table
  rw [h.granted.hold]
  exact hmem

theorem holdFailed_ends {x : Hold} (hf : HoldFailed s { s with chip := f } x) (hg : HoldFailed s { s with chip := g } x)
    (h : Ends f g t) : HoldFailed s { s with chip := t } x := by
  refine ⟨?_, placementAnswered_ends hf.2 hg.2 h⟩
  change ∀ y ∈ t.hold.table, _
  rw [h.granted.hold]
  exact hf.1

theorem waitEnded_ends {x : Hold} (hf : WaitEnded s { s with chip := f } x asker)
    (hg : WaitEnded s { s with chip := g } x asker) (h : Ends f g t) : WaitEnded s { s with chip := t } x asker := by
  refine ⟨fun hcls => holdActivated_ends (hf.1 hcls) (hg.1 hcls) h, fun hcls => ⟨fun hx => ?_, fun hx =>
    holdFailed_ends ((hf.2 hcls).2 hx) ((hg.2 hcls).2 hx) h⟩⟩
  change _ ∈ t.hold.table ∧ _ ∈ jobsOf t.cfg
  rw [h.granted.hold, h.granted.jobs]
  exact (hf.2 hcls).1 hx

theorem commitFailed_ends {info : CommitInfo} {cfg : Configuration} (hf : CommitFailed s { s with chip := f } info cfg)
    (hg : CommitFailed s { s with chip := g } info cfg) (h : Ends f g t) :
    CommitFailed s { s with chip := t } info cfg := by
  obtain ⟨hcommit, hactive, hepoch, howner, hnone, hanswered⟩ := hf
  obtain ⟨-, -, -, -, -, hanswered'⟩ := hg
  obtain ⟨u, hmap⟩ := h.granted.map
  unfold CommitFailed
  rw [show (State.chip { s with chip := t }) = t from rfl, hmap]
  exact ⟨hcommit, hactive, hepoch, howner, hnone, commitAnswered_ends hanswered hanswered' h⟩

/-- A swap, at the end of its event (R97, R153, R154). -/
theorem swapped_ends {info : CommitInfo} {cfg : Configuration} (hf : Installed s f info cfg) (hg : Installed s g info cfg)
    (hgoes : Goes asker s f) (hgoes' : Goes asker s g) (hasker : ∀ q, asker = some q → info.session = some q)
    (h : Ends f g t) : Swapped s { s with chip := t } info cfg := by
  obtain ⟨u, hmap⟩ := h.granted.map
  obtain ⟨c, hc, harb⟩ := h.arbitrated
  have htold (q : Port) (hq : info.session ≠ some q) (ho : (s.chip.ports.get q).session = .opened)
      (hd : (s.chip.ports.get q).delivered ≠ s.chip.map.epoch + 1) (hdue : NoticeDue s q .map) :
      Noticed s { s with chip := t } q .map := by
    have hask : asker ≠ some q := fun he => hq (hasker q he)
    exact noticed_ends (hgoes.noticed (f := .map) ((hf.others q hq ho).2 hd) hask hdue)
      (hgoes'.noticed (f := .map) ((hg.others q hq ho).2 hd) hask hdue) h
  unfold Swapped
  rw [show (State.chip { s with chip := t }) = t from rfl, hmap]
  refine ⟨hf.active, hf.epoch, hf.staging, hf.commit, ⟨c, hc, by rw [harb]; exact hf.pointer, by
    rw [harb]; exact hf.credit⟩, commitAnswered_ends hf.answered hg.answered h, fun p hp ho => ?_, fun q hq ho =>
    ⟨?_, htold q hq ho⟩⟩
  · rw [h.delivered, h.flags]
    exact hf.committer p hp ho
  · rw [h.flags]
    exact hf.others q hq ho

theorem drainEnded_ends {info : CommitInfo} {owner : Option Port} {cfg : Configuration}
    (hf : DrainOver s f info owner cfg) (hg : DrainOver s g info owner cfg) (hgoes : Goes asker s f)
    (hgoes' : Goes asker s g) (hasker : ∀ q, asker = some q → info.session = some q) (h : Ends f g t) :
    DrainEnded s { s with chip := t } info owner cfg := by
  refine ⟨fun hp => swapped_ends (hf.1 hp) (hg.1 hp) hgoes hgoes' hasker h, fun hp => ⟨fun hx => ?_, fun hx =>
    commitFailed_ends ((hf.2 hp).2 hx) ((hg.2 hp).2 hx) h⟩⟩
  obtain ⟨u, hmap⟩ := h.granted.map
  rw [show (State.chip { s with chip := t }) = t from rfl, hmap, h.granted.jobs]
  exact (hf.2 hp).1 hx

end

end Sys2Proof.Aftermath
end

section
/-! SUPPORT. Events that let counts fall (R32 to R34, R119, R150): ABORT and the transfer timeout. -/

namespace Sys2Proof.Aftermath

open Sys2Proof.Machine Sys2Proof.Safety Sys2Proof.Keeping Sys2Proof.HoldProofs Sys2Proof.Commands Sys2Proof.DataPath
  Sys2Proof.SlotOps

section
variable {asker : Option Port} {s : State} {c e : Chip}

/-! ### What follows fallen counts, at the end of the event -/

/-- An answering of requests: it leaves the hold table, the map and the configuration unit alone. -/
structure Answering (f : Chip → Chip) : Prop where
  silent : ∀ d, Silent d (f d)
  hold : ∀ d, (f d).hold = d.hold
  map : ∀ d, (f d).map = d.map
  cfg : ∀ d, (f d).cfg = d.cfg
  arb : ∀ d, (f d).arb = d.arb
  mlink : ∀ d, (f d).mlink = d.mlink
  session : ∀ d q, ((f d).ports.get q).session = (d.ports.get q).session
  inFlight : ∀ d q, ((f d).ports.get q).inFlight = (d.ports.get q).inFlight

theorem Answering.id : Answering id := ⟨Silent.refl, fun _ => rfl, fun _ => rfl, fun _ => rfl, fun _ => rfl,
  fun _ => rfl, fun _ _ => rfl, fun _ _ => rfl⟩

theorem respond_inFlight (p q : Port) (t : Tag) (o : Outcome) (w : List Word) (c : Chip) :
    ((respond p t o w c).ports.get q).inFlight = (c.ports.get q).inFlight := by
  have hfreed : ((withRecord p t none c).ports.get q).inFlight = (c.ports.get q).inFlight := by
    simp only [withRecord, Laws.PerPort.get_modify]
    split <;> rfl
  rcases respond_cases p t o w c with h | h | h <;> rw [h]
  · exact hfreed
  · exact hfreed

theorem Answering.respond (p : Port) (t : Tag) (o : Outcome) (w : List Word) : Answering (respond p t o w) :=
  ⟨Silent.respond p t o w, by simp, by simp, by simp, by simp, by simp, by simp, fun _ q => respond_inFlight p q t o w _⟩

theorem Answering.comp {f g : Chip → Chip} (hf : Answering f) (hg : Answering g) : Answering fun d => g (f d) :=
  ⟨fun d => (hf.silent d).trans (hg.silent _), fun d => (hg.hold _).trans (hf.hold d), fun d => (hg.map _).trans (hf.map d),
    fun d => (hg.cfg _).trans (hf.cfg d), fun d => (hg.arb _).trans (hf.arb d), fun d => (hg.mlink _).trans (hf.mlink d),
    fun d q => (hg.session _ q).trans (hf.session d q), fun d q => (hg.inFlight _ q).trans (hf.inFlight d q)⟩

theorem Falls.answering (h : Falls asker s e) {f : Chip → Chip} (hf : Answering f) : Falls asker s (f e) where
  goes := h.goes.silent (hf.silent e)
  delivered q := ((hf.silent e).delivered q).trans (h.delivered q)
  active := by rw [hf.map]; exact h.active
  epoch := by rw [hf.map]; exact h.epoch
  pointer := by rw [hf.arb]; exact h.pointer
  exhausted := by simp only [Chip.writerMayTake, hf.cfg]; exact h.exhausted

theorem Fallen.answering (h : Fallen asker s e) {f : Chip → Chip} (hf : Answering f) : Fallen asker s (f e) where
  toFalls := h.toFalls.answering hf
  served hx := by rw [hf.cfg]; exact h.served hx
  ascending := by rw [hf.hold]; exact h.ascending

theorem exhausted_iff (s : State) :
    (s.chip.cfg.generation = 0xFFFFFFFF#32 ∧ s.chip.writerMayTake = true) ↔ Exhausted s := by
  rw [Laws.writerMayTake_iff]
  rfl

/-- Counts have fallen, and nothing else of what follows looks at. -/
theorem Falls.of_goes (h : Goes asker s e)
    (hdelivered : ∀ q, (e.ports.get q).delivered = (s.chip.ports.get q).delivered)
    (hactive : e.map.active = s.chip.map.active) (hepoch : e.map.epoch = s.chip.map.epoch)
    (hpointer : e.arb.pointer = s.chip.arb.pointer) (hcfg : e.cfg = s.chip.cfg) :
    Falls asker s e where
  goes := h
  delivered := hdelivered
  active := hactive
  epoch := hepoch
  pointer := hpointer
  exhausted := by
    simp only [Chip.writerMayTake, hcfg]
    exact exhausted_iff s

theorem Falls.fallen (h : Falls asker s e) (hs : WriterServed s) (hcfg : e.cfg = s.chip.cfg)
    (hascending : e.hold.table.Pairwise fun a b => a.id < b.id) : Fallen asker s e where
  toFalls := h
  served hx := by rw [hcfg]; exact hs hx.2
  ascending := hascending

/-- What follows fallen counts, at the end of their event. -/
theorem countsFell_conclude {answers : Chip → Chip} (ha : Answering answers) (hhold : e.hold.table = c.hold.table)
    (hmap : e.map = c.map) (hcfg : e.cfg = c.cfg) (hf : HoldTableInRange s → WriterServed s → Fallen none s e) :
    CountsFell s { s with chip := conclude answers e } c := by
  intro hrange hserved
  have hfallen := hf hrange hserved
  have hends := conclude_ends (fun d => (ha.silent d).sent) e
  have hg := settled hfallen
  have hf := settled (hfallen.answering ha)
  have hold (h : Hold) (hm : h ∈ c.hold.table) : h ∈ e.hold.table ∧ h ∈ (answers e).hold.table := by
    rw [ha.hold, hhold]
    exact ⟨hm, hm⟩
  have hdone (info : CommitInfo) : DrainDone (answers e) info ↔ DrainDone e info := by
    unfold DrainDone
    rw [ha.map, ha.cfg]
  obtain ⟨u, hgranted⟩ := hends.granted.map
  refine ⟨fun h hm ho => waitEnded_ends (hf.waits h (hold h hm).2 ho) (hg.waits h (hold h hm).1 ho) hends,
    fun h hm ho => ?_, fun info left owner cfg hc hs => ⟨fun hd hb => ?_, fun hd => ?_⟩, fun hx => ?_, ?_⟩
  · change h ∈ (conclude answers e).hold.table
    rw [hends.granted.hold]
    exact hf.others h (hold h hm).2 ho
  · have hd' : DrainDone e info := ⟨by rw [hmap]; exact hd, by rw [hcfg]; exact hb⟩
    exact drainEnded_ends (hf.drained info left owner cfg (by rw [ha.map, hmap]; exact hc)
      (by rw [ha.map, hmap]; exact hs) ((hdone info).2 hd')) (hg.drained info left owner cfg (by rw [hmap]; exact hc)
      (by rw [hmap]; exact hs) hd') hf.goes hg.goes nofun hends
  · have hsame := hf.undrained fun i l hi hdrained => by
      rw [ha.map, hmap, hc] at hi
      obtain ⟨rfl, -⟩ := Commit.draining.inj hi
      exact hd (by rw [← hmap]; exact ((hdone _).1 hdrained).1)
    rw [show (State.chip { s with chip := conclude answers e }) = conclude answers e from rfl, hgranted, hsame, ha.map, hmap]
    exact ⟨rfl, rfl, rfl, rfl⟩
  · obtain ⟨last, hlast, hjobs⟩ := hf.jobs hx
    refine ⟨last, hlast, ?_⟩
    change jobsOf (conclude answers e).cfg = _
    rw [hends.granted.jobs, hjobs, ha.cfg, hcfg]
    simp only [newJobs, ha.hold, hhold]
  · exact (writerServed_iff _).2 (Served.conclude answers e)

/-! ### Answers, at the end of their event -/

theorem ends_gone {f : Chip → Chip} (hf : ∀ d, d.sent <+: (f d).sent) {p : Port} {u : Tag}
    (h : (f e).record p u = none) : (conclude f e).record p u = none :=
  (conclude_ends hf e).gone p u (((Onward.running _).settle (Onward.refl _)).gone p u h)

/-- What the answers of an event put among its frames, in whatever order, is there at its end. -/
theorem ends_sent {f : Chip → Chip} {B : State → Prop} (hmono : ∀ {t t' : State}, B t → t.chip.sent <+: t'.chip.sent → B t')
    (hB : ∀ d, Goes asker s d → B { s with chip := f d }) (he : Goes asker s e) : B { s with chip := conclude f e } := by
  have hfirst : B { s with chip := settle (f e) } :=
    hmono (hB e he) ((Onward.running _).settle (Onward.refl (f e))).sent
  have hsecond : B { s with chip := f (settle e) } := hB _ (he.op fun k hk => k.settle hk)
  refine hmono (t := { s with chip := eitherOrder f settle e }) ?_ (Silent.ends _).sent
  unfold eitherOrder
  dsimp only
  split
  · exact hfirst
  · by_cases h : Config.answerFirst e.free = true
    · exact hmono hfirst (by simp [h])
    · exact hmono hsecond (by simp [h])

/-- An answer of an event has been given at its end. -/
theorem conclude_respond (he : Goes asker s e) {p : Port} (hp : Speaks s p) (u : Tag) (o : Outcome) (w : List Word) :
    (conclude (respond p u o w) e).record p u = none ∧
      Answered s { s with chip := conclude (respond p u o w) e } p u o w :=
  ⟨ends_gone (fun d => respond_sent_prefix p u o w d) (he.respond_answered hp u o w).1,
    ends_sent answered_mono (fun _ hd => (hd.respond_answered hp u o w).2) he⟩

/-! ### An event that nothing follows -/

theorem Answering.still {f : Chip → Chip} (hf : Answering f) (h : Still e) : Still (f e) := by
  obtain ⟨hcommit, hholds, hqueue, hclosing⟩ := h
  refine ⟨by rw [hf.map]; exact hcommit, by rw [hf.hold]; exact hholds, by rw [hf.cfg]; exact hqueue, fun q reason hs => ?_⟩
  rw [hf.session] at hs
  rw [hf.inFlight]
  exact hclosing q reason hs

/-- Where nothing is about to follow and nothing can be granted, the answers are all that an event leaves. -/
theorem conclude_still {f : Chip → Chip} (hf : Answering f) (h : Still e) (hgrant : arbitrate (f e) = f e) :
    conclude f e = f e :=
  Laws.conclude_eq (Laws.settle_still h) (Laws.settle_still (hf.still h)) hgrant (hf.still h).2.2.2

theorem Answering.arbitrate_noGrant {f : Chip → Chip} (hf : Answering f) (h : NoGrant e) : arbitrate (f e) = f e := by
  refine Laws.arbitrate_noGrant ?_
  unfold NoGrant Chip.slot
  rw [hf.cfg, hf.mlink]
  exact h

theorem Answering.arbitrate_idle {f : Chip → Chip} (hf : Answering f) (hqueues : ∀ q, e.arb.queues.get q = [])
    (hwriter : ∀ j, e.cfg.writer ≠ .awaitingSlot j) : arbitrate (f e) = f e := by
  refine Laws.arbitrate_eq_self (Laws.grantDecision_none (Laws.eligible_of_empty ?_) (.inr ?_))
  · rw [hf.arb]; exact hqueues
  · rw [hf.cfg]; exact hwriter

/-! ### A slot given back -/

theorem released_session (i : SlotNo) (p q : Port) (w : WindowNo) (r : SlotRec) (c : Chip) :
    ((released i p w r c).ports.get q).session = (c.ports.get q).session := by
  simp only [released, Laws.PerPort.get_modify]
  split <;> rfl

theorem still_released {i : SlotNo} {p : Port} (hcalm : Calm c i) (hopen : (c.ports.get p).session = .opened)
    (w : WindowNo) (r : SlotRec) : Still (released i p w r c) := by
  obtain ⟨hcommit, hholds, hqueue, -, -, hclosing⟩ := hcalm
  refine ⟨hcommit, fun x hx => ?_, hqueue, fun q reason hs => ?_⟩
  · obtain ⟨y, hy, rfl⟩ := List.mem_map.1 hx
    exact Laws.noLonger_waits (hholds y hy)
  · rw [released_session] at hs
    have hne : q ≠ p := by
      rintro rfl
      rw [hopen] at hs
      cases hs
    simp only [released, Laws.PerPort.get_modify_ne _ _ hne]
    exact hclosing q reason hs

theorem released_queues (i : SlotNo) (p q : Port) (w : WindowNo) (r : SlotRec) (c : Chip) :
    (released i p w r c).arb.queues.get q = c.arb.queues.get q := by
  simp only [released]
  split <;> rfl

/-- Where nothing else waits on the slot of an OPEN session, its return brings about the answers alone. -/
theorem conclude_released {f : Chip → Chip} (hf : Answering f) {i : SlotNo} {p : Port} (hcalm : Calm c i)
    (hopen : (c.ports.get p).session = .opened) (w : WindowNo) (r : SlotRec) :
    conclude f (released i p w r c) = f (released i p w r c) := by
  have hstill := still_released hcalm hopen w r
  obtain ⟨-, -, -, hwriter, hqueues, -⟩ := hcalm
  exact conclude_still hf hstill (hf.arbitrate_idle (fun q => by rw [released_queues]; exact hqueues q) hwriter)

theorem released_ascending {i : SlotNo} {p : Port} {w : WindowNo} {r : SlotRec}
    (hp : c.hold.table.Pairwise fun a b => a.id < b.id) :
    (released i p w r c).hold.table.Pairwise fun a b => a.id < b.id := by
  have hid (h : Hold) : (noLonger i h).id = h.id := by
    unfold noLonger
    split <;> rfl
  simp only [released, List.pairwise_map, hid]
  exact hp

/-- A port's slot has returned to FREE, and nothing has followed yet. -/
theorem fallen_freeSlot {i : SlotNo} {p : Port} {w : WindowNo} {r : SlotRec} (he : Goes asker s e)
    (hdelivered : ∀ q, (e.ports.get q).delivered = (s.chip.ports.get q).delivered) (hmap : e.map = s.chip.map)
    (harb : e.arb = s.chip.arb) (hcfg : e.cfg = s.chip.cfg) (hhold : e.hold = s.chip.hold) (hr : e.slot i = some r)
    (hh : r.holder = .port p) (hw : r.window = some w) (hrange : HoldTableInRange s) (hserved : WriterServed s) :
    Fallen asker s (freeSlot i e) := by
  obtain ⟨-, hmap', harb', -, hhold'⟩ := Grants.freeSlot_released hr hh hw
  have hfreed : Silent e (freeSlot i e) := Silent.freeSlot i e
  have hcfg' : (freeSlot i e).cfg = s.chip.cfg := by rw [Laws.freeSlot_cfg, hcfg]
  refine (Falls.of_goes (he.silent hfreed) (fun q => (hfreed.delivered q).trans (hdelivered q)) ?_ ?_ ?_ hcfg').fallen
    hserved hcfg' ?_
  · rw [hmap', ← hmap]; rfl
  · rw [hmap', ← hmap]; rfl
  · rw [harb', ← harb]
    simp only [released]
    split <;> rfl
  · rw [hhold']
    refine released_ascending ?_
    rw [hhold]
    exact hrange.2.2

end

/-! ### The transfer timeout (R106) -/

theorem transferExpiry_granted {c : Chip} {p : Port} {t : Tag} {d : DataRec} {n : SlotNo} {got : List Nat} {timer : Nat}
    (hd : c.dataRecord p t = some d) (hs : d.stage = .granted n got timer) :
    transferExpiry p t c = conclude (respond p t .dataTimeout []) (freeSlot n c) := by
  unfold transferExpiry
  simp only [hd, Option.map_some, hs]

theorem transferExpiry_of_not {c : Chip} {p : Port} {t : Tag}
    (h : ∀ d n got timer, c.dataRecord p t = some d → d.stage ≠ .granted n got timer) : transferExpiry p t c = c := by
  unfold transferExpiry
  split
  · rename_i n got timer hs
    obtain ⟨d, hd, hstage⟩ := Option.map_eq_some_iff.1 hs
    exact absurd hstage (h d n got timer hd)
  · rfl

/-- Settles O33. -/
theorem transferTimeoutEndsAWaitingWrite : Obligations.TransferTimeoutEndsAWaitingWrite := by
  unfold Obligations.TransferTimeoutEndsAWaitingWrite
  intro s p tag
  refine ⟨fun d n got timer hspeaks hd hs => ⟨?_, fun r w hcalm hr hh hw => ?_⟩, fun hhigh hnot =>
    does_of_action hhigh nofun nofun (transferExpiry_of_not hnot)⟩
  · have hdoes : Does (.transferTimeout p tag) s (conclude (respond p tag .dataTimeout []) (freeSlot n s.chip)) :=
      does_of_action hspeaks.1 nofun nofun (transferExpiry_granted hd hs)
    obtain ⟨hgone, hanswered⟩ := conclude_respond (asker := none)
      ((Goes.start s).silent (Silent.freeSlot n s.chip)) hspeaks tag .dataTimeout []
    refine ⟨_, hdoes, hgone, hanswered, fun r w hr hh hw => ?_⟩
    obtain ⟨-, hmap, -, -, hhold⟩ := Grants.freeSlot_released hr hh hw
    exact countsFell_conclude (Answering.respond ..) (by rw [hhold]) hmap (by simp [released])
      (fallen_freeSlot (Goes.start s) (fun _ => rfl) rfl rfl rfl rfl hr hh hw)
  · have hopen : (s.chip.ports.get p).session = .opened := hspeaks.2.2
    refine does_of_action hspeaks.1 nofun nofun ?_
    rw [action, transferExpiry_granted hd hs, Laws.freeSlot_eq_released hr hh hw hopen,
      conclude_released (Answering.respond ..) hcalm hopen]
    exact Laws.respond_open (by rw [released_session]; exact hopen) (by
      simp only [released, Laws.PerPort.get_modify]
      exact hspeaks.2.1) ..

end Sys2Proof.Aftermath
end

section
/-! SUPPORT. ABORT of a queued request and of a write that waits for data (R89, R107, R109). -/

namespace Sys2Proof.Aftermath

open Sys2Proof.Machine Sys2Proof.Safety Sys2Proof.Keeping Sys2Proof.HoldProofs Sys2Proof.Commands Sys2Proof.DataPath
  Sys2Proof.SlotOps

section
variable {asker : Option Port} {s : State} {c e : Chip}

/-! ### Records -/

theorem set_comm {n : Nat} {α : Type} (t : Table n α) {i j : Fin n} (x y : α) (h : i ≠ j) :
    (t.set i x).set j y = (t.set j y).set i x := by
  simp only [Table.set, Table.mk.injEq]
  exact List.set_comm _ _ fun hv => h (Fin.ext hv)

theorem withRecord_comm (p : Port) {t u : Tag} (x y : Option Record) (c : Chip) (h : t ≠ u) :
    withRecord p u y (withRecord p t x c) = withRecord p t x (withRecord p u y c) := by
  simp only [withRecord, Laws.PerPort.modify_modify, set_comm _ x y h]

theorem withRecord_record_ne {p q : Port} {t u : Tag} (x : Option Record) (c : Chip) (h : q = p → u ≠ t) :
    (withRecord p t x c).record q u = c.record q u := by
  simp only [Chip.record, withRecord, Laws.PerPort.get_modify]
  split
  · rename_i hq
    rw [hq, Laws.Table.get_set_ne _ _ (h hq)]
  · rfl

/-- The record of a request of the event: its port is left out, or has a tag in use. -/
theorem Goes.recorded (h : Goes asker s c) {p : Port} (hbusy : asker = some p ∨ ∃ u, s.chip.record p u ≠ none) (t : Tag)
    (x : Option Record) : Goes asker s (withRecord p t x c) := by
  refine ⟨fun q => ?_, fun q hopen => ?_, h.since.1, fun q f hq hdue => ?_⟩
  · rw [Laws.withRecord_session]; exact h.opened q
  · rw [Laws.withRecord_link]; exact h.link q hopen
  · by_cases hqp : q = p
    · subst hqp
      rcases hbusy with hask | ⟨u, hu⟩
      · exact absurd hask hq
      · exact absurd (hdue.2.2.1 u) hu
    · rcases h.since.2 q f hq hdue with hstill | hnoticed
      · refine .inl ?_
        obtain ⟨hopen, hclear, htags, hup⟩ := hstill
        have hport : (withRecord p t x c).ports.get q = c.ports.get q := Laws.PerPort.get_modify_ne _ _ hqp
        refine ⟨by rw [hport]; exact hopen, by rw [hport]; exact hclear, fun u => ?_, by rw [hport]; exact hup⟩
        rw [withRecord_record_ne x c fun he => absurd he hqp]
        exact htags u
      · exact .inr hnoticed

theorem withRecord_delivered (p q : Port) (t : Tag) (x : Option Record) (c : Chip) :
    ((withRecord p t x c).ports.get q).delivered = (c.ports.get q).delivered := by
  simp only [withRecord, Laws.PerPort.get_modify]
  split <;> rfl

theorem withRecord_inFlight (p q : Port) (t : Tag) (x : Option Record) (c : Chip) :
    ((withRecord p t x c).ports.get q).inFlight = (c.ports.get q).inFlight := by
  simp only [withRecord, Laws.PerPort.get_modify]
  split <;> rfl

/-- No CLOSING session is without a request in flight: a record more or less does not matter. -/
theorem withRecord_closing {c : Chip} (h : ∀ q reason, (c.ports.get q).session = .closing reason → (c.ports.get q).inFlight ≠ 0)
    (p : Port) (t : Tag) (x : Option Record) (q : Port) (reason : CloseReason)
    (hq : ((withRecord p t x c).ports.get q).session = .closing reason) :
    ((withRecord p t x c).ports.get q).inFlight ≠ 0 := by
  rw [Laws.withRecord_session] at hq
  rw [withRecord_inFlight]
  exact h q reason hq

theorem still_withRecord (h : Still c) (p : Port) (t : Tag) (x : Option Record) : Still (withRecord p t x c) := by
  obtain ⟨hcommit, hholds, hqueue, hclosing⟩ := h
  exact ⟨hcommit, hholds, hqueue, withRecord_closing hclosing p t x⟩

theorem calm_withRecord {i : SlotNo} (h : Calm c i) (p : Port) (t : Tag) (x : Option Record) :
    Calm (withRecord p t x c) i := by
  obtain ⟨hcommit, hholds, hqueue, hwriter, hqueues, hclosing⟩ := h
  exact ⟨hcommit, hholds, hqueue, hwriter, hqueues, withRecord_closing hclosing p t x⟩

theorem released_withRecord (i : SlotNo) (p : Port) (w : WindowNo) (r : SlotRec) (t : Tag) (x : Option Record) (c : Chip) :
    released i p w r (withRecord p t x c) = withRecord p t x (released i p w r c) := by
  simp only [released, withRecord, Laws.PerPort.modify_modify]

theorem released_record (i : SlotNo) (p q : Port) (w : WindowNo) (r : SlotRec) (u : Tag) (c : Chip) :
    (released i p w r c).record q u = c.record q u := by
  simp only [Chip.record, released, Laws.PerPort.get_modify]
  split <;> rfl

theorem released_link (i : SlotNo) (p q : Port) (w : WindowNo) (r : SlotRec) (c : Chip) :
    ((released i p w r c).ports.get q).link = (c.ports.get q).link := by
  simp only [released, Laws.PerPort.get_modify]
  split <;> rfl

theorem swap_queues (info : CommitInfo) (c : Chip) : (swap info c).arb.queues = c.arb.queues := by
  cases hs : c.map.staging with
  | committing owner cfg =>
    rw [swap_eq hs, Laws.answerCommit_arb, Laws.deliverCommit_arb, swapped_arb]
  | empty => unfold swap; rw [hs]
  | opened q cfg => unfold swap; rw [hs]

theorem drainTest_queues (c : Chip) : (drainTest c).arb.queues = c.arb.queues := by
  by_cases h : ∀ info left, c.map.commit = .draining info left → ¬ DrainDone c info
  · rw [drainTest_same h]
  · simp only [not_forall, not_not] at h
    obtain ⟨info, left, hc, hdone⟩ := h
    rw [drainTest_done hc hdone]
    cases hp : info.persist with
    | true => rw [drainEnd_persist hp]; rfl
    | false => rw [drainEnd_swap hp, swap_queues]

theorem settle_queues (c : Chip) : (settle c).arb.queues = c.arb.queues := by
  rw [settle_eq, Laws.writerTake_arb, beforeWriter, drainTest_queues, Laws.endWaits_arb]

/-- At the end of an event no queue has an entry that it has not had before the consequences. -/
theorem conclude_queues {f : Chip → Chip} (hf : Answering f) {q : Port} {u : Tag}
    (h : u ∈ (conclude f e).arb.queues.get q) : u ∈ e.arb.queues.get q := by
  have hsuffix := (conclude_ends (fun d => (hf.silent d).sent) e).granted.queues q
  rw [settle_queues, hf.arb] at hsuffix
  exact hsuffix.subset h

/-! ### The two answers of an ABORT -/

/-- The answers to an aborted request and to its ABORT (R108). -/
def abortAnswers (p : Port) (target abort : Tag) (c : Chip) : Chip :=
  respond p abort .done [] (respond p target .aborted [] c)

theorem answering_abort (p : Port) (target abort : Tag) : Answering (abortAnswers p target abort) :=
  (Answering.respond p target .aborted []).comp (Answering.respond p abort .done [])

theorem answeredBoth_mono {t t' : State} {p q : Port} {u v : Tag} {o o' : Outcome} (h : AnsweredBoth s t p u o q v o')
    (hsent : t.chip.sent <+: t'.chip.sent) : AnsweredBoth s t' p u o q v o' := by
  obtain ⟨fs, fs', before, between, after, hs⟩ := h
  obtain ⟨more, hmore⟩ := hsent
  exact ⟨fs, fs', before, between, after ++ more, by rw [← hmore, hs]; simp⟩

/-- Two answers, one after the other, to a session that speaks. -/
theorem Goes.respond_both (h : Goes asker s c) {p q : Port} (hp : Speaks s p) (hq : Speaks s q) (u v : Tag) (o o' : Outcome) :
    AnsweredBoth s { s with chip := respond q v o' [] (respond p u o [] c) } p u o q v o' := by
  obtain ⟨hopen, hup⟩ := h.speaks hp
  have hfirst : Goes asker s (respond p u o [] c) := h.silent (Silent.respond ..)
  obtain ⟨hopen', hup'⟩ := hfirst.speaks hq
  obtain ⟨before, hbefore⟩ := h.since.1
  refine ⟨((withRecord p u none c).ports.get p).flags,
    ((withRecord q v none (respond p u o [] c)).ports.get q).flags, before, [], [], ?_⟩
  change (respond q v o' [] (respond p u o [] c)).sent = _
  rw [Laws.respond_open hopen' hup', answered_sent, Laws.withRecord_sent, Laws.respond_open hopen hup, answered_sent,
    Laws.withRecord_sent, ← hbefore]
  simp only [List.append_nil]

theorem conclude_abort (he : Goes asker s e) {p : Port} (hp : Speaks s p) (target abort : Tag) :
    (conclude (abortAnswers p target abort) e).record p target = none ∧
      (conclude (abortAnswers p target abort) e).record p abort = none ∧
      AnsweredBoth s { s with chip := conclude (abortAnswers p target abort) e } p target .aborted p abort .done := by
  have hprefix (d : Chip) := ((answering_abort p target abort).silent d).sent
  have hfirst : Goes asker s (respond p target .aborted [] e) := he.silent (Silent.respond ..)
  refine ⟨ends_gone hprefix ?_, ends_gone hprefix (hfirst.respond_answered hp abort .done []).1,
    ends_sent answeredBoth_mono (fun d hd => hd.respond_both hp hp target abort .aborted .done) he⟩
  exact (Silent.respond p abort .done [] _).gone _ _ (he.respond_answered hp target .aborted []).1

/-- The answers to a session that speaks free both tags. -/
theorem abortAnswers_open {p : Port} {target abort : Tag} {d : Chip} {x : Option Record}
    (hopen : (d.ports.get p).session = .opened) (hup : (d.ports.get p).link = .up) (hne : target ≠ abort)
    (hfree : d.record p abort = none) :
    abortAnswers p target abort (withRecord p abort x d) =
      answered p abort .done [] (answered p target .aborted [] (withRecord p target none d)) := by
  unfold abortAnswers
  rw [Laws.respond_open (c := withRecord p abort x d) (by simpa using hopen) (by simpa using hup),
    Laws.respond_open (by simpa using hopen) (by simpa using hup), Laws.withRecord_answered,
    withRecord_comm p x none d hne.symm, Laws.withRecord_twice, withRecord_comm p none none d hne,
    Laws.withRecord_same hfree]

end

/-- Settles O32. -/
theorem abortTakesBackQueuedAndWaitingRequests : Obligations.AbortTakesBackQueuedAndWaitingRequests := by
  unfold Obligations.AbortTakesBackQueuedAndWaitingRequests
  intro s p r x target d hready hcarries hx hd hstage
  have hspeaks : Speaks s p := hready.1
  obtain ⟨hhigh, hup, hopen⟩ := hspeaks
  have hrecord : s.chip.record p target = some (.data d) := record_of_dataRecord hd
  have hfree : s.chip.record p r.tag = none := hready.2
  have hne : target ≠ r.tag := by
    rintro rfl
    rw [hfree] at hrecord
    cases hrecord
  have hdoes := does_abort hready hcarries
  rw [abortParams_single hx] at hdoes
  dsimp only at hdoes
  have hd' : (handedAbort p r.tag [x] s.chip).dataRecord p target = some d :=
    (handedAbort_dataRecord hready [x]).trans hd
  have hgoes : Goes none s (handedAbort p r.tag [x] s.chip) :=
    (Goes.start s).recorded (.inr ⟨target, by rw [hrecord]; simp⟩) _ _
  have hdelivered (q : Port) :
      ((handedAbort p r.tag [x] s.chip).ports.get q).delivered = (s.chip.ports.get q).delivered :=
    withRecord_delivered ..
  have common {e : Chip} (he : Goes none s e) :
      (conclude (abortAnswers p target r.tag) e).record p target = none ∧
        (conclude (abortAnswers p target r.tag) e).record p r.tag = none ∧
        AnsweredBoth s { s with chip := conclude (abortAnswers p target r.tag) e } p target .aborted p r.tag .done ∧
        ((conclude (abortAnswers p target r.tag) e).ports.get p).session = .opened := by
    obtain ⟨htarget, habort, hboth⟩ := conclude_abort he ⟨hhigh, hup, hopen⟩ target r.tag
    refine ⟨htarget, habort, hboth, ?_⟩
    have hends := Onward.conclude (fun d => ((answering_abort p target r.tag).silent d).onward) e
    exact (hends.opened p).2 ((he.opened p).2 hopen)
  rcases hstage with hs | ⟨n, got, timer, hs⟩
  · have hact : abortTarget p r.tag target (handedAbort p r.tag [x] s.chip) =
        conclude (abortAnswers p target r.tag) (unqueued p target d.window (handedAbort p r.tag [x] s.chip)) := by
      unfold abortTarget
      simp only [hd', Option.map_some, hs]
      rw [Laws.dequeue_eq_unqueued hd']
      rfl
    rw [hact] at hdoes
    have he : Goes none s (unqueued p target d.window (handedAbort p r.tag [x] s.chip)) := by
      rw [← Laws.dequeue_eq_unqueued hd']
      exact hgoes.silent (Silent.dequeue ..)
    obtain ⟨htarget, habort, hboth, hsession⟩ := common he
    refine ⟨_, hdoes, htarget, habort, hboth, hsession, fun _ hnodup hmem => ?_, fun _ => ?_, fun _ hgrant hstill => ?_,
      fun n got timer _ _ hs' => absurd (hs.symm.trans hs') (by simp)⟩
    · have hin := conclude_queues (answering_abort p target r.tag) hmem
      rw [← Laws.dequeue_eq_unqueued hd', Laws.dequeue_queues, Laws.PerPort.get_set_self] at hin
      exact (List.Nodup.not_mem_erase hnodup) hin
    · refine countsFell_conclude (answering_abort ..) rfl rfl rfl fun hrange hserved =>
        (Falls.of_goes he hdelivered rfl rfl ?_ rfl).fallen hserved rfl hrange.2.2
      simp only [unqueued]
      split <;> rfl
    · refine ⟨rfl, rfl, ?_⟩
      have hquiet : conclude (abortAnswers p target r.tag) (unqueued p target d.window (handedAbort p r.tag [x] s.chip)) =
          abortAnswers p target r.tag (unqueued p target d.window (handedAbort p r.tag [x] s.chip)) := by
        exact conclude_still (answering_abort ..) (e := unqueued p target d.window (handedAbort p r.tag [x] s.chip))
          (still_withRecord hstill p r.tag _) ((answering_abort ..).arbitrate_noGrant hgrant)
      rw [show (State.chip { s with chip := conclude _ _ }) = conclude (abortAnswers p target r.tag)
        (unqueued p target d.window (handedAbort p r.tag [x] s.chip)) from rfl, hquiet]
      exact abortAnswers_open (d := unqueued p target d.window s.chip) hopen hup hne hfree
  · have hact : abortTarget p r.tag target (handedAbort p r.tag [x] s.chip) =
        conclude (abortAnswers p target r.tag) (freeSlot n (handedAbort p r.tag [x] s.chip)) := by
      unfold abortTarget
      simp only [hd', Option.map_some, hs]
      rfl
    rw [hact] at hdoes
    obtain ⟨htarget, habort, hboth, hsession⟩ := common (hgoes.silent (Silent.freeSlot n _))
    have hnot : d.stage ≠ .admitted := by rw [hs]; simp
    refine ⟨_, hdoes, htarget, habort, hboth, hsession, fun h => absurd h hnot, fun h => absurd h hnot,
      fun h => absurd h hnot, fun m got' timer' rec w hs' hrec hholder hwindow => ?_⟩
    obtain ⟨rfl, -⟩ := Stage.granted.inj (hs.symm.trans hs')
    have hslot : (handedAbort p r.tag [x] s.chip).slot n = some rec := hrec
    obtain ⟨-, hmap, -, -, hhold⟩ := Grants.freeSlot_released hslot hholder hwindow
    refine ⟨countsFell_conclude (answering_abort ..) (by rw [hhold]; rfl) hmap (by simp [released]; rfl)
      (fallen_freeSlot hgoes hdelivered rfl rfl rfl rfl hslot hholder hwindow), fun hcalm => ⟨rfl, rfl, ?_⟩⟩
    have hopen' : ((handedAbort p r.tag [x] s.chip).ports.get p).session = .opened := by
      unfold handedAbort
      rw [Laws.withRecord_session]
      exact hopen
    have hcalm' : Calm (handedAbort p r.tag [x] s.chip) n := calm_withRecord hcalm p r.tag _
    rw [show (State.chip { s with chip := conclude (abortAnswers p target r.tag) _ }) =
        conclude (abortAnswers p target r.tag) (freeSlot n (handedAbort p r.tag [x] s.chip)) from rfl,
      Laws.freeSlot_eq_released hslot hholder hwindow hopen',
      conclude_released (answering_abort ..) hcalm' hopen', handedAbort, released_withRecord]
    exact abortAnswers_open (by rw [released_session]; exact hopen) (by rw [released_link]; exact hup) hne
      (by rw [released_record]; exact hfree)

end Sys2Proof.Aftermath
end

section
/-! SUPPORT. COMMIT from the owner of OPEN staging (R148 to R154, R164). -/

namespace Sys2Proof.Aftermath

open Sys2Proof.Machine Sys2Proof.Safety Sys2Proof.Keeping Sys2Proof.HoldProofs Sys2Proof.Commands Sys2Proof.Management
  Sys2Proof.StagingRequests

/-- The COMMIT of port `p` under tag `t`, as the map unit keeps it (R149). -/
def committed (s : State) (p : Port) (t : Tag) (persist : Bool) (cfg : Configuration) : CommitInfo :=
  ⟨some p, some t, persist, changeSet s.chip.map.active.map cfg.map⟩

/-- The blocks with that COMMIT DRAINING (R150). -/
def draining (s : State) (p : Port) (t : Tag) (persist : Bool) (cfg : Configuration) : Chip :=
  (handed s p t .commit [item persist.toNat]).modMap fun m =>
    { m with staging := .committing (some p) cfg, commit := .draining (committed s p t persist cfg) m.active.params.drain }

section
variable {s : State} {p : Port} {t : Tag} {persist : Bool} {cfg : Configuration}

theorem mem_changeSet (n : WindowNo) : n ∈ changeSet s.chip.map.active.map cfg.map ↔
    s.chip.map.active.map.get n ≠ cfg.map.get n := by
  simp [changeSet, CommitCheck.mem_allWindows]

theorem drainDone_iff (hfault : s.chip.cfg.bridge ≠ .fault) :
    DrainDone (draining s p t persist cfg) (committed s p t persist cfg) ↔ Undemanded s cfg.map := by
  unfold DrainDone Undemanded
  simp only [committed, mem_changeSet]
  exact and_iff_left hfault

theorem draining_falls : Falls (some p) s (draining s p t persist cfg) := by
  have hgoes : Goes (some p) s (handed s p t .commit [item persist.toNat]) := (Goes.start s).recorded (.inl rfl) _ _
  exact Falls.of_goes (hgoes.silent (Silent.of_same rfl rfl)) (fun q => withRecord_delivered ..) rfl rfl rfl rfl

theorem takeCommit_invalid {failure : MapFailure} {a : Asked} {c : Chip}
    (h : commitCheck c.mlink.capacity.toNat cfg = some failure) :
    takeCommit persist cfg a c = a.answer .invalidMap failure.items c := by
  unfold takeCommit
  rw [h]

theorem takeCommit_valid (h : commitCheck s.chip.mlink.capacity.toNat cfg = none) :
    takeCommit persist cfg (asked s p t .commit [item persist.toNat]) (handed s p t .commit [item persist.toNat]) =
      conclude id (draining s p t persist cfg) := by
  unfold takeCommit
  rw [show (handed s p t .commit [item persist.toNat]).mlink.capacity = s.chip.mlink.capacity from rfl, h]
  rfl

theorem newJobs_nil {c : Chip} (h : ∀ x ∈ c.hold.table, x.state ≠ .pending []) : newJobs c = [] := by
  unfold newJobs
  rw [List.filter_eq_nil_iff.2 fun x hx hd => h x hx (of_decide_eq_true hd).2]
  rfl

/-- A commit that cannot end its drain goes on DRAINING (R150). -/
theorem commit_drains (hfault : s.chip.cfg.bridge ≠ .fault) (hdemanded : ¬ Undemanded s cfg.map) :
    let c := conclude id (draining s p t persist cfg)
    c.map.active = s.chip.map.active ∧ c.map.epoch = s.chip.map.epoch ∧ c.map.staging = .committing (some p) cfg ∧
      c.map.commit = .draining (committed s p t persist cfg) s.chip.map.active.params.drain := by
  intro c
  obtain ⟨u, hmap⟩ := (conclude_id_ends (draining s p t persist cfg)).granted.map
  rw [settle_draining draining_falls (info := committed s p t persist cfg) rfl
    fun hd => hdemanded ((drainDone_iff hfault).1 hd)] at hmap
  rw [hmap]
  exact ⟨rfl, rfl, rfl, rfl⟩

theorem commit_over (hfault : s.chip.cfg.bridge ≠ .fault) (hfree : Undemanded s cfg.map) :
    DrainEnded s { s with chip := conclude id (draining s p t persist cfg) } (committed s p t persist cfg) (some p) cfg := by
  have hover := settle_drained (draining_falls (s := s) (p := p) (t := t) (persist := persist) (cfg := cfg)) rfl rfl
    ((drainDone_iff hfault).2 hfree)
  have hgoes := settle_goes (draining_falls (s := s) (p := p) (t := t) (persist := persist) (cfg := cfg))
  exact drainEnded_ends hover hover hgoes hgoes (fun _ h => h) (conclude_id_ends _)

/-- The job of a commit stands behind the earlier ones (R163). -/
theorem commit_jobs (hfault : s.chip.cfg.bridge ≠ .fault) (hfree : Undemanded s cfg.map) (hx : ¬ Exhausted s)
    (hholds : ∀ x ∈ s.chip.hold.table, x.state ≠ .pending []) :
    jobsOf (conclude id (draining s p t true cfg)).cfg = jobsOf s.chip.cfg ++ [.commit] := by
  have hjobs := settle_jobs_persist (draining_falls (s := s) (p := p) (t := t) (persist := true) (cfg := cfg)) hx rfl
    ((drainDone_iff hfault).2 hfree) rfl
  rw [(conclude_id_ends _).granted.jobs, hjobs, newJobs_nil (c := draining s p t true cfg) hholds, List.append_nil]
  rfl

/-- Without a generation left every job fails, the commit's with them (R164, R167). -/
theorem commit_exhausted (hfault : s.chip.cfg.bridge ≠ .fault) (hfree : Undemanded s cfg.map) (hx : Exhausted s) :
    let c := conclude id (draining s p t true cfg)
    c.cfg = { s.chip.cfg with queue := [] } ∧ ((∀ x ∈ s.chip.hold.table, x.state ≠ .pending []) →
      c.ctl.persistFailures = min 255 (s.chip.ctl.persistFailures + (s.chip.cfg.queue.length + 1))) := by
  intro c
  have hdone := (drainDone_iff (p := p) (t := t) (persist := true) hfault).2 hfree
  have hsettled := settle_failed (draining_falls (s := s) (p := p) (t := t) (persist := true) (cfg := cfg)) hx
  have hbefore := beforeWriter_persist (info := committed s p t true cfg) rfl hdone rfl
  have hends := conclude_id_ends (draining s p t true cfg)
  have hcfg : (settle (draining s p t true cfg)).cfg = { s.chip.cfg with queue := [] } := by
    rw [hsettled, Laws.each_proj (fun c => c.cfg) _ (by simp) _ _]
    change { (beforeWriter (draining s p t true cfg)).cfg with queue := [] } = _
    rw [hbefore]
    rfl
  refine ⟨?_, fun hholds => ?_⟩
  · rw [hends.granted.writer fun j hj => ?_, hcfg]
    rw [hcfg] at hj
    exact absurd (hx.2.1.symm.trans hj) (by simp)
  · have hctl : (emptied (beforeWriter (draining s p t true cfg))).ctl = s.chip.ctl := by
      change (beforeWriter (draining s p t true cfg)).ctl = _
      rw [beforeWriter, Laws.drainTest_ctl, Laws.endWaits_ctl]
      rfl
    rw [hends.granted.ctl, hsettled, each_jobFailed_ctl _ _ (.inl (by rw [hbefore]; simp)), hctl, hbefore,
      newJobs_nil (c := draining s p t true cfg) hholds, List.append_nil, List.length_append]
    rfl

end

/-- Settles O49. -/
theorem commitIsRefusedDrainsOrSwaps : Obligations.CommitIsRefusedDrainsOrSwaps := by
  unfold Obligations.CommitIsRefusedDrainsOrSwaps
  intro s p r ws cfg hready hcarries hadmin hfault hown
  have hdoes := does_edit (k := .commit) (parse := commitParams) (take := takeCommit) hready hcarries hadmin hfault hown
    (by decide) rfl
  refine ⟨fun h0 h1 => ?_, fun persist hws => ?_⟩
  · have hnone : commitParams ws = none := by
      rw [Option.eq_none_iff_forall_ne_some]
      intro b hb
      have hlist := (Laws.commitParams_eq_some ws b).1 hb
      cases b
      · exact h0 hlist
      · exact h1 hlist
    rwa [hnone] at hdoes
  · subst hws
    rw [(Laws.commitParams_eq_some _ persist).2 rfl] at hdoes
    refine ⟨fun failure hfailure => ?_, fun hvalid => ?_⟩
    · change Does _ s (takeCommit persist cfg _ _) at hdoes
      rwa [takeCommit_invalid (c := handed s p r.tag .commit [item persist.toNat]) hfailure,
        asked_answer_handed hready] at hdoes
    · change Does _ s (takeCommit persist cfg _ _) at hdoes
      rw [takeCommit_valid ((CommitCheck.commitCheck_none _ _).2 hvalid)] at hdoes
      refine ⟨_, changeSet s.chip.map.active.map cfg.map, hdoes, (writerServed_iff _).2 (Served.conclude _ _), mem_changeSet,
        commit_drains hfault, fun hfree hpersist hx => ?_, fun hfree hpersist hx => ?_, fun hfree hpersist => ?_⟩
      · subst hpersist
        obtain ⟨hactive, hepoch, hstaging, hcommit, -⟩ := ((commit_over hfault hfree).2 rfl).1 hx
        exact ⟨hactive, hepoch, hstaging, hcommit, commit_jobs hfault hfree hx⟩
      · subst hpersist
        obtain ⟨hcfg, hctl⟩ := commit_exhausted hfault hfree hx
        exact ⟨((commit_over hfault hfree).2 rfl).2 hx, hcfg, hctl⟩
      · subst hpersist
        exact (commit_over hfault hfree).1 rfl

end Sys2Proof.Aftermath
end

section
/-! SUPPORT. A session that is not OPEN through an event: what it is sent, and its end (R53, R55, R119). -/

namespace Sys2Proof.Aftermath

open Sys2Proof.Machine Sys2Proof.Safety Sys2Proof.Keeping Sys2Proof.HoldProofs Sys2Proof.Commands Sys2Proof.DataPath
  Sys2Proof.SlotOps Sys2Proof.Grants

/-! ### Sessions, links and counts through the consequences -/

/-- Sessions, links and in-flight counts stay. -/
def PortsStay (c d : Chip) : Prop :=
  ∀ q, (d.ports.get q).session = (c.ports.get q).session ∧ (d.ports.get q).link = (c.ports.get q).link ∧
    (d.ports.get q).inFlight = (c.ports.get q).inFlight

namespace PortsStay

variable {b c d : Chip}

theorem refl (c : Chip) : PortsStay c c := fun _ => ⟨rfl, rfl, rfl⟩

theorem trans (h : PortsStay b c) (h' : PortsStay c d) : PortsStay b d := fun q => by
  obtain ⟨hs, hl, hi⟩ := h q
  obtain ⟨hs', hl', hi'⟩ := h' q
  exact ⟨hs'.trans hs, hl'.trans hl, hi'.trans hi⟩

theorem of_ports (h : d.ports = c.ports) : PortsStay c d := fun q => by rw [h]; exact ⟨rfl, rfl, rfl⟩

theorem of_modify {p : Port} {f : PortCtl → PortCtl} (hports : d.ports = c.ports.modify p f)
    (hf : ∀ pc, (f pc).session = pc.session ∧ (f pc).link = pc.link ∧ (f pc).inFlight = pc.inFlight) : PortsStay c d :=
  forall_ports hports (R := fun a b => b.session = a.session ∧ b.link = a.link ∧ b.inFlight = a.inFlight) (hf _)
    fun _ => ⟨rfl, rfl, rfl⟩

theorem raiseFlag (f : Flag) (p : Port) (c : Chip) : PortsStay c (raiseFlag f p c) := by
  by_cases hopen : (c.ports.get p).session = .opened
  · rw [raiseFlag_open hopen]
    exact of_modify (p := p) (f := fun pc => { pc with flags := pc.flags.set f true }) rfl fun _ => ⟨rfl, rfl, rfl⟩
  · rw [raiseFlag_closed hopen]
    exact refl c

theorem deliver (p : Port) (c : Chip) : PortsStay c (deliver p c.map.epoch c) := by
  rw [Management.deliver_epoch]
  exact of_modify (p := p) (f := fun pc => { pc with delivered := c.map.epoch, flags := { pc.flags with map := false } })
    rfl fun _ => ⟨rfl, rfl, rfl⟩

theorem compared_stays {e : Word} {pc : PortCtl} (h : pc.session = .opened) : (compared e pc).session = pc.session ∧
    (compared e pc).link = pc.link ∧ (compared e pc).inFlight = pc.inFlight := by
  unfold compared
  rw [if_pos h]
  split <;> exact ⟨rfl, rfl, rfl⟩

theorem swapped (cfg : Configuration) (c : Chip) : PortsStay c (swapped cfg c) := by
  intro q
  rw [swapped_port]
  split
  · rename_i hopen
    exact compared_stays hopen
  · exact ⟨rfl, rfl, rfl⟩

theorem freedReply (p : Port) (t : Tag) (o : Outcome) (w : List Word) (c : Chip) :
    PortsStay c (freeTag p t (reply p t o w c)) :=
  (of_ports (Laws.reply_ports p t o w c)).trans
    (of_modify (p := p) (f := fun pc => { pc with tags := pc.tags.set t none }) rfl fun _ => ⟨rfl, rfl, rfl⟩)

theorem settling (b : Chip) : KeptSettling (PortsStay b) where
  responded p t o w _ h := h.trans (freedReply p t o w _)
  raised f p _ _ h := h.trans (raiseFlag f p _)
  delivered p h := h.trans (deliver p _)
  commit _ _ h := h
  swapped cfg h := h.trans (swapped cfg _)
  holds _ _ h := h
  fewerHolds _ h := h
  oneChanged _ _ h := h
  jobs _ _ h := h
  failed h := h

end PortsStay

/-! ### One grant decision (R93) -/

/-- The frames of `d` since `c` go to the media, or to ports whose session is OPEN in `c`. -/
def SendsToOpen (c d : Chip) : Prop :=
  ∃ more, d.sent = c.sent ++ more ∧ ∀ q f, .toPort q f ∈ more → (c.ports.get q).session = .opened

theorem sendsToOpen_media {b c : Chip} (f : MFrame) (h : SendsToOpen b c) : SendsToOpen b (sendMedia f c) := by
  obtain ⟨more, hsent, hopen⟩ := h
  refine ⟨more ++ if c.mlink.link = .up then [.toMedia f] else [], by rw [sendMedia_sent, hsent, List.append_assoc],
    fun q g hg => ?_⟩
  rcases List.mem_append.1 hg with hg | hg
  · exact hopen q g hg
  · split at hg
    · cases List.mem_singleton.1 hg
    · cases hg

theorem sendsToOpen_port {b c : Chip} {p : Port} (hp : (b.ports.get p).session = .opened) (f : PFrame)
    (h : SendsToOpen b c) : SendsToOpen b (sendPort p f c) := by
  obtain ⟨more, hsent, hopen⟩ := h
  refine ⟨more ++ if (c.ports.get p).link = .up then [.toPort p f] else [],
    by rw [sendPort_sent, hsent, List.append_assoc], fun q g hg => ?_⟩
  rcases List.mem_append.1 hg with hg | hg
  · exact hopen q g hg
  · split at hg
    · cases List.mem_singleton.1 hg
      exact hp
    · cases hg

theorem sendsToOpen_same {c d : Chip} (h : d.sent = c.sent) : SendsToOpen c d :=
  ⟨[], by rw [h, List.append_nil], fun _ _ hf => absurd hf List.not_mem_nil⟩

theorem withRecord_taken {reserved : Bool} {p : Port} {r : DataRec} {c e : Chip}
    (he : e.ports = (takenByGrant reserved p r c).ports) (t : Tag) (x : Option Record) : (withRecord p t x e).ports =
      c.ports.modify p fun pc => { pc with inFlight := pc.inFlight + 1, tags := pc.tags.set t x } := by
  simp only [withRecord, he, takenByGrant, Laws.PerPort.modify_modify]

/-- What a grant decision does to the ports and the frames: a persist job gets a slot, or the record at the head of the queue
of a port with an OPEN session does. -/
theorem decision_effect {c d : Chip} (h : grantDecision c = some d) :
    (d.ports = c.ports ∨ ∃ p t r x, (c.ports.get p).session = .opened ∧ c.headOf p = some (t, r) ∧ d.ports =
      c.ports.modify p fun pc =>
        { pc with inFlight := pc.inFlight + 1, tags := pc.tags.set t (some (.data { r with stage := x })) }) ∧
    SendsToOpen c d := by
  obtain ⟨-, ⟨j, i, -, -, rfl⟩ | ⟨reserved, p, t, r, i, c', hc', he, hhead, -, rfl⟩⟩ := grantDecision_cases h
  · refine ⟨.inl (Laws.grantPersist_ports ..), ?_⟩
    unfold grantPersist issueSlot
    exact sendsToOpen_media _ (sendsToOpen_media _ (sendsToOpen_same (by simp [setSlot])))
  · obtain ⟨t', r', hhead', hgrantable, -⟩ := Laws.eligible_iff.1 he
    have hopen : (c.ports.get p).session = .opened := hgrantable.1
    have hd : c'.dataRecord p t = some r := by
      rcases hc' with rfl | rfl <;> exact (Laws.headOf_iff.1 hhead).2
    have hports : c'.ports = c.ports := by rcases hc' with rfl | rfl <;> rfl
    have hsent : c'.sent = c.sent := by rcases hc' with rfl | rfl <;> rfl
    rw [grantHead_eq_of_record hd]
    split
    · refine ⟨.inr ⟨p, t, r, .granted i [] c'.map.active.params.transfer, hopen, hhead, ?_⟩,
        sendsToOpen_port hopen _ (sendsToOpen_same hsent)⟩
      rw [Laws.sendPort_ports, ← hports]
      exact withRecord_taken (reserved := reserved) (r := r)
        (e := setSlot i (some (grantedSlot p t r c')) (takenByGrant reserved p r c')) rfl t _
    · refine ⟨.inr ⟨p, t, r, .issued i, hopen, hhead, ?_⟩,
        sendsToOpen_media (b := c) (.command i r.kind r.durable _ _) (sendsToOpen_same hsent)⟩
      rw [← hports]
      refine withRecord_taken (reserved := reserved) (r := r) ?_ t _
      rw [Laws.sendMedia_ports]
      rfl

theorem decision_session {c d : Chip} (h : grantDecision c = some d) (q : Port) :
    (d.ports.get q).session = (c.ports.get q).session := by
  obtain ⟨hports | ⟨p, t, r, x, -, -, hports⟩, -⟩ := decision_effect h
  · rw [hports]
  · exact forall_ports hports (R := fun a b => b.session = a.session) rfl (fun _ => rfl) q

/-- A grant decision leaves the records that no queue names. -/
theorem decision_record {c d : Chip} (h : grantDecision c = some d) {p : Port} {u : Tag} (hu : u ∉ c.arb.queues.get p) :
    d.record p u = c.record p u := by
  obtain ⟨hports | ⟨q, t, r, x, -, hhead, hports⟩, -⟩ := decision_effect h
  · exact record_congr hports p u
  · simp only [Chip.record, hports, Laws.PerPort.get_modify]
    split
    · rename_i hp
      subst hp
      refine Laws.Table.get_set_ne _ _ fun hut => hu ?_
      rw [hut]
      exact List.mem_of_mem_head? (Laws.headOf_iff.1 hhead).1
    · rfl

theorem decisions_record (n : Nat) {c : Chip} {p : Port} {u : Tag} (hu : u ∉ c.arb.queues.get p) :
    (decisions n c).record p u = c.record p u := by
  induction n generalizing c with
  | zero => rfl
  | succ n ih =>
    unfold decisions
    split
    · rename_i d hd
      rw [ih fun hmem => hu (((Granted.decision hd).queues p).subset hmem), decision_record hd hu]
    · rfl

/-! ### What goes out to a port whose session is not OPEN (R52, R55) -/

/-- A property that keeps the session of port `p` out of OPEN, and that every change keeps which sends nothing to it, and the
end of its CLOSING session. -/
structure Mutes (p : Port) (P : Chip → Prop) : Prop where
  notOpen : ∀ {c : Chip}, P c → (c.ports.get p).session ≠ .opened
  sends : ∀ {c d : Chip}, P c → (d.ports.get p).session = (c.ports.get p).session →
    (d.ports.get p).link = (c.ports.get p).link → (∃ more, d.sent = c.sent ++ more ∧ ∀ f, .toPort p f ∉ more) → P d
  closed : ∀ {c : Chip} (reason : CloseReason), (c.ports.get p).session = .closing reason →
    P c → P (sendPort p (.closed reason) (c.modPort p fun pc => { pc with session := .down }))

namespace Mutes

variable {p : Port} {P : Chip → Prop} {c d : Chip} (m : Mutes p P)
include m

theorem ne_of_opened (h : P c) {q : Port} (hq : (c.ports.get q).session = .opened) : q ≠ p := by
  rintro rfl
  exact m.notOpen h hq

theorem of_same (h : P c) (hsession : (d.ports.get p).session = (c.ports.get p).session)
    (hlink : (d.ports.get p).link = (c.ports.get p).link) (hsent : d.sent = c.sent) : P d :=
  m.sends h hsession hlink ⟨[], by rw [hsent, List.append_nil], fun _ => List.not_mem_nil⟩

theorem sendPort (h : P c) {q : Port} (hq : q ≠ p) (f : PFrame) : P (Machine.sendPort q f c) := by
  refine m.sends h (by rw [Laws.sendPort_ports]) (by rw [Laws.sendPort_ports]) ⟨_, sendPort_sent q f c, fun g hg => ?_⟩
  split at hg
  · cases List.mem_singleton.1 hg
    exact hq rfl
  · cases hg

theorem raiseFlag (h : P c) (f : Flag) (q : Port) : P (Machine.raiseFlag f q c) := by
  by_cases hopen : (c.ports.get q).session = .opened
  · have hq := m.ne_of_opened h hopen
    obtain ⟨hsession, hlink, -⟩ := PortsStay.raiseFlag f q c p
    rw [raiseFlag_open hopen] at hsession hlink ⊢
    refine m.sends h hsession hlink ⟨_, rfl, fun g hg => ?_⟩
    unfold noticeOf at hg
    dsimp only at hg
    split at hg
    · cases List.mem_singleton.1 hg
      exact hq rfl
    · cases hg
  · rw [raiseFlag_closed hopen]
    exact h

theorem clearMap (h : P c) (q : Port) : P (clearFlag .map q c) := by
  have hstays : PortsStay c (clearFlag .map q c) := by
    rw [Management.clearFlag_eq]
    exact PortsStay.of_modify (p := q) (f := fun pc => { pc with flags := pc.flags.set .map false }) rfl
      fun _ => ⟨rfl, rfl, rfl⟩
  exact m.of_same h (hstays p).1 (hstays p).2.1 (by rw [Management.clearFlag_eq]; rfl)

theorem swapped (h : P c) (cfg : Configuration) : P (Keeping.swapped cfg c) := by
  refine eachPort_keeps (fun q d hd => ?_) (m.of_same h (d := reloadCredits (c.modMap fun x =>
    { x with active := cfg, epoch := x.epoch + 1, staging := .empty, commit := .idle })) rfl rfl rfl)
  split
  · unfold compareEpoch
    split
    · exact m.clearMap hd q
    · exact m.raiseFlag hd .map q
  · exact hd

/-- Silent changes that send nothing to port `p` and leave its session. -/
theorem silent (h : P c) (hd : Silent c d) (hsession : (d.ports.get p).session = (c.ports.get p).session)
    (hsent : d.sent = c.sent) : P d :=
  m.of_same h hsession (hd.link p) hsent

/-- The ports change in nothing but the session of another one. -/
theorem elsewhere (h : P c) {q : Port} (hq : q ≠ p) (f : PortCtl → PortCtl) : P (c.modPort q f) := by
  have hport : (c.modPort q f).ports.get p = c.ports.get p := Laws.PerPort.get_modify_ne _ _ (Ne.symm hq)
  exact m.of_same h (by rw [hport]) (by rw [hport]) rfl

/-- The consequences of an event, and its end, keep it. -/
theorem concluding : KeptConcluding P where
  responded {c} q t o w hq h := m.silent (m.sendPort h (m.ne_of_opened h hq) _) (Silent.freeTag q t _)
    (freeTag_session ..) (Laws.freeTag_sent ..)
  raised f q _ _ h := m.raiseFlag h f q
  delivered {c} q h := by
    obtain ⟨hsession, hlink, -⟩ := PortsStay.deliver q c p
    exact m.of_same h hsession hlink (by rw [Management.deliver_epoch]; rfl)
  commit _ _ h := m.of_same h rfl rfl rfl
  swapped cfg h := m.swapped h cfg
  holds _ _ h := m.of_same h rfl rfl rfl
  fewerHolds _ h := m.of_same h rfl rfl rfl
  oneChanged _ _ h := m.of_same h rfl rfl rfl
  jobs _ _ h := m.of_same h rfl rfl rfl
  failed h := m.of_same h rfl rfl rfl
  closed reason q hq h := by
    by_cases hp : q = p
    · subst hp
      exact m.closed reason hq h
    · exact m.sendPort (m.elsewhere h hp _) hp _
  granted {c d} hd h := by
    obtain ⟨more, hsent, hopen⟩ := (decision_effect hd).2
    exact m.sends h (decision_session hd p) ((Silent.decision hd).link p)
      ⟨more, hsent, fun f hf => m.ne_of_opened h (hopen p f hf) rfl⟩
  dequeued q t h := m.silent h (Silent.dequeue q t _) (by simp) (by simp)
  freedSlot i h := m.silent h (Silent.freeSlot i _) (freeSlot_session ..) (by simp)
  arb _ _ h := m.of_same h rfl rfl rfl

/-- The ends of other ports' sessions keep it. -/
theorem ending : KeptEnding P (· ≠ p) where
  toKeptConcluding := m.concluding
  left reason q hq h := m.elsewhere h hq _
  freed q t h := m.silent h (Silent.freeTag q t _) (freeTag_session ..) (Laws.freeTag_sent ..)
  keptSlot _ _ _ _ _ h := m.of_same h rfl rfl rfl
  stopped {c} q t pages hq h := by
    rw [PinAndTime.stopDelivery_eq]
    refine m.sends h rfl rfl ⟨_, rfl, fun f hf => ?_⟩
    obtain ⟨x, -, hx⟩ := List.mem_map.1 (List.mem_of_mem_take hf)
    exact hq (Sent.toPort.inj hx).1
  deliveryEnded {c} q t d pages _ _ h := m.silent h (d := freeTag q t (returnPages pages c))
    ((Silent.of_same (c := c) (d := returnPages pages c) rfl rfl).trans (Silent.freeTag q t _)) (freeTag_session ..) (Laws.freeTag_sent ..)
  taken h := m.of_same h rfl rfl rfl

end Mutes

/-- The frames since `base` to port `p`, whose session is not OPEN, are of the kind `ok`. -/
def Mute (p : Port) (ok : PFrame → Prop) (base : List Sent) (d : Chip) : Prop :=
  (d.ports.get p).session ≠ .opened ∧ (∀ reason, (d.ports.get p).session = .closing reason → ok (.closed reason)) ∧
    ∃ frames, d.sent = base ++ frames ∧ ∀ f, .toPort p f ∈ frames → ok f

theorem Mute.mutes (p : Port) (ok : PFrame → Prop) (base : List Sent) : Mutes p (Mute p ok base) where
  notOpen h := h.1
  sends := by
    rintro c d ⟨hopen, hclosing, frames, hframes, hok⟩ hsession - ⟨more, hmore, hnone⟩
    rw [Mute, hsession]
    refine ⟨hopen, hclosing, frames ++ more, by rw [hmore, hframes, List.append_assoc], fun f hf => ?_⟩
    exact hok f ((List.mem_append.1 hf).resolve_right (hnone f))
  closed := by
    rintro c reason hs ⟨-, hclosing, frames, hframes, hok⟩
    have hdown : ((c.modPort p fun pc => { pc with session := .down }).ports.get p).session = .down := by simp
    rw [Mute, Laws.sendPort_ports, hdown]
    refine ⟨by simp, fun r hr => (by cases hr), frames ++ _, by
      rw [sendPort_sent, Laws.modPort_sent, hframes, List.append_assoc], fun f hf => ?_⟩
    rcases List.mem_append.1 hf with hf | hf
    · exact hok f hf
    · split at hf
      · cases List.mem_singleton.1 hf
        exact hclosing reason hs
      · cases hf

/-! ### The end of a CLOSING session (R55) -/

/-- What goes out to port `p`, CLOSING with reason `reason`, after the frames `base`: CLOSED alone, when the session has ended
and the link is UP. -/
def Closes (p : Port) (reason : CloseReason) (base : List Sent) (d : Chip) : Prop :=
  ((d.ports.get p).session = .closing reason ∨ (d.ports.get p).session = .down) ∧
    ∃ frames, d.sent = base ++ frames ∧ (∀ f, .toPort p f ∈ frames → f = .closed reason) ∧
      (.toPort p (.closed reason) ∈ frames ↔ (d.ports.get p).session = .down ∧ (d.ports.get p).link = .up)

namespace Closes

variable {p : Port} {reason : CloseReason} {c : Chip}

theorem start (h : (c.ports.get p).session = .closing reason) : Closes p reason c.sent c :=
  ⟨.inl h, [], (List.append_nil _).symm, fun _ hf => absurd hf List.not_mem_nil, by simp [h]⟩

theorem mutes (p : Port) (reason : CloseReason) (base : List Sent) : Mutes p (Closes p reason base) where
  notOpen := by
    rintro c ⟨hs | hs, -⟩ ho <;> exact absurd (ho.symm.trans hs) (by simp)
  sends := by
    rintro c d ⟨hstate, frames, hframes, hclosed, hiff⟩ hsession hlink ⟨more, hmore, hnone⟩
    rw [Closes, hsession, hlink]
    refine ⟨hstate, frames ++ more, by rw [hmore, hframes, List.append_assoc], fun f hf => ?_, ?_⟩
    · exact hclosed f ((List.mem_append.1 hf).resolve_right (hnone f))
    · rw [← hiff, List.mem_append]
      exact or_iff_left (hnone _)
  closed := by
    rintro c r hq ⟨hstate, frames, hframes, hclosed, hiff⟩
    have hr : r = reason := by
      rcases hstate with hs | hs
      · exact Session.closing.inj (hq.symm.trans hs)
      · exact absurd (hq.symm.trans hs) (by simp)
    subst hr
    have hlink : ((c.modPort p fun pc => { pc with session := .down }).ports.get p).link = (c.ports.get p).link := by simp
    have hsession : ((c.modPort p fun pc => { pc with session := .down }).ports.get p).session = .down := by simp
    refine ⟨.inr (by rw [Laws.sendPort_ports]; exact hsession), frames ++ _, by
      rw [sendPort_sent, Laws.modPort_sent, hframes, List.append_assoc], fun f hf => ?_, ?_⟩
    · rcases List.mem_append.1 hf with hf | hf
      · exact hclosed f hf
      · split at hf
        · cases List.mem_singleton.1 hf; rfl
        · cases hf
    · have hnot : .toPort p (.closed r) ∉ frames := fun hf => by
        have hdown := (hiff.1 hf).1
        exact absurd (hq.symm.trans hdown) (by simp)
      rw [Laws.sendPort_ports, hsession, hlink, List.mem_append, or_iff_right hnot]
      cases (c.ports.get p).link <;> simp

/-- The consequences of an event, and its end, keep it. -/
theorem concluding (p : Port) (reason : CloseReason) (base : List Sent) : KeptConcluding (Closes p reason base) :=
  (mutes p reason base).concluding

end Closes

end Sys2Proof.Aftermath
end

section
/-! SUPPORT. A record that no block is to answer stays through the consequences of an event and its grant decisions (R33, R117,
R148). -/

namespace Sys2Proof.Aftermath

open Sys2Proof.Machine Sys2Proof.Safety Sys2Proof.Keeping Sys2Proof.HoldProofs Sys2Proof.Commands Sys2Proof.DataPath
  Sys2Proof.SlotOps Sys2Proof.Grants

/-- A hold will not answer tag `u` of port `p`. -/
def HoldLeaves (p : Port) (u : Tag) (h : Hold) : Prop := h.owner = p → h.answerTo ≠ some u

/-- A commit will not answer tag `u` of port `p`. -/
def CommitLeaves (p : Port) (u : Tag) (info : CommitInfo) : Prop := info.session = some p → info.tag ≠ some u

/-- The record under tag `u` of port `p` is `x`, and neither a hold nor the commit under way is to answer it. -/
structure Rests (p : Port) (u : Tag) (x : Option Record) (d : Chip) : Prop where
  record : d.record p u = x
  holds : ∀ h ∈ d.hold.table, HoldLeaves p u h
  draining : ∀ info left, d.map.commit = .draining info left → CommitLeaves p u info
  persisting : ∀ info, d.map.commit = .persisting info → CommitLeaves p u info

theorem respond_record_ne {p q : Port} {t u : Tag} (h : q = p → t ≠ u) (o : Outcome) (w : List Word) (c : Chip) :
    (respond q t o w c).record p u = c.record p u := by
  have hne : p = q → u ≠ t := fun hp hu => h hp.symm hu.symm
  rcases respond_cases q t o w c with he | he | he <;> rw [he]
  · exact withRecord_record_ne _ _ hne
  · exact withRecord_record_ne none c hne

theorem raiseFlag_record (f : Flag) (q p : Port) (u : Tag) (c : Chip) : (raiseFlag f q c).record p u = c.record p u := by
  by_cases hopen : (c.ports.get q).session = .opened
  · rw [raiseFlag_open hopen]
    exact forall_ports (c := c) (p := q) (f := fun pc => { pc with flags := pc.flags.set f true }) rfl
      (R := fun a b => b.tags.get u = a.tags.get u) rfl (fun _ => rfl) p
  · rw [raiseFlag_closed hopen]

theorem holdsNotice_record (r : MediaRange) (p : Port) (u : Tag) (c : Chip) : (holdsNotice r c).record p u = c.record p u := by
  unfold Chip.record
  rw [holdsNotice_port]
  split <;> rfl

theorem swapped_record (cfg : Configuration) (p : Port) (u : Tag) (c : Chip) : (swapped cfg c).record p u = c.record p u := by
  unfold Chip.record
  rw [swapped_port]
  split
  · unfold compared
    split <;> rfl
  · rfl

theorem deliverCommit_record (info : CommitInfo) (p : Port) (u : Tag) (c : Chip) :
    (deliverCommit info c).record p u = c.record p u := by
  unfold Chip.record
  rw [deliverCommit_port]
  split <;> rfl

namespace Rests

variable {p : Port} {u : Tag} {x : Option Record} {c d : Chip}

theorem of_same (h : Rests p u x c) (hrecord : d.record p u = c.record p u) (hhold : d.hold = c.hold)
    (hmap : d.map.commit = c.map.commit) : Rests p u x d :=
  ⟨hrecord.trans h.record, by rw [hhold]; exact h.holds, by rw [hmap]; exact h.draining, by rw [hmap]; exact h.persisting⟩

theorem of_idle (h : Rests p u x c) (hrecord : d.record p u = c.record p u) (hhold : d.hold = c.hold)
    (hmap : d.map.commit = .idle) : Rests p u x d :=
  ⟨hrecord.trans h.record, by rw [hhold]; exact h.holds, by simp [hmap], by simp [hmap]⟩

theorem answerPlacement (h : Rests p u x c) {y : Hold} (hy : HoldLeaves p u y) (o : Outcome) (w : List Word) :
    Rests p u x (answerPlacement y o w c) := by
  unfold Machine.answerPlacement
  split
  · rename_i t ht
    refine h.of_same (respond_record_ne (fun hp hu => hy hp ?_) o w c) (by simp) (by simp)
    rw [ht, hu]
  · exact h

theorem answerCommit (h : Rests p u x c) {info : CommitInfo} (hi : CommitLeaves p u info) (o : Outcome) (w : List Word) :
    Rests p u x (answerCommit info o w c) := by
  unfold Machine.answerCommit
  split
  · rename_i q t hq ht
    refine h.of_same (respond_record_ne (fun hp hu => hi ?_ ?_) o w c) (by simp) (by simp)
    · rw [hq, hp]
    · rw [ht, hu]
  · exact h

theorem setHold (h : Rests p u x c) {y : Hold} (hy : HoldLeaves p u y) : Rests p u x (setHold y c) where
  record := h.record
  holds z hz := by
    obtain ⟨z', hz', rfl⟩ := List.mem_map.1 hz
    split
    · exact hy
    · exact h.holds z' hz'
  draining := h.draining
  persisting := h.persisting

theorem holdsNotice (h : Rests p u x c) (r : MediaRange) : Rests p u x (holdsNotice r c) :=
  h.of_same (holdsNotice_record ..) (by simp) (by simp)

theorem activateHold (h : Rests p u x c) {y : Hold} (hy : HoldLeaves p u y) : Rests p u x (activateHold y c) :=
  ((h.setHold fun _ => by simp).holdsNotice _).answerPlacement hy _ _

theorem removeHold (h : Rests p u x c) (y : Hold) : Rests p u x (removeHold y c) := by
  have hdropped : Rests p u x (dropHold y.id c) :=
    ⟨h.record, fun z hz => h.holds z (List.mem_of_mem_filter hz), h.draining, h.persisting⟩
  exact hdropped.holdsNotice _

theorem endWait (h : Rests p u x c) {y : Hold} (hy : HoldLeaves p u y) : Rests p u x (endWait y c) := by
  unfold Machine.endWait
  split
  · exact h.activateHold hy
  · exact h.activateHold hy
  · exact (h.setHold (y := { y with state := .persisting }) hy).of_same rfl rfl rfl

theorem endWaits (h : Rests p u x c) : Rests p u x (endWaits c) := by
  have hone (l : List Hold) (hl : ∀ y ∈ l, HoldLeaves p u y) {d : Chip} (hd : Rests p u x d) :
      Rests p u x (each Machine.endWait l d) := by
    induction l generalizing d with
    | nil => exact hd
    | cons y l ih =>
      exact ih (fun z hz => hl z (List.mem_cons_of_mem _ hz)) (hd.endWait (hl y List.mem_cons_self))
  exact hone _ (fun y hy => h.holds y (List.mem_of_mem_filter hy)) h

theorem swap (h : Rests p u x c) {info : CommitInfo} (hi : CommitLeaves p u info) : Rests p u x (swap info c) := by
  cases hs : c.map.staging with
  | committing owner cfg =>
    rw [swap_eq hs]
    refine (h.of_idle (d := deliverCommit info (Keeping.swapped cfg c)) ?_ ?_ ?_).answerCommit hi _ _
    · rw [deliverCommit_record, swapped_record]
    · rw [Laws.deliverCommit_hold, swapped_hold]
    · rw [Laws.deliverCommit_map, swapped_map]
  | empty => unfold Machine.swap; rw [hs]; exact h
  | opened q cfg => unfold Machine.swap; rw [hs]; exact h

theorem drainTest (h : Rests p u x c) : Rests p u x (drainTest c) := by
  unfold Machine.drainTest
  split
  · rename_i info left hc
    have hi := h.draining info left hc
    split
    · unfold drainEnd
      split
      · refine ⟨h.record, h.holds, nofun, fun i hcommit => ?_⟩
        cases hcommit
        exact hi
      · exact h.swap hi
    · exact h
  · exact h
  · exact h

theorem jobFailed (h : Rests p u x c) (j : Job) : Rests p u x (jobFailed j c) := by
  have hcounted : Rests p u x (counted c) := h.of_same rfl rfl rfl
  cases j with
  | hold id =>
    rw [jobFailed_hold]
    unfold holdJobFailed
    split
    · rename_i y hy
      exact (hcounted.removeHold y).answerPlacement (hcounted.holds y (MediaFrames.findHold_some hy).1) _ _
    · exact hcounted
  | commit =>
    by_cases hc : ∃ info, c.map.commit = .persisting info
    · obtain ⟨info, hc⟩ := hc
      rw [jobFailed_commit hc]
      exact (hcounted.of_idle (d := endCommit _ (counted c)) rfl rfl rfl).answerCommit (h.persisting info hc) _ _
    · rw [jobFailed_commit_none fun info hi => hc ⟨info, hi⟩]
      exact hcounted

theorem writerTake (h : Rests p u x c) : Rests p u x (writerTake c) := by
  by_cases hx : c.cfg.generation = 0xFFFFFFFF#32 ∧ c.writerMayTake = true
  · rw [writerTake_exhausted hx.1 hx.2]
    exact each_keeps (fun j _ hd => hd.jobFailed j) _ (h.of_same (d := emptied c) rfl rfl rfl)
  · obtain ⟨v, heq, -⟩ := writerTake_takes hx
    rw [heq]
    exact h.of_same rfl rfl rfl

theorem settle (h : Rests p u x c) : Rests p u x (settle c) := h.endWaits.drainTest.writerTake

end Rests

theorem closeIfIdle_record (q p : Port) (u : Tag) (c : Chip) : (closeIfIdle q c).record p u = c.record p u := by
  have hdown : (c.modPort q fun pc => { pc with session := .down }).record p u = c.record p u :=
    forall_ports (c := c) (p := q) (f := fun pc => { pc with session := .down }) rfl
      (R := fun a b => b.tags.get u = a.tags.get u) rfl (fun _ => rfl) p
  unfold closeIfIdle
  dsimp only
  split
  · split
    · rw [record_congr (Laws.sendPort_ports ..), hdown]
    · rfl
  all_goals rfl

/-- The blocks of an event after the answers and what follows, whatever order a free value gives their frames. -/
theorem eitherOrder_merged (answers : Chip → Chip) (e : Chip) :
    ∃ x n, eitherOrder answers settle e = { settle (answers e) with sent := x, free := n } := by
  unfold eitherOrder
  dsimp only
  split
  · exact ⟨_, _, rfl⟩
  · exact ⟨_, _, rfl⟩

/-- A record that rests, and that no queue names, is there at the end of the event. -/
theorem conclude_rests {answers : Chip → Chip} {e : Chip} {p : Port} {u : Tag} {x : Option Record}
    (h : Rests p u x (answers e)) (hu : u ∉ (answers e).arb.queues.get p) : (conclude answers e).record p u = x := by
  obtain ⟨y, n, hmerged⟩ := eitherOrder_merged answers e
  unfold conclude
  rw [hmerged]
  have hclosed : (eachPort closeIfIdle { settle (answers e) with sent := y, free := n }).record p u = x := by
    unfold eachPort
    rw [closeIfIdle_record, closeIfIdle_record, closeIfIdle_record]
    exact h.settle.record
  rw [← hclosed]
  refine decisions_record 16 fun hmem => hu ?_
  rw [Laws.eachPort_proj (fun c => c.arb) _ (by simp) _] at hmem
  rw [← settle_queues]
  exact hmem

end Sys2Proof.Aftermath
end

section
/-! SUPPORT. The return of a slot to FREE for a CLOSING session (R53, R55, R119, R125). -/

namespace Sys2Proof.Aftermath

open Sys2Proof.Machine Sys2Proof.Safety Sys2Proof.Keeping Sys2Proof.HoldProofs Sys2Proof.Commands Sys2Proof.DataPath
  Sys2Proof.SlotOps Sys2Proof.Grants

/-! ### The test of CLOSING sessions (R55) -/

/-- A port controller after the test: a CLOSING session with no request in flight is DOWN. -/
def ended (pc : PortCtl) : PortCtl :=
  match pc.session with
  | .closing _ => if pc.inFlight = 0 then { pc with session := .down } else pc
  | .down | .opened => pc

theorem ended_inFlight (pc : PortCtl) : (ended pc).inFlight = pc.inFlight := by
  unfold ended
  split
  · split <;> rfl
  all_goals rfl

theorem ended_closing {pc : PortCtl} {reason : CloseReason} (h : pc.session = .closing reason) :
    (ended pc).session = if pc.inFlight = 0 then .down else .closing reason := by
  unfold ended
  rw [h]
  dsimp only
  split
  · rfl
  · exact h

theorem closeIfIdle_port (q p : Port) (c : Chip) :
    (closeIfIdle q c).ports.get p = if p = q then ended (c.ports.get p) else c.ports.get p := by
  have hsame : ended (c.ports.get q) = c.ports.get q → c.ports.get p =
      if p = q then ended (c.ports.get p) else c.ports.get p := fun h => by
    split
    · rename_i hp; rw [hp, h]
    · rfl
  unfold closeIfIdle
  dsimp only
  split
  · rename_i reason hs
    split
    · rename_i hidle
      rw [Laws.sendPort_ports, Laws.modPort_ports, Laws.PerPort.get_modify]
      split
      · rename_i hp
        subst hp
        simp [ended, hs, hidle]
      · rfl
    · rename_i hbusy
      exact hsame (by simp [ended, hs, hbusy])
  · rename_i hs; exact hsame (by simp [ended, hs])
  · rename_i hs; exact hsame (by simp [ended, hs])

theorem eachPort_closeIfIdle_port (p : Port) (c : Chip) : (eachPort closeIfIdle c).ports.get p = ended (c.ports.get p) := by
  unfold eachPort
  cases p <;> simp [closeIfIdle_port]

theorem closeIfIdle_busy {q : Port} {c : Chip}
    (h : ∀ reason, (c.ports.get q).session = .closing reason → (c.ports.get q).inFlight ≠ 0) : closeIfIdle q c = c := by
  unfold closeIfIdle
  dsimp only
  split
  · rename_i reason hs; exact if_neg (h reason hs)
  all_goals rfl

/-- Where no other session is about to end, the test is that of port `p` alone. -/
theorem eachPort_closeIfIdle_one {p : Port} {c : Chip} (h : ∀ q reason, q ≠ p → (c.ports.get q).session = .closing reason →
    (c.ports.get q).inFlight ≠ 0) : eachPort closeIfIdle c = closeIfIdle p c := by
  have hbefore (q : Port) (hq : q ≠ p) : closeIfIdle q c = c := closeIfIdle_busy fun reason => h q reason hq
  have hafter (q : Port) (hq : q ≠ p) : closeIfIdle q (closeIfIdle p c) = closeIfIdle p c := by
    refine closeIfIdle_busy fun reason => ?_
    rw [closeIfIdle_port, if_neg hq]
    exact h q reason hq
  unfold eachPort
  cases p with
  | p0 => rw [hafter .p1 (by decide), hafter .p2 (by decide)]
  | p1 => rw [hbefore .p0 (by decide), hafter .p2 (by decide)]
  | p2 => rw [hbefore .p0 (by decide), hbefore .p1 (by decide)]

theorem closeIfIdle_sent {p : Port} {c : Chip} {reason : CloseReason} (h : (c.ports.get p).session = .closing reason) :
    (closeIfIdle p c).sent = c.sent ++
      if (c.ports.get p).inFlight = 0 ∧ (c.ports.get p).link = .up then [.toPort p (.closed reason)] else [] := by
  unfold closeIfIdle
  dsimp only
  rw [h]
  dsimp only
  by_cases hidle : (c.ports.get p).inFlight = 0
  · rw [if_pos hidle, sendPort_sent]
    simp [hidle]
  · simp [hidle]

theorem arbitrate_session (c : Chip) (q : Port) : ((arbitrate c).ports.get q).session = (c.ports.get q).session := by
  have h (n : Nat) (c : Chip) : ((decisions n c).ports.get q).session = (c.ports.get q).session := by
    induction n generalizing c with
    | zero => rfl
    | succ n ih =>
      unfold decisions
      split
      · rename_i d hd
        rw [ih d, decision_session hd]
      · rfl
  exact h 16 c

theorem conclude_id_eq (e : Chip) : conclude id e = arbitrate (eachPort closeIfIdle (settle e)) := by
  unfold conclude
  rw [show eitherOrder id settle e = settle e from if_pos rfl]

/-- The session of a CLOSING port at the end of an event without answers. -/
theorem conclude_id_session {e : Chip} {p : Port} {reason : CloseReason} (h : (e.ports.get p).session = .closing reason) :
    ((conclude id e).ports.get p).session = if (e.ports.get p).inFlight = 0 then .down else .closing reason := by
  obtain ⟨hsession, -, hinFlight⟩ := (PortsStay.settling e).settle (PortsStay.refl e) p
  rw [conclude_id_eq, arbitrate_session, eachPort_closeIfIdle_port, ended_closing (hsession.trans h), hinFlight]

/-! ### The slot of a CLOSING session -/

section
variable {s : State} {c : Chip} {i : SlotNo} {p : Port} {w : WindowNo} {r : SlotRec} {reason : CloseReason}

/-- Where nothing waits on a slot, the end of the session that held it is all that can follow its return. -/
theorem calm_freeSlot (hcalm : Calm c i) (hr : c.slot i = some r) (hh : r.holder = .port p) (hw : r.window = some w) :
    conclude id (freeSlot i c) = closeIfIdle p (freeSlot i c) := by
  obtain ⟨hcommit, hholds, hqueue, hwriter, hqueues, hclosing⟩ := hcalm
  obtain ⟨-, hmap, harb, -, hhold⟩ := Grants.freeSlot_released hr hh hw
  have hsettle : settle (freeSlot i c) = freeSlot i c := by
    refine Laws.settle_eq_self (fun info left => ?_) (fun x hx => ?_) (by rw [Laws.freeSlot_cfg]; exact hqueue)
    · rw [hmap]
      exact hcommit info left
    · rw [hhold] at hx
      obtain ⟨y, hy, rfl⟩ := List.mem_map.1 hx
      exact Laws.noLonger_waits (hholds y hy)
  have hone : eachPort closeIfIdle (freeSlot i c) = closeIfIdle p (freeSlot i c) := by
    refine eachPort_closeIfIdle_one fun q reason hq hs => ?_
    rw [freeSlot_session] at hs
    rw [freeSlot_inFlight, hr, Option.map_some, hh, if_neg (by simpa using Ne.symm hq)]
    exact hclosing q reason hs
  rw [conclude_id_eq, hsettle, hone]
  refine Answering.id.arbitrate_idle (e := closeIfIdle p (freeSlot i c)) (fun q => ?_) fun j => ?_
  · rw [Laws.closeIfIdle_arb, freeSlot_queues]
    exact hqueues q
  · rw [Laws.closeIfIdle_cfg, Laws.freeSlot_cfg]
    exact hwriter j

/-- The return of a slot ends the CLOSING session that held it (R53, R55). -/
theorem endsForClosing (hc : c = { s.chip with mlink := c.mlink }) (hslots : c.mlink.slots = s.chip.mlink.slots)
    (hr : s.chip.slot i = some r) (hh : r.holder = .port p) (hw : r.window = some w)
    (hs : (s.chip.ports.get p).session = .closing reason) :
    EndsForClosing s { s with chip := conclude id (freeSlot i c) } i p w r reason := by
  have hports : c.ports = s.chip.ports := by rw [hc]
  have hsent : c.sent = s.chip.sent := by rw [hc]
  have hr' : c.slot i = some r := (slot_congr hslots i).trans hr
  have hs' : (c.ports.get p).session = .closing reason := by rw [hports]; exact hs
  have hlink : ((conclude id (freeSlot i c)).ports.get p).link = (s.chip.ports.get p).link := by
    rw [(Onward.conclude (answers := id) Onward.refl (freeSlot i c)).link, (Silent.freeSlot i c).link, hports]
  have hinFlight : ((freeSlot i c).ports.get p).inFlight = (s.chip.ports.get p).inFlight - 1 := by
    rw [freeSlot_inFlight, hr', Option.map_some, hh, if_pos rfl, hports]
  have hfreed : ((freeSlot i c).ports.get p).session = .closing reason := (freeSlot_session ..).trans hs'
  have hsession : ((conclude id (freeSlot i c)).ports.get p).session =
      if (s.chip.ports.get p).inFlight ≤ 1 then .down else .closing reason := by
    rw [conclude_id_session hfreed, hinFlight]
    simp only [Nat.sub_eq_zero_iff_le]
  refine ⟨fun tag d hd hslot => ?_, hsession, ?_, fun hcalm => ?_⟩
  · refine (Onward.conclude (answers := id) Onward.refl (freeSlot i c)).gone p tag ?_
    rw [freeSlot_record, if_pos]
    have hrecord : c.record p tag = some (.data d) := (record_congr hports p tag).trans (record_of_dataRecord hd)
    simp [keptFor, hr', hh, Chip.isOpen, hs', hrecord, Record.holdsSlot, hslot]
  · have k := Closes.concluding p reason c.sent
    obtain ⟨-, frames, hframes, hclosed, hiff⟩ := k.conclude_id (k.freedSlot i (Closes.start hs'))
    refine ⟨frames, by rw [← hsent]; exact hframes, fun tag o fs x hf => absurd (hclosed _ hf) (by simp), ?_⟩
    rw [hiff, hsession, hlink]
    refine and_congr_left fun _ => ?_
    by_cases hlast : (s.chip.ports.get p).inFlight ≤ 1
    · rw [if_pos hlast]
      exact iff_of_true rfl hlast
    · rw [if_neg hlast]
      exact iff_of_false (by simp) hlast
  · have hcalm' : Calm c i := by
      rw [hc]
      exact hcalm
    obtain ⟨-, hmap, harb, hpool, hhold⟩ := Grants.freeSlot_released hr' hh hw
    change ((conclude id (freeSlot i c)).ports.get p).inFlight = _ ∧ (conclude id (freeSlot i c)).sent = _ ∧
      (conclude id (freeSlot i c)).mlink.slots = _ ∧ (conclude id (freeSlot i c)).hold = _ ∧
      (conclude id (freeSlot i c)).arb = _ ∧ (conclude id (freeSlot i c)).map = _ ∧
      (conclude id (freeSlot i c)).pool = _
    rw [calm_freeSlot hcalm' hr' hh hw]
    refine ⟨?_, ?_, ?_, ?_, ?_, ?_, ?_⟩
    · rw [closeIfIdle_port, if_pos rfl, ended_inFlight, hinFlight]
    · rw [closeIfIdle_sent hfreed, hinFlight, Laws.freeSlot_sent, hsent, (Silent.freeSlot i c).link, hports]
      simp only [Nat.sub_eq_zero_iff_le]
    · rw [Laws.closeIfIdle_mlink, (Grants.freeSlot_released hr' hh hw).1]
      change c.mlink.slots.set i none = _
      rw [hslots]
    · rw [Laws.closeIfIdle_hold, hhold, hc]
      rfl
    · rw [Laws.closeIfIdle_arb, harb, hc]
      rfl
    · rw [Laws.closeIfIdle_map, hmap, hc]
      rfl
    · rw [Laws.closeIfIdle_pool, hpool, hc]
      rfl

end

end Sys2Proof.Aftermath
end

section
/-! SUPPORT. The end of a media command of a port: the answers, the delivery of a read, what follows (R119, R123 to R129). -/

namespace Sys2Proof.Aftermath

open Sys2Proof.Machine Sys2Proof.Safety Sys2Proof.Keeping Sys2Proof.HoldProofs Sys2Proof.Commands Sys2Proof.DataPath
  Sys2Proof.SlotOps Sys2Proof.Grants

/-! ### More answerings -/

theorem Answering.setStage (p : Port) (t : Tag) (x : Stage) : Answering (setStage p t x) := by
  have hports {β : Type} (g : PortCtl → β) (hg : ∀ pc y, g { pc with tags := y } = g pc) (c : Chip) (q : Port) :
      g ((Machine.setStage p t x c).ports.get q) = g (c.ports.get q) := by
    unfold Machine.setStage
    split
    · exact forall_ports (c := c) (p := p) (f := fun pc => { pc with tags := pc.tags.set t _ }) rfl
        (R := fun a b => g b = g a) (hg _ _) (fun _ => rfl) q
    · rfl
  exact ⟨Silent.setStage p t x, by simp, by simp, by simp, by simp, by simp,
    hports PortCtl.session (fun _ _ => rfl), hports PortCtl.inFlight (fun _ _ => rfl)⟩

theorem Answering.answerAbort (p : Port) (o : Outcome) (a : Option Tag) : Answering (answerAbort p o a) := by
  cases a with
  | none => exact Answering.id
  | some a => exact Answering.respond p a o []

theorem answerOwner_none {r : SlotRec} (h : r.owner = none) (o : Outcome) (d : List Word) (o' : Outcome) (a : Option Tag) :
    answerOwner o d o' a r = id := by
  funext c
  unfold answerOwner
  rw [h]
  split
  · rename_i hn; cases hn
  · rfl

theorem answerOwner_some {r : SlotRec} {p : Port} {t : Tag} (hh : r.holder = .port p) (h : r.owner = some t) (o : Outcome)
    (d : List Word) (o' : Outcome) (a : Option Tag) :
    answerOwner o d o' a r = fun c => answerAbort p o' a (respond p t o d c) := by
  funext c
  unfold answerOwner
  rw [hh, h]

theorem Answering.answerOwner (o : Outcome) (d : List Word) (o' : Outcome) (a : Option Tag) {r : SlotRec} {p : Port}
    (hh : r.holder = .port p) : Answering (answerOwner o d o' a r) := by
  cases h : r.owner with
  | none => rw [answerOwner_none h]; exact Answering.id
  | some t => rw [answerOwner_some hh h]; exact (Answering.respond p t o d).comp (Answering.answerAbort p o' a)

section
variable {s : State} {c : Chip} {i : SlotNo} {p : Port} {w : WindowNo} {r : SlotRec} {tag a : Tag} {d : DataRec}

theorem waitingAbort_issued (hh : r.holder = .port p) (ho : r.owner = some tag) (hd : c.dataRecord p tag = some d)
    (hs : d.stage = .issued i) : c.waitingAbort r = none := by
  unfold Chip.waitingAbort
  rw [hh, ho]
  simp only [hd, Option.map_some, hs]

theorem waitingAbort_abandoning (hh : r.holder = .port p) (ho : r.owner = some tag) (hd : c.dataRecord p tag = some d)
    (hs : d.stage = .abandoning i a) : c.waitingAbort r = some a := by
  unfold Chip.waitingAbort
  rw [hh, ho]
  simp only [hd, Option.map_some, hs]

/-! ### The commands, by the state of the slot -/

theorem completeTaken_issued {status : MediaStatus} {left : Nat} (hservice : c.cfg.bridge = .service)
    (hr : c.slot i = some r) (hp : r.phase = .issued left) (hh : r.holder = .port p) :
    completeTaken i status c = portComplete i status p r c := by
  simp [completeTaken, Chip.takesCommandFrames, hservice, hr, hp, commandComplete, hh]

theorem completeTaken_abort {status : MediaStatus} {left : Nat} (hservice : c.cfg.bridge = .service)
    (hr : c.slot i = some r) (hp : r.phase = .abandoning .abort left) (hh : r.holder = .port p) :
    completeTaken i status c = portComplete i status p r c := by
  simp [completeTaken, Chip.takesCommandFrames, hservice, hr, hp, commandComplete, hh]

theorem completeTaken_timeout {status : MediaStatus} {left : Nat} (hservice : c.cfg.bridge = .service)
    (hr : c.slot i = some r) (hp : r.phase = .abandoning .timeout left) (hh : r.holder = .port p) :
    completeTaken i status c = conclude id (freeSlot i (countLate i r c)) := by
  simp [completeTaken, Chip.takesCommandFrames, hservice, hr, hp, endTimeout, hh]

theorem abandonAckTaken_abort {left : Nat} (hservice : c.cfg.bridge = .service) (hr : c.slot i = some r)
    (hp : r.phase = .abandoning .abort left) :
    abandonAckTaken i c = conclude (answerOwner .aborted [] .done (c.waitingAbort r) r) (freeSlot i c) := by
  simp [abandonAckTaken, Chip.takesCommandFrames, hservice, hr, hp]

theorem abandonAckTaken_timeout {left : Nat} (hservice : c.cfg.bridge = .service) (hr : c.slot i = some r)
    (hp : r.phase = .abandoning .timeout left) (hh : r.holder = .port p) :
    abandonAckTaken i c = conclude id (freeSlot i c) := by
  simp [abandonAckTaken, Chip.takesCommandFrames, hservice, hr, hp, endTimeout, hh]

/-! ### The end of a port command (R123 to R125) -/

/-- The answers that the media status gives when no data is delivered. -/
abbrev mediaAnswers (status : MediaStatus) (r : SlotRec) (abort : Option Tag) : Chip → Chip :=
  answerOwner (mediaOutcome status r).1 (mediaOutcome status r).2 .tooLate abort r

theorem portComplete_unowned (ho : r.owner = none) (status : MediaStatus) :
    portComplete i status p r c = conclude id (freeSlot i c) := by
  unfold portComplete
  rw [ho]

theorem portComplete_delivers (ho : r.owner = some tag) (hop : r.op = .read) (hall : r.allReceived = true) :
    portComplete i .ok p r c = startDelivery p tag i r c := by
  unfold portComplete
  rw [ho]
  exact if_pos ⟨rfl, hop, hall⟩

theorem portComplete_answers (ho : r.owner = some tag) {status : MediaStatus}
    (h : ¬ (status = .ok ∧ r.op = .read ∧ r.allReceived = true)) :
    portComplete i status p r c = conclude (mediaAnswers status r (c.waitingAbort r)) (freeSlot i c) := by
  unfold portComplete
  rw [ho]
  exact if_neg h

theorem allReceived_iff {g : MediaRange} (h : r.range = some g) : r.allReceived = true ↔ r.received.length = g.count := by
  simp [SlotRec.allReceived, h]

theorem allReceived_of_whole (h : ∃ g, r.range = some g ∧ r.received.length = g.count) : r.allReceived = true := by
  obtain ⟨g, hg, hlen⟩ := h
  exact (allReceived_iff hg).2 hlen

/-- The media status and the blocks received decide the outcome (R123, R124). -/
theorem mediaOutcome_eq {status : MediaStatus} {o : Outcome} {detail : List Word}
    (h : (status = .ok ∧ r.op ≠ .read ∧ o = .ok ∧ detail = []) ∨
      (status ≠ .ok ∧ r.op ≠ .read ∧ o = .mediaError ∧ detail = [item (statusCode status)]) ∨
      (r.op = .read ∧ (status ≠ .ok ∨ (r.range ≠ none ∧ ¬ ∃ g, r.range = some g ∧ r.received.length = g.count)) ∧
        o = .mediaError ∧ detail = [item (statusCode status), item r.received.length])) :
    ¬ (status = .ok ∧ r.op = .read ∧ r.allReceived = true) ∧ mediaOutcome status r = (o, detail) := by
  rcases h with ⟨rfl, hop, rfl, rfl⟩ | ⟨hstatus, hop, rfl, rfl⟩ | ⟨hop, hfails, rfl, rfl⟩
  · exact ⟨fun hd => hop hd.2.1, by simp [mediaOutcome, hop]⟩
  · exact ⟨fun hd => hop hd.2.1, by simp [mediaOutcome, hop, hstatus]⟩
  · have hnot : ¬ (status = .ok ∧ r.allReceived = true) := by
      rintro ⟨hok, hall⟩
      obtain ⟨hrange, hwhole⟩ := hfails.resolve_left (not_not.2 hok)
      obtain ⟨g, hg⟩ := Option.ne_none_iff_exists'.1 hrange
      exact hwhole ⟨g, hg, (allReceived_iff hg).1 hall⟩
    refine ⟨fun hd => hnot ⟨hd.1, hd.2.2⟩, ?_⟩
    simp only [mediaOutcome, hop, ne_eq, not_true_eq_false, false_or, if_neg hnot, if_true]

/-! ### The delivery of a read (R66, R119) -/

/-- The blocks with the slot of a read that has every block at FREE, its pages with the record. -/
def delivering (p : Port) (tag : Tag) (i : SlotNo) (r : SlotRec) (c : Chip) : Chip :=
  setStage p tag (.delivering r.pages) (freeSlot i (setSlot i (some { r with pages := [] }) c))

theorem startDelivery_eq (p : Port) (tag : Tag) (i : SlotNo) (r : SlotRec) (c : Chip) :
    startDelivery p tag i r c = conclude (answerAbort p .tooLate (c.waitingAbort r)) (delivering p tag i r c) := rfl

theorem released_setSlot (x : Option SlotRec) : released i p w r (setSlot i x c) = released i p w r c := by
  simp [released, setSlot, Chip.modMlink, Laws.Table.set_set]

/-- The slot of an OPEN session is FREE, and the record has the pages. -/
theorem delivering_open (hh : r.holder = .port p) (hw : r.window = some w) (hopen : (c.ports.get p).session = .opened)
    (hd : c.dataRecord p tag = some d) : delivering p tag i r c =
      withRecord p tag (some (.data { d with stage := .delivering r.pages })) (released i p w { r with pages := [] } c) := by
  have hslot : (setSlot i (some { r with pages := [] }) c).slot i = some { r with pages := [] } := by
    rw [Grants.setSlot_slot, if_pos rfl]
  unfold delivering
  rw [Laws.freeSlot_eq_released hslot hh hw hopen, released_setSlot]
  refine Laws.setStage_data ?_ _
  rw [← hd]
  exact dataRecord_congr (released_record ..)

theorem delivering_silent (p : Port) (tag : Tag) (i : SlotNo) (r : SlotRec) (c : Chip) : Silent c (delivering p tag i r c) :=
  ((Silent.setSlot i _ c).trans (Silent.freeSlot i _)).trans (Silent.setStage p tag _ _)

/-! ### What follows (R119) -/

/-- What the fallen counts bring about when the slot of a port command returns to FREE. -/
theorem countsFell_freeSlot {answers : Chip → Chip} (ha : Answering answers)
    (hc : c = { s.chip with mlink := c.mlink }) (hslots : c.mlink.slots = s.chip.mlink.slots) (hr : s.chip.slot i = some r)
    (hh : r.holder = .port p) (hw : r.window = some w) :
    CountsFell s { s with chip := conclude answers (freeSlot i c) } (released i p w r s.chip) := by
  have hr' : c.slot i = some r := (slot_congr hslots i).trans hr
  obtain ⟨-, hmap, -, -, hhold⟩ := Grants.freeSlot_released hr' hh hw
  have hgoes : Goes none s c := (Goes.start s).silent (Silent.of_same (by rw [hc]) (by rw [hc]))
  refine countsFell_conclude ha ?_ ?_ ?_ (fallen_freeSlot hgoes (fun q => by rw [hc]) (by rw [hc]) (by rw [hc])
    (by rw [hc]) (by rw [hc]) hr' hh hw)
  · rw [hhold, hc]; rfl
  · rw [hmap, hc]; rfl
  · rw [Laws.freeSlot_cfg, hc]; rfl

theorem countsFell_delivery (hh : r.holder = .port p) (hw : r.window = some w) :
    CountsFell s { s with chip := startDelivery p tag i r s.chip } (released i p w r s.chip) := by
  have hslot : (setSlot i (some { r with pages := [] }) s.chip).slot i = some { r with pages := [] } := by
    rw [Grants.setSlot_slot, if_pos rfl]
  obtain ⟨-, hmap, -, -, hhold⟩ := Grants.freeSlot_released hslot hh hw
  rw [startDelivery_eq]
  refine countsFell_conclude (Answering.answerAbort ..) ?_ ?_ ?_ fun hrange hserved =>
    (fallen_freeSlot ((Goes.start s).silent (Silent.setSlot i _ _)) (fun _ => rfl) rfl rfl rfl rfl hslot hh hw hrange
      hserved).answering (Answering.setStage ..)
  · rw [delivering, Laws.setStage_hold, hhold]; rfl
  · rw [delivering, Laws.setStage_map, hmap]; rfl
  · rw [delivering, Laws.setStage_cfg, Laws.freeSlot_cfg]; rfl

theorem countsFell_portComplete (status : MediaStatus) (hr : s.chip.slot i = some r) (hh : r.holder = .port p)
    (hw : r.window = some w) :
    CountsFell s { s with chip := portComplete i status p r s.chip } (released i p w r s.chip) := by
  cases ho : r.owner with
  | none =>
    rw [portComplete_unowned ho]
    exact countsFell_freeSlot Answering.id rfl rfl hr hh hw
  | some tag =>
    by_cases h : status = .ok ∧ r.op = .read ∧ r.allReceived = true
    · obtain ⟨rfl, hop, hall⟩ := h
      rw [portComplete_delivers ho hop hall]
      exact countsFell_delivery hh hw
    · rw [portComplete_answers ho h]
      exact countsFell_freeSlot (Answering.answerOwner _ _ _ _ hh) rfl rfl hr hh hw

/-! ### The record of a delivery (R66, R117) -/

/-- Neither a hold nor the commit under way is to answer the tag of a data request (R117). -/
theorem queuesExact_rests (h : QueuesExact s) (hd : s.chip.dataRecord p tag = some d) :
    Rests p tag (some (.data d)) s.chip := by
  obtain ⟨hports, -, -⟩ := h
  obtain ⟨-, -, -, -, -, hhanded⟩ := hports p
  have hnot : tag ∉ awaitedTags s.chip p := fun hm => by
    obtain ⟨k, ws, v, hrecord⟩ := hhanded tag hm
    exact absurd ((record_of_dataRecord hd).symm.trans hrecord) (by simp)
  unfold awaitedTags at hnot
  simp only [List.mem_append, not_or] at hnot
  obtain ⟨⟨-, hholds⟩, hcommit⟩ := hnot
  refine ⟨record_of_dataRecord hd, fun x hx howner hanswer => hholds ?_, fun info left hc hsession htag => hcommit ?_,
    fun info hc hsession htag => hcommit ?_⟩
  · exact List.mem_filterMap.2 ⟨x, hx, by rw [if_pos howner, hanswer]⟩
  · rw [hc]; simp [hsession, htag]
  · rw [hc]; simp [hsession, htag]

/-- The tag of an ABORT that waits is that of another request. -/
theorem queuesExact_abort_ne (h : QueuesExact s) (hr : s.chip.slot i = some r) (hh : r.holder = .port p)
    (hwait : s.chip.waitingAbort r = some a) (hd : s.chip.dataRecord p tag = some d) : a ≠ tag := by
  rintro rfl
  obtain ⟨hports, -, -⟩ := h
  obtain ⟨-, -, -, -, -, hhanded⟩ := hports p
  have hmem : a ∈ awaitedTags s.chip p := by
    unfold awaitedTags
    refine List.mem_append_left _ (List.mem_append_left _ (List.mem_filterMap.2 ⟨i, Grants.mem_allSlots i, ?_⟩))
    rw [hr, Option.bind_some, if_pos hh, hwait]
  obtain ⟨k, ws, v, hrecord⟩ := hhanded a hmem
  exact absurd ((record_of_dataRecord hd).symm.trans hrecord) (by simp)

end

end Sys2Proof.Aftermath
end

section
/-! SUPPORT. COMPLETE of a port command (R123 to R125), and the end of an abandon (R128, R129). -/

namespace Sys2Proof.Aftermath

open Sys2Proof.Machine Sys2Proof.Safety Sys2Proof.Keeping Sys2Proof.HoldProofs Sys2Proof.Commands Sys2Proof.DataPath
  Sys2Proof.SlotOps Sys2Proof.Grants

section
variable {s : State} {c : Chip} {i : SlotNo} {p : Port} {w : WindowNo} {r : SlotRec} {tag a : Tag} {d : DataRec}

/-- The delivery of a read begins, at the end of the event (R66). -/
theorem startDelivery_record (hexact : QueuesExact s) (hr : s.chip.slot i = some r) (hh : r.holder = .port p)
    (hw : r.window = some w) (hopen : (s.chip.ports.get p).session = .opened) (hd : s.chip.dataRecord p tag = some d)
    (hstage : d.stage ≠ .admitted) :
    (startDelivery p tag i r s.chip).dataRecord p tag = some { d with stage := .delivering r.pages } := by
  have hrests : Rests p tag (some (.data { d with stage := .delivering r.pages })) (delivering p tag i r s.chip) := by
    rw [delivering_open hh hw hopen hd]
    refine ⟨Laws.withRecord_record .., fun x hx => ?_, (queuesExact_rests hexact hd).draining,
      (queuesExact_rests hexact hd).persisting⟩
    obtain ⟨y, hy, rfl⟩ := List.mem_map.1 hx
    have hleaves := (queuesExact_rests hexact hd).holds y hy
    unfold noLonger
    split <;> exact hleaves
  have hqueue : tag ∉ (delivering p tag i r s.chip).arb.queues.get p := by
    rw [delivering_open hh hw hopen hd]
    change tag ∉ (released i p w _ s.chip).arb.queues.get p
    rw [released_queues, ((hexact.1 p).2.1 tag), hd]
    simpa using hstage
  rw [startDelivery_eq, dataRecord_eq_some]
  cases hwait : s.chip.waitingAbort r with
  | none => exact conclude_rests (answers := answerAbort p .tooLate none) hrests hqueue
  | some b =>
    have hne := queuesExact_abort_ne hexact hr hh hwait hd
    refine conclude_rests (answers := respond p b .tooLate []) (hrests.of_same ?_ (by simp) (by simp)) ?_
    · exact respond_record_ne (fun _ => hne) ..
    · rw [Laws.respond_arb]
      exact hqueue

/-- Where nothing waits on the slot, the delivery and the answer to a waiting ABORT are all that follows. -/
theorem startDelivery_calm (hcalm : Calm s.chip i) (hh : r.holder = .port p) (hw : r.window = some w)
    (hopen : (s.chip.ports.get p).session = .opened) (hd : s.chip.dataRecord p tag = some d) :
    startDelivery p tag i r s.chip = answerAbort p .tooLate (s.chip.waitingAbort r)
      (withRecord p tag (some (.data { d with stage := .delivering r.pages }))
        (released i p w { r with pages := [] } s.chip)) := by
  rw [startDelivery_eq, delivering_open hh hw hopen hd]
  have hstill := still_released hcalm hopen w { r with pages := [] }
  obtain ⟨-, -, -, hwriter, hqueues, -⟩ := hcalm
  refine conclude_still (Answering.answerAbort ..) (still_withRecord hstill ..)
    ((Answering.answerAbort ..).arbitrate_idle (fun q => ?_) hwriter)
  change (released i p w _ s.chip).arb.queues.get q = []
  rw [released_queues]
  exact hqueues q

theorem complete_does {status : MediaStatus} {e : Chip} (hhigh : s.rstn = .high) (h : completeTaken i status s.chip = e) :
    exec (.complete i status) s = .next { s with chip := e } :=
  does_of_action hhigh nofun nofun h

end

/-- Settles O55. -/
theorem completeAnswersTheOwner : Obligations.CompleteAnswersTheOwner := by
  unfold Obligations.CompleteAnswersTheOwner
  intro s i status r p left w hhigh hservice hr hphase hh hw whole
  have htaken (status : MediaStatus) := complete_does hhigh (completeTaken_issued (status := status) hservice hr hphase hh)
  refine ⟨⟨_, htaken status, countsFell_portComplete status hr hh hw⟩, fun tag d hspeaks ho hd hstage =>
    ⟨fun o detail hcase => ?_, fun hok hop hwhole => ?_⟩, fun reason ho hclosing => ?_⟩
  · obtain ⟨-, hup, hopen⟩ := hspeaks
    obtain ⟨hnot, hout⟩ := mediaOutcome_eq hcase
    have hact : portComplete i status p r s.chip = conclude (respond p tag o detail) (freeSlot i s.chip) := by
      rw [portComplete_answers ho hnot, mediaAnswers, hout, waitingAbort_issued hh ho hd hstage, answerOwner_some hh ho]
      rfl
    constructor
    · obtain ⟨hgone, hanswered⟩ := conclude_respond (asker := none) ((Goes.start s).silent (Silent.freeSlot i s.chip))
        ⟨hhigh, hup, hopen⟩ tag o detail
      exact ⟨_, htaken status, by rw [hact]; exact hgone, by rw [hact]; exact hanswered⟩
    · intro hcalm
      rw [Does, htaken status, hact, Laws.freeSlot_eq_released hr hh hw hopen,
        conclude_released (Answering.respond ..) hcalm hopen,
        Laws.respond_open (by rw [released_session]; exact hopen) (by rw [released_link]; exact hup)]
  · subst hok
    have hopen := hspeaks.2.2
    have hact := portComplete_delivers (i := i) (p := p) (c := s.chip) ho hop (allReceived_of_whole hwhole)
    refine ⟨fun hexact => ⟨_, htaken .ok, ?_⟩, fun hcalm => ?_⟩
    · rw [hact]
      exact startDelivery_record hexact hr hh hw hopen hd (by rw [hstage]; simp)
    · rw [Does, htaken .ok, hact, startDelivery_calm hcalm hh hw hopen hd, waitingAbort_issued hh ho hd hstage]
      rfl
  · refine ⟨_, htaken status, ?_⟩
    rw [portComplete_unowned ho]
    exact endsForClosing rfl rfl hr hh hw hclosing

end Sys2Proof.Aftermath
end

section
/-! SUPPORT. The end of an abandon (R128, R129). -/

namespace Sys2Proof.Aftermath

open Sys2Proof.Machine Sys2Proof.Safety Sys2Proof.Keeping Sys2Proof.HoldProofs Sys2Proof.Commands Sys2Proof.DataPath
  Sys2Proof.SlotOps Sys2Proof.Grants

/-! ### The request and the ABORT that waits on it are answered (R110, R128) -/

/-- The answer to an aborted request, then the one to its ABORT. -/
def answersInTurn (p : Port) (u : Tag) (o : Outcome) (w : List Word) (v : Tag) (o' : Outcome) (c : Chip) : Chip :=
  respond p v o' [] (respond p u o w c)

section
variable {asker : Option Port} {s : State} {c e : Chip} {i : SlotNo} {p : Port} {w : WindowNo} {r : SlotRec}
  {u v : Tag} {o o' : Outcome} {x : List Word}

theorem answering_inTurn (p : Port) (u : Tag) (o : Outcome) (x : List Word) (v : Tag) (o' : Outcome) :
    Answering (answersInTurn p u o x v o') := (Answering.respond p u o x).comp (Answering.respond p v o' [])

theorem answeredInTurn_mono {t t' : State} (h : AnsweredInTurn s t p u o x v o') (hsent : t.chip.sent <+: t'.chip.sent) :
    AnsweredInTurn s t' p u o x v o' := by
  obtain ⟨fs, fs', before, between, after, hs⟩ := h
  obtain ⟨more, hmore⟩ := hsent
  exact ⟨fs, fs', before, between, after ++ more, by rw [← hmore, hs]; simp⟩

theorem Goes.answersInTurn (h : Goes asker s c) (hp : Speaks s p) (u : Tag) (o : Outcome) (x : List Word) (v : Tag)
    (o' : Outcome) : AnsweredInTurn s { s with chip := answersInTurn p u o x v o' c } p u o x v o' := by
  obtain ⟨hopen, hup⟩ := h.speaks hp
  have hfirst : Goes asker s (respond p u o x c) := h.silent (Silent.respond ..)
  obtain ⟨hopen', hup'⟩ := hfirst.speaks hp
  obtain ⟨before, hbefore⟩ := h.since.1
  refine ⟨((withRecord p u none c).ports.get p).flags,
    ((withRecord p v none (respond p u o x c)).ports.get p).flags, before, [], [], ?_⟩
  change (respond p v o' [] (respond p u o x c)).sent = _
  rw [Laws.respond_open hopen' hup', answered_sent, Laws.withRecord_sent, Laws.respond_open hopen hup, answered_sent,
    Laws.withRecord_sent, ← hbefore]
  simp only [List.append_nil]

theorem conclude_inTurn (he : Goes asker s e) (hp : Speaks s p) (u : Tag) (o : Outcome) (x : List Word) (v : Tag)
    (o' : Outcome) :
    (conclude (answersInTurn p u o x v o') e).record p u = none ∧
      (conclude (answersInTurn p u o x v o') e).record p v = none ∧
      AnsweredInTurn s { s with chip := conclude (answersInTurn p u o x v o') e } p u o x v o' := by
  have hprefix (d : Chip) := ((answering_inTurn p u o x v o').silent d).sent
  have hfirst : Goes asker s (respond p u o x e) := he.silent (Silent.respond ..)
  refine ⟨ends_gone hprefix ?_, ends_gone hprefix (hfirst.respond_answered hp v o' []).1,
    ends_sent answeredInTurn_mono (fun d hd => hd.answersInTurn hp u o x v o') he⟩
  exact (Silent.respond p v o' [] _).gone _ _ (he.respond_answered hp u o x).1

/-- Both answers to a session that speaks. -/
theorem answersInTurn_open (hopen : (c.ports.get p).session = .opened) (hup : (c.ports.get p).link = .up) (u : Tag)
    (o : Outcome) (x : List Word) (v : Tag) (o' : Outcome) : answersInTurn p u o x v o' c =
      answered p v o' [] (answered p u o x (withRecord p v none (withRecord p u none c))) := by
  unfold answersInTurn
  rw [Laws.respond_open hopen hup, Laws.respond_open (by simpa using hopen) (by simpa using hup), Laws.withRecord_answered]

theorem answerOwner_inTurn (hh : r.holder = .port p) (ho : r.owner = some u) (o : Outcome) (x : List Word) (o' : Outcome)
    (v : Tag) : answerOwner o x o' (some v) r = answersInTurn p u o x v o' := answerOwner_some hh ho ..

/-- The end of an abandon with two answers. -/
theorem abandon_inTurn (hspeaks : Speaks s p) (hr : s.chip.slot i = some r) (hh : r.holder = .port p)
    (hw : r.window = some w) (u : Tag) (o : Outcome) (x : List Word) (v : Tag) (o' : Outcome) :
    let t := conclude (answersInTurn p u o x v o') (freeSlot i s.chip)
    t.record p u = none ∧ t.record p v = none ∧ AnsweredInTurn s { s with chip := t } p u o x v o' ∧
      (Calm s.chip i → t = answered p v o' [] (answered p u o x
        (withRecord p v none (withRecord p u none (released i p w r s.chip))))) := by
  intro t
  obtain ⟨hu, hv, hboth⟩ := conclude_inTurn (asker := none) ((Goes.start s).silent (Silent.freeSlot i s.chip)) hspeaks u o x v o'
  refine ⟨hu, hv, hboth, fun hcalm => ?_⟩
  obtain ⟨-, hup, hopen⟩ := hspeaks
  change conclude _ _ = _
  rw [Laws.freeSlot_eq_released hr hh hw hopen, conclude_released (answering_inTurn ..) hcalm hopen,
    answersInTurn_open (by rw [released_session]; exact hopen) (by rw [released_link]; exact hup)]

/-! ### An abandon with cause TIMEOUT (R129) -/

theorem holdsSlot_iff {u : Tag} : Record.holdsSlot i (c.record p u) = true ↔
    ∃ d, c.dataRecord p u = some d ∧ d.stage.slot? = some i := by
  constructor
  · intro h
    unfold Record.holdsSlot at h
    split at h
    · rename_i d hd
      exact ⟨d, dataRecord_eq_some.2 hd, of_decide_eq_true h⟩
    · cases h
    · cases h
  · rintro ⟨d, hd, hs⟩
    rw [record_of_dataRecord hd]
    exact decide_eq_true hs

/-- Whether a record has been kept for a slot (R53). -/
theorem keptRecord_iff : c.keptRecord p i = true ↔ ∃ u d, c.dataRecord p u = some d ∧ d.stage.slot? = some i := by
  unfold Chip.keptRecord
  rw [List.any_eq_true]
  constructor
  · rintro ⟨x, hx, hholds⟩
    obtain ⟨n, hn, rfl⟩ := List.mem_iff_getElem.1 hx
    exact ⟨⟨n, by simpa [(c.ports.get p).tags.size] using hn⟩, holdsSlot_iff.1 hholds⟩
  · rintro ⟨u, hu⟩
    exact ⟨c.record p u, List.getElem_mem _, holdsSlot_iff.2 hu⟩

theorem countLate_eq (hh : r.holder = .port p) (c : Chip) : countLate i r c =
    if c.keptRecord p i then c
    else { c with mlink := { c.mlink with lateCompletions := min 65535 (c.mlink.lateCompletions + 1) } } := by
  unfold countLate
  rw [hh]
  rfl

/-- What leaves the M-link controller but its slots alone at the end of an event. -/
theorem conclude_id_late (e : Chip) : (conclude id e).mlink.lateCompletions = e.mlink.lateCompletions := by
  obtain ⟨x, hmlink⟩ := (conclude_id_ends e).granted.mlink
  rw [hmlink, Laws.settle_mlink]

theorem freeSlot_late (c : Chip) : (freeSlot i c).mlink.lateCompletions = c.mlink.lateCompletions := by
  rw [freeSlot_mlink]

end

theorem ack_does {s : State} {i : SlotNo} {e : Chip} (hhigh : s.rstn = .high) (h : abandonAckTaken i s.chip = e) :
    exec (.abandonAck i) s = .next { s with chip := e } :=
  does_of_action hhigh nofun nofun h

/-- Settles O56. -/
theorem abandonEndsByAckOrCompletion : Obligations.AbandonEndsByAckOrCompletion := by
  unfold Obligations.AbandonEndsByAckOrCompletion
  intro s i r p w left hhigh hservice hr hh hw whole
  have hlate : ∃ m, countLate i r s.chip = { s.chip with mlink := m } ∧ m.slots = s.chip.mlink.slots := by
    rw [countLate_eq hh]
    split
    · exact ⟨s.chip.mlink, rfl, rfl⟩
    · exact ⟨_, rfl, rfl⟩
  obtain ⟨m, hm, hslots⟩ := hlate
  refine ⟨fun cause k hphase hk => ?_, fun tag a d hphase hspeaks ho hd hstage => ?_, fun hphase hopen hnone => ?_,
    fun cause reason k hphase ho hclosing hk => ?_⟩
  · cases cause with
    | abort =>
      rcases hk with rfl | ⟨status, rfl⟩
      · exact ⟨_, ack_does hhigh (abandonAckTaken_abort hservice hr hphase),
          countsFell_freeSlot (Answering.answerOwner _ _ _ _ hh) rfl rfl hr hh hw⟩
      · exact ⟨_, complete_does hhigh (completeTaken_abort hservice hr hphase hh), countsFell_portComplete status hr hh hw⟩
    | timeout =>
      rcases hk with rfl | ⟨status, rfl⟩
      · exact ⟨_, ack_does hhigh (abandonAckTaken_timeout hservice hr hphase hh),
          countsFell_freeSlot Answering.id rfl rfl hr hh hw⟩
      · refine ⟨_, complete_does hhigh (completeTaken_timeout hservice hr hphase hh), ?_⟩
        rw [hm]
        exact countsFell_freeSlot (c := { s.chip with mlink := m }) Answering.id rfl hslots hr hh hw
  · have hwait := waitingAbort_abandoning hh ho hd hstage
    refine ⟨⟨_, ack_does hhigh (abandonAckTaken_abort hservice hr hphase), ?_⟩, fun status o detail hcase => ?_,
      fun hop hwhole => ?_⟩
    · rw [hwait, answerOwner_inTurn hh ho]
      exact abandon_inTurn hspeaks hr hh hw tag .aborted [] a .done
    · obtain ⟨hnot, hout⟩ := mediaOutcome_eq hcase
      refine ⟨_, complete_does hhigh (completeTaken_abort hservice hr hphase hh), ?_⟩
      rw [portComplete_answers ho hnot, mediaAnswers, hout, hwait, answerOwner_inTurn hh ho]
      exact abandon_inTurn hspeaks hr hh hw tag o detail a .tooLate
    · have hopen := hspeaks.2.2
      refine ⟨_, complete_does hhigh (completeTaken_abort hservice hr hphase hh), ?_⟩
      rw [portComplete_delivers ho hop (allReceived_of_whole hwhole)]
      obtain ⟨hgone, hanswered⟩ := conclude_respond (asker := none)
        ((Goes.start s).silent (delivering_silent p tag i r s.chip)) hspeaks a .tooLate []
      have hact : startDelivery p tag i r s.chip = conclude (respond p a .tooLate []) (delivering p tag i r s.chip) := by
        rw [startDelivery_eq, hwait]
        rfl
      refine ⟨by rw [hact]; exact hgone, by rw [hact]; exact hanswered,
        fun hexact => startDelivery_record hexact hr hh hw hopen hd (by rw [hstage]; simp), fun hcalm => ?_⟩
      rw [show (State.chip { s with chip := startDelivery p tag i r s.chip }) = startDelivery p tag i r s.chip from rfl,
        startDelivery_calm hcalm hh hw hopen hd, hwait]
      exact Laws.respond_open (by rw [Laws.withRecord_session, released_session]; exact hopen)
        (by rw [Laws.withRecord_link, released_link]; exact hspeaks.2.1) ..
  · refine ⟨⟨_, ack_does hhigh (abandonAckTaken_timeout hservice hr hphase hh), ?_, fun hcalm => ?_⟩, fun status =>
      ⟨_, complete_does hhigh (completeTaken_timeout hservice hr hphase hh), ?_, fun hcalm => ?_⟩⟩
    · exact (conclude_id_late _).trans (freeSlot_late _)
    · rw [show (State.chip { s with chip := conclude id (freeSlot i s.chip) }) = conclude id (freeSlot i s.chip) from rfl,
        Laws.freeSlot_eq_released hr hh hw hopen, conclude_released Answering.id hcalm hopen]
      rfl
    all_goals
      have hcounts : countLate i r s.chip = { s.chip with mlink :=
          { s.chip.mlink with lateCompletions := min 65535 (s.chip.mlink.lateCompletions + 1) } } := by
        rw [countLate_eq hh, if_neg]
        intro hkept
        obtain ⟨u, d, hd, hs⟩ := keptRecord_iff.1 hkept
        exact hnone u d hd hs
      rw [hcounts]
    · exact (conclude_id_late _).trans (freeSlot_late _)
    · exact (congrArg (conclude id) (Laws.freeSlot_eq_released (c := { s.chip with mlink :=
        { s.chip.mlink with lateCompletions := min 65535 (s.chip.mlink.lateCompletions + 1) } }) hr hh hw hopen)).trans
        (conclude_released Answering.id (c := { s.chip with mlink :=
        { s.chip.mlink with lateCompletions := min 65535 (s.chip.mlink.lateCompletions + 1) } }) hcalm hopen w r)
  · have hends := endsForClosing (c := s.chip) rfl rfl hr hh hw hclosing
    have hsame : (conclude id (freeSlot i s.chip)).mlink.lateCompletions = s.chip.mlink.lateCompletions :=
      (conclude_id_late _).trans (freeSlot_late _)
    cases cause with
    | abort =>
      rcases hk with rfl | ⟨status, rfl⟩
      · refine ⟨_, ack_does hhigh (abandonAckTaken_abort hservice hr hphase), ?_⟩
        rw [answerOwner_none ho]
        exact ⟨hends, fun _ => hsame⟩
      · refine ⟨_, complete_does hhigh (completeTaken_abort hservice hr hphase hh), ?_⟩
        rw [portComplete_unowned ho]
        exact ⟨hends, fun _ => hsame⟩
    | timeout =>
      rcases hk with rfl | ⟨status, rfl⟩
      · exact ⟨_, ack_does hhigh (abandonAckTaken_timeout hservice hr hphase hh), hends, fun _ => hsame⟩
      · refine ⟨_, complete_does hhigh (completeTaken_timeout hservice hr hphase hh), ?_, fun hkept => ?_⟩
        · rw [hm]
          exact endsForClosing (c := { s.chip with mlink := m }) rfl hslots hr hh hw hclosing
        · rw [countLate_eq hh, if_pos (keptRecord_iff.2 hkept)]
          exact hsame

end Sys2Proof.Aftermath
end

section
/-! SUPPORT. A HOLD-PLACE that passes (R30 to R34, R40). -/

namespace Sys2Proof.Aftermath

open Sys2Proof.Machine Sys2Proof.Safety Sys2Proof.Keeping Sys2Proof.HoldProofs Sys2Proof.Commands Sys2Proof.DataPath
  Sys2Proof.SlotOps Sys2Proof.Grants Sys2Proof.Management

/-! ### Several entries out of their queues, several requests answered (R31) -/

theorem each_dequeue_count (l : List (Port × Tag)) (c : Chip) (o : Port) (u : Tag) :
    ((each (fun x => dequeue x.1 x.2) l c).arb.queues.get o).count u = (c.arb.queues.get o).count u - l.count (o, u) := by
  induction l generalizing c with
  | nil => rfl
  | cons x l ih =>
    obtain ⟨q, t⟩ := x
    change ((each (fun x => dequeue x.1 x.2) l (dequeue q t c)).arb.queues.get o).count u = _
    rw [ih, Laws.dequeue_queues, Laws.PerPort.get_set, List.count_cons]
    by_cases ho : o = q
    · subst ho
      rw [if_pos rfl, List.count_erase]
      by_cases hu : t = u
      · simp only [hu, beq_self_eq_true, if_true]
        omega
      · have hne : ((o, t) == (o, u)) = false := by simp [hu]
        rw [if_neg (by simpa using hu), hne]
        simp
    · rw [if_neg ho]
      have hne : ((q, t) == (o, u)) = false := by simp [Ne.symm ho]
      rw [hne]
      simp

theorem dequeue_pointer (p : Port) (t : Tag) (c : Chip) : (dequeue p t c).arb.pointer = c.arb.pointer := by
  unfold dequeue
  dsimp only
  split <;> dsimp only [Chip.modArb] <;> split <;> rfl

theorem dequeue_map (p : Port) (t : Tag) (c : Chip) : ∃ u, (dequeue p t c).map = { c.map with usage := u } := by
  unfold dequeue
  dsimp only
  split <;> exact ⟨_, rfl⟩

theorem Answering.each {α : Type} {f : α → Chip → Chip} (hf : ∀ a, Answering (f a)) (l : List α) : Answering (each f l) := by
  induction l with
  | nil => exact Answering.id
  | cons a l ih => exact (hf a).comp ih

/-- Requests of sessions that speak, answered one after the other. -/
theorem each_respond_answered {asker : Option Port} {s : State} {l : List (Port × Tag)} {c : Chip} (h : Goes asker s c)
    {o : Port} {u : Tag} (hm : (o, u) ∈ l) (hp : Speaks s o) (out : Outcome) :
    (each (fun x => respond x.1 x.2 out []) l c).record o u = none ∧
      Answered s { s with chip := each (fun x => respond x.1 x.2 out []) l c } o u out [] := by
  induction l generalizing c with
  | nil => cases hm
  | cons x l ih =>
    have hfirst : Goes asker s (respond x.1 x.2 out [] c) := h.silent (Silent.respond ..)
    rcases List.mem_cons.1 hm with rfl | hm
    · have hrest := ((Answering.each (fun x : Port × Tag => Answering.respond x.1 x.2 out []) l).silent (respond o u out [] c))
      obtain ⟨hgone, hanswered⟩ := h.respond_answered hp u out []
      exact ⟨hrest.gone o u hgone, answered_mono hanswered hrest.sent⟩
    · exact ih hfirst hm

/-! ### The id counter (R40) -/

theorem idStep_iterate (k n : Nat) : Laws.idStep k n = idAfter^[k] n := by
  induction k generalizing n with
  | zero => rfl
  | succ k ih => exact ih _

theorem idAfter_eq (n : Nat) : idAfter n = if n < 65535 then n + 1 else 1 := by
  unfold idAfter
  by_cases h : n < 65535
  · rw [if_neg (show ¬ Config.maxHoldId ≤ n from Nat.not_le.2 h), if_pos h]
  · rw [if_pos (show Config.maxHoldId ≤ n from Nat.not_lt.1 h), if_neg h]

theorem answerPlacement_nextId (x : Hold) (o : Outcome) (w : List Word) (c : Chip) :
    (answerPlacement x o w c).hold.nextId = c.hold.nextId := by rw [Laws.answerPlacement_hold]

theorem removeHold_nextId (x : Hold) (c : Chip) : (removeHold x c).hold.nextId = c.hold.nextId := by
  unfold removeHold
  rw [Laws.holdsNotice_hold]
  rfl

theorem activateHold_nextId (x : Hold) (c : Chip) : (activateHold x c).hold.nextId = c.hold.nextId := by
  unfold activateHold
  rw [Laws.answerPlacement_hold, Laws.holdsNotice_hold]
  rfl

theorem endWait_nextId (x : Hold) (c : Chip) : (endWait x c).hold.nextId = c.hold.nextId := by
  unfold endWait
  split
  · exact activateHold_nextId x c
  · exact activateHold_nextId x c
  · rfl

theorem jobFailed_nextId (j : Job) (c : Chip) : (jobFailed j c).hold.nextId = c.hold.nextId := by
  cases j with
  | hold id =>
    rw [jobFailed_hold]
    unfold holdJobFailed
    split
    · rw [answerPlacement_nextId, removeHold_nextId]
      rfl
    · rfl
  | commit =>
    by_cases hc : ∃ info, c.map.commit = .persisting info
    · obtain ⟨info, hc⟩ := hc
      rw [jobFailed_commit hc, Laws.commitFailed_hold]
      rfl
    · rw [jobFailed_commit_none fun info hi => hc ⟨info, hi⟩]
      rfl

theorem settle_nextId (c : Chip) : (settle c).hold.nextId = c.hold.nextId := by
  have hbefore : (beforeWriter c).hold.nextId = c.hold.nextId := by
    rw [beforeWriter, Laws.drainTest_hold]
    exact Laws.each_proj (fun c => c.hold.nextId) _ endWait_nextId _ _
  rw [settle_eq]
  by_cases hx : (beforeWriter c).cfg.generation = 0xFFFFFFFF#32 ∧ (beforeWriter c).writerMayTake = true
  · rw [writerTake_exhausted hx.1 hx.2, Laws.each_proj (fun c => c.hold.nextId) _ jobFailed_nextId]
    exact hbefore
  · obtain ⟨u, heq, -⟩ := writerTake_takes hx
    rw [heq]
    exact hbefore

/-! ### The new hold (R30 to R32) -/

/-- The hold that a placement creates, before it waits (R30). -/
def fresh (s : State) (p : Port) (t : Tag) (q : PlaceParams) (w : Window) : Hold where
  id := freeId s.chip.hold.table.length s.chip.hold.nextId s.chip.hold.table
  cls := q.cls
  scope := q.scope
  range := q.range w
  owner := p
  expiry := q.expiry
  state := .pending []
  answerTo := some t

/-- The hold with its wait set. -/
def placed (s : State) (p : Port) (t : Tag) (q : PlaceParams) (w : Window) : Hold :=
  { fresh s p t q w with state := .pending (s.chip.waitSet (fresh s p t q w)) }

/-- The queued requests that the new hold removes (R31). -/
def conflicts (s : State) (p : Port) (t : Tag) (ws : List Word) (q : PlaceParams) (w : Window) : List (Port × Tag) :=
  Port.all.flatMap ((handed s p t .holdPlace ws).queuedConflicts (placed s p t q w))

/-- The blocks with the new hold, and without the requests that it blocks. -/
def withPlaced (s : State) (p : Port) (t : Tag) (ws : List Word) (q : PlaceParams) (w : Window) : Chip :=
  each (fun x => dequeue x.1 x.2) (conflicts s p t ws q w)
    ((handed s p t .holdPlace ws).modHold fun u =>
      { table := insertHold (placed s p t q w) u.table, nextId := idAfter (placed s p t q w).id })

/-- The answers HELD (R31). -/
def heldAnswers (s : State) (p : Port) (t : Tag) (ws : List Word) (q : PlaceParams) (w : Window) : Chip → Chip :=
  each (fun x => respond x.1 x.2 .held []) (conflicts s p t ws q w)

section
variable {s : State} {p : Port} {t : Tag} {ws : List Word} {q : PlaceParams} {w : Window}

theorem createHold_eq : createHold (asked s p t .holdPlace ws) q w (handed s p t .holdPlace ws) =
    conclude (heldAnswers s p t ws q w) (withPlaced s p t ws q w) := rfl

theorem answering_held : Answering (heldAnswers s p t ws q w) :=
  Answering.each (fun x : Port × Tag => Answering.respond x.1 x.2 .held []) _

theorem blocks_iff (h : Hold) (k : DataKind) (x : MediaRange) : h.blocksRequest k (some x) = true ↔
    (k = .write ∨ k = .discard ∨ (k = .read ∧ h.scope = .all)) ∧
      x.first < h.range.first + h.range.count ∧ h.range.first < x.first + x.count := by
  cases k <;> cases hs : h.scope <;> simp [Hold.blocksRequest, HoldScope.blocks, MediaRange.intersects, hs, and_comm]

/-- The wait set is what the statement says (R32). -/
theorem mem_waitSet (i : SlotNo) : i ∈ s.chip.waitSet (fresh s p t q w) ↔
    Waits s q.scope (w.base.toNat + q.offset.toNat) q.length.toNat i := by
  unfold Chip.waitSet Waits
  rw [List.mem_filter]
  cases hr : s.chip.slot i with
  | none => simp
  | some rec =>
    cases hh : rec.holder with
    | configuration => simp [hh]
    | port o =>
      cases hx : rec.range with
      | none => simp [hx, Hold.blocksRequest]
      | some x =>
        have hblocks := blocks_iff (fresh s p t q w) rec.op x
        simp only [Grants.mem_allSlots, true_and, hh, hx, ne_eq, reduceCtorEq, not_false_eq_true, decide_true,
          Bool.true_and, hblocks, Option.some.injEq]
        exact ⟨fun hm => ⟨rec, o, x, rfl, hh, hx, hm⟩, fun ⟨_, _, _, he, _, hx', hm⟩ => by
          subst he
          cases hx.symm.trans hx'
          exact hm⟩

theorem waits_nil_iff : (placed s p t q w).state = .pending [] ↔
    ¬ ∃ i, Waits s q.scope (w.base.toNat + q.offset.toNat) q.length.toNat i := by
  unfold placed
  simp only [HoldState.pending.injEq, List.eq_nil_iff_forall_not_mem, mem_waitSet, not_exists]

theorem handed_dataRecord (hfree : s.chip.record p t = none) (o : Port) (u : Tag) :
    (handed s p t .holdPlace ws).dataRecord o u = s.chip.dataRecord o u := by
  by_cases h : o = p ∧ u = t
  · obtain ⟨rfl, rfl⟩ := h
    have hrecord : (handed s o u .holdPlace ws).record o u = _ := Laws.withRecord_record ..
    unfold Chip.dataRecord
    rw [hrecord, hfree]
  · exact dataRecord_congr (withRecord_record_ne _ _ fun ho hu => h ⟨ho, hu⟩)

/-- A queued request that the hold blocks is among the conflicts as often as its queue names it. -/
theorem count_conflicts (hfree : s.chip.record p t = none) {o : Port} {u : Tag}
    (h : QueuedConflict s q.scope (w.base.toNat + q.offset.toNat) q.length.toNat o u) :
    (conflicts s p t ws q w).count (o, u) = (s.chip.arb.queues.get o).count u := by
  obtain ⟨-, d, x, hd, hx, hmeets⟩ := h
  have hone (o' : Port) : ((handed s p t .holdPlace ws).queuedConflicts (placed s p t q w) o').count (o, u) =
      if o' = o then (s.chip.arb.queues.get o).count u else 0 := by
    unfold Chip.queuedConflicts
    by_cases ho : o' = o
    · subst ho
      rw [if_pos rfl, List.count_map_of_injective _ (fun t => (o', t)) fun a b hab => (Prod.mk.inj hab).2]
      refine List.count_filter ?_
      simp only [handed_dataRecord hfree, hd]
      rw [hx, blocks_iff]
      exact hmeets
    · rw [if_neg ho, List.count_eq_zero]
      intro hm
      obtain ⟨v, -, hv⟩ := List.mem_map.1 hm
      exact ho (Prod.mk.inj hv).1
  unfold conflicts
  rw [List.count_flatMap]
  cases o <;> simp [Port.all, hone]

end

end Sys2Proof.Aftermath
end

section
/-! SUPPORT. HOLD-PLACE creates a hold (R30 to R34, R40). -/

namespace Sys2Proof.Aftermath

open Sys2Proof.Machine Sys2Proof.Safety Sys2Proof.Keeping Sys2Proof.HoldProofs Sys2Proof.Commands Sys2Proof.DataPath
  Sys2Proof.SlotOps Sys2Proof.Grants Sys2Proof.Management

section
variable {s : State} {p : Port} {t : Tag} {ws : List Word} {q : PlaceParams} {w : Window}

/-! ### The blocks with the new hold -/

theorem withPlaced_proj {β : Type} (g : Chip → β) (hg : ∀ p t c, g (dequeue p t c) = g c) :
    g (withPlaced s p t ws q w) = g ((handed s p t .holdPlace ws).modHold fun u =>
      { table := insertHold (placed s p t q w) u.table, nextId := idAfter (placed s p t q w).id }) :=
  Laws.each_proj g (fun x : Port × Tag => dequeue x.1 x.2) (fun x c => hg x.1 x.2 c) _ _

theorem withPlaced_table :
    (withPlaced s p t ws q w).hold.table = insertHold (placed s p t q w) s.chip.hold.table :=
  withPlaced_proj (fun c => c.hold.table) (by simp)

theorem withPlaced_nextId : (withPlaced s p t ws q w).hold.nextId = idAfter (placed s p t q w).id :=
  withPlaced_proj (fun c => c.hold.nextId) (by simp)

theorem withPlaced_cfg : (withPlaced s p t ws q w).cfg = s.chip.cfg := withPlaced_proj (fun c => c.cfg) (by simp)

theorem withPlaced_ctl : (withPlaced s p t ws q w).ctl = s.chip.ctl := withPlaced_proj (fun c => c.ctl) (by simp)

theorem withPlaced_commit : (withPlaced s p t ws q w).map.commit = s.chip.map.commit :=
  withPlaced_proj (fun c => c.map.commit) fun p t c => by obtain ⟨u, hu⟩ := dequeue_map p t c; rw [hu]

theorem withPlaced_goes : Goes (some p) s (withPlaced s p t ws q w) := by
  have hgoes : Goes (some p) s (handed s p t .holdPlace ws) := (Goes.start s).recorded (.inl rfl) t _
  have hput : Goes (some p) s ((handed s p t .holdPlace ws).modHold fun u =>
      { table := insertHold (placed s p t q w) u.table, nextId := idAfter (placed s p t q w).id }) :=
    hgoes.silent (Silent.of_same rfl rfl)
  exact hput.silent (Silent.each (fun (x : Port × Tag) c => Silent.dequeue x.1 x.2 c) _ _)

theorem withPlaced_fallen (hrange : HoldTableInRange s) (hserved : WriterServed s) :
    Fallen (some p) s (withPlaced s p t ws q w) := by
  have hmap (p : Port) (t : Tag) (c : Chip) : (dequeue p t c).map.active = c.map.active ∧
      (dequeue p t c).map.epoch = c.map.epoch := by
    obtain ⟨u, hu⟩ := dequeue_map p t c
    rw [hu]
    exact ⟨rfl, rfl⟩
  refine (Falls.of_goes withPlaced_goes (fun o => ?_) ?_ ?_ ?_ withPlaced_cfg).fallen hserved withPlaced_cfg ?_
  · refine (withPlaced_proj (fun c => (c.ports.get o).delivered) (by simp)).trans ?_
    exact withRecord_delivered ..
  · exact withPlaced_proj (fun c => c.map.active) fun p t c => (hmap p t c).1
  · exact withPlaced_proj (fun c => c.map.epoch) fun p t c => (hmap p t c).2
  · exact withPlaced_proj (fun c => c.arb.pointer) dequeue_pointer
  · obtain ⟨hlen, -, hascending⟩ := hrange
    rw [withPlaced_table]
    exact Laws.insertHold_ascending hascending (freeId_fresh _ _ (by omega))

theorem withPlaced_queues (hfree : s.chip.record p t = none) {o : Port} {u : Tag}
    (h : QueuedConflict s q.scope (w.base.toNat + q.offset.toNat) q.length.toNat o u) :
    u ∉ (withPlaced s p t ws q w).arb.queues.get o := by
  rw [← List.count_eq_zero]
  unfold withPlaced
  rw [each_dequeue_count, count_conflicts hfree h]
  exact Nat.sub_self _

theorem mem_conflicts (hfree : s.chip.record p t = none) {o : Port} {u : Tag}
    (h : QueuedConflict s q.scope (w.base.toNat + q.offset.toNat) q.length.toNat o u) :
    (o, u) ∈ conflicts s p t ws q w := by
  rw [← List.count_pos_iff, count_conflicts hfree h]
  exact List.count_pos_iff.2 h.1

/-! ### The end of the event -/

/-- The blocks after the event. -/
def afterPlace (s : State) (p : Port) (t : Tag) (ws : List Word) (q : PlaceParams) (w : Window) : Chip :=
  conclude (heldAnswers s p t ws q w) (withPlaced s p t ws q w)

theorem afterPlace_ends : Ends (settle (heldAnswers s p t ws q w (withPlaced s p t ws q w)))
    (settle (withPlaced s p t ws q w)) (afterPlace s p t ws q w) :=
  conclude_ends (fun d => (answering_held.silent d).sent) _

theorem held_table : (heldAnswers s p t ws q w (withPlaced s p t ws q w)).hold.table =
    insertHold (placed s p t q w) s.chip.hold.table := by rw [answering_held.hold, withPlaced_table]

theorem placed_mem : placed s p t q w ∈ (withPlaced s p t ws q w).hold.table := by
  rw [withPlaced_table]
  exact (Laws.mem_insertHold ..).2 (.inl rfl)

theorem placed_mem_held : placed s p t q w ∈ (heldAnswers s p t ws q w (withPlaced s p t ws q w)).hold.table := by
  rw [answering_held.hold]
  exact placed_mem

theorem idGiven (hlen : s.chip.hold.table.length < 65535) :
    IdGiven s { s with chip := afterPlace s p t ws q w } (placed s p t q w).id := by
  obtain ⟨k, -, hid, htaken, -⟩ := Laws.freeId_spec s.chip.hold.table.length s.chip.hold.nextId s.chip.hold.table
  refine ⟨freeId_fresh _ _ hlen, k, ?_, fun j hj => ?_, ?_⟩
  · rw [← idStep_iterate]
    exact hid
  · rw [← idStep_iterate]
    exact htaken j hj
  · rw [← idAfter_eq]
    change (afterPlace s p t ws q w).hold.nextId = _
    rw [afterPlace_ends.granted.hold, settle_nextId, answering_held.hold, withPlaced_nextId]

theorem afterPlace_conflict (hfree : s.chip.record p t = none) {o : Port} {u : Tag}
    (h : QueuedConflict s q.scope (w.base.toNat + q.offset.toNat) q.length.toNat o u) :
    u ∉ (afterPlace s p t ws q w).arb.queues.get o ∧
      (Speaks s o → (afterPlace s p t ws q w).record o u = none ∧
        Answered s { s with chip := afterPlace s p t ws q w } o u .held []) := by
  refine ⟨fun hm => withPlaced_queues hfree h (conclude_queues answering_held hm), fun hspeaks => ?_⟩
  have hm := mem_conflicts (ws := ws) hfree h
  exact ⟨ends_gone (fun d => (answering_held.silent d).sent) (each_respond_answered withPlaced_goes hm hspeaks .held).1,
    ends_sent answered_mono (fun d hd => (each_respond_answered hd hm hspeaks .held).2) withPlaced_goes⟩

/-- The jobs that the new hold brings, when no other hold has an empty wait set. -/
theorem newJobs_held (hholds : ∀ x ∈ s.chip.hold.table, x.state ≠ .pending []) :
    newJobs (heldAnswers s p t ws q w (withPlaced s p t ws q w)) =
      if q.cls = .fixed ∧ (placed s p t q w).state = .pending [] then [.hold (placed s p t q w).id] else [] := by
  have hinsert (l : List Hold) (hl : ∀ x ∈ l, x.state ≠ .pending []) :
      ((insertHold (placed s p t q w) l).filter fun x => x.cls = .fixed ∧ x.state = .pending []) =
        if q.cls = .fixed ∧ (placed s p t q w).state = .pending [] then [placed s p t q w] else [] := by
    have hrest (l : List Hold) (hl : ∀ x ∈ l, x.state ≠ .pending []) :
        (l.filter fun x => x.cls = .fixed ∧ x.state = .pending []) = [] :=
      List.filter_eq_nil_iff.2 fun x hx hd => hl x hx (of_decide_eq_true hd).2
    have hcls : (placed s p t q w).cls = q.cls := rfl
    induction l with
    | nil =>
      unfold insertHold
      rw [List.filter_cons, List.filter_nil]
      simp only [hcls, decide_eq_true_eq]
    | cons y l ih =>
      have hy : y.state ≠ .pending [] := hl y List.mem_cons_self
      have hl' : ∀ x ∈ l, x.state ≠ .pending [] := fun x hx => hl x (List.mem_cons_of_mem _ hx)
      unfold insertHold
      split
      · rw [List.filter_cons, hrest _ hl]
        simp only [hcls, decide_eq_true_eq]
      · rw [List.filter_cons, if_neg (by simp [hy]), ih hl']
  unfold newJobs
  rw [held_table, hinsert _ hholds]
  split <;> rfl

end

end Sys2Proof.Aftermath
end

section
/-! SUPPORT. HOLD-PLACE: the hold at the end of the event (R30 to R34, R40, R163, R164, R167). -/

namespace Sys2Proof.Aftermath

open Sys2Proof.Machine Sys2Proof.Safety Sys2Proof.Keeping Sys2Proof.HoldProofs Sys2Proof.Commands Sys2Proof.DataPath
  Sys2Proof.SlotOps Sys2Proof.Grants Sys2Proof.Management

section
variable {s : State} {p : Port} {t : Tag} {ws : List Word} {q : PlaceParams} {w : Window}

/-- The blocks after the answers HELD, before what follows. -/
abbrev answeredHeld (s : State) (p : Port) (t : Tag) (ws : List Word) (q : PlaceParams) (w : Window) : Chip :=
  heldAnswers s p t ws q w (withPlaced s p t ws q w)

theorem answeredHeld_ctl : (answeredHeld s p t ws q w).ctl = s.chip.ctl :=
  (Laws.each_proj (fun c => c.ctl) (fun x : Port × Tag => respond x.1 x.2 .held [])
    (fun _ _ => Laws.respond_ctl ..) _ _).trans withPlaced_ctl

theorem answeredHeld_cfg : (answeredHeld s p t ws q w).cfg = s.chip.cfg := (answering_held.cfg _).trans withPlaced_cfg

theorem beforeWriter_ctl (e : Chip) : (beforeWriter e).ctl = e.ctl := by
  rw [beforeWriter, Laws.drainTest_ctl, Laws.endWaits_ctl]

/-- Where nothing else is about to follow, the jobs before the writer's turn are the new hold's. -/
theorem answeredHeld_queue (hstill : Still s.chip) : (beforeWriter (answeredHeld s p t ws q w)).cfg =
    { s.chip.cfg with queue := newJobs (answeredHeld s p t ws q w) } := by
  obtain ⟨hcommit, -, hqueue, -⟩ := hstill
  have hbefore : beforeWriter (answeredHeld s p t ws q w) = endWaits (answeredHeld s p t ws q w) := by
    refine drainTest_same fun info left hc => absurd hc ?_
    rw [Laws.endWaits_map, answering_held.map, withPlaced_commit]
    exact hcommit info left
  rw [hbefore, endWaits_cfg, answeredHeld_cfg, hqueue, List.nil_append]

/-- Where the job of the new hold does not fail, the table has one record more, and nothing has been counted. -/
theorem afterPlace_length (hfallen : Fallen (some p) s (answeredHeld s p t ws q w))
    (hjob : q.cls ≠ .fixed ∨ (placed s p t q w).state ≠ .pending [] ∨ ¬ Exhausted s) (hstill : Exhausted s → Still s.chip) :
    (afterPlace s p t ws q w).hold.table.length = s.chip.hold.table.length + 1 ∧
      (afterPlace s p t ws q w).ctl = s.chip.ctl := by
  have hlength : (beforeWriter (answeredHeld s p t ws q w)).hold.table.length = s.chip.hold.table.length + 1 := by
    rw [beforeWriter_table hfallen.ascending, List.length_map, held_table, Laws.length_insertHold]
  have hctl := (beforeWriter_ctl (answeredHeld s p t ws q w)).trans answeredHeld_ctl
  rw [afterPlace_ends.granted.hold, afterPlace_ends.granted.ctl]
  by_cases hx : Exhausted s
  · have hqueue : (beforeWriter (answeredHeld s p t ws q w)).cfg.queue = [] := by
      rw [answeredHeld_queue (hstill hx)]
      change newJobs _ = []
      rw [newJobs_held (hstill hx).2.1, if_neg]
      rintro ⟨hfixed, hover⟩
      rcases hjob with h | h | h
      · exact h hfixed
      · exact h hover
      · exact h hx
    rw [settle_failed hfallen.toFalls hx, hqueue]
    exact ⟨hlength, hctl⟩
  · obtain ⟨u, heq, -⟩ := settle_taken hfallen.toFalls hx
    rw [heq]
    exact ⟨hlength, hctl⟩

/-! ### The hold by itself -/

theorem afterPlace_others (hfallen : Fallen (some p) s (answeredHeld s p t ws q w)) {x : Hold}
    (hx : x ∈ s.chip.hold.table) (hstate : x.state ≠ .pending []) : x ∈ (afterPlace s p t ws q w).hold.table := by
  rw [afterPlace_ends.granted.hold]
  exact (settled hfallen).others x (by rw [held_table]; exact (Laws.mem_insertHold ..).2 (.inr hx)) hstate

theorem afterPlace_waits (hfallen : Fallen (some p) s (answeredHeld s p t ws q w))
    (hwaits : (placed s p t q w).state ≠ .pending []) : placed s p t q w ∈ (afterPlace s p t ws q w).hold.table := by
  rw [afterPlace_ends.granted.hold]
  exact (settled hfallen).others _ placed_mem_held hwaits

theorem afterPlace_ended (hfallen : Fallen (some p) s (withPlaced s p t ws q w))
    (hover : (placed s p t q w).state = .pending []) :
    WaitEnded s { s with chip := afterPlace s p t ws q w } (placed s p t q w) (some p) :=
  waitEnded_ends ((settled (hfallen.answering answering_held)).waits _ placed_mem_held hover)
    ((settled hfallen).waits _ placed_mem hover) afterPlace_ends

/-- The job of the new hold stands behind the earlier ones (R163). -/
theorem afterPlace_jobs (hfallen : Fallen (some p) s (answeredHeld s p t ws q w)) (hx : ¬ Exhausted s)
    (hfixed : q.cls = .fixed) (hover : (placed s p t q w).state = .pending [])
    (hholds : ∀ x ∈ s.chip.hold.table, x.state ≠ .pending []) : ∃ last, (last = [] ∨ last = [Job.commit]) ∧
      jobsOf (afterPlace s p t ws q w).cfg = jobsOf s.chip.cfg ++ .hold (placed s p t q w).id :: last := by
  obtain ⟨last, hlast, hjobs⟩ := (settled hfallen).jobs hx
  refine ⟨last, hlast, ?_⟩
  rw [afterPlace_ends.granted.jobs, hjobs, answeredHeld_cfg, newJobs_held hholds, if_pos ⟨hfixed, hover⟩]
  simp

/-! ### The job fails for want of a generation (R164, R167) -/

theorem filter_insertHold_id {h : Hold} {l : List Hold} (hl : ∀ x ∈ l, x.id ≠ h.id) :
    (insertHold h l).filter (fun x => x.id ≠ h.id) = l := by
  induction l with
  | nil => simp [insertHold]
  | cons y l ih =>
    have hrest := ih fun x hx => hl x (List.mem_cons_of_mem _ hx)
    have hy := hl y List.mem_cons_self
    have hself : (l.filter fun x => x.id ≠ h.id) = l := filter_ids_self fun x hx => hl x (List.mem_cons_of_mem _ hx)
    unfold insertHold
    split
    · rw [List.filter_cons_of_neg (by simp), List.filter_cons_of_pos (by simpa using hy), hself]
    · rw [List.filter_cons_of_pos (by simpa using hy), hrest]

/-- Where nothing else follows, a job that fails leaves the table and the jobs as they were, and is counted. -/
theorem afterPlace_failed (hfallen : Fallen (some p) s (answeredHeld s p t ws q w)) (hx : Exhausted s)
    (hfixed : q.cls = .fixed) (hover : (placed s p t q w).state = .pending []) (hstill : Still s.chip)
    (hfresh : ∀ x ∈ s.chip.hold.table, x.id ≠ (placed s p t q w).id) :
    (afterPlace s p t ws q w).hold.table = s.chip.hold.table ∧ (afterPlace s p t ws q w).cfg = s.chip.cfg ∧
      (afterPlace s p t ws q w).ctl =
        { s.chip.ctl with persistFailures := min 255 (s.chip.ctl.persistFailures + 1) } := by
  have hcfg := answeredHeld_queue (p := p) (t := t) (ws := ws) (q := q) (w := w) hstill
  rw [newJobs_held hstill.2.1, if_pos ⟨hfixed, hover⟩] at hcfg
  have hsettle : settle (answeredHeld s p t ws q w) =
      jobFailed (.hold (placed s p t q w).id) (emptied (beforeWriter (answeredHeld s p t ws q w))) := by
    rw [settle_failed hfallen.toFalls hx, hcfg]
    rfl
  have hsettled : (settle (answeredHeld s p t ws q w)).cfg = s.chip.cfg := by
    rw [hsettle, Laws.jobFailed_cfg]
    change { (beforeWriter (answeredHeld s p t ws q w)).cfg with queue := [] } = _
    rw [hcfg]
    exact congrArg (fun l => { s.chip.cfg with queue := l }) hstill.2.2.1.symm
  refine ⟨?_, ?_, ?_⟩
  · rw [afterPlace_ends.granted.hold, hsettle, jobFailed_table]
    change without _ (beforeWriter (answeredHeld s p t ws q w)).hold.table = _
    have hmap : (s.chip.hold.table.map fun h => if h.state = .pending [] then Laws.endedHold h else h) =
        s.chip.hold.table := by
      exact (List.map_congr_left fun x hx => if_neg (hstill.2.1 x hx)).trans (List.map_id _)
    have hids : ((fun x : Hold => decide (x.id ≠ (placed s p t q w).id)) ∘
        fun h => if h.state = .pending [] then Laws.endedHold h else h) = fun x => decide (x.id ≠ (placed s p t q w).id) := by
      funext x
      simp only [Function.comp_apply]
      split
      · rw [Laws.endedHold_id]
      · rfl
    have hwithout (l : List Hold) : without [.hold (placed s p t q w).id] l =
        l.filter fun x => x.id ≠ (placed s p t q w).id := by simp [without]
    rw [beforeWriter_table hfallen.ascending, held_table, hwithout, List.filter_map, hids, filter_insertHold_id hfresh, hmap]
  · rw [afterPlace_ends.granted.writer fun j hj => ?_, hsettled]
    rw [hsettled] at hj
    exact absurd (hx.2.1.symm.trans hj) (by simp)
  · have hcount := each_jobFailed_ctl [.hold (placed s p t q w).id]
      (emptied (beforeWriter (answeredHeld s p t ws q w))) (.inl (by simp))
    have hctl : (emptied (beforeWriter (answeredHeld s p t ws q w))).ctl = s.chip.ctl :=
      (beforeWriter_ctl _).trans answeredHeld_ctl
    rw [afterPlace_ends.granted.ctl, hsettle, ← hctl]
    exact hcount

/-! ### The request passes (R26, R27) -/

theorem placeVerdict_none (hin : q.offset.toNat + q.length.toNat ≤ w.length.toNat)
    (hform : q.cls ≠ .fixed ∨ q.expiry = none) (hroom : ¬ HoldsFull s q.cls) (hfault : s.chip.cfg.bridge ≠ .fault)
    (hrecover : s.chip.cfg.bridge ≠ .recover ∨ q.cls ≠ .fixed) :
    (handed s p t .holdPlace ws).placeVerdict q w = none := by
  have hroom' := fun h => hroom ((holdsFull_iff (ws := ws) (p := p) t q.cls).1 h)
  have hform' : ¬ (q.cls = .fixed ∧ q.expiry.isSome = true) := by
    rintro ⟨hfixed, hsome⟩
    rcases hform with h | h
    · exact h hfixed
    · simp [h] at hsome
  have hrecover' : ¬ (s.chip.cfg.bridge = .recover ∧ q.cls = .fixed) := fun h => hrecover.elim (· h.1) (· h.2)
  have hbridge : (handed s p t .holdPlace ws).cfg.bridge = s.chip.cfg.bridge := rfl
  unfold Chip.placeVerdict
  rw [if_neg (Nat.not_lt.2 hin), if_neg hform', if_neg hroom', hbridge, if_neg hfault, if_neg hrecover']

end

/-- Settles O41. -/
theorem holdPlaceCreatesAHold : Obligations.HoldPlaceCreatesAHold := by
  unfold Obligations.HoldPlaceCreatesAHold
  intro s p r ws q w hready hcarries hlist hmay hw hfree hin hform hroom hfault hrecover hrange hserved first waits
  have hspeaks : Speaks s p := hready.1
  have hexec : exec (.holdPlace p r) s = .next { s with chip := afterPlace s p r.tag ws q w } := by
    refine does_of_taker (k := .holdPlace) hready hcarries (by decide) ?_
    change takeHoldPlace _ _ = _
    rw [takeHoldPlace_of_found r.tag hlist hmay hw hfree, placeVerdict_none hin hform hroom hfault hrecover]
    rfl
  have hfallen := withPlaced_fallen (p := p) (t := r.tag) (ws := ws) (q := q) (w := w) hrange hserved
  have hfallen' : Fallen (some p) s (answeredHeld s p r.tag ws q w) := hfallen.answering answering_held
  have hlen : s.chip.hold.table.length < 65535 := by
    obtain ⟨h, -⟩ := hrange
    omega
  have hid := idGiven (s := s) (p := p) (t := r.tag) (ws := ws) (q := q) (w := w) hlen
  have hwaits : (placed s p r.tag q w).state = .pending [] ↔ ¬ waits := waits_nil_iff
  refine ⟨fun hjob => ?_, fun hfixed hnone hx => ?_⟩
  · have hfound : ∃ h ∈ (afterPlace s p r.tag ws q w).hold.table,
        (h.id = (placed s p r.tag q w).id ∧ h.cls = q.cls ∧ h.scope = q.scope ∧ h.range = ⟨first, q.length.toNat⟩ ∧
          h.owner = p ∧ h.expiry = q.expiry) ∧
        (waits → h.answerTo = some r.tag ∧
          ∃ waits, h.state = .pending waits ∧ ∀ i, i ∈ waits ↔ Waits s q.scope first q.length.toNat i) ∧
        (¬ waits →
          (q.cls = .fixed → h.state = .persisting ∧ h.answerTo = some r.tag ∧
            ((∀ x ∈ s.chip.hold.table, x.state ≠ .pending []) → ∃ last, (last = [] ∨ last = [.commit]) ∧
              jobsOf (afterPlace s p r.tag ws q w).cfg = jobsOf s.chip.cfg ++ .hold h.id :: last)) ∧
          (q.cls ≠ .fixed → h.state = .active (q.expiry.map (· * 1000)) ∧ h.answerTo = none ∧
            HoldsTold s { s with chip := afterPlace s p r.tag ws q w } h.range (some p) ∧
            Answered s { s with chip := afterPlace s p r.tag ws q w } p r.tag .ok
              [item h.id, item q.cls.code, item q.scope.code, item first, item q.length.toNat])) := by
      by_cases hw' : waits
      · exact ⟨_, afterPlace_waits hfallen' fun he => hwaits.1 he hw', ⟨rfl, rfl, rfl, rfl, rfl, rfl⟩,
          fun _ => ⟨rfl, _, rfl, mem_waitSet⟩, fun h => absurd hw' h⟩
      · have hover := hwaits.2 hw'
        obtain ⟨hactivated, hpersists⟩ := afterPlace_ended hfallen hover
        by_cases hfixed : q.cls = .fixed
        · have hx : ¬ Exhausted s := (hjob.resolve_left (not_not.2 hfixed)).resolve_left hw'
          obtain ⟨hmem, -⟩ := (hpersists hfixed).1 hx
          exact ⟨_, hmem, ⟨rfl, rfl, rfl, rfl, rfl, rfl⟩, fun h => absurd h hw', fun _ => ⟨fun _ => ⟨rfl, rfl,
            fun hholds => afterPlace_jobs hfallen' hx hfixed hover hholds⟩, fun h => absurd hfixed h⟩⟩
        · obtain ⟨hmem, htold, hanswered⟩ := hactivated hfixed
          exact ⟨_, hmem, ⟨rfl, rfl, rfl, rfl, rfl, rfl⟩, fun h => absurd h hw', fun _ => ⟨fun h => absurd h hfixed,
            fun _ => ⟨rfl, rfl, htold, (hanswered r.tag rfl hspeaks).2⟩⟩⟩
    obtain ⟨h, hmem, ⟨hsid, hcls, hscope, hrange', howner, hexpiry⟩, hwaiting, hended⟩ := hfound
    exact ⟨_, h, hexec, hmem, by rw [hsid]; exact hid, hcls, hscope, hrange', howner, hexpiry,
      afterPlace_length hfallen' (hjob.imp id (Or.imp (fun hw he => hwaits.1 he hw) id)),
      fun x => afterPlace_others hfallen', fun o u => afterPlace_conflict hready.2,
      (writerServed_iff _).2 (Served.conclude _ _), hwaiting, hended⟩
  · have hover := hwaits.2 hnone
    obtain ⟨-, hpersists⟩ := afterPlace_ended hfallen hover
    obtain ⟨hgone, hanswered⟩ := (hpersists hfixed).2 hx
    obtain ⟨hrecord, hsent⟩ := hanswered r.tag rfl hspeaks
    exact ⟨_, _, hexec, hid, hgone, hrecord, hsent, fun hstill =>
      afterPlace_failed hfallen' hx hfixed hover hstill (freeId_fresh _ _ hlen)⟩

end Sys2Proof.Aftermath
end

section
/-! SUPPORT. The M-link's reports and the bring-up attempt (R116, R131, R132, R134). -/

namespace Sys2Proof.Aftermath

open Sys2Proof.Machine Sys2Proof.Safety Sys2Proof.Keeping Sys2Proof.HoldProofs Sys2Proof.Commands Sys2Proof.DataPath
  Sys2Proof.SlotOps Sys2Proof.Grants

/-! ### Every slot at FREE (R133, R174) -/

theorem each_freeSlot_slot (l : List SlotNo) (c : Chip) (j : SlotNo) :
    (each freeSlot l c).slot j = if j ∈ l then none else c.slot j := by
  induction l generalizing c with
  | nil => rfl
  | cons i l ih =>
    change (each freeSlot l (freeSlot i c)).slot j = _
    rw [ih, freeSlot_slot]
    by_cases hj : j ∈ l
    · simp [hj]
    · by_cases hi : j = i <;> simp [hi, hj]

theorem freeAllSlots_slot (c : Chip) (j : SlotNo) : (freeAllSlots c).slot j = none := by
  rw [freeAllSlots, each_freeSlot_slot, if_pos (Grants.mem_allSlots j)]

theorem freeAllSlots_cfg (c : Chip) : (freeAllSlots c).cfg = c.cfg := Laws.each_proj (fun c => c.cfg) _ (by simp) _ _

theorem freeAllSlots_ctl (c : Chip) : (freeAllSlots c).ctl = c.ctl := Laws.each_proj (fun c => c.ctl) _ (by simp) _ _

theorem freeAllSlots_sent (c : Chip) : (freeAllSlots c).sent = c.sent := Laws.each_proj (fun c => c.sent) _ (by simp) _ _

theorem freeAllSlots_mlink (c : Chip) : (freeAllSlots c).mlink = { c.mlink with slots := (freeAllSlots c).mlink.slots } := by
  have h (l : List SlotNo) (c : Chip) : ∃ x, (each freeSlot l c).mlink = { c.mlink with slots := x } := by
    induction l generalizing c with
    | nil => exact ⟨_, rfl⟩
    | cons i l ih =>
      obtain ⟨x, hx⟩ := ih (freeSlot i c)
      exact ⟨x, hx.trans (by rw [freeSlot_mlink])⟩
  obtain ⟨x, hx⟩ := h allSlots c
  rw [freeAllSlots, hx]

/-! ### The end of an event outside SERVICE -/

theorem settle_cfg (e : Chip) : ∃ q w, (settle e).cfg = { e.cfg with queue := q, writer := w } := by
  obtain ⟨last, -, hcfg⟩ := beforeWriter_cfg e
  rw [settle_eq]
  unfold writerTake
  split
  · split
    · rw [Laws.each_proj (fun c => c.cfg) _ (by simp)]
      exact ⟨[], e.cfg.writer, by rw [Laws.modCfg_cfg, hcfg]⟩
    · split
      · exact ⟨_, _, by rw [Laws.modCfg_cfg, hcfg]⟩
      · exact ⟨_, e.cfg.writer, by rw [hcfg]⟩
  · exact ⟨_, e.cfg.writer, by rw [hcfg]⟩

/-- Outside SERVICE nothing is granted at the end of an event. -/
theorem conclude_id_outside {e : Chip} (h : e.cfg.bridge ≠ .service) : conclude id e = eachPort closeIfIdle (settle e) := by
  rw [conclude_id_eq]
  refine Laws.arbitrate_noGrant (.inl ?_)
  obtain ⟨q, w, hcfg⟩ := settle_cfg e
  rw [Laws.eachPort_proj (fun c => c.cfg) _ (by simp), hcfg]
  exact h

theorem conclude_id_mlink_outside {e : Chip} (h : e.cfg.bridge ≠ .service) : (conclude id e).mlink = e.mlink := by
  rw [conclude_id_outside h, Laws.eachPort_proj (fun c => c.mlink) _ (by simp), Laws.settle_mlink]

/-! ### LINK-RESET (R134, R174) -/

theorem sendLinkReset_start {c : Chip} (h : c.cfg.bridge = .start) :
    sendLinkReset c = conclude id (freeAllSlots (sendMedia .linkReset c)) := by
  have hbridge : (sendMedia .linkReset c).cfg.bridge = .start := by rw [Laws.sendMedia_cfg]; exact h
  exact if_pos hbridge

theorem sendLinkReset_other {c : Chip} (h : c.cfg.bridge ≠ .start) : sendLinkReset c = sendMedia .linkReset c := by
  have hbridge : (sendMedia .linkReset c).cfg.bridge ≠ .start := by rw [Laws.sendMedia_cfg]; exact h
  exact if_neg hbridge

/-- The controller after LINK-RESET in START: every slot is FREE. -/
theorem sendLinkReset_mlink {c : Chip} (h : c.cfg.bridge = .start) :
    (sendLinkReset c).mlink = { c.mlink with slots := (sendLinkReset c).mlink.slots } ∧
      ∀ j, (sendLinkReset c).slot j = none := by
  have hstart : (freeAllSlots (sendMedia .linkReset c)).cfg.bridge ≠ .service := by
    rw [freeAllSlots_cfg, Laws.sendMedia_cfg, h]
    decide
  have hmlink : (sendLinkReset c).mlink = (freeAllSlots (sendMedia .linkReset c)).mlink := by
    rw [sendLinkReset_start h, conclude_id_mlink_outside hstart]
  refine ⟨?_, fun j => ?_⟩
  · rw [hmlink, freeAllSlots_mlink, Laws.sendMedia_mlink]
  · rw [slot_congr (congrArg MlinkCtl.slots hmlink), freeAllSlots_slot]

theorem sendLinkReset_sent {c : Chip} (h : c.mlink.link = .up) : c.sent ++ [.toMedia .linkReset] <+: (sendLinkReset c).sent := by
  have hsent : (sendMedia .linkReset c).sent = c.sent ++ [.toMedia .linkReset] := by rw [Laws.sendMedia_up h]; rfl
  by_cases hstart : c.cfg.bridge = .start
  · rw [sendLinkReset_start hstart, ← hsent, ← freeAllSlots_sent]
    exact (Onward.conclude (answers := id) Onward.refl _).sent
  · rw [sendLinkReset_other hstart, hsent]

/-! ### The reports -/

section
variable {c : Chip} {step : AttemptStep} {left : Nat}

theorem mlinkUp_of_not (h : ∀ left, c.mlink.bringUp ≠ .attempt .awaitLinkUp left) : mlinkUp c = setMlink .up c := by
  unfold mlinkUp
  dsimp only
  split
  · rename_i left hb; exact absurd hb (h left)
  all_goals rfl

theorem mlinkUp_awaits (h : c.mlink.bringUp = .attempt .awaitLinkUp left) :
    mlinkUp c = sendLinkReset (setBringUp (.attempt .awaitReady left) (setMlink .up c)) := by
  unfold mlinkUp
  dsimp only
  rw [show (setMlink .up c).mlink.bringUp = .attempt .awaitLinkUp left from h]

theorem mlinkDown_attempt (hb : c.cfg.bridge = .recover ∨ c.cfg.bridge = .start) (h : c.mlink.bringUp = .attempt step left) :
    mlinkDown c = setBringUp (.attempt .awaitLinkUp left) (setMlink .down c) := by
  unfold mlinkDown
  dsimp only
  rw [show (setMlink .down c).mlink.bringUp = .attempt step left from h]
  rcases hb with hb | hb <;> rw [show (setMlink .down c).cfg.bridge = _ from hb]

theorem mlinkDown_fault (hb : c.cfg.bridge = .fault) : mlinkDown c = setMlink .down c := by
  unfold mlinkDown
  dsimp only
  rw [show (setMlink .down c).cfg.bridge = _ from hb]

theorem linkReadyTaken_awaits (h : c.mlink.bringUp = .attempt .awaitReady left) :
    linkReadyTaken c = sendMedia .identify (setBringUp (.attempt .awaitReply left) c) := by
  unfold linkReadyTaken
  rw [h]

theorem linkReadyTaken_of_not (h : ∀ left, c.mlink.bringUp ≠ .attempt .awaitReady left) : linkReadyTaken c = c := by
  unfold linkReadyTaken
  split
  · rename_i left hb; exact absurd hb (h left)
  all_goals rfl

end

/-- Settles O51. -/
theorem mlinkReportsMoveTheAttempt : Obligations.MlinkReportsMoveTheAttempt := by
  unfold Obligations.MlinkReportsMoveTheAttempt
  intro s hhigh
  refine ⟨does_of_action hhigh nofun nofun rfl, fun hnot => does_of_action hhigh nofun nofun (mlinkUp_of_not hnot),
    fun left hawaits => ⟨fun hbridge => ?_, fun hbridge => ?_⟩, fun step left hbridge hattempt =>
    does_of_action hhigh nofun nofun (mlinkDown_attempt hbridge hattempt), fun hbridge =>
    does_of_action hhigh nofun nofun (mlinkDown_fault hbridge), fun left hawaits hup => ?_, fun hnot =>
    does_of_action hhigh nofun nofun (linkReadyTaken_of_not hnot)⟩
  · refine does_of_action hhigh nofun nofun ((mlinkUp_awaits hawaits).trans ?_)
    rw [sendLinkReset_other (c := setBringUp (.attempt .awaitReady left) (setMlink .up s.chip)) hbridge]
    exact Laws.sendMedia_up rfl _
  · have hdoes : Does .mlinkLinkUp s _ := does_of_action hhigh nofun nofun (mlinkUp_awaits hawaits)
    have hstart : (setBringUp (.attempt .awaitReady left) (setMlink .up s.chip)).cfg.bridge = .start := hbridge
    obtain ⟨hmlink, hslots⟩ := sendLinkReset_mlink hstart
    obtain ⟨after, hafter⟩ := sendLinkReset_sent (c := setBringUp (.attempt .awaitReady left) (setMlink .up s.chip)) rfl
    exact ⟨_, after, hdoes, by rw [hmlink]; rfl, by rw [hmlink]; rfl, hslots, hafter.symm⟩
  · refine does_of_action hhigh nofun nofun ((linkReadyTaken_awaits hawaits).trans ?_)
    exact Laws.sendMedia_up (c := setBringUp (.attempt .awaitReply left) s.chip) hup _

end Sys2Proof.Aftermath
end

section
/-! SUPPORT. The in-flight counts of ports and windows through the end of an event and of a session (R6, R48, R119). -/

namespace Sys2Proof.Counts

open Sys2Proof.Machine Sys2Proof.Safety Sys2Proof.Keeping Sys2Proof.Commands Sys2Proof.DataPath Sys2Proof.SlotOps
  Sys2Proof.Grants Sys2Proof.Pages Sys2Proof.Aftermath

/-- Whether a slot entry counts for port `p`. -/
def portShare (p : Port) (x : Option SlotRec) : Bool := decide (x.map SlotRec.holder = some (.port p))

/-- Whether a slot entry counts for window `w`. -/
def windowShare (w : WindowNo) (x : Option SlotRec) : Bool :=
  x.any fun r => decide (r.holder ≠ .configuration) && decide (r.window = some w)

/-- The in-flight counts of ports and windows are the numbers of slots they hold (R6, R48). -/
structure CountsExact (c : Chip) : Prop where
  port : ∀ p, (c.ports.get p).inFlight = (heldSlots c p).length
  window : ∀ w, (c.map.usage.get w).inFlight = (windowSlots c w).length

theorem heldSlots_eq (c : Chip) (p : Port) : heldSlots c p = allSlots.filter fun i => portShare p (c.slot i) := rfl

theorem windowSlots_eq (c : Chip) (w : WindowNo) : windowSlots c w = allSlots.filter fun i => windowShare w (c.slot i) := by
  unfold windowSlots
  refine List.filter_congr fun i _ => ?_
  unfold windowShare
  cases c.slot i <;> rfl

theorem countsExact_of_slotTable {s : State} (h : SlotTableExact s) : CountsExact s.chip := by
  obtain ⟨-, -, -, -, -, hport, hwindow⟩ := h
  exact ⟨hport, hwindow⟩

/-- Two filters that differ at one slot alone. -/
theorem length_filter_update {i : SlotNo} {f g : SlotNo → Bool} (h : ∀ j, j ≠ i → f j = g j) :
    (allSlots.filter f).length + (g i).toNat = (allSlots.filter g).length + (f i).toNat := by
  have hsum (f : SlotNo → Bool) : (allSlots.filter f).length = (allSlots.map fun j => (f j).toNat).sum := by
    rw [← List.countP_eq_length_filter]
    induction allSlots with
    | nil => rfl
    | cons j l ih =>
      rw [List.countP_cons, List.map_cons, List.sum_cons, ih]
      cases f j <;> simp [Nat.add_comm]
  rw [hsum, hsum]
  exact sum_map_update (f := fun j => (f j).toNat) (g := fun j => (g j).toNat) nodup_allSlots (Grants.mem_allSlots i)
    fun j hj => by rw [h j hj]

namespace CountsExact

variable {c d : Chip}

/-- No count and no slot's loan changes. -/
theorem of_shares (h : CountsExact c) (hports : ∀ p, (d.ports.get p).inFlight = (c.ports.get p).inFlight)
    (husage : ∀ w, (d.map.usage.get w).inFlight = (c.map.usage.get w).inFlight)
    (hslots : ∀ i, (∀ p, portShare p (d.slot i) = portShare p (c.slot i)) ∧
      ∀ w, windowShare w (d.slot i) = windowShare w (c.slot i)) : CountsExact d where
  port p := by
    rw [hports, h.port, heldSlots_eq, heldSlots_eq]
    exact congrArg List.length (List.filter_congr fun i _ => ((hslots i).1 p).symm)
  window w := by
    rw [husage, h.window, windowSlots_eq, windowSlots_eq]
    exact congrArg List.length (List.filter_congr fun i _ => ((hslots i).2 w).symm)

theorem of_same (h : CountsExact c) (hports : ∀ p, (d.ports.get p).inFlight = (c.ports.get p).inFlight)
    (husage : d.map.usage = c.map.usage) (hslots : d.mlink.slots = c.mlink.slots) : CountsExact d :=
  h.of_shares hports (fun w => by rw [husage]) fun i => by
    rw [show d.slot i = c.slot i by unfold Chip.slot; rw [hslots]]
    exact ⟨fun _ => rfl, fun _ => rfl⟩

theorem of_stays (h : CountsExact c) (hports : PortsStay c d) (husage : d.map.usage = c.map.usage)
    (hslots : d.mlink.slots = c.mlink.slots) : CountsExact d :=
  h.of_same (fun p => (hports p).2.2) husage hslots

/-- Slot `i` gets the entry `x`, and the counts follow. -/
theorem of_slot (h : CountsExact c) (i : SlotNo) (hslots : ∀ j, j ≠ i → d.slot j = c.slot j)
    (hports : ∀ p, (d.ports.get p).inFlight + (portShare p (c.slot i)).toNat =
      (c.ports.get p).inFlight + (portShare p (d.slot i)).toNat)
    (husage : ∀ w, (d.map.usage.get w).inFlight + (windowShare w (c.slot i)).toNat =
      (c.map.usage.get w).inFlight + (windowShare w (d.slot i)).toNat) : CountsExact d where
  port p := by
    have hlength := length_filter_update (i := i) (f := fun j => portShare p (d.slot j)) (g := fun j => portShare p (c.slot j))
      fun j hj => by rw [hslots j hj]
    have hp := hports p
    rw [h.port, heldSlots_eq] at hp
    rw [heldSlots_eq]
    omega
  window w := by
    have hlength := length_filter_update (i := i) (f := fun j => windowShare w (d.slot j))
      (g := fun j => windowShare w (c.slot j)) fun j hj => by rw [hslots j hj]
    have hw := husage w
    rw [h.window, windowSlots_eq] at hw
    rw [windowSlots_eq]
    omega

/-- A count that is exact is not below one share of it. -/
theorem share_le (h : CountsExact c) (i : SlotNo) : (∀ p, (portShare p (c.slot i)).toNat ≤ (c.ports.get p).inFlight) ∧
    ∀ w, (windowShare w (c.slot i)).toNat ≤ (c.map.usage.get w).inFlight := by
  have hle (f : SlotNo → Bool) : (f i).toNat ≤ (allSlots.filter f).length := by
    cases hf : f i with
    | false => exact Nat.zero_le _
    | true => exact List.length_pos_of_mem (List.mem_filter.2 ⟨Grants.mem_allSlots i, hf⟩)
  constructor
  · intro p
    rw [h.port, heldSlots_eq]
    exact hle fun j => portShare p (c.slot j)
  · intro w
    rw [h.window, windowSlots_eq]
    exact hle fun j => windowShare w (c.slot j)

theorem freeSlot (h : CountsExact c) (i : SlotNo) : CountsExact (freeSlot i c) := by
  obtain ⟨hport, hwindow⟩ := h.share_le i
  refine h.of_slot i (fun j hj => by rw [freeSlot_slot, if_neg hj]) (fun p => ?_) fun w => ?_
  · have hp := hport p
    rw [freeSlot_inFlight, freeSlot_slot, if_pos rfl]
    unfold portShare at *
    split
    · rename_i he
      simp [he] at hp ⊢
      omega
    · rename_i he
      simp [he]
  · have hw := hwindow w
    rw [freeSlot_usage, freeSlot_slot, if_pos rfl]
    change _ - (if windowShare w (c.slot i) = true then 1 else 0) + _ = _ + (windowShare w none).toNat
    rw [show windowShare w none = false from rfl]
    cases he : windowShare w (c.slot i) with
    | false => simp
    | true =>
      rw [he] at hw
      simp at hw ⊢
      omega

theorem grantHead_inFlight {reserved : Bool} {p q : Port} {t : Tag} {r : DataRec} {i : SlotNo}
    (hd : c.dataRecord p t = some r) : ((grantHead reserved p t r i c).ports.get q).inFlight =
      (c.ports.get q).inFlight + if q = p then 1 else 0 := by
  have htaken : ((takenByGrant reserved p r c).ports.get q).inFlight = (c.ports.get q).inFlight + if q = p then 1 else 0 := by
    simp only [takenByGrant, Laws.PerPort.get_modify]
    split <;> rfl
  rw [grantHead_eq_of_record hd]
  split
  · rw [Laws.sendPort_ports, withRecord_inFlight]
    exact htaken
  · rw [withRecord_inFlight, Laws.sendMedia_ports]
    exact htaken

theorem granted (h : CountsExact c) (hd : grantDecision c = some d) : CountsExact d := by
  obtain ⟨-, ⟨j, i, -, hi, rfl⟩ | ⟨reserved, p, t, r, i, c', hc', -, hhead, hi, rfl⟩⟩ := grantDecision_cases hd
  · have hfree := Grants.freeSlot_free hi
    refine h.of_slot i (fun n hn => by rw [grantPersist_slot, if_neg hn]) (fun q => ?_) fun w => ?_
    all_goals
      rw [grantPersist_slot, if_pos rfl, hfree]
      simp [portShare, windowShare, configSlot]
  · have hfree := Grants.freeSlot_free hi
    have hc : c'.ports = c.ports ∧ c'.map = c.map ∧ c'.slot = c.slot := by rcases hc' with rfl | rfl <;> exact ⟨rfl, rfl, rfl⟩
    obtain ⟨hports, hmap, hslot⟩ := hc
    have hd : c'.dataRecord p t = some r := by rcases hc' with rfl | rfl <;> exact (Laws.headOf_iff.1 hhead).2
    refine h.of_slot i (fun n hn => by rw [grantHead_slot, if_neg hn, hslot]) (fun q => ?_) fun w => ?_
    · rw [grantHead_inFlight hd, grantHead_slot, if_pos rfl, hfree, hports]
      by_cases hq : q = p
      · simp [portShare, grantedSlot, slotOfGrant, hq]
      · simp [portShare, grantedSlot, slotOfGrant, hq, Ne.symm hq]
    · rw [grantHead_map, grantHead_slot, if_pos rfl, hfree, hmap]
      by_cases hw : w = r.window
      · simp [windowShare, grantedSlot, slotOfGrant, hw]
      · rw [Laws.Table.get_modify_ne _ _ hw]
        simp [windowShare, grantedSlot, slotOfGrant, Ne.symm hw]

theorem dequeue_inFlight (p : Port) (t : Tag) (c : Chip) (w : WindowNo) :
    ((dequeue p t c).map.usage.get w).inFlight = (c.map.usage.get w).inFlight := by
  unfold dequeue
  dsimp only
  split
  · rename_i d _
    by_cases hw : w = d.window
    · simp [modUsage, Chip.modMap, Chip.modArb, hw]
    · exact congrArg Usage.inFlight (Laws.Table.get_modify_ne _ _ hw)
  · rfl

/-- The end of an event and the end of a session keep the counts exact. -/
theorem ending : KeptEnding CountsExact where
  responded p t o w _ h := h.of_stays (PortsStay.freedReply p t o w _) (by simp) (by simp)
  raised f p _ _ h := h.of_stays (PortsStay.raiseFlag f p _) (by simp) (by simp)
  delivered p h := h.of_stays (PortsStay.deliver p _) (by simp) (by simp)
  commit _ _ h := h.of_same (fun _ => rfl) rfl rfl
  swapped cfg h := h.of_stays (PortsStay.swapped cfg _) (by rw [swapped_map]) (by rw [swapped_mlink])
  holds _ _ h := h.of_same (fun _ => rfl) rfl rfl
  fewerHolds _ h := h.of_same (fun _ => rfl) rfl rfl
  oneChanged _ _ h := h.of_same (fun _ => rfl) rfl rfl
  jobs _ _ h := h.of_same (fun _ => rfl) rfl rfl
  failed h := h.of_same (fun _ => rfl) rfl rfl
  closed {c} r p _ h := h.of_same (d := sendPort p (.closed r) (c.modPort p fun pc => { pc with session := .down }))
    (fun q => by
      rw [Laws.sendPort_ports, Laws.modPort_ports]
      exact forall_ports (R := fun a b => b.inFlight = a.inFlight) (Laws.modPort_ports ..) rfl (fun _ => rfl) q)
    (by simp) (by simp)
  granted hd h := h.granted hd
  dequeued {c} p t h := h.of_shares (fun q => by simp) (dequeue_inFlight p t c) fun i => by
    rw [show (dequeue p t c).slot i = c.slot i by unfold Chip.slot; rw [Laws.dequeue_mlink]]
    exact ⟨fun _ => rfl, fun _ => rfl⟩
  freedSlot i h := h.freeSlot i
  arb _ _ h := h.of_same (fun _ => rfl) rfl rfl
  left {c} r p _ h := h.of_same (d := leaveOpen r p c) (fun q =>
    forall_ports (c := c) (d := leaveOpen r p c) (R := fun a b => b.inFlight = a.inFlight) (Laws.modPort_ports ..) rfl
      (fun _ => rfl) q) rfl rfl
  freed p t h := h.of_same (fun q => withRecord_inFlight p q t none _) rfl rfl
  keptSlot {c} i r r' hr hl h := by
    obtain ⟨hholder, hwindow, -⟩ := hl
    refine h.of_shares (fun _ => rfl) (fun _ => rfl) fun j => ?_
    rw [slot_of_setSlot rfl j]
    split
    · rename_i hj
      simp [portShare, windowShare, hj, hr, hholder, hwindow]
    · exact ⟨fun _ => rfl, fun _ => rfl⟩
  stopped p t pages _ h := h.of_same (fun q => by rw [Laws.stopDelivery_ports]) (by simp) (by simp)
  deliveryEnded {c} p t d pages _ _ h := h.of_same (d := freeTag p t (returnPages pages c))
    (fun q => withRecord_inFlight p q t none _) rfl rfl
  taken h := h.of_same (fun _ => rfl) rfl rfl

end CountsExact

end Sys2Proof.Counts
end

section
/-! SUPPORT. The reset mark, and the hold table through the end of an event and of a session (R24, R32 to R34, R42, R179). -/

namespace Sys2Proof.Resets

open Sys2Proof.Machine Sys2Proof.Safety Sys2Proof.Keeping Sys2Proof.Commands Sys2Proof.DataPath Sys2Proof.SlotOps
  Sys2Proof.Grants Sys2Proof.Aftermath Sys2Proof.HoldProofs

/-! ### Under the reset mark (R179) -/

/-- The reset mark is set, and the writer waits for no slot. -/
def Marked (c : Chip) : Prop := c.cfg.resetMark = true ∧ ∀ j, c.cfg.writer ≠ .awaitingSlot j

namespace Marked

variable {c d : Chip}

theorem of_cfg (h : Marked c) (hcfg : d.cfg = c.cfg) : Marked d := by
  unfold Marked
  rw [hcfg]
  exact h

theorem of_jobs {u : ConfigUnit} (hu : JobsOnly c.cfg u) (h : Marked c) : Marked { c with cfg := u } := by
  obtain ⟨hmark, hwriter⟩ := h
  obtain ⟨-, -, hsame, hon⟩ := hu
  refine ⟨hsame.trans hmark, fun j hj => ?_⟩
  rcases hon j hj with hj | hclear
  · exact hwriter j hj
  · exact absurd (hmark.symm.trans hclear) (by simp)

theorem granted (hd : grantDecision c = some d) (h : Marked c) : Marked d :=
  h.of_cfg ((Granted.decision hd).writer h.2)

/-- The ends of events and of sessions leave the mark. -/
theorem ending : KeptEnding Marked where
  responded _ _ _ _ _ h := h.of_cfg (by simp)
  raised _ _ _ _ h := h.of_cfg (by simp)
  delivered _ h := h.of_cfg (by simp)
  commit _ _ h := h
  swapped _ h := h.of_cfg (by rw [swapped_cfg])
  holds _ _ h := h
  fewerHolds _ h := h
  oneChanged _ _ h := h
  jobs _ hu h := h.of_jobs hu
  failed h := h
  closed _ _ _ h := h.of_cfg (by simp)
  granted hd h := h.granted hd
  dequeued _ _ h := h.of_cfg (by simp)
  freedSlot _ h := h.of_cfg (by simp)
  arb _ _ h := h
  left _ _ _ h := h
  freed _ _ h := h
  keptSlot _ _ _ _ _ h := h
  stopped _ _ _ _ h := h.of_cfg (by simp)
  deliveryEnded _ _ _ _ _ _ h := h
  taken h := h

theorem mayNotTake (h : Marked c) : c.writerMayTake = false := by simp [Chip.writerMayTake, h.1]

/-- The writer takes no job. -/
theorem writerTake_eq (h : Marked c) : writerTake c = c := by
  unfold writerTake
  rw [if_neg (by simp [h.mayNotTake])]

theorem beforeWriter (h : Marked c) : Marked (beforeWriter c) :=
  ending.drainTest (ending.endWaits h)

theorem settle_eq (h : Marked c) : settle c = Aftermath.beforeWriter c := h.beforeWriter.writerTake_eq

/-- With no session OPEN nothing is granted. -/
theorem arbitrate_eq (h : Marked c) (hclosed : NoneOpen c) : arbitrate c = c := by
  refine Laws.arbitrate_eq_self ?_
  cases hd : grantDecision c with
  | none => rfl
  | some d =>
    exfalso
    obtain ⟨-, ⟨j, -, hw, -, -⟩ | ⟨-, p, -, -, -, -, -, he, -, -, -⟩⟩ := grantDecision_cases hd
    · exact h.2 j hw
    · obtain ⟨-, -, -, ⟨hopen, -⟩, -⟩ := Laws.eligible_iff.1 he
      exact hclosed p hopen

/-- The end of an event with no session OPEN. -/
theorem conclude_id_eq (h : Marked c) (hclosed : NoneOpen c) :
    conclude id c = eachPort closeIfIdle (Aftermath.beforeWriter c) := by
  rw [Aftermath.conclude_id_eq, h.settle_eq]
  refine arbitrate_eq (eachPort_keeps (fun p _ hd => ending.closeIfIdle p hd) h.beforeWriter)
    (eachPort_keeps (fun p _ hd => noneOpen_kept.closeIfIdle p hd) ?_)
  exact noneOpen_kept.drainTest (noneOpen_kept.endWaits hclosed)

end Marked

/-! ### The hold table, operation by operation -/

theorem noLonger_other {i : SlotNo} {h : Hold} (hs : ∀ ws, h.state ≠ .pending ws) : noLonger i h = h := by
  unfold noLonger
  split
  · rename_i ws hw
    exact absurd hw (hs ws)
  all_goals rfl

theorem noLonger_pending {i : SlotNo} {h : Hold} {ws : List SlotNo} (hs : h.state = .pending ws) :
    noLonger i h = { h with state := .pending (ws.filter (· ≠ i)) } := by
  unfold noLonger
  rw [hs]

theorem noLonger_id (i : SlotNo) (h : Hold) : (noLonger i h).id = h.id := by
  unfold noLonger
  split <;> rfl

theorem freeSlot_table (i : SlotNo) (c : Chip) :
    (freeSlot i c).hold.table = if c.slot i = none then c.hold.table else c.hold.table.map (noLonger i) := by
  have hleave (d : Chip) : (leaveWaits i d).hold.table = d.hold.table.map (noLonger i) := by
    refine List.map_congr_left fun h _ => ?_
    unfold noLonger
    cases h.state <;> rfl
  cases h : c.slot i with
  | none => rw [freeSlot_of_none h, if_pos rfl]
  | some r =>
    rw [if_neg (by simp)]
    cases hh : r.holder with
    | configuration =>
      rw [freeSlot_of_configuration h hh, hleave]
      rfl
    | port p =>
      rw [freeSlot_proj (fun c => c.hold.table) (by simp) h hh]
      unfold givenUp
      rw [show (returnPages r.pages (uncount p r (leaveWaits i (setSlot i none c)))).hold =
        (leaveWaits i (setSlot i none c)).hold by simp, hleave]
      rfl

/-- A record of the table after the ends of some waits: one of theirs, or one of another id. -/
theorem mem_each_endWait {l : List Hold} {c : Chip} {x : Hold} (hx : x ∈ (each endWait l c).hold.table) :
    (x ∈ c.hold.table ∧ ∀ z ∈ l, x.id ≠ z.id) ∨ ∃ z ∈ l, x = Laws.endedHold z := by
  induction l generalizing c with
  | nil => exact .inl ⟨hx, fun _ hz => absurd hz List.not_mem_nil⟩
  | cons z l ih =>
    rcases ih (c := endWait z c) hx with ⟨hm, hrest⟩ | ⟨y, hy, rfl⟩
    · rw [Laws.endWait_table, List.mem_map] at hm
      obtain ⟨y, hy, he⟩ := hm
      split at he
      · exact .inr ⟨z, List.mem_cons_self, he.symm⟩
      · rename_i hid
        subst he
        exact .inl ⟨hy, fun w hw => (List.mem_cons.1 hw).elim (fun hwz => hwz ▸ hid) (hrest w)⟩
    · exact .inr ⟨y, List.mem_cons_of_mem _ hy, rfl⟩

theorem mem_endWaits {c : Chip} {x : Hold} (hx : x ∈ (endWaits c).hold.table) :
    (x ∈ c.hold.table ∧ x.state ≠ .pending []) ∨
      ∃ z ∈ c.hold.table, z.state = .pending [] ∧ x = Laws.endedHold z := by
  rcases mem_each_endWait hx with ⟨hm, hrest⟩ | ⟨z, hz, rfl⟩
  · exact .inl ⟨hm, fun hs => hrest x (List.mem_filter.2 ⟨hm, by simpa using hs⟩) rfl⟩
  · obtain ⟨hm, hs⟩ := List.mem_filter.1 hz
    exact .inr ⟨z, hm, by simpa using hs, rfl⟩

theorem endedHold_state (h : Hold) : (Laws.endedHold h).state ≠ .pending [] := by
  unfold Laws.endedHold
  split <;> exact HoldState.noConfusion

/-- After the ends of the waits none is left to end. -/
theorem endWaits_none {c : Chip} {x : Hold} (hx : x ∈ (endWaits c).hold.table) : x.state ≠ .pending [] := by
  rcases mem_endWaits hx with ⟨-, hs⟩ | ⟨z, -, -, rfl⟩
  · exact hs
  · exact endedHold_state z

theorem beforeWriter_none {c : Chip} {x : Hold} (hx : x ∈ (beforeWriter c).hold.table) : x.state ≠ .pending [] := by
  unfold Aftermath.beforeWriter at hx
  rw [Laws.drainTest_hold] at hx
  exact endWaits_none hx

/-! ### Records that stay -/

/-- Every record of `d` is one of `c`, but for its state and its answer; and one that is ACTIVE is left as it is. -/
def Descends (c d : Chip) : Prop :=
  ∀ x ∈ d.hold.table, ∃ y ∈ c.hold.table, { y with state := x.state, answerTo := x.answerTo } = x ∧
    ∀ left, y.state = .active left → x.state = y.state

namespace Descends

variable {b c d : Chip}

theorem of_subset (h : d.hold.table ⊆ c.hold.table) : Descends c d := fun x hx => ⟨x, h hx, rfl, fun _ _ => rfl⟩

theorem of_same (h : d.hold = c.hold) : Descends c d := of_subset (by rw [h]; exact List.Subset.refl _)

theorem refl (c : Chip) : Descends c c := of_same rfl

theorem trans (h : Descends b c) (h' : Descends c d) : Descends b d := fun x hx => by
  obtain ⟨y, hy, hyx, hya⟩ := h' x hx
  obtain ⟨z, hz, hzy, hza⟩ := h y hy
  refine ⟨z, hz, ?_, fun left hl => ?_⟩
  · rw [← hyx, ← hzy]
  · have hs := hza left hl
    rw [← hs]
    exact hya left (hs.trans hl)

theorem each {α : Type} {f : α → Chip → Chip} (hf : ∀ a c, Descends c (f a c)) (l : List α) (c : Chip) :
    Descends c (each f l c) :=
  each_keeps (P := Descends c) (fun a d hd => hd.trans (hf a d)) l (refl c)

theorem freeSlot (i : SlotNo) (c : Chip) : Descends c (freeSlot i c) := by
  intro x hx
  rw [freeSlot_table] at hx
  split at hx
  · exact ⟨x, hx, rfl, fun _ _ => rfl⟩
  · obtain ⟨y, hy, rfl⟩ := List.mem_map.1 hx
    by_cases hs : ∃ ws, y.state = .pending ws
    · obtain ⟨ws, hs⟩ := hs
      rw [noLonger_pending hs]
      exact ⟨y, hy, rfl, fun left hl => absurd (hs.symm.trans hl) HoldState.noConfusion⟩
    · rw [noLonger_other fun ws hw => hs ⟨ws, hw⟩]
      exact ⟨y, hy, rfl, fun _ _ => rfl⟩

theorem removeHold (y : Hold) (c : Chip) : Descends c (removeHold y c) :=
  of_subset fun x hx => by
    rw [removeHold_hold] at hx
    exact List.mem_of_mem_filter hx

theorem endWaits (c : Chip) : Descends c (endWaits c) := by
  intro x hx
  rcases mem_endWaits hx with ⟨hm, -⟩ | ⟨z, hz, hs, rfl⟩
  · exact ⟨x, hm, rfl, fun _ _ => rfl⟩
  · refine ⟨z, hz, ?_, fun left hl => absurd (hs.symm.trans hl) HoldState.noConfusion⟩
    unfold Laws.endedHold
    split <;> rfl

theorem beforeWriter (c : Chip) : Descends c (beforeWriter c) :=
  (endWaits c).trans (of_same (Laws.drainTest_hold _))

end Descends

end Sys2Proof.Resets
end

section
/-! SUPPORT. What the end of a session leaves in the hold table, and what becomes of a POWER hold (R24, R32, R42, R45). -/

namespace Sys2Proof.Resets

open Sys2Proof.Machine Sys2Proof.Safety Sys2Proof.Keeping Sys2Proof.Commands Sys2Proof.DataPath Sys2Proof.SlotOps
  Sys2Proof.Grants Sys2Proof.Aftermath Sys2Proof.HoldProofs

theorem each_removeHold_table (l : List Hold) (c : Chip) :
    (each removeHold l c).hold.table = c.hold.table.filter fun x => ∀ y ∈ l, x.id ≠ y.id := by
  induction l generalizing c with
  | nil => exact (List.filter_eq_self.2 fun _ _ => by simp).symm
  | cons y l ih =>
    change (each removeHold l (removeHold y c)).hold.table = _
    rw [ih, removeHold_hold, List.filter_filter]
    refine List.filter_congr fun x _ => ?_
    simp [Bool.and_comm]

/-- The hold table after the end of the session of port `p` (R42). -/
theorem endSessionHolds_table (p : Port) (c : Chip) : (endSessionHolds p c).hold.table =
    (c.hold.table.filter fun x : Hold =>
      decide (∀ y ∈ c.hold.table.filter (fun h : Hold => h.owner = p && h.cls = .session), x.id ≠ y.id)).map fun h =>
      if h.owner = p then { h with answerTo := none } else h := by
  unfold endSessionHolds
  dsimp only [Chip.modHold]
  rw [each_removeHold_table]

/-! ### Sessions' holds are gone -/

/-- No SESSION hold of port `p` is left. -/
def NoSessionHold (p : Port) (c : Chip) : Prop := ∀ h ∈ c.hold.table, h.cls = .session → h.owner ≠ p

theorem NoSessionHold.descends {p : Port} {c d : Chip} (h : NoSessionHold p c) (hd : Descends c d) : NoSessionHold p d := by
  intro x hx hcls
  obtain ⟨y, hy, hyx, -⟩ := hd x hx
  have hsame : y.cls = x.cls ∧ y.owner = x.owner := by rw [← hyx]; exact ⟨rfl, rfl⟩
  obtain ⟨hc, ho⟩ := hsame
  rw [← ho]
  exact h y hy (hc.trans hcls)

theorem noSessionHold_end (p : Port) (c : Chip) : NoSessionHold p (endSessionHolds p c) := by
  intro x hx hcls howner
  rw [endSessionHolds_table, List.mem_map] at hx
  obtain ⟨y, hy, hyx⟩ := hx
  obtain ⟨hm, hrest⟩ := List.mem_filter.1 hy
  have hsame : y.cls = x.cls ∧ y.owner = x.owner := by rw [← hyx]; split <;> exact ⟨rfl, rfl⟩
  obtain ⟨hc, ho⟩ := hsame
  exact of_decide_eq_true hrest y (List.mem_filter.2 ⟨hm, by simp [hc, ho, hcls, howner]⟩) rfl

namespace Descends

variable {c d : Chip}

theorem endRecord (p : Port) (t : Tag) (c : Chip) : Descends c (endRecord p t c) := by
  unfold Machine.endRecord
  split
  · exact refl c
  · exact of_same rfl
  · split
    · exact of_same (by simp [freeTag, setRecord, Chip.modPort])
    · exact (freeSlot _ c).trans (of_same rfl)
    · exact of_same (by simp)
    · exact of_same (by simp)
    · exact of_same (by simp [freeTag, setRecord, Chip.modPort])

theorem endSessionHolds (p : Port) (c : Chip) : Descends c (endSessionHolds p c) := by
  intro x hx
  rw [endSessionHolds_table, List.mem_map] at hx
  obtain ⟨y, hy, rfl⟩ := hx
  refine ⟨y, (List.mem_filter.1 hy).1, ?_, fun _ _ => ?_⟩ <;> split <;> rfl

theorem drainEnd (info : CommitInfo) (c : Chip) : Descends c (drainEnd info c) := of_same (by simp)

theorem drainBesideEnd (p : Port) (c : Chip) : Descends c (drainBesideEnd p c) := by
  unfold Machine.drainBesideEnd
  split
  · split
    · dsimp only
      split
      · exact ((of_same rfl).trans (endWaits c.takeFree)).trans (drainEnd _ _)
      · exact of_same rfl
    · exact refl c
  all_goals exact refl c

theorem afterHolds (p : Port) (c : Chip) :
    Descends c (Machine.endSessionStaging p (Machine.drainBesideEnd p c)) :=
  (drainBesideEnd p c).trans (of_same (Laws.endSessionStaging_hold ..))

theorem cleanUp (p : Port) (c : Chip) : Descends c (cleanUp p c) := by
  unfold Machine.cleanUp
  dsimp only
  let recorded := Machine.each (Machine.endRecord p) allTags c
  let unreserved := recorded.modArb fun a =>
    { a with starvation := a.starvation.set p 0, reservation := a.reservation.filter (· ≠ p) }
  have hrecords : Descends c unreserved := (each (fun t d => endRecord p t d) allTags c).trans (of_same rfl)
  exact (hrecords.trans (endSessionHolds p unreserved)).trans (afterHolds p _)

end Descends

theorem noSessionHold_cleanUp (p : Port) (c : Chip) : NoSessionHold p (cleanUp p c) :=
  (noSessionHold_end p _).descends (Descends.afterHolds p _)

/-! ### A POWER hold through the reset (R24, R45) -/

/-- What has become of the record `h`: `x`, the same but for state and answer, in its state when it was not PENDING; when it
was, and all its slots were in use, it waits for slots in use or is ACTIVE. -/
structure Later (used : Prop) (c : Chip) (h x : Hold) : Prop where
  same : { x with state := h.state, answerTo := h.answerTo } = h
  kept : (∀ waits, h.state ≠ .pending waits) → x.state = h.state
  waits : ∀ waits, h.state = .pending waits → used → (∃ rest, x.state = .pending rest ∧ ∀ n ∈ rest, c.slot n ≠ none) ∨
    (x.state = .active (h.expiry.map (· * 1000)) ∧ x.answerTo = none)

/-- The POWER hold `h` is still in a table of ascending ids, and no job is its own. -/
structure Carried (used : Prop) (h : Hold) (c : Chip) : Prop where
  ascending : c.hold.table.Pairwise fun a b => a.id < b.id
  job : .hold h.id ∉ jobsOf c.cfg
  alive : ∃ x ∈ c.hold.table, Later used c h x

namespace Later

variable {used : Prop} {c d : Chip} {h x : Hold}

theorem refl (h : Hold) (hused : ∀ waits, h.state = .pending waits → used → ∀ n ∈ waits, c.slot n ≠ none) :
    Later used c h h := ⟨rfl, fun _ => rfl, fun waits hs hu => .inl ⟨waits, hs, hused waits hs hu⟩⟩

theorem fields (hl : Later used c h x) : x.id = h.id ∧ x.cls = h.cls ∧ x.expiry = h.expiry ∧ x.owner = h.owner := by
  rw [← hl.same]
  exact ⟨rfl, rfl, rfl, rfl⟩

theorem eq (hl : Later used c h x) : x = { h with state := x.state, answerTo := x.answerTo } := by
  rw [← hl.same]

theorem slots (hl : Later used c h x) (hd : ∀ n, c.slot n ≠ none → d.slot n ≠ none) : Later used d h x :=
  ⟨hl.same, hl.kept, fun waits hs hu => (hl.waits waits hs hu).imp_left fun ⟨rest, hr, hn⟩ =>
    ⟨rest, hr, fun n hm => hd n (hn n hm)⟩⟩

theorem freed (hl : Later used c h x) (i : SlotNo) : Later used (freeSlot i c) h (noLonger i x) := by
  by_cases hp : ∃ rest, x.state = .pending rest
  · obtain ⟨rest, hp⟩ := hp
    rw [noLonger_pending hp]
    refine ⟨hl.same, fun hs => absurd ((hl.kept hs).symm.trans hp) (hs rest), fun waits hs hu => .inl ⟨_, rfl, fun n hn => ?_⟩⟩
    obtain ⟨hm, hni⟩ := List.mem_filter.1 hn
    rw [freeSlot_slot, if_neg (by simpa using hni)]
    rcases hl.waits waits hs hu with ⟨rest', hr, hn'⟩ | ⟨ha, -⟩
    · obtain rfl := HoldState.pending.inj (hp.symm.trans hr)
      exact hn' n hm
    · exact absurd (hp.symm.trans ha) HoldState.noConfusion
  · rw [noLonger_other fun rest hs => hp ⟨rest, hs⟩]
    exact ⟨hl.same, hl.kept, fun waits hs hu => (hl.waits waits hs hu).imp_left fun ⟨rest, hr, _⟩ => absurd ⟨rest, hr⟩ hp⟩

theorem unanswered (hl : Later used c h x) : Later used c h { x with answerTo := none } :=
  ⟨hl.same, hl.kept, fun waits hs hu => (hl.waits waits hs hu).imp_right fun ha => ⟨ha.1, rfl⟩⟩

theorem ended (hl : Later used c h x) (hcls : h.cls ≠ .fixed) (hx : x.state = .pending []) :
    Later used c h (Laws.endedHold x) := by
  obtain ⟨-, hc, he, -⟩ := hl.fields
  unfold Laws.endedHold
  rw [if_neg (by rw [hc]; exact hcls)]
  exact ⟨hl.same, fun hs => absurd ((hl.kept hs).symm.trans hx) (hs []), fun _ _ _ => .inr ⟨by rw [← he], rfl⟩⟩

end Later

namespace Carried

variable {used : Prop} {c d : Chip} {h : Hold}

theorem of_table (k : Carried used h c) (hhold : d.hold.table = c.hold.table)
    (hjobs : .hold h.id ∈ jobsOf d.cfg → .hold h.id ∈ jobsOf c.cfg) (hslots : ∀ n, c.slot n ≠ none → d.slot n ≠ none) :
    Carried used h d := by
  obtain ⟨x, hx, hl⟩ := k.alive
  exact ⟨by rw [hhold]; exact k.ascending, fun hj => k.job (hjobs hj), x, by rw [hhold]; exact hx, hl.slots hslots⟩

theorem of_same (k : Carried used h c) (hhold : d.hold = c.hold) (hcfg : d.cfg = c.cfg)
    (hslots : ∀ n, c.slot n ≠ none → d.slot n ≠ none) : Carried used h d :=
  k.of_table (by rw [hhold]) (by rw [hcfg]; exact id) hslots

theorem of_mlink (k : Carried used h c) (hhold : d.hold = c.hold) (hcfg : d.cfg = c.cfg) (hmlink : d.mlink = c.mlink) :
    Carried used h d :=
  k.of_same hhold hcfg fun n hn => by
    unfold Chip.slot at *
    rw [hmlink]
    exact hn

theorem freeSlot (k : Carried used h c) (i : SlotNo) : Carried used h (freeSlot i c) := by
  cases hs : c.slot i with
  | none => rw [freeSlot_of_none hs]; exact k
  | some r =>
    have htable : (Machine.freeSlot i c).hold.table = c.hold.table.map (noLonger i) := by
      rw [freeSlot_table, if_neg (by simp [hs])]
    obtain ⟨x, hx, hl⟩ := k.alive
    refine ⟨?_, by rw [Laws.freeSlot_cfg]; exact k.job, noLonger i x, ?_, hl.freed i⟩
    · rw [htable, List.pairwise_map]
      simpa only [noLonger_id] using k.ascending
    · rw [htable]
      exact List.mem_map_of_mem hx

theorem removeHold (k : Carried used h c) {y : Hold} (hy : y.id ≠ h.id) : Carried used h (removeHold y c) := by
  obtain ⟨x, hx, hl⟩ := k.alive
  refine ⟨?_, by rw [Laws.removeHold_cfg]; exact k.job, x, ?_, hl.slots fun n hn => by
    unfold Chip.slot at *
    rw [Laws.removeHold_mlink]
    exact hn⟩
  · rw [removeHold_hold]
    exact k.ascending.sublist List.filter_sublist
  · rw [removeHold_hold]
    exact List.mem_filter.2 ⟨hx, by rw [hl.fields.1]; exact decide_eq_true (Ne.symm hy)⟩

/-- The record that carries the hold on is the only one of its id. -/
theorem eq_of_id (k : Carried used h c) {y : Hold} (hy : y ∈ c.hold.table) (hid : y.id = h.id) : y.cls = h.cls := by
  obtain ⟨x, hx, hl⟩ := k.alive
  obtain ⟨hxid, hxcls, -⟩ := hl.fields
  rw [eq_of_id_eq k.ascending hy hx (hid.trans hxid.symm), hxcls]

theorem each_removeHold (k : Carried used h c) {l : List Hold} (hl : ∀ y ∈ l, y.id ≠ h.id) :
    Carried used h (each Machine.removeHold l c) :=
  each_keeps_mem (P := Carried used h) (fun y hy _ hc => hc.removeHold (hl y hy)) k

theorem endWaits (k : Carried used h c) (hcls : h.cls ≠ .fixed) : Carried used h (endWaits c) := by
  obtain ⟨x, hx, hl⟩ := k.alive
  have hmlink : ∀ n, c.slot n ≠ none → (Machine.endWaits c).slot n ≠ none := fun n hn => by
    unfold Chip.slot at *
    rw [Laws.endWaits_mlink]
    exact hn
  refine ⟨endWaits_ascending k.ascending, ?_, ?_⟩
  · rw [endWaits_cfg, jobsOf_append, List.mem_append]
    rintro (hj | hj)
    · exact k.job hj
    · rw [← hl.fields.1, mem_newJobs k.ascending hx, hl.fields.2.1] at hj
      exact hcls hj.1
  · rw [endWaits_table k.ascending]
    by_cases ho : x.state = .pending []
    · exact ⟨Laws.endedHold x, List.mem_map.2 ⟨x, hx, if_pos ho⟩, (hl.ended hcls ho).slots hmlink⟩
    · exact ⟨x, List.mem_map.2 ⟨x, hx, if_neg ho⟩, hl.slots hmlink⟩

theorem drainEnd (k : Carried used h c) (info : CommitInfo) : Carried used h (drainEnd info c) := by
  refine k.of_table (by rw [Laws.drainEnd_hold]) ?_ fun n hn => by
    unfold Chip.slot at *
    rw [Laws.drainEnd_mlink]
    exact hn
  unfold Machine.drainEnd
  split
  · intro hj
    rw [appendJob, Chip.modCfg, jobsOf_append] at hj
    simpa using hj
  · rw [Laws.swap_cfg]
    exact id

theorem drainTest (k : Carried used h c) : Carried used h (drainTest c) := by
  unfold Machine.drainTest
  split
  · split
    · exact k.drainEnd _
    · exact k
  all_goals exact k

theorem beforeWriter (k : Carried used h c) (hcls : h.cls ≠ .fixed) : Carried used h (beforeWriter c) :=
  (k.endWaits hcls).drainTest

/-! ### The end of a session -/

theorem endRecord (k : Carried used h c) (p : Port) (t : Tag) : Carried used h (endRecord p t c) := by
  have hdisown (i : SlotNo) : Carried used h (disown i c) :=
    k.of_same (by simp) (by simp) fun n hn => by
      unfold disown
      rw [setSlot_slot]
      split
      · rename_i hni
        subst hni
        cases hs : c.slot n with
        | none => exact absurd hs hn
        | some r => simp
      · exact hn
  unfold Machine.endRecord
  split
  · exact k
  · exact k.of_mlink rfl rfl rfl
  · split
    · exact k.of_mlink (by simp [freeTag, setRecord, Chip.modPort]) (by simp [freeTag, setRecord, Chip.modPort])
        (by simp [freeTag, setRecord, Chip.modPort])
    · exact (k.freeSlot _).of_mlink rfl rfl rfl
    · exact hdisown _
    · exact hdisown _
    · exact k.of_mlink (by simp [freeTag, setRecord, Chip.modPort]) (by simp [freeTag, setRecord, Chip.modPort])
        (by simp [freeTag, setRecord, Chip.modPort])

theorem endSessionHolds (k : Carried used h c) (hcls : h.cls ≠ .session) (p : Port) : Carried used h (endSessionHolds p c) := by
  have kept : Carried used h (each Machine.removeHold (c.hold.table.filter fun y => y.owner = p && y.cls = .session) c) :=
    k.each_removeHold fun y hy hid => by
      obtain ⟨hm, ho⟩ := List.mem_filter.1 hy
      have hsession : y.cls = .session := by simpa using (Bool.and_eq_true_iff.1 ho).2
      exact hcls ((k.eq_of_id hm hid).symm.trans hsession)
  obtain ⟨x, hx, hl⟩ := kept.alive
  refine ⟨?_, kept.job, if x.owner = p then { x with answerTo := none } else x, List.mem_map_of_mem hx, ?_⟩
  · refine List.pairwise_map.2 (kept.ascending.imp fun {a b} hab => ?_)
    split <;> split <;> exact hab
  · split
    · exact hl.unanswered.slots fun n hn => hn
    · exact hl.slots fun n hn => hn

theorem drainBesideEnd (k : Carried used h c) (hcls : h.cls ≠ .fixed) (p : Port) : Carried used h (drainBesideEnd p c) := by
  have taken : Carried used h c.takeFree := k.of_mlink rfl rfl rfl
  unfold Machine.drainBesideEnd
  split
  · split
    · dsimp only
      split
      · exact (taken.endWaits hcls).drainEnd _
      · exact taken
    · exact k
  all_goals exact k

theorem cleanUp (k : Carried used h c) (hcls : h.cls = .power) (p : Port) : Carried used h (cleanUp p c) := by
  have hfixed : h.cls ≠ .fixed := by rw [hcls]; exact HoldClass.noConfusion
  have hsession : h.cls ≠ .session := by rw [hcls]; exact HoldClass.noConfusion
  have hrecords : Carried used h (each (Machine.endRecord p) allTags c) :=
    each_keeps (P := Carried used h) (fun t _ hd => hd.endRecord p t) _ k
  have hunreserved (f : Arbiter → Arbiter) : Carried used h ((each (Machine.endRecord p) allTags c).modArb f) :=
    hrecords.of_mlink rfl rfl rfl
  unfold Machine.cleanUp
  dsimp only
  refine Carried.of_mlink ?_ (Laws.endSessionStaging_hold ..) (Laws.endSessionStaging_cfg ..)
    (Laws.endSessionStaging_mlink ..)
  exact ((hunreserved _).endSessionHolds hsession p).drainBesideEnd hfixed p

theorem dropJob (k : Carried used h c) {j : Job} (hj : j ≠ .hold h.id) : Carried used h (dropJob j c) := by
  cases j with
  | commit => exact k.of_mlink rfl rfl rfl
  | hold n =>
    unfold Machine.dropJob
    dsimp only
    split
    · rename_i y hy
      have hid : y.id = n := by simpa using List.find?_some hy
      exact k.removeHold fun he => hj (by rw [← hid, he])
    · exact k

end Carried

end Sys2Proof.Resets
end

section
/-! SUPPORT. The end of all sessions at a bridge reset, and what it keeps (R45, R57, R179). -/

namespace Sys2Proof.Resets

open Sys2Proof.Machine Sys2Proof.Safety Sys2Proof.Keeping Sys2Proof.Commands Sys2Proof.DataPath Sys2Proof.SlotOps
  Sys2Proof.Grants Sys2Proof.Aftermath Sys2Proof.HoldProofs Sys2Proof.Counts

/-! ### What stays through the ends of events and of sessions -/

/-- The frames sent so far stay at the front of the list. -/
theorem sentOn_ending (base : List Sent) : KeptEnding fun c => base <+: c.sent where
  responded p t o w _ h := h.trans ((Silent.sendPort p _ _).trans (Silent.freeTag p t _)).sent
  raised f p _ _ h := h.trans (Onward.raiseFlag f p _).sent
  delivered {c} p h := h.trans (Onward.deliver p c.map.epoch c).sent
  commit _ _ h := h
  swapped cfg h := h.trans (Onward.swapped cfg _).sent
  holds _ _ h := h
  fewerHolds _ h := h
  oneChanged _ _ h := h
  jobs _ _ h := h
  failed h := h
  closed _ _ hs h := h.trans (Silent.closed hs).sent
  granted hd h := h.trans (Silent.decision hd).sent
  dequeued p t h := h.trans (Silent.dequeue p t _).sent
  freedSlot i h := h.trans (Silent.freeSlot i _).sent
  arb _ _ h := h
  left _ _ _ h := h
  freed p t h := h.trans (Silent.freeTag p t _).sent
  keptSlot i _ r _ _ h := h.trans (Silent.setSlot i (some r) _).sent
  stopped p t pages _ h := h.trans (by rw [PinAndTime.stopDelivery_eq]; exact List.prefix_append _ _)
  deliveryEnded {c} p t _ pages _ _ h := h.trans (Silent.freeTag p t (returnPages pages c)).sent
  taken h := h

/-- The M-link controller is `m` but for its slots. -/
def MlinkIs (m : MlinkCtl) (c : Chip) : Prop := ∃ x, c.mlink = { m with slots := x }

theorem mlinkIs_of_same {m : MlinkCtl} {c d : Chip} (h : MlinkIs m c) (hd : d.mlink = c.mlink) : MlinkIs m d := by
  unfold MlinkIs
  rw [hd]
  exact h

theorem mlinkIs_of_slots {m : MlinkCtl} {c d : Chip} (h : MlinkIs m c) (hd : ∃ x, d.mlink = { c.mlink with slots := x }) :
    MlinkIs m d := by
  obtain ⟨x, hx⟩ := h
  obtain ⟨y, hy⟩ := hd
  exact ⟨y, by rw [hy, hx]⟩

theorem mlinkIs_ending (m : MlinkCtl) : KeptEnding (MlinkIs m) where
  responded _ _ _ _ _ h := mlinkIs_of_same h (by simp)
  raised _ _ _ _ h := mlinkIs_of_same h (by simp)
  delivered _ h := mlinkIs_of_same h (by simp)
  commit _ _ h := h
  swapped _ h := mlinkIs_of_same h (by rw [swapped_mlink])
  holds _ _ h := h
  fewerHolds _ h := h
  oneChanged _ _ h := h
  jobs _ _ h := h
  failed h := h
  closed _ _ _ h := mlinkIs_of_same h (by simp)
  granted hd h := mlinkIs_of_slots h (Granted.decision hd).mlink
  dequeued _ _ h := mlinkIs_of_same h (by simp)
  freedSlot i h := mlinkIs_of_slots h ⟨_, freeSlot_mlink i _⟩
  arb _ _ h := h
  left _ _ _ h := h
  freed _ _ h := h
  keptSlot _ _ _ _ _ h := mlinkIs_of_slots h ⟨_, rfl⟩
  stopped _ _ _ _ h := mlinkIs_of_same h (by simp)
  deliveryEnded _ _ _ _ _ _ h := h
  taken h := h

/-- The check failures counted at the ports are those of `b`. -/
def ChecksStay (b c : Chip) : Prop := ∀ q, (c.ports.get q).checkFails = (b.ports.get q).checkFails

theorem checksStay_modify {b c d : Chip} {p : Port} {f : PortCtl → PortCtl} (hports : d.ports = c.ports.modify p f)
    (hf : (f (c.ports.get p)).checkFails = (c.ports.get p).checkFails) (h : ChecksStay b c) : ChecksStay b d := fun q =>
  (forall_ports hports (R := fun x y => y.checkFails = x.checkFails) hf (fun _ => rfl) q).trans (h q)

theorem checksStay_same {b c d : Chip} (hports : d.ports = c.ports) (h : ChecksStay b c) : ChecksStay b d := fun q => by
  rw [hports]
  exact h q

/-- What a slot that becomes FREE changes of the arbiter is an ORDERED mark. -/
theorem freeSlot_arb {β : Type} (g : Arbiter → β) (hg : ∀ a x, g { a with ordered := x } = g a) (i : SlotNo) (c : Chip) :
    g (freeSlot i c).arb = g c.arb := by
  have huncount (p : Port) (r : SlotRec) (c : Chip) : g (uncount p r c).arb = g c.arb := by
    unfold uncount
    cases r.window <;> cases r.ordered <;> simp [hg]
  cases h : c.slot i with
  | none => rw [freeSlot_of_none h]
  | some r =>
    cases hh : r.holder with
    | configuration => rw [freeSlot_of_configuration h hh]; simp
    | port p =>
      rw [freeSlot_proj (fun c => g c.arb) (fun p i c => by rw [Laws.freeKept_arb]) h hh]
      unfold givenUp
      rw [Laws.returnPages_arb, huncount]
      simp

/-- The return of a slot changes a port controller's count and tags alone. -/
theorem freeSlot_port (i : SlotNo) (q : Port) (c : Chip) :
    ∃ n tags, (freeSlot i c).ports.get q = { c.ports.get q with inFlight := n, tags := tags } := by
  cases hr : c.slot i with
  | none => exact ⟨_, _, by rw [freeSlot_of_none hr]⟩
  | some r =>
    cases hh : r.holder with
    | configuration => exact ⟨_, _, by rw [freeSlot_of_configuration hr hh]; rfl⟩
    | port p =>
      have hgiven : ∃ n, (givenUp i p r c).ports.get q = { c.ports.get q with inFlight := n } := by
        have hports : (givenUp i p r c).ports = c.ports.modify p fun pc => { pc with inFlight := pc.inFlight - 1 } := by
          unfold givenUp uncount
          cases r.window <;> cases r.ordered <;> rfl
        exact forall_ports hports (R := fun a b => ∃ n, b = { a with inFlight := n }) ⟨_, rfl⟩ (fun pc => ⟨pc.inFlight, rfl⟩) q
      obtain ⟨n, hgiven⟩ := hgiven
      rw [freeSlot_of_port hr hh]
      split
      · exact ⟨n, _, hgiven⟩
      · obtain ⟨tags, hkept⟩ := freeKept_port p q i (givenUp i p r c)
        exact ⟨n, tags, by rw [hkept, hgiven]⟩

theorem checksStay_ending (b : Chip) : KeptEnding (ChecksStay b) where
  responded {c} p t o w _ h := checksStay_modify (c := c) (p := p) (f := fun pc => { pc with tags := pc.tags.set t none })
    (by simp [freeTag, setRecord]) rfl h
  raised {c} f p _ hopen h := checksStay_modify (c := c) (p := p) (f := fun pc => { pc with flags := pc.flags.set f true })
    (by rw [raiseFlag_open hopen]) rfl h
  delivered {c} p h := checksStay_modify (c := c) (p := p)
    (f := fun pc => { pc with delivered := c.map.epoch, flags := { pc.flags with map := false } })
    (by rw [Management.deliver_epoch]; rfl) rfl h
  commit _ _ h := h
  swapped {c} cfg h q := by
    rw [swapped_port]
    split
    · refine Eq.trans ?_ (h q)
      unfold compared
      repeat' split
      all_goals rfl
    · exact h q
  holds _ _ h := h
  fewerHolds _ h := h
  oneChanged _ _ h := h
  jobs _ _ h := h
  failed h := h
  closed {c} _ p _ h := checksStay_modify (c := c) (p := p) (f := fun pc => { pc with session := .down }) (by simp) rfl h
  granted {c d} hd h := by
    obtain ⟨hports | ⟨p, t, r, x, -, -, hports⟩, -⟩ := decision_effect hd
    · exact checksStay_same hports h
    · exact checksStay_modify hports rfl h
  dequeued _ _ h := checksStay_same (by simp) h
  freedSlot {c} i h q := by
    obtain ⟨n, tags, hq⟩ := freeSlot_port i q c
    rw [hq]
    exact h q
  arb _ _ h := h
  left {c} r p _ h := checksStay_modify (c := c) (d := leaveOpen r p c) (Laws.modPort_ports ..) rfl h
  freed {c} p t h := checksStay_modify (c := c) (d := freeTag p t c) (Laws.modPort_ports ..) rfl h
  keptSlot _ _ _ _ _ h := h
  stopped _ _ _ _ h := checksStay_same (by simp) h
  deliveryEnded {c} p t _ pages _ _ h := checksStay_modify (c := c) (d := freeTag p t (returnPages pages c))
    (Laws.modPort_ports ..) rfl h
  taken h := h

end Sys2Proof.Resets
end

section
/-! SUPPORT. The end of a bridge reset: what stands when START begins (R45, R173, R174, R179). -/

namespace Sys2Proof.Resets

open Sys2Proof.Machine Sys2Proof.Safety Sys2Proof.Keeping Sys2Proof.Commands Sys2Proof.DataPath Sys2Proof.SlotOps
  Sys2Proof.Grants Sys2Proof.Aftermath Sys2Proof.HoldProofs Sys2Proof.Counts

theorem ended_busy {pc : PortCtl} {reason : CloseReason} (h : (ended pc).session = .closing reason) :
    (ended pc).inFlight ≠ 0 := by
  rw [ended_inFlight]
  intro hidle
  unfold ended at h
  split at h
  · rw [if_pos hidle] at h
    cases h
  · rename_i hs
    exact absurd (hs.symm.trans h) Session.noConfusion
  · rename_i hs
    exact absurd (hs.symm.trans h) Session.noConfusion

/-! ### The ports are reached (R57) -/

/-- The sessions of a list of ports have left OPEN and are cleaned up; nothing has followed yet. -/
def swept (ports : List Port) (c : Chip) : Chip :=
  each cleanUp (ports.filter c.isOpen) (each (leaveOpen .reset) (ports.filter c.isOpen) c)

theorem resetPorts_eq (ports : List Port) (c : Chip) : resetPorts ports c = conclude id (swept ports c) := rfl

theorem swept_keeps {P : Chip → Prop} {O : Port → Prop} (k : KeptEnding P O) {ports : List Port} {c : Chip}
    (hO : ∀ p ∈ ports, c.isOpen p → O p) (h : P c) : P (swept ports c) := by
  have hreached : ∀ p ∈ ports.filter c.isOpen, O p := fun p hp =>
    hO p (List.mem_filter.1 hp).1 (List.mem_filter.1 hp).2
  exact each_keeps_mem (fun p hp _ hc => k.cleanUp (hreached p hp) hc)
    (each_keeps_mem (fun p hp _ hc => k.left .reset p (hreached p hp) hc) h)

theorem swept_noneOpen {ports : List Port} {c : Chip} (h : ∀ q, (c.ports.get q).session = .opened → q ∈ ports) :
    NoneOpen (swept ports c) := by
  refine each_keeps (fun p _ hc => noneOpen_kept.cleanUp (p := p) trivial hc) _ fun q hq => ?_
  rw [each_leaveOpen_session] at hq
  split at hq
  · cases hq
  · rename_i hnot
    exact hnot (List.mem_filter.2 ⟨h q hq, by simpa [Chip.isOpen] using hq⟩)

/-- No SESSION hold of a port that the sweep has reached is left. -/
theorem noSessionHold_swept {ports : List Port} {c : Chip} {p : Port} (hp : p ∈ ports) (hopen : (c.ports.get p).session = .opened) :
    NoSessionHold p (swept ports c) := by
  have hmem : p ∈ ports.filter c.isOpen := List.mem_filter.2 ⟨hp, by simpa [Chip.isOpen] using hopen⟩
  have hgone (l : List Port) (d : Chip) (hl : p ∈ l) : NoSessionHold p (each cleanUp l d) := by
    induction l generalizing d with
    | nil => cases hl
    | cons q l ih =>
      rcases List.mem_cons.1 hl with rfl | hl
      · exact (noSessionHold_cleanUp p d).descends (Descends.each (fun q d => Descends.cleanUp q d) l _)
      · exact ih _ hl
  exact hgone _ _ hmem

theorem carried_swept {used : Prop} {h : Hold} {ports : List Port} {c : Chip} (k : Carried used h c) (hcls : h.cls = .power) :
    Carried used h (swept ports c) := by
  refine each_keeps (fun p d (hd : Carried used h d) => hd.cleanUp hcls p) _ ?_
  exact each_keeps (f := leaveOpen .reset) (fun p d (hd : Carried used h d) => hd.of_mlink rfl rfl rfl) _ k

/-! ### The jobs and the unfinished holds are dropped (R45, R179) -/

theorem queue_jobs {u : ConfigUnit} {j : Job} (hj : j ∈ u.queue) : j ∈ jobsOf u := by
  unfold jobsOf
  split
  · exact List.mem_cons_of_mem _ hj
  · exact List.mem_cons_of_mem _ hj
  · exact hj
  · exact hj

/-- The blocks when a bridge reset has ended the sessions and dropped the jobs. -/
def dropped (c : Chip) : Chip :=
  each dropJob (resetPorts Port.all c).cfg.queue ((resetPorts Port.all c).modCfg fun u => { u with queue := [] })

/-- The same when the unfinished FIXED holds are removed too. -/
def stopped (c : Chip) : Chip :=
  each (fun h c => removeHold h c) ((dropped c).hold.table.filter Hold.unfinished) (dropped c)

theorem stopped_after {P : Chip → Prop} (k : KeptSettling P) {c : Chip} (h : P (resetPorts Port.all c)) : P (stopped c) :=
  k.beforeStart Hold.unfinished _ (k.modJobs (fun u => { u with queue := [] }) ⟨rfl, rfl, rfl, fun _ hj => .inl hj⟩ h)

theorem stopped_keeps {P : Chip → Prop} {O : Port → Prop} (k : KeptEnding P O) {c : Chip} (hO : ∀ p, c.isOpen p → O p)
    (h : P c) : P (stopped c) := stopped_after k.toKeptSettling (k.resetPorts (fun p _ => hO p) h)

theorem stopped_noneOpen (c : Chip) : NoneOpen (stopped c) :=
  noneOpen_kept.beforeStart Hold.unfinished _ (noneOpen_kept.modJobs (fun u => { u with queue := [] })
    ⟨rfl, rfl, rfl, fun _ hj => .inl hj⟩ (resetPorts_noneOpen fun q _ => Grants.mem_portAll q))

section
variable {c : Chip} (hmark : Marked c)
include hmark

/-- With every session reached nothing is granted at the end. -/
theorem resetPorts_marked : resetPorts Port.all c = eachPort closeIfIdle (beforeWriter (swept Port.all c)) :=
  (swept_keeps Marked.ending (fun _ _ _ => trivial) hmark).conclude_id_eq (swept_noneOpen fun q _ => Grants.mem_portAll q)

theorem resetPorts_hold : (resetPorts Port.all c).hold = (beforeWriter (swept Port.all c)).hold := by
  rw [resetPorts_marked hmark, Laws.eachPort_proj (fun c => c.hold) _ (by simp)]

theorem resetPorts_noWait {x : Hold} (hx : x ∈ (resetPorts Port.all c).hold.table) : x.state ≠ .pending [] := by
  rw [resetPorts_hold hmark] at hx
  exact beforeWriter_none hx

theorem resetPorts_busy (q : Port) (reason : CloseReason)
    (h : ((resetPorts Port.all c).ports.get q).session = .closing reason) :
    ((resetPorts Port.all c).ports.get q).inFlight ≠ 0 := by
  rw [resetPorts_marked hmark, eachPort_closeIfIdle_port] at *
  exact ended_busy h

theorem noSessionHold_resetPorts {p : Port} (hopen : (c.ports.get p).session = .opened) :
    NoSessionHold p (resetPorts Port.all c) := by
  refine (noSessionHold_swept (Grants.mem_portAll p) hopen).descends ?_
  exact (Descends.beforeWriter _).trans (Descends.of_same (resetPorts_hold hmark))

theorem carried_resetPorts {used : Prop} {h : Hold} (k : Carried used h c) (hcls : h.cls = .power) :
    Carried used h (resetPorts Port.all c) := by
  have hfixed : h.cls ≠ .fixed := by rw [hcls]; exact HoldClass.noConfusion
  rw [resetPorts_marked hmark]
  exact eachPort_keeps (fun p d (hd : Carried used h d) => hd.of_mlink (by simp) (by simp) (by simp))
    ((carried_swept k hcls).beforeWriter hfixed)

end

theorem dropJob_subset (j : Job) (c : Chip) : (dropJob j c).hold.table ⊆ c.hold.table := by
  cases j with
  | commit => exact List.Subset.refl _
  | hold n =>
    unfold dropJob
    dsimp only
    split
    · rw [removeHold_hold]
      exact List.filter_sublist.subset
    · exact List.Subset.refl _

theorem stopped_table (c : Chip) : (stopped c).hold.table ⊆ (resetPorts Port.all c).hold.table := by
  have hdropped : (dropped c).hold.table ⊆ (resetPorts Port.all c).hold.table :=
    each_keeps (P := fun d => d.hold.table ⊆ (resetPorts Port.all c).hold.table)
      (fun j d hd => List.Subset.trans (dropJob_subset j d) hd) _ (List.Subset.refl _)
  unfold stopped
  rw [each_removeHold_table]
  exact List.Subset.trans List.filter_sublist.subset hdropped

/-- No FIXED hold but an ACTIVE one is left. -/
def FixedActive (c : Chip) : Prop := ∀ h ∈ c.hold.table, h.cls = .fixed → ∃ left, h.state = .active left

theorem FixedActive.descends {c d : Chip} (h : FixedActive c) (hd : Descends c d) : FixedActive d := by
  intro x hx hcls
  obtain ⟨y, hy, hyx, hstate⟩ := hd x hx
  obtain ⟨left, hl⟩ := h y hy (by rw [← hcls, ← hyx])
  exact ⟨left, (hstate left hl).trans hl⟩

theorem fixedActive_stopped (c : Chip) : FixedActive (stopped c) := by
  intro x hx hcls
  unfold stopped at hx
  rw [each_removeHold_table] at hx
  obtain ⟨hm, hrest⟩ := List.mem_filter.1 hx
  by_contra hnot
  refine of_decide_eq_true hrest x (List.mem_filter.2 ⟨hm, ?_⟩) rfl
  unfold Hold.unfinished
  cases hs : x.state with
  | active left => exact absurd ⟨left, hs⟩ hnot
  | pending waits => simp [hcls]
  | persisting => simp [hcls]

theorem carried_stopped {c : Chip} (hmark : Marked c) {used : Prop} {h : Hold} (k : Carried used h c) (hcls : h.cls = .power) :
    Carried used h (stopped c) := by
  have kr := carried_resetPorts hmark k hcls
  have kempty : Carried used h ((resetPorts Port.all c).modCfg fun u => { u with queue := [] }) := by
    refine kr.of_table rfl (fun hj => ?_) fun _ hn => hn
    unfold jobsOf Chip.modCfg at *
    dsimp only at hj
    split at hj
    all_goals simp_all
  have kdropped : Carried used h (dropped c) := each_keeps_mem (P := Carried used h) (f := dropJob)
    (l := (resetPorts Port.all c).cfg.queue) (fun j hj d hd => hd.dropJob fun he => kr.job (queue_jobs (he ▸ hj))) kempty
  refine kdropped.each_removeHold fun y hy hid => ?_
  obtain ⟨hm, hu⟩ := List.mem_filter.1 hy
  have hfixed : y.cls = .fixed := by
    unfold Hold.unfinished at hu
    simpa using (Bool.and_eq_true_iff.1 hu).1
  rw [kdropped.eq_of_id hm hid, hcls] at hfixed
  cases hfixed

end Sys2Proof.Resets
end

section
/-! SUPPORT. Entry to START at the end of a bridge reset (R45, R158, R173, R174, R179). -/

namespace Sys2Proof.Resets

open Sys2Proof.Machine Sys2Proof.Safety Sys2Proof.Keeping Sys2Proof.Commands Sys2Proof.DataPath Sys2Proof.SlotOps
  Sys2Proof.Grants Sys2Proof.Aftermath Sys2Proof.HoldProofs Sys2Proof.Counts

/-! ### The control function through the reset -/

theorem endRecord_ctl (p : Port) (t : Tag) (c : Chip) : (endRecord p t c).ctl = c.ctl := by
  unfold endRecord
  split
  · rfl
  · rfl
  · split
    all_goals simp [freeTag, setRecord, Chip.modPort]

theorem drainBesideEnd_ctl (p : Port) (c : Chip) : (drainBesideEnd p c).ctl = c.ctl := by
  unfold drainBesideEnd
  split
  · split
    · dsimp only
      split
      · rw [Laws.drainEnd_ctl, Laws.endWaits_ctl]
        rfl
      · rfl
    · rfl
  all_goals rfl

theorem cleanUp_ctl (p : Port) (c : Chip) : (cleanUp p c).ctl = c.ctl := by
  unfold cleanUp
  dsimp only
  rw [Laws.endSessionStaging_ctl, drainBesideEnd_ctl, Laws.endSessionHolds_ctl]
  exact Laws.each_proj (fun c => c.ctl) _ (endRecord_ctl p) _ _

theorem swept_ctl (ports : List Port) (c : Chip) : (swept ports c).ctl = c.ctl := by
  unfold swept
  rw [Laws.each_proj (fun c => c.ctl) _ cleanUp_ctl]
  exact Laws.each_proj (fun c => c.ctl) (leaveOpen .reset) (fun _ _ => rfl) _ _

theorem resetPorts_ctl {c : Chip} (hmark : Marked c) : (resetPorts Port.all c).ctl = c.ctl := by
  rw [resetPorts_marked hmark, Laws.eachPort_proj (fun c => c.ctl) _ (by simp)]
  unfold beforeWriter
  rw [Laws.drainTest_ctl, Laws.endWaits_ctl, swept_ctl]

theorem stopped_ctl {c : Chip} (hmark : Marked c) : (stopped c).ctl = c.ctl := by
  unfold stopped dropped
  rw [Laws.each_proj (fun c => c.ctl) _ (by simp), Laws.each_proj (fun c => c.ctl) _ (by simp)]
  exact resetPorts_ctl hmark

/-! ### The first attempt of START (R173, R174) -/

/-- The blocks with START entered and its first attempt at `step`. -/
def begun (step : AttemptStep) (c : Chip) : Chip :=
  { c with
    cfg := ConfigUnit.reset
    map := { c.map with active := factory, epoch := 0#32, staging := .empty, commit := .idle }
    mlink := { c.mlink with capacity := 0#32, slotCount := 0, attempts := 0, bringUp := .attempt step 200 } }

/-- The blocks when LINK-RESET has gone out and every slot is FREE; nothing has followed yet. -/
def linkReset (c : Chip) : Chip := freeAllSlots (sendMedia .linkReset (begun .awaitReady c))

theorem beginAttempt_up {c : Chip} (h : c.mlink.link = .up) :
    beginAttempt c = sendLinkReset (setBringUp (.attempt .awaitReady Config.attemptLimit) c) := by
  unfold beginAttempt
  rw [h]

theorem beginAttempt_down {c : Chip} (h : c.mlink.link = .down) :
    beginAttempt c = setBringUp (.attempt .awaitLinkUp Config.attemptLimit) c := by
  unfold beginAttempt
  rw [h]

/-- The blocks at the entry to START, before its first attempt (R173). -/
def atEntry (c : Chip) : Chip :=
  { c with
    cfg := ConfigUnit.reset
    map := { c.map with active := factory, epoch := 0#32, staging := .empty, commit := .idle }
    mlink := { c.mlink with capacity := 0#32, slotCount := 0, attempts := 0, bringUp := .idle } }

theorem enterStart_eq (c : Chip) : enterStart c = beginAttempt (atEntry c) := rfl

theorem enterStart_up {c : Chip} (h : c.mlink.link = .up) : enterStart c = conclude id (linkReset c) := by
  rw [enterStart_eq, beginAttempt_up (c := atEntry c) h, sendLinkReset_start rfl]
  rfl

theorem enterStart_down {c : Chip} (h : c.mlink.link = .down) : enterStart c = begun .awaitLinkUp c := by
  rw [enterStart_eq, beginAttempt_down (c := atEntry c) h]
  rfl

theorem finishReset_eq (c : Chip) : finishReset c = enterStart (stopped c) := rfl

/-- In START with no commit under way the ends of waits are all that follows an event. -/
theorem settle_in_start {e : Chip} (hb : e.cfg.bridge = .start) (hc : e.map.commit = .idle) : settle e = endWaits e := by
  have hsame : drainTest (endWaits e) = endWaits e := drainTest_same fun info left h => by
    rw [Laws.endWaits_map, hc] at h
    cases h
  unfold settle
  rw [hsame]
  unfold writerTake
  rw [if_neg]
  simp [Chip.writerMayTake, endWaits_cfg, hb]

theorem newJobs_fixedActive {c : Chip} (h : FixedActive c) : newJobs c = [] := by
  unfold newJobs
  rw [List.filter_eq_nil_iff.2 fun x hx hd => ?_]
  · rfl
  · obtain ⟨hcls, hs⟩ := of_decide_eq_true hd
    obtain ⟨left, hl⟩ := h x hx hcls
    exact absurd (hs.symm.trans hl) HoldState.noConfusion

theorem freeSlot_map (i : SlotNo) (c : Chip) : ∃ u, (freeSlot i c).map = { c.map with usage := u } := by
  cases hr : c.slot i with
  | none => exact ⟨_, by rw [freeSlot_of_none hr]⟩
  | some r =>
    cases hh : r.holder with
    | configuration => exact ⟨_, by rw [freeSlot_of_configuration hr hh]; rfl⟩
    | port p =>
      have hgiven : ∃ u, (givenUp i p r c).map = { c.map with usage := u } := by
        unfold givenUp uncount
        cases r.window <;> cases r.ordered <;> exact ⟨_, rfl⟩
      obtain ⟨u, hu⟩ := hgiven
      exact ⟨u, (freeSlot_proj (fun c => c.map) (by simp) hr hh).trans hu⟩

theorem freeAllSlots_map (c : Chip) : ∃ u, (freeAllSlots c).map = { c.map with usage := u } := by
  refine each_keeps (P := fun d => ∃ u, d.map = { c.map with usage := u }) (fun i d hd => ?_) _ ⟨_, rfl⟩
  obtain ⟨u, hu⟩ := hd
  obtain ⟨v, hv⟩ := freeSlot_map i d
  exact ⟨v, by rw [hv, hu]⟩

section
variable {b : Chip}

theorem linkReset_cfg : (linkReset b).cfg = ConfigUnit.reset := by
  unfold linkReset
  rw [freeAllSlots_cfg, Laws.sendMedia_cfg]
  rfl

theorem linkReset_map : ∃ u, (linkReset b).map =
    { b.map with active := factory, epoch := 0#32, staging := .empty, commit := .idle, usage := u } := by
  obtain ⟨u, hu⟩ := freeAllSlots_map (sendMedia .linkReset (begun .awaitReady b))
  exact ⟨u, by rw [linkReset, hu, Laws.sendMedia_map]; rfl⟩

theorem linkReset_mlink : ∃ x, (linkReset b).mlink = { b.mlink with
    capacity := 0#32, slotCount := 0, attempts := 0, slots := x, bringUp := .attempt .awaitReady 200 } := by
  have hslots (c : Chip) : ∃ x, (freeAllSlots c).mlink = { c.mlink with slots := x } := ⟨_, freeAllSlots_mlink c⟩
  obtain ⟨x, hx⟩ := hslots (sendMedia .linkReset (begun .awaitReady b))
  rw [Laws.sendMedia_mlink] at hx
  exact ⟨x, hx⟩

theorem linkReset_settle : settle (linkReset b) = endWaits (linkReset b) := by
  obtain ⟨u, hu⟩ := linkReset_map (b := b)
  exact settle_in_start (by rw [linkReset_cfg]; rfl) (by rw [hu])

theorem enterStart_settled (h : b.mlink.link = .up) : enterStart b = eachPort closeIfIdle (endWaits (linkReset b)) := by
  rw [enterStart_up h, conclude_id_outside (by rw [linkReset_cfg]; decide), linkReset_settle]

/-- What the entry to START sets (R173, R174). -/
structure Entered (b t : Chip) : Prop where
  cfg : t.cfg = ConfigUnit.reset
  map : ∃ u, t.map = { b.map with active := factory, epoch := 0#32, staging := .empty, commit := .idle, usage := u }
  mlink : ∃ x, t.mlink = { b.mlink with
    capacity := 0#32, slotCount := 0, attempts := 0, slots := x
    bringUp := .attempt (if b.mlink.link = .up then .awaitReady else .awaitLinkUp) 200 }
  ctl : t.ctl = b.ctl
  slots : b.mlink.link = .up → ∀ n, t.slot n = none
  still : Still t
  descends : Descends b t

theorem entered_up (h : b.mlink.link = .up) (hfixed : FixedActive b) : Entered b (enterStart b) := by
  have hdescends : Descends b (linkReset b) :=
    (Descends.of_same (d := sendMedia .linkReset (begun .awaitReady b)) (by rw [Laws.sendMedia_hold]; rfl)).trans
      (Descends.each Descends.freeSlot allSlots _)
  have hjobs : newJobs (linkReset b) = [] := newJobs_fixedActive (hfixed.descends hdescends)
  have hcfg : (enterStart b).cfg = ConfigUnit.reset := by
    rw [enterStart_settled h, Laws.eachPort_proj (fun c => c.cfg) _ (by simp), endWaits_cfg, hjobs, List.append_nil,
      linkReset_cfg]
  have hmlink : (enterStart b).mlink = (linkReset b).mlink := by
    rw [enterStart_settled h, Laws.eachPort_proj (fun c => c.mlink) _ (by simp), Laws.endWaits_mlink]
  have hhold : (enterStart b).hold = (endWaits (linkReset b)).hold := by
    rw [enterStart_settled h, Laws.eachPort_proj (fun c => c.hold) _ (by simp)]
  obtain ⟨u, hmap⟩ := linkReset_map (b := b)
  have hmap' : (enterStart b).map = (linkReset b).map := by
    rw [enterStart_settled h, Laws.eachPort_proj (fun c => c.map) _ (by simp), Laws.endWaits_map]
  refine ⟨hcfg, ⟨u, hmap'.trans hmap⟩, ?_, ?_, fun _ n => ?_, ⟨?_, ?_, ?_, ?_⟩, ?_⟩
  · rw [hmlink, if_pos h]
    exact linkReset_mlink
  · rw [enterStart_settled h, Laws.eachPort_proj (fun c => c.ctl) _ (by simp), Laws.endWaits_ctl, linkReset, freeAllSlots_ctl,
      Laws.sendMedia_ctl]
    rfl
  · rw [slot_congr (congrArg MlinkCtl.slots hmlink)]
    exact freeAllSlots_slot _ n
  · intro info left hc
    rw [hmap', hmap] at hc
    cases hc
  · intro x hx
    rw [hhold] at hx
    exact endWaits_none hx
  · rw [hcfg]
    rfl
  · intro q reason hs
    rw [enterStart_settled h, eachPort_closeIfIdle_port] at *
    exact ended_busy hs
  · exact hdescends.trans ((Descends.endWaits _).trans (Descends.of_same hhold))

theorem entered_down (h : b.mlink.link = .down) (hwait : ∀ x ∈ b.hold.table, x.state ≠ .pending [])
    (hbusy : ∀ q reason, (b.ports.get q).session = .closing reason → (b.ports.get q).inFlight ≠ 0) :
    Entered b (enterStart b) := by
  rw [enterStart_down h]
  refine ⟨rfl, ⟨_, rfl⟩, ⟨b.mlink.slots, ?_⟩, rfl, fun hup => ?_, ⟨fun info left hc => (by cases hc), hwait, rfl, hbusy⟩,
    Descends.of_same rfl⟩
  · rw [if_neg (by rw [h]; decide)]
    rfl
  · rw [h] at hup
    cases hup

end

/-- Nothing but flags changes at a port when jobs and unfinished holds are dropped. -/
theorem stopped_ports (c : Chip) : PortsStay (resetPorts Port.all c) (stopped c) :=
  (PortsStay.settling _).beforeStart Hold.unfinished _
    ((PortsStay.settling _).modJobs (fun u => { u with queue := [] }) ⟨rfl, rfl, rfl, fun _ hj => .inl hj⟩ (PortsStay.refl _))

/-- The end of a bridge reset: what the entry to START sets (R173, R174, R179). -/
theorem entered_finishReset {c : Chip} (hmark : Marked c) : Entered (stopped c) (finishReset c) := by
  rw [finishReset_eq]
  cases hl : (stopped c).mlink.link with
  | up => exact entered_up hl (fixedActive_stopped c)
  | down =>
    refine entered_down hl (fun x hx => resetPorts_noWait hmark (stopped_table c hx)) fun q reason hs => ?_
    obtain ⟨hsession, -, hinFlight⟩ := stopped_ports c q
    rw [hsession] at hs
    rw [hinFlight]
    exact resetPorts_busy hmark q reason hs

end Sys2Proof.Resets
end

section
/-! SUPPORT. START has begun: what holds of it whatever the reset was reached from (R45, R57, R158, R173, R174, R179). -/

namespace Sys2Proof.Resets

open Sys2Proof.Machine Sys2Proof.Safety Sys2Proof.Keeping Sys2Proof.Commands Sys2Proof.DataPath Sys2Proof.SlotOps
  Sys2Proof.Grants Sys2Proof.Aftermath Sys2Proof.HoldProofs Sys2Proof.Counts

/-- The frames that a port may be sent whose session is not OPEN: the CLOSED of its CLOSING session. -/
def ClosedOnly (s : State) (q : Port) (f : PFrame) : Prop :=
  ∃ reason, (s.chip.ports.get q).session = .closing reason ∧ f = .closed reason

/-- Every slot that a PENDING hold waits for is in use. -/
def WaitsUsed (s : State) (h : Hold) : Prop := ∀ waits, h.state = .pending waits → ∀ n ∈ waits, s.chip.slot n ≠ none

/-- Blocks from which a bridge reset that was under way in `s` is finished: the mark is set, and what was OPEN in `s` is still
OPEN. -/
structure ResetFrom (s : State) (c : Chip) : Prop where
  marked : Marked c
  opened : ∀ q, (c.ports.get q).session = .opened ↔ (s.chip.ports.get q).session = .opened
  checks : ChecksStay s.chip c
  mlink : ∃ l, MlinkIs { s.chip.mlink with link := l } c
  sent : s.chip.sent <+: c.sent
  mute : ∀ q, (s.chip.ports.get q).session ≠ .opened → Mute q (ClosedOnly s q) s.chip.sent c
  counts : SlotTableExact s → CountsExact c
  holds : HoldTableInRange s → ∀ h ∈ s.chip.hold.table, h.cls = .power → .hold h.id ∉ jobsOf s.chip.cfg →
    Carried (WaitsUsed s h) h c

/-- A property that the entry to START and LINK-RESET keep, from the end of the sessions on. -/
theorem finishReset_after {P : Chip → Prop} (k : KeptConcluding P) {c : Chip} (hbegun : ∀ step d, P d → P (begun step d))
    (hsent : ∀ d, P d → P (sendMedia .linkReset d)) (h : P (resetPorts Port.all c)) : P (finishReset c) := by
  have hstopped := stopped_after k.toKeptSettling h
  rw [finishReset_eq]
  cases hl : (stopped c).mlink.link with
  | up =>
    rw [enterStart_up hl]
    exact k.conclude_id (k.freeAllSlots (hsent _ (hbegun _ _ hstopped)))
  | down =>
    rw [enterStart_down hl]
    exact hbegun _ _ hstopped

/-- A property that the end of the sessions keeps too is kept by the whole. -/
theorem finishReset_keeps {P : Chip → Prop} {O : Port → Prop} (k : KeptEnding P O) {c : Chip} (hO : ∀ p, c.isOpen p → O p)
    (hbegun : ∀ step d, P d → P (begun step d)) (hsent : ∀ d, P d → P (sendMedia .linkReset d)) (h : P c) :
    P (finishReset c) := finishReset_after k.toKeptConcluding hbegun hsent (k.resetPorts (fun p _ => hO p) h)

theorem enterStart_noneOpen {b : Chip} (h : NoneOpen b) : NoneOpen (enterStart b) :=
  noneOpen_kept.enterStart (noneOpen_kept.started h h)

theorem finishReset_noneOpen (c : Chip) : NoneOpen (finishReset c) := by
  rw [finishReset_eq]
  exact enterStart_noneOpen (stopped_noneOpen c)

theorem carried_begun {b : Chip} {used : Prop} {h : Hold} (k : Carried used h b) (step : AttemptStep) :
    Carried used h (begun step b) :=
  k.of_table rfl (fun hj => absurd hj List.not_mem_nil) fun _ hn => hn

theorem carried_linkReset {b : Chip} {used : Prop} {h : Hold} (k : Carried used h b) : Carried used h (linkReset b) :=
  each_keeps (P := Carried used h) (fun i d hd => hd.freeSlot i) _
    ((carried_begun k .awaitReady).of_mlink (by simp) (by simp) (by simp))

theorem carried_enterStart {b : Chip} {used : Prop} {h : Hold} (k : Carried used h b) (hcls : h.cls = .power) :
    Carried used h (enterStart b) := by
  have hfixed : h.cls ≠ .fixed := by rw [hcls]; exact HoldClass.noConfusion
  cases hl : b.mlink.link with
  | up =>
    rw [enterStart_settled hl]
    exact eachPort_keeps (fun p d (hd : Carried used h d) => hd.of_mlink (by simp) (by simp) (by simp))
      ((carried_linkReset k).endWaits hfixed)
  | down =>
    rw [enterStart_down hl]
    exact carried_begun k _

theorem carried_finishReset {c : Chip} (hmark : Marked c) {used : Prop} {h : Hold} (k : Carried used h c)
    (hcls : h.cls = .power) : Carried used h (finishReset c) := by
  rw [finishReset_eq]
  exact carried_enterStart (carried_stopped hmark k hcls) hcls

theorem enterStart_sent {b : Chip} (hup : b.mlink.link = .up) : b.sent ++ [.toMedia .linkReset] <+: (enterStart b).sent := by
  have hlink (x : BringUp) : (setBringUp x (atEntry b)).mlink.link = .up := hup
  have hsent (x : BringUp) : (setBringUp x (atEntry b)).sent = b.sent := rfl
  rw [enterStart_eq, beginAttempt_up (c := atEntry b) hup, ← hsent]
  exact sendLinkReset_sent (hlink _)

/-- The parts of START's beginning, put together: blocks `t` that START has been entered with from `b`. -/
theorem startBegun_of {s : State} {b t : Chip} (e : Entered b t) (hclosed : NoneOpen t) (hchecks : ChecksStay s.chip t)
    (hmlink : ∃ l, MlinkIs { s.chip.mlink with link := l } b) (hfirst : s.chip.sent <+: t.sent)
    (hreset : b.mlink.link = .up → ∃ more, s.chip.sent ++ more ++ [.toMedia .linkReset] <+: t.sent)
    (hmute : ∀ q, (s.chip.ports.get q).session ≠ .opened → Mute q (ClosedOnly s q) s.chip.sent t)
    (hfixed : FixedActive t) (hsession : ∀ h ∈ t.hold.table, h.cls = .session → (s.chip.ports.get h.owner).session ≠ .opened)
    (hholds : HoldTableInRange s → ∀ h ∈ s.chip.hold.table, h.cls = .power → .hold h.id ∉ jobsOf s.chip.cfg →
      Carried (WaitsUsed s h) h t)
    (hdown : SlotTableExact s → (∀ n, t.slot n = none) → ∀ q, (t.ports.get q).session = .down) :
    StartBegun s { s with chip := t } := by
  obtain ⟨hcfg, ⟨u, hmap⟩, ⟨x, hm⟩, -, hslots, hstill, -⟩ := e
  obtain ⟨l, y, hl⟩ := hmlink
  have hlink : t.mlink.link = b.mlink.link := by rw [hm]
  obtain ⟨frames, hframes⟩ := hfirst
  refine ⟨hcfg, by rw [hmap], by rw [hmap], by rw [hmap], by rw [hmap], by rw [hm], by rw [hm], by rw [hm], ?_, by rw [hm, hl],
    by rw [hm, hl], by rw [hm, hl], fun q => ⟨hclosed q, hchecks q⟩, ⟨frames, hframes.symm, fun hup => ?_, fun q f hq hf => ?_⟩,
    fun h hh => ⟨hfixed h hh, hsession h hh⟩, fun hrange h hh hcls hjob => ?_, fun hup => hslots (hlink.symm.trans hup),
    fun hfree => ⟨fun hexact => hdown hexact hfree, fun hrange h hh waits hcls hjob hs hused => ?_⟩⟩
  · change t.mlink.bringUp = .attempt (if t.mlink.link = .up then _ else _) 200
    rw [hlink, hm]
  · obtain ⟨more, rest, hrest⟩ : ∃ more rest, s.chip.sent ++ (more ++ [.toMedia .linkReset] ++ rest) = t.sent := by
      obtain ⟨more, rest, h⟩ := hreset (hlink.symm.trans hup)
      exact ⟨more, rest, by rw [← h]; simp⟩
    rw [List.append_cancel_left (hframes.trans hrest.symm)]
    simp
  · obtain ⟨-, -, frames', hframes', hok⟩ := hmute q hq
    exact hok f (by rwa [← List.append_cancel_left (hframes.trans hframes')])
  · obtain ⟨z, hz, hlater⟩ := (hholds hrange h hh hcls hjob).alive
    obtain ⟨hid, hc, -⟩ := hlater.fields
    refine ⟨⟨z, hz, hid, hc.trans hcls⟩, fun hs => ⟨z.answerTo, ?_⟩⟩
    rw [hlater.eq, hlater.kept hs] at hz
    exact hz
  · obtain ⟨z, hz, hlater⟩ := (hholds hrange h hh hcls hjob).alive
    have hused' : WaitsUsed s h := fun waits' hs' => by
      cases hs.symm.trans hs'
      exact hused
    rcases hlater.waits waits hs hused' with ⟨rest, hr, hn⟩ | ⟨ha, hnone⟩
    · have hnil : rest = [] := List.eq_nil_iff_forall_not_mem.2 fun n hm => hn n hm (hfree n)
      exact absurd (hnil ▸ hr) (hstill.2.1 z hz)
    · rw [hlater.eq, ha, hnone] at hz
      exact hz

section
variable {s : State} {c : Chip} (k : ResetFrom s c)
include k

theorem ResetFrom.noSessionHold (h : Hold) (hm : h ∈ (finishReset c).hold.table) (hcls : h.cls = .session) :
    (s.chip.ports.get h.owner).session ≠ .opened := by
  intro hopen
  have hnone : NoSessionHold h.owner (finishReset c) :=
    ((noSessionHold_resetPorts k.marked ((k.opened _).2 hopen)).descends (Descends.of_subset (stopped_table c))).descends
      (entered_finishReset k.marked).descends
  exact hnone h hm hcls rfl

theorem ResetFrom.mlink_stopped : ∃ l, MlinkIs { s.chip.mlink with link := l } (stopped c) := by
  obtain ⟨l, hl⟩ := k.mlink
  exact ⟨l, stopped_keeps (mlinkIs_ending _) (fun _ _ => trivial) hl⟩

theorem ResetFrom.sent_stopped : s.chip.sent <+: (stopped c).sent :=
  stopped_keeps (sentOn_ending s.chip.sent) (fun _ _ => trivial) k.sent

theorem ResetFrom.mute_end {q : Port} (hq : (s.chip.ports.get q).session ≠ .opened) :
    Mute q (ClosedOnly s q) s.chip.sent (finishReset c) := by
  have m := Mute.mutes q (ClosedOnly s q) s.chip.sent
  have hO (p : Port) (hp : c.isOpen p = true) : p ≠ q := by
    rintro rfl
    exact hq ((k.opened p).1 (by simpa [Chip.isOpen] using hp))
  refine finishReset_keeps m.ending hO (fun step d hd => m.of_same hd rfl rfl rfl) (fun d hd => ?_) (k.mute q hq)
  refine m.sends hd (by simp) (by simp) ⟨_, sendMedia_sent .linkReset d, fun f hf => ?_⟩
  split at hf <;> simp at hf

theorem ResetFrom.counts_end (hexact : SlotTableExact s) : CountsExact (finishReset c) :=
  finishReset_keeps CountsExact.ending (fun _ _ => trivial) (fun _ _ hd => hd.of_same (fun _ => rfl) rfl rfl)
    (fun _ hd => hd.of_same (fun _ => by simp) (by simp) (by simp)) (k.counts hexact)

theorem ResetFrom.checks_end : ChecksStay s.chip (finishReset c) :=
  finishReset_keeps (checksStay_ending s.chip) (fun _ _ => trivial) (fun _ _ hd => hd)
    (fun _ hd => checksStay_same (by simp) hd) k.checks

/-- With every slot FREE every session is DOWN. -/
theorem ResetFrom.down (hexact : SlotTableExact s) (hslots : ∀ n, (finishReset c).slot n = none) (q : Port) :
    ((finishReset c).ports.get q).session = .down := by
  obtain ⟨-, -, -, hbusy⟩ := (entered_finishReset k.marked).still
  have hzero : ((finishReset c).ports.get q).inFlight = 0 := by
    rw [(k.counts_end hexact).port, List.length_eq_zero_iff]
    exact List.filter_eq_nil_iff.2 fun i _ => by simp [hslots i]
  cases hs : ((finishReset c).ports.get q).session with
  | down => rfl
  | opened => exact absurd hs (finishReset_noneOpen c q)
  | closing reason => exact absurd hzero (hbusy q reason hs)

/-- START has begun. -/
theorem ResetFrom.begun : StartBegun s { s with chip := finishReset c } := by
  have e := entered_finishReset k.marked
  refine startBegun_of e (finishReset_noneOpen c) k.checks_end k.mlink_stopped
    (finishReset_keeps (sentOn_ending s.chip.sent) (fun _ _ => trivial) (fun _ _ hd => hd)
      (fun d hd => hd.trans (Silent.sendMedia _ d).sent) k.sent) (fun hup => ?_) (fun q hq => k.mute_end hq)
    ((fixedActive_stopped c).descends e.descends) k.noSessionHold
    (fun hrange h hh hcls hjob => carried_finishReset k.marked (k.holds hrange h hh hcls hjob) hcls)
    fun hexact hfree q => k.down hexact hfree q
  obtain ⟨more, hmore⟩ := k.sent_stopped
  refine ⟨more, ?_⟩
  rw [hmore, finishReset_eq]
  exact enterStart_sent hup

end

end Sys2Proof.Resets
end

section
/-! SUPPORT. What a bridge reset is finished from, and the event it ends in (R179, R180). -/

namespace Sys2Proof.Resets

open Sys2Proof.Machine Sys2Proof.Safety Sys2Proof.Keeping Sys2Proof.Commands Sys2Proof.DataPath Sys2Proof.SlotOps
  Sys2Proof.Grants Sys2Proof.Aftermath Sys2Proof.HoldProofs Sys2Proof.Counts

variable {s : State} {c d : Chip}

namespace ResetFrom

/-- Under the mark the reset can be finished from the state itself. -/
theorem start (hmark : Marked s.chip) : ResetFrom s s.chip where
  marked := hmark
  opened _ := Iff.rfl
  checks _ := rfl
  mlink := ⟨s.chip.mlink.link, s.chip.mlink.slots, rfl⟩
  sent := List.prefix_refl _
  mute _ hq := ⟨hq, fun reason hs => ⟨reason, hs, rfl⟩, [], (List.append_nil _).symm, fun _ hf => absurd hf List.not_mem_nil⟩
  counts := countsExact_of_slotTable
  holds hrange h hh _ hjob := ⟨hrange.2.2, hjob, h, hh, .refl h fun waits hs hu => hu waits hs⟩

/-- What the end of an event keeps, and what carries POWER holds on, leads to blocks to finish from. The frames may come from
other blocks that have the property. -/
theorem ofEnd (k : ResetFrom s c) (ho : ∀ {P : Chip → Prop}, KeptConcluding P →
      (∀ {c d : Chip} (n : Nat), P c → P d → P { c with sent := d.sent, free := n }) → P c → P d)
    (hholds : ∀ h ∈ s.chip.hold.table, h.cls = .power → .hold h.id ∉ jobsOf s.chip.cfg → Carried (WaitsUsed s h) h c →
      Carried (WaitsUsed s h) h d) : ResetFrom s d where
  marked := ho Marked.ending.toKeptConcluding (fun _ h _ => h.of_cfg rfl) k.marked
  opened q := ((ho (Onward.running c).toKeptConcluding (fun n h h' => h.of_merged n h') (Onward.refl c)).opened q).trans
    (k.opened q)
  checks := ho (checksStay_ending s.chip).toKeptConcluding (fun _ h _ => h) k.checks
  mlink := by
    obtain ⟨l, hl⟩ := k.mlink
    exact ⟨l, ho (mlinkIs_ending _).toKeptConcluding (fun _ h _ => h) hl⟩
  sent := ho (sentOn_ending s.chip.sent).toKeptConcluding (fun _ _ h => h) k.sent
  mute q hq := ho (Mute.mutes q (ClosedOnly s q) s.chip.sent).concluding (fun _ h h' => ⟨h.1, h.2.1, h'.2.2⟩) (k.mute q hq)
  counts hexact := ho CountsExact.ending.toKeptConcluding (fun _ h _ => h.of_same (fun _ => rfl) rfl rfl) (k.counts hexact)
  holds hrange h hh hcls hjob := hholds h hh hcls hjob (k.holds hrange h hh hcls hjob)

theorem op (k : ResetFrom s c) (ho : ∀ {P : Chip → Prop}, KeptConcluding P → P c → P d)
    (hholds : ∀ h ∈ s.chip.hold.table, h.cls = .power → .hold h.id ∉ jobsOf s.chip.cfg → Carried (WaitsUsed s h) h c →
      Carried (WaitsUsed s h) h d) : ResetFrom s d := k.ofEnd (fun kp _ h => ho kp h) hholds

/-- A change of the configuration unit that leaves the mark and brings no job. -/
theorem of_cfg (k : ResetFrom s c) {u : ConfigUnit} (hmark : Marked { c with cfg := u })
    (hjobs : ∀ j ∈ jobsOf u, j ∈ jobsOf c.cfg) : ResetFrom s { c with cfg := u } :=
  { k with
    marked := hmark
    holds := fun hrange h hh hcls hjob =>
      (k.holds hrange h hh hcls hjob).of_table rfl (fun hj => hjobs _ hj) fun _ hn => hn
    mute := fun q hq => (Mute.mutes q (ClosedOnly s q) s.chip.sent).of_same (k.mute q hq) rfl rfl rfl
    counts := fun hexact => (k.counts hexact).of_same (fun _ => rfl) rfl rfl }

theorem freeSlot (k : ResetFrom s c) (i : SlotNo) : ResetFrom s (freeSlot i c) :=
  k.op (fun kp h => kp.freedSlot i h) fun _ _ _ _ hc => hc.freeSlot i

theorem idleWriter (k : ResetFrom s c) (hw : ∀ j target g, c.cfg.writer ≠ .writing j target g) :
    ResetFrom s (setWriter .idle c) :=
  k.of_cfg (u := { c.cfg with writer := .idle }) ⟨k.marked.1, fun j hj => by cases hj⟩ fun j hj => by
    unfold jobsOf
    split
    · rename_i j' hj'
      exact absurd hj' (k.marked.2 j')
    · rename_i j' target g hw'
      exact absurd hw' (hw j' target g)
    · exact hj
    · exact hj

end ResetFrom

/-- Nothing follows the entry to START in its event. -/
theorem conclude_finishReset (hmark : Marked c) : conclude id (finishReset c) = finishReset c := by
  have e := entered_finishReset hmark
  refine conclude_still Answering.id e.still (Answering.id.arbitrate_noGrant (.inl ?_))
  rw [e.cfg]
  decide

theorem finishReset_ctl (hmark : Marked c) : (finishReset c).ctl = c.ctl :=
  (entered_finishReset hmark).ctl.trans (stopped_ctl hmark)

theorem finishReset_link (hmark : Marked c) : (finishReset c).mlink.link = c.mlink.link := by
  obtain ⟨x, hx⟩ := (entered_finishReset hmark).mlink
  obtain ⟨y, hy⟩ : MlinkIs c.mlink (stopped c) :=
    stopped_keeps (mlinkIs_ending _) (fun _ _ => trivial) ⟨c.mlink.slots, rfl⟩
  rw [hx, hy]

/-- The jobs at the end of an event, when a generation is left (R163, R164). -/
theorem conclude_id_jobs (hg : c.cfg.generation ≠ 0xFFFFFFFF#32) : ∃ last, (last = [] ∨ last = [.commit]) ∧
    jobsOf (conclude id c).cfg = jobsOf c.cfg ++ newJobs c ++ last := by
  obtain ⟨last, hlast, hcfg⟩ := beforeWriter_cfg c
  obtain ⟨u, hu, hjobs⟩ := writerTake_takes (c := beforeWriter c) fun hx => hg (by rw [← hx.1, hcfg])
  refine ⟨last, hlast, ?_⟩
  rw [conclude_id_eq, (Granted.arbitrate _).jobs, Laws.eachPort_proj (fun c => c.cfg) _ (by simp), settle_eq, hu]
  change jobsOf u = _
  rw [hjobs, hcfg, List.append_assoc, jobsOf_append, List.append_assoc]

end Sys2Proof.Resets
end

section
/-! SUPPORT. Settles the response timer of a slot: the abandon, the persist job that fails, and the end of the abandon (R126,
R167, R168). -/

namespace Sys2Proof.Resets

open Sys2Proof.Machine Sys2Proof.Safety Sys2Proof.Keeping Sys2Proof.Commands Sys2Proof.DataPath Sys2Proof.SlotOps
  Sys2Proof.Grants Sys2Proof.Aftermath Sys2Proof.HoldProofs Sys2Proof.Counts

section
variable {s : State} {c : Chip} {asker : Option Port}

/-! ### A write that has failed (R167) -/

/-- The holds of `s` stand in the blocks `c`, some in another state. -/
structure HoldsStand (s : State) (c : Chip) : Prop where
  ascending : HoldTableInRange s → c.hold.table.Pairwise fun a b => a.id < b.id
  stands : ∀ x ∈ s.chip.hold.table, ∃ state, { x with state := state } ∈ c.hold.table

theorem HoldsStand.of_same (h : c.hold = s.chip.hold) : HoldsStand s c :=
  ⟨fun hrange => by rw [h]; exact hrange.2.2, fun x hx => ⟨x.state, by rw [h]; exact hx⟩⟩

theorem HoldsStand.onto (h : HoldsStand s c) {d : Chip} (hd : d.hold = c.hold) : HoldsStand s d := by
  obtain ⟨hp, hx⟩ := h
  exact ⟨by rw [hd]; exact hp, by rw [hd]; exact hx⟩

/-- The failure of a job has reached its owner. -/
theorem jobFailed_reported (h : Goes none s c) (hholds : HoldsStand s c) (hmap : ∃ u, c.map = { s.chip.map with usage := u })
    (hbridge : c.cfg.bridge ≠ .fault) (j : Job) : FailureReported s { s with chip := jobFailed j c } j := by
  obtain ⟨u, hmap⟩ := hmap
  have hgoes : Goes none s (jobFailed j c) := h.op fun k hk => k.jobFailed j hk
  constructor
  · rintro x hx rfl hrange
    obtain ⟨state, hm⟩ := hholds.stands x hx
    obtain ⟨hset, hanswered⟩ := jobFailed_told h (hholds.ascending hrange) hm
    refine ⟨⟨fun y hy => ?_, hanswered⟩, (hset (by rw [hmap])).told hgoes⟩
    have hy : y ∈ (jobFailed (.hold x.id) c).hold.table := hy
    rw [jobFailed_table] at hy
    simpa [without] using (List.mem_filter.1 hy).2
  · rintro info owner cfg rfl hc hstaging
    refine commitFailed_of_map (c := c) (owner := owner) ?_ (by rw [hmap]) (by rw [hmap]) (by rw [hmap]; exact hstaging) hbridge ?_
    · exact (jobFailed_map .commit c).2 info (by rw [hmap]; exact hc) rfl
    · exact jobsFailed_commit (l := [.commit]) h (by rw [hmap]; exact hc) (List.mem_singleton.2 rfl)

theorem writeFailed_eq {j : Job} {target : Copy} {g : Word} (hw : c.cfg.writer = .writing j target g) (w : Writer) :
    writeFailed w c = jobFailed j (setWriter w (setMark target .invalid c)) := by
  unfold writeFailed
  rw [hw]

theorem setMark_mark (x : Copy) (m : Mark) (c : Chip) : (setMark x m c).cfg.mark x = m := by cases x <;> rfl

theorem setMark_rest (x : Copy) (m : Mark) (c : Chip) : (setMark x m c).cfg.current = c.cfg.current ∧
    (setMark x m c).cfg.generation = c.cfg.generation ∧ (setMark x m c).cfg.bridge = c.cfg.bridge ∧
    (setMark x m c).cfg.resetMark = c.cfg.resetMark ∧ (setMark x m c).cfg.queue = c.cfg.queue := by
  cases x <;> exact ⟨rfl, rfl, rfl, rfl, rfl⟩

/-- The blocks when a write has failed and its job has not yet. -/
def markedFailed (w : Writer) (target : Copy) (c : Chip) : Chip := setWriter w (setMark target .invalid c)

theorem markedFailed_goes (h : Goes asker s c) (w : Writer) (target : Copy) : Goes asker s (markedFailed w target c) :=
  h.silent (Silent.of_same (by simp [markedFailed, setWriter, Chip.modCfg]) (by simp [markedFailed, setWriter, Chip.modCfg]))

/-- A write that fails, with the blocks otherwise as in `s`, but for counts and the bridge state (R167). -/
theorem writeFailed_fails (h : Goes none s c) (hholds : HoldsStand s c) (hmap : ∃ u, c.map = { s.chip.map with usage := u })
    (hcfg : ∃ b, b ≠ .fault ∧ c.cfg = { s.chip.cfg with bridge := b }) (hctl : c.ctl = s.chip.ctl) {j : Job} {target : Copy}
    {g : Word} (hw : s.chip.cfg.writer = .writing j target g) (w : Writer) :
    WriteFailed s { s with chip := writeFailed w c } j target := by
  obtain ⟨b, hbridge, hcfg⟩ := hcfg
  obtain ⟨hcurrent, hgeneration, hb, -⟩ := setMark_rest target .invalid c
  rw [writeFailed_eq (by rw [hcfg]; exact hw)]
  have hcfg' : (jobFailed j (markedFailed w target c)).cfg = (markedFailed w target c).cfg := by simp
  refine ⟨?_, ?_, ?_, ?_, ?_⟩
  · exact (congrArg (fun u => ConfigUnit.mark u target) hcfg').trans (setMark_mark target .invalid c)
  · exact (congrArg ConfigUnit.current hcfg').trans (hcurrent.trans (by rw [hcfg]))
  · exact (congrArg ConfigUnit.generation hcfg').trans (hgeneration.trans (by rw [hcfg]))
  · have hone := each_jobFailed_ctl [j] (markedFailed w target c) (.inl (List.cons_ne_nil _ _))
    have hsame : (markedFailed w target c).ctl = s.chip.ctl := by
      rw [← hctl]
      simp [markedFailed, setWriter, Chip.modCfg]
    rw [hsame] at hone
    exact congrArg ControlFn.persistFailures hone
  · refine jobFailed_reported (markedFailed_goes h w target) (hholds.onto ?_) ?_ (fun hf => hbridge ?_) j
    · simp [markedFailed, setWriter, Chip.modCfg]
    · obtain ⟨u, hmap⟩ := hmap
      exact ⟨u, by rw [← hmap]; simp [markedFailed, setWriter, Chip.modCfg]⟩
    · rw [show (markedFailed w target c).cfg.bridge = (setMark target .invalid c).cfg.bridge from rfl, hb, hcfg] at hf
      exact hf

end

/-! ### The abandon (R126) -/

section
variable {s : State} {i : SlotNo} {r : SlotRec}

/-- The slot abandoned for a time-out, without an owner, and ABANDON sent. -/
def timedOut (i : SlotNo) (r : SlotRec) (c : Chip) : Chip :=
  toldMedia (.abandon i) { c with mlink := { c.mlink with
    slots := c.mlink.slots.set i (some { r with owner := none, phase := .abandoning .timeout 100 }) } }

theorem abandonSlot_timedOut {c : Chip} (hr : c.slot i = some r) (hup : c.mlink.link = .up) :
    abandonSlot i .timeout (disown i c) = timedOut i r c := by
  have hslot : (disown i c).slot i = some { r with owner := none } := by
    unfold disown
    rw [setSlot_slot, if_pos rfl, hr]
    rfl
  have hlink (x : Option SlotRec) : (setSlot i x (disown i c)).mlink.link = .up := hup
  have hboth (x : Option SlotRec) : setSlot i x (disown i c) = setSlot i x c := by
    simp only [disown, setSlot, Chip.modMlink, Laws.Table.set_set]
  unfold abandonSlot
  rw [hslot, Laws.sendMedia_up (hlink _), hboth]
  rfl

theorem responseExpiry_not_issued (h : ∀ r left, s.chip.slot i = some r → r.phase ≠ .issued left) :
    responseExpiry i s.chip = s.chip := by
  unfold responseExpiry
  split
  · rename_i r hr
    split
    · rename_i left hp
      exact absurd hp (h r left hr)
    all_goals rfl
  · rfl

section
variable {left : Nat} (hr : s.chip.slot i = some r) (hp : r.phase = .issued left) (hup : s.chip.mlink.link = .up)
include hr hp hup

theorem responseExpiry_port {p : Port} (hh : r.holder = .port p) : responseExpiry i s.chip =
    match r.owner with
    | some t => respond p t .mediaTimeout [] (timedOut i r s.chip)
    | none => timedOut i r s.chip := by
  unfold responseExpiry
  simp only [hr, hp, hh, abandonSlot_timedOut hr hup]
  cases r.owner <;> rfl

theorem responseExpiry_write (hh : r.holder = .configuration) (hop : r.op = .write) :
    responseExpiry i s.chip = writeFailed .awaitingFree (timedOut i r s.chip) := by
  unfold responseExpiry
  simp only [hr, hp, hh, hop, if_true, abandonSlot_timedOut hr hup]

theorem timedOut_port {p : Port} (hh : r.holder = .port p) {tag : Tag} (ho : r.owner = some tag) (hspeaks : Speaks s p) :
    responseExpiry i s.chip = answered p tag .mediaTimeout [] (withRecord p tag none (timedOut i r s.chip)) := by
  obtain ⟨-, hlink, hopen⟩ := hspeaks
  rw [responseExpiry_port hr hp hup hh, ho]
  exact Laws.respond_open (c := timedOut i r s.chip) hopen hlink ..

/-- The write of a persist job abandoned: the job has failed, and the writer waits in AWAITING-FREE (R167, R168). -/
theorem timedOut_write (hh : r.holder = .configuration) (hop : r.op = .write) {j : Job} {target : Copy} {g : Word}
    (hw : s.chip.cfg.writer = .writing j target g) (hservice : s.chip.cfg.bridge = .service) :
    let t := responseExpiry i s.chip
    ∃ after, t.slot i = some { r with owner := none, phase := .abandoning .timeout 100 } ∧
      t.cfg.writer = .awaitingFree ∧ WriteFailed s { s with chip := t } j target ∧
      t.sent = s.chip.sent ++ [.toMedia (.abandon i)] ++ after := by
  intro t
  have ht : t = writeFailed .awaitingFree (timedOut i r s.chip) := responseExpiry_write hr hp hup hh hop
  have hgoes : Goes none s (timedOut i r s.chip) := (Goes.start s).silent (.of_ports rfl (List.prefix_append _ _))
  have hfails : WriteFailed s { s with chip := writeFailed .awaitingFree (timedOut i r s.chip) } j target :=
    writeFailed_fails hgoes (.of_same rfl) ⟨_, rfl⟩ ⟨.service, by decide, by rw [← hservice]; rfl⟩ rfl hw .awaitingFree
  obtain ⟨after, hafter⟩ : (timedOut i r s.chip).sent <+: t.sent := by
    rw [ht]
    exact (sentOn_ending _).writeFailed (fun _ => Writer.noConfusion) (List.prefix_refl _)
  have heq : t = jobFailed j (markedFailed .awaitingFree target (timedOut i r s.chip)) :=
    ht.trans (writeFailed_eq (c := timedOut i r s.chip) hw _)
  have hslots : t.mlink = (timedOut i r s.chip).mlink := by
    rw [heq, Laws.jobFailed_mlink]
    simp [markedFailed, setWriter, Chip.modCfg]
  refine ⟨after, ?_, ?_, ht ▸ hfails, hafter.symm⟩
  · rw [slot_congr (congrArg MlinkCtl.slots hslots)]
    exact Laws.Table.get_set_self ..
  · rw [heq, Laws.jobFailed_cfg]
    rfl

end

/-! ### The end of the abandon (R128, R168) -/

section
variable (hr : s.chip.slot i = some r) (hh : r.holder = .configuration)
include hr hh

theorem freeSlot_write : freeSlot i s.chip = { s.chip with
    mlink := { s.chip.mlink with slots := s.chip.mlink.slots.set i none }
    hold := { s.chip.hold with table := s.chip.hold.table.map (noLonger i) } } := by
  have hhold : (freeSlot i s.chip).hold.table = s.chip.hold.table.map (noLonger i) := by
    rw [freeSlot_table, if_neg (by simp [hr])]
  rw [freeSlot_of_configuration hr hh] at *
  simp only [leaveWaits, setSlot, Chip.modHold, Chip.modMlink] at *
  rw [hhold]

omit hr in
theorem endTimeout_write (hop : r.op = .write) :
    endTimeout i r s.chip = conclude id (resumeReset (setWriter .idle (freeSlot i s.chip))) := by
  unfold endTimeout
  simp only [hh, hop, if_true]

/-- Both ends of the abandon of a configuration command are one (R128, R129). -/
theorem abandonEnds_configuration {left : Nat} (hp : r.phase = .abandoning .timeout left)
    (htakes : s.chip.takesCommandFrames = true) (hhigh : s.rstn = .high) {k : Instr}
    (hk : k = .abandonAck i ∨ ∃ status, k = .complete i status) :
    exec k s = .next { s with chip := endTimeout i r s.chip } := by
  rcases hk with rfl | ⟨status, rfl⟩
  · refine ack_does hhigh ?_
    unfold abandonAckTaken
    simp only [htakes, hr, hp, if_true]
  · refine complete_does hhigh ?_
    unfold completeTaken countLate
    simp only [htakes, hr, hp, hh, if_true]

end

theorem takes_of_service (h : s.chip.cfg.bridge = .service) : s.chip.takesCommandFrames = true := by
  simp [Chip.takesCommandFrames, h]

/-- Where nothing else waits the writer is IDLE and that is all. -/
theorem calm_write (hr : s.chip.slot i = some r) (hh : r.holder = .configuration) (hcalm : Calm s.chip i) :
    conclude id (setWriter .idle (freeSlot i s.chip)) = setWriter .idle (freeSlot i s.chip) := by
  obtain ⟨hcommit, hholds, hqueue, -, hqueues, hclosing⟩ := hcalm
  rw [freeSlot_write hr hh]
  have hstill : Still (setWriter .idle { s.chip with
      mlink := { s.chip.mlink with slots := s.chip.mlink.slots.set i none }
      hold := { s.chip.hold with table := s.chip.hold.table.map (noLonger i) } }) := by
    refine ⟨hcommit, fun x hx => ?_, hqueue, hclosing⟩
    obtain ⟨y, hy, rfl⟩ := List.mem_map.1 hx
    exact Laws.noLonger_waits (hholds y hy)
  exact conclude_still Answering.id hstill (Answering.id.arbitrate_idle hqueues fun _ => Writer.noConfusion)

/-- Settles O57. -/
theorem responseTimerAbandonsTheSlot : Obligations.ResponseTimerAbandonsTheSlot := by
  unfold Obligations.ResponseTimerAbandonsTheSlot
  intro s i hhigh
  have hexpiry {e : Chip} (h : responseExpiry i s.chip = e) : Does (.responseTimerExpiry i) s e :=
    does_of_action hhigh nofun nofun h
  refine ⟨fun r left p hr hp hh hup => ⟨fun tag ho hspeaks => hexpiry (timedOut_port hr hp hup hh ho hspeaks), fun ho => ?_⟩,
    fun r left j target g hr hp hh hop hw hservice hup => ?_, fun r left k hr hp hh hop hw hservice hk => ?_,
    fun h => hexpiry (responseExpiry_not_issued h)⟩
  · refine hexpiry ?_
    rw [responseExpiry_port hr hp hup hh, ho]
    rfl
  · obtain ⟨after, h⟩ := timedOut_write hr hp hup hh hop hw hservice
    exact ⟨_, after, hexpiry rfl, h⟩
  · have hexec := abandonEnds_configuration hr hh hp (takes_of_service hservice) hhigh hk
    rw [endTimeout_write hh hop] at hexec
    refine ⟨fun hmark => ?_, fun hmark hcalm => ?_, fun hmark => ?_⟩
    · rw [Laws.resumeReset_of_not (by simp [setWriter, Chip.modCfg, hmark])] at hexec
      refine ⟨_, hexec, (writerServed_iff _).2 (Served.conclude _ _), ?_, fun hg => ?_⟩
      · exact (conclude_id_late _).trans (freeSlot_late _)
      · obtain ⟨last, -, hjobs⟩ := conclude_id_jobs (c := setWriter .idle (freeSlot i s.chip))
          (by simpa [setWriter, Chip.modCfg] using hg)
        refine ⟨newJobs (setWriter .idle (freeSlot i s.chip)) ++ last, hjobs.trans ?_⟩
        rw [List.append_assoc]
        simp [jobsOf, setWriter, Chip.modCfg]
    · rw [Laws.resumeReset_of_not (by simp [setWriter, Chip.modCfg, hmark]), calm_write hr hh hcalm, freeSlot_write hr hh]
        at hexec
      exact hexec
    · have hwriting : ∀ j target g, (freeSlot i s.chip).cfg.writer ≠ .writing j target g := fun j target g => by
        rw [Laws.freeSlot_cfg, hw]
        exact Writer.noConfusion
      have hmarked : Marked s.chip := ⟨hmark, fun j => by rw [hw]; exact Writer.noConfusion⟩
      have kfrom := ((ResetFrom.start hmarked).freeSlot i).idleWriter hwriting
      rw [Laws.resumeReset_of kfrom.marked.1 rfl, conclude_finishReset kfrom.marked] at hexec
      refine ⟨_, hexec, kfrom.begun, (finishReset_ctl kfrom.marked).trans ?_⟩
      simp [setWriter, Chip.modCfg]

end

end Sys2Proof.Resets
end

section
/-! SUPPORT. What has been reported of a job, through the end of its event (R34, R152, R164, R167). -/

namespace Sys2Proof.Resets

open Sys2Proof.Machine Sys2Proof.Safety Sys2Proof.Keeping Sys2Proof.Commands Sys2Proof.DataPath Sys2Proof.SlotOps
  Sys2Proof.Grants Sys2Proof.Aftermath Sys2Proof.HoldProofs Sys2Proof.Counts

variable {s : State} {c d e : Chip} {asker : Option Port}

theorem holdsTold_onward {r : MediaRange} (h : HoldsTold s { s with chip := c } r asker) (hd : Onward c d) :
    HoldsTold s { s with chip := d } r asker := fun q ho hs =>
  ⟨hd.flag q .holds (by decide) (h q ho hs).1, fun hq hdue => noticed_mono ((h q ho hs).2 hq hdue) hd.sent⟩

theorem holdFailed_onward {x : Hold} (h : HoldFailed s { s with chip := c } x) (hd : Onward c d) (hids : Descends c d) :
    HoldFailed s { s with chip := d } x := by
  refine ⟨fun y hy => ?_, placementAnswered_onward h.2 hd⟩
  obtain ⟨z, hz, hzy, -⟩ := hids y hy
  have hid : z.id = y.id := by rw [← hzy]
  rw [← hid]
  exact h.1 z hz

/-- What has been reported of a failed job stays reported, when the map unit stays as it is after the failure of a commit. -/
theorem failureReported_onward {j : Job} (h : FailureReported s { s with chip := c } j) (hd : Onward c d)
    (hids : Descends c d) (hmap : c.map.commit = .idle → ∃ u, d.map = { c.map with usage := u }) :
    FailureReported s { s with chip := d } j := by
  obtain ⟨hhold, hcommit⟩ := h
  refine ⟨fun x hx hj hrange => ?_, fun info owner cfg hj hc hstaging => ?_⟩
  · obtain ⟨hfailed, htold⟩ := hhold x hx hj hrange
    exact ⟨holdFailed_onward hfailed hd hids, holdsTold_onward htold hd⟩
  · obtain ⟨hidle, hactive, hepoch, howner, hnone, hanswered⟩ := hcommit info owner cfg hj hc hstaging
    obtain ⟨u, hu⟩ := hmap hidle
    unfold CommitFailed
    rw [show (State.chip { s with chip := d }) = d from rfl, hu]
    exact ⟨hidle, hactive, hepoch, howner, hnone, commitAnswered_onward hanswered hd⟩

/-! ### The consequences (R119, R164) -/

theorem writerTake_descends (c : Chip) : Descends c (writerTake c) := by
  by_cases h : c.cfg.generation = 0xFFFFFFFF#32 ∧ c.writerMayTake = true
  · rw [writerTake_exhausted h.1 h.2]
    refine Descends.of_subset ?_
    rw [each_jobFailed_table]
    exact List.filter_sublist.subset
  · obtain ⟨u, hu, -⟩ := writerTake_takes h
    rw [hu]
    exact Descends.of_same rfl

theorem settle_descends (e : Chip) : Descends e (settle e) := by
  rw [settle_eq]
  exact (Descends.beforeWriter e).trans (writerTake_descends _)

theorem settle_onward (e : Chip) : Onward e (settle e) := (Onward.running e).settle (Onward.refl e)

theorem beforeWriter_idle (h : ∀ info left, e.map.commit ≠ .draining info left) : beforeWriter e = endWaits e :=
  drainTest_same fun info left hc => absurd (by rw [← hc, Laws.endWaits_map]) (h info left)

/-- With no commit under way the map unit has nothing to do. -/
theorem settle_map (h : e.map.commit = .idle) : (settle e).map = e.map := by
  have hbefore : (beforeWriter e).map = e.map := by
    rw [beforeWriter_idle (fun info left hd => by rw [h] at hd; cases hd), Laws.endWaits_map]
  rw [settle_eq]
  by_cases hx : (beforeWriter e).cfg.generation = 0xFFFFFFFF#32 ∧ (beforeWriter e).writerMayTake = true
  · rw [writerTake_exhausted hx.1 hx.2, each_jobFailed_map_same (.inl fun info hc => ?_)]
    · exact hbefore
    · change (beforeWriter e).map.commit = _ at hc
      rw [hbefore, h] at hc
      cases hc
  · obtain ⟨u, hu, -⟩ := writerTake_takes hx
    rw [hu]
    exact hbefore

/-- With a generation left the writer fails no job. -/
theorem settle_unfailed (hg : e.cfg.generation ≠ 0xFFFFFFFF#32) :
    ∃ u, settle e = { beforeWriter e with cfg := u } ∧ jobsOf u = jobsOf (beforeWriter e).cfg := by
  obtain ⟨last, -, hcfg⟩ := beforeWriter_cfg e
  exact writerTake_takes (c := beforeWriter e) fun hx => hg (by
    have hgen : (beforeWriter e).cfg.generation = _ := hx.1
    rwa [hcfg] at hgen)

theorem settle_ctl (hg : e.cfg.generation ≠ 0xFFFFFFFF#32) : (settle e).ctl = e.ctl := by
  obtain ⟨u, hu, -⟩ := settle_unfailed hg
  rw [hu]
  change (drainTest (endWaits e)).ctl = _
  rw [Laws.drainTest_ctl, Laws.endWaits_ctl]

/-- A hold that has no wait to end and no job that fails stays in the table. -/
theorem mem_settle_of {x : Hold} (hp : e.hold.table.Pairwise fun a b => a.id < b.id) (hx : x ∈ e.hold.table)
    (hs : x.state ≠ .pending []) (hq : e.cfg.generation = 0xFFFFFFFF#32 → .hold x.id ∉ e.cfg.queue) :
    x ∈ (settle e).hold.table := by
  have hbefore := mem_beforeWriter_other hp hx hs
  obtain ⟨last, hlast, hcfg⟩ := beforeWriter_cfg e
  rw [settle_eq]
  by_cases hex : (beforeWriter e).cfg.generation = 0xFFFFFFFF#32 ∧ (beforeWriter e).writerMayTake = true
  · rw [writerTake_exhausted hex.1 hex.2, each_jobFailed_table]
    refine List.mem_filter.2 ⟨hbefore, decide_eq_true fun hm => ?_⟩
    rw [hcfg, List.mem_append, List.mem_append] at hm
    rcases hm with (hm | hm) | hm
    · exact hq (by rw [← hex.1, hcfg]) hm
    · exact hs ((mem_newJobs hp hx).1 hm).2
    · rcases hlast with rfl | rfl <;> simp at hm
  · obtain ⟨u, hu, -⟩ := writerTake_takes hex
    rw [hu]
    exact hbefore

/-! ### The end of the event -/

section
variable {answers : Chip → Chip} (ha : Answering answers)
include ha

/-- The two orders of answers and consequences, and the end. -/
theorem conclude_ends_of (e : Chip) : Ends (settle (answers e)) (settle e) (conclude answers e) :=
  conclude_ends (fun d => (ha.silent d).sent) e

theorem failureReported_conclude {j : Job} (h : FailureReported s { s with chip := e } j) :
    FailureReported s { s with chip := conclude answers e } j := by
  have hends := conclude_ends_of ha e
  have hmap (c : Chip) : c.map.commit = .idle → ∃ u, (settle c).map = { c.map with usage := u } := fun hc =>
    ⟨c.map.usage, settle_map hc⟩
  have hanswered : FailureReported s { s with chip := answers e } j :=
    failureReported_onward h (ha.silent e).onward (Descends.of_same (ha.hold e)) fun _ => ⟨e.map.usage, ha.map e⟩
  obtain ⟨hhold, hcommit⟩ := failureReported_onward hanswered (settle_onward _) (settle_descends _) (hmap _)
  obtain ⟨hhold', hcommit'⟩ := failureReported_onward h (settle_onward _) (settle_descends _) (hmap _)
  refine ⟨fun x hx hj hrange => ?_, fun info owner cfg hj hc hstaging => ?_⟩
  · obtain ⟨hfailed, htold⟩ := hhold x hx hj hrange
    obtain ⟨hfailed', htold'⟩ := hhold' x hx hj hrange
    exact ⟨holdFailed_ends hfailed hfailed' hends, holdsTold_ends htold htold' hends⟩
  · exact commitFailed_ends (hcommit info owner cfg hj hc hstaging) (hcommit' info owner cfg hj hc hstaging) hends

/-- Copies, generation and marks are as the event has left them. -/
theorem conclude_copies (e : Chip) : (conclude answers e).cfg.current = e.cfg.current ∧
    (conclude answers e).cfg.generation = e.cfg.generation ∧ ∀ x, (conclude answers e).cfg.mark x = e.cfg.mark x := by
  obtain ⟨w, a, b, hcfg⟩ := (conclude_ends_of ha e).granted.cfg
  obtain ⟨q, v, hsettle⟩ := settle_cfg (answers e)
  rw [hcfg, hsettle, ha.cfg]
  exact ⟨rfl, rfl, fun x => by cases x <;> rfl⟩

theorem conclude_ctl (hg : e.cfg.generation ≠ 0xFFFFFFFF#32) (hctl : (answers e).ctl = e.ctl) :
    (conclude answers e).ctl = e.ctl := by
  rw [(conclude_ends_of ha e).granted.ctl, settle_ctl (by rw [ha.cfg]; exact hg), hctl]

theorem writeFailed_conclude (hg : e.cfg.generation ≠ 0xFFFFFFFF#32) (hctl : (answers e).ctl = e.ctl)
    {j : Job} {target : Copy}
    (h : WriteFailed s { s with chip := e } j target) : WriteFailed s { s with chip := conclude answers e } j target := by
  obtain ⟨hmark, hcurrent, hgeneration, hfailures, hreported⟩ := h
  obtain ⟨hc, hgen, hm⟩ := conclude_copies ha e
  exact ⟨(hm target).trans hmark, hc.trans hcurrent, hgen.trans hgeneration,
    (congrArg ControlFn.persistFailures (conclude_ctl ha hg hctl)).trans hfailures, failureReported_conclude ha hreported⟩

end

end Sys2Proof.Resets
end

section
/-! SUPPORT. The end of the write of a persist job, before the end of its event (R34, R153, R166, R167). -/

namespace Sys2Proof.Resets

open Sys2Proof.Machine Sys2Proof.Safety Sys2Proof.Keeping Sys2Proof.Commands Sys2Proof.DataPath Sys2Proof.SlotOps
  Sys2Proof.Grants Sys2Proof.Aftermath Sys2Proof.HoldProofs Sys2Proof.Counts

/-! ### The job that succeeds (R166) -/

section
variable {c d : Chip}

/-- The record of a hold that has become ACTIVE (R33, R34). -/
def activated (h : Hold) : Hold := { h with state := .active (h.expiry.map (· * 1000)), answerTo := none }

theorem activateHold_table (h : Hold) (c : Chip) :
    (activateHold h c).hold.table = c.hold.table.map fun x => if x.id = h.id then activated h else x := by
  unfold activateHold
  rw [Laws.answerPlacement_hold, Laws.holdsNotice_hold]
  rfl

theorem mem_activateHold_self {h : Hold} (hm : h ∈ c.hold.table) : activated h ∈ (activateHold h c).hold.table := by
  rw [activateHold_table]
  exact List.mem_map.2 ⟨h, hm, if_pos rfl⟩

theorem activateHold_ascending (h : Hold) (hp : c.hold.table.Pairwise fun a b => a.id < b.id) :
    (activateHold h c).hold.table.Pairwise fun a b => a.id < b.id := by
  have hid (x : Hold) : (if x.id = h.id then activated h else x).id = x.id := by
    split
    · rename_i he; exact he.symm
    · rfl
  rw [activateHold_table, List.pairwise_map]
  simp only [hid]
  exact hp

/-- Each record after the success of a job is one from before, or a hold that has become ACTIVE. -/
theorem mem_jobSucceeded {j : Job} {x : Hold} (hx : x ∈ (jobSucceeded j c).hold.table) :
    x ∈ c.hold.table ∨ ∃ h, x = activated h := by
  unfold jobSucceeded at hx
  split at hx
  · split at hx
    · rename_i h _
      rw [activateHold_table] at hx
      obtain ⟨y, hy, rfl⟩ := List.mem_map.1 hx
      split
      · exact .inr ⟨h, rfl⟩
      · exact .inl hy
    · exact .inl hx
  · split at hx
    · exact .inl (by rwa [Laws.swap_hold] at hx)
    · exact .inl hx
    · exact .inl hx

theorem jobSucceeded_ascending {j : Job} (h : c.hold.table.Pairwise fun a b => a.id < b.id) :
    (jobSucceeded j c).hold.table.Pairwise fun a b => a.id < b.id := by
  unfold jobSucceeded
  split
  · split
    · exact activateHold_ascending _ h
    · exact h
  · split
    · rw [Laws.swap_hold]; exact h
    · exact h
    · exact h

theorem jobSucceeded_hold {h : Hold} (hp : c.hold.table.Pairwise fun a b => a.id < b.id) (hm : h ∈ c.hold.table) :
    jobSucceeded (.hold h.id) c = activateHold h c := by
  have hfound : c.findHold h.id = some h := by
    cases hf : c.findHold h.id with
    | none => exact absurd (List.find?_eq_none.1 hf h hm) (by simp)
    | some y =>
      obtain ⟨hy, hid⟩ := MediaFrames.findHold_some hf
      rw [eq_of_id_eq hp hy hm hid]
  unfold jobSucceeded
  simp only [hfound]

theorem jobSucceeded_commit {info : CommitInfo} (h : c.map.commit = .persisting info) :
    jobSucceeded .commit c = swap info c := by
  unfold jobSucceeded
  rw [h]

/-- No commit comes to a drain by the end of a job. -/
theorem jobSucceeded_calm {j : Job} (h : ∀ info left, c.map.commit ≠ .draining info left) (info : CommitInfo) (left : Nat) :
    (jobSucceeded j c).map.commit ≠ .draining info left := by
  unfold jobSucceeded
  split
  · split
    · rw [Laws.activateHold_map]; exact h info left
    · exact h info left
  · split
    · rename_i k hk
      cases hs : c.map.staging with
      | committing owner cfg =>
        rw [swap_eq hs, Laws.answerCommit_map, Laws.deliverCommit_map, swapped_map]
        exact Commit.noConfusion
      | empty | opened =>
        unfold swap
        rw [hs]
        exact h info left
    · exact h info left
    · exact h info left

theorem jobFailed_calm {j : Job} (h : ∀ info left, c.map.commit ≠ .draining info left) (info : CommitInfo) (left : Nat) :
    (jobFailed j c).map.commit ≠ .draining info left := by
  by_cases hc : (∀ info, c.map.commit ≠ .persisting info) ∨ j ≠ .commit
  · rw [(jobFailed_map j c).1 hc]
    exact h info left
  · obtain ⟨hc, hj⟩ := not_or.1 hc
    obtain ⟨k, hk⟩ := not_forall.1 hc
    rw [(jobFailed_map j c).2 k (not_not.1 hk) (not_not.1 hj)]
    exact Commit.noConfusion

namespace Carried

variable {used : Prop} {h : Hold}

theorem activateHold (k : Carried used h c) {y : Hold} (hy : y.id ≠ h.id) : Carried used h (activateHold y c) := by
  obtain ⟨x, hx, hl⟩ := k.alive
  have hslots : ∀ n, c.slot n ≠ none → (Machine.activateHold y c).slot n ≠ none := fun n hn => by
    unfold Chip.slot at *
    rw [Laws.activateHold_mlink]
    exact hn
  refine ⟨activateHold_ascending y k.ascending, by rw [Laws.activateHold_cfg]; exact k.job, x, ?_, hl.slots hslots⟩
  · rw [activateHold_table]
    exact List.mem_map.2 ⟨x, hx, if_neg (by rw [hl.fields.1]; exact Ne.symm hy)⟩

theorem jobSucceeded (k : Carried used h c) {j : Job} (hj : j ≠ .hold h.id) : Carried used h (jobSucceeded j c) := by
  unfold Machine.jobSucceeded
  split
  · split
    · rename_i id y hf
      exact k.activateHold fun he => hj (by rw [← he, (MediaFrames.findHold_some hf).2])
    · exact k
  · split
    · exact k.of_mlink (by simp) (by simp) (by simp)
    · exact k
    · exact k

theorem jobFailed (k : Carried used h c) {j : Job} (hj : j ≠ .hold h.id) : Carried used h (jobFailed j c) := by
  obtain ⟨x, hx, hl⟩ := k.alive
  have hslots : ∀ n, c.slot n ≠ none → (Machine.jobFailed j c).slot n ≠ none := fun n hn => by
    unfold Chip.slot at *
    rw [Laws.jobFailed_mlink]
    exact hn
  refine ⟨?_, by rw [Laws.jobFailed_cfg]; exact k.job, x, ?_, hl.slots hslots⟩
  · rw [jobFailed_table]
    exact k.ascending.filter _
  · rw [jobFailed_table]
    exact List.mem_filter.2 ⟨hx, decide_eq_true fun hm => hj (by rw [← hl.fields.1, List.mem_singleton.1 hm])⟩

end Carried

/-- The copy current and VALID with the generation written, and the writer IDLE (R166). -/
def written (target : Copy) (g : Word) (c : Chip) : Chip :=
  setMark target .valid (c.modCfg fun u => { u with current := some target, generation := g, writer := .idle })

theorem writeSucceeded_eq {j : Job} {target : Copy} {g : Word} (hw : c.cfg.writer = .writing j target g) :
    writeSucceeded c = jobSucceeded j (written target g c) := by
  unfold writeSucceeded
  rw [hw]
  rfl

theorem written_rest (target : Copy) (g : Word) (c : Chip) : ∃ u, written target g c = { c with cfg := u } ∧
    u.current = some target ∧ u.generation = g ∧ u.mark target = .valid ∧ u.writer = .idle ∧ u.queue = c.cfg.queue ∧
    u.bridge = c.cfg.bridge ∧ u.resetMark = c.cfg.resetMark := by
  refine ⟨(written target g c).cfg, ?_, ?_⟩ <;> cases target <;> simp [written, setMark, Chip.modCfg, ConfigUnit.mark]

/-- The same of a write that has failed (R167). -/
theorem markedFailed_rest (w : Writer) (target : Copy) (c : Chip) : ∃ u, markedFailed w target c = { c with cfg := u } ∧
    u.generation = c.cfg.generation ∧ u.writer = w ∧ u.queue = c.cfg.queue ∧
    u.bridge = c.cfg.bridge ∧ u.resetMark = c.cfg.resetMark := by
  refine ⟨(markedFailed w target c).cfg, ?_, ?_⟩ <;> cases target <;> simp [markedFailed, setWriter, setMark, Chip.modCfg]

end

end Sys2Proof.Resets
end

section
/-! SUPPORT. Settles the end of the write of a persist job (R34, R152, R153, R164, R166, R167, R179). -/

namespace Sys2Proof.Resets

open Sys2Proof.Machine Sys2Proof.Safety Sys2Proof.Keeping Sys2Proof.Commands Sys2Proof.DataPath Sys2Proof.SlotOps
  Sys2Proof.Grants Sys2Proof.Aftermath Sys2Proof.HoldProofs Sys2Proof.Counts

/-! ### Where nothing else follows (R164) -/

section
variable {e : Chip}

/-- Nothing waits to end: no hold with an empty wait set, no drain. -/
structure Quiet (e : Chip) : Prop where
  commit : ∀ info left, e.map.commit ≠ .draining info left
  holds : ∀ x ∈ e.hold.table, x.state ≠ .pending []

theorem Quiet.beforeWriter (h : Quiet e) : beforeWriter e = e := by
  have hnone : e.hold.table.filter (fun h : Hold => h.state = .pending []) = [] :=
    List.filter_eq_nil_iff.2 fun x hx hd => h.holds x hx (of_decide_eq_true hd)
  rw [beforeWriter_idle h.commit]
  unfold endWaits
  rw [hnone]
  rfl

/-- The writer takes the next job, and no other comes. -/
theorem Quiet.jobs (h : Quiet e) (hg : e.cfg.generation ≠ 0xFFFFFFFF#32) : jobsOf (conclude id e).cfg = jobsOf e.cfg := by
  obtain ⟨u, hu, hjobs⟩ := settle_unfailed hg
  rw [(conclude_id_ends e).granted.jobs, hu]
  change jobsOf u = _
  rw [hjobs, h.beforeWriter]

/-- With no generation left every job fails. -/
theorem Quiet.exhausted (h : Quiet e) (hg : e.cfg.generation = 0xFFFFFFFF#32) (hw : e.writerMayTake = true) :
    jobsOf (conclude id e).cfg = [] ∧ (e.ctl.persistFailures ≤ 255 →
      (conclude id e).ctl.persistFailures = min 255 (e.ctl.persistFailures + e.cfg.queue.length)) := by
  have hends := (conclude_id_ends e).granted
  have hsettle : settle e = each jobFailed e.cfg.queue (emptied e) := by
    rw [settle_eq, h.beforeWriter, writerTake_exhausted hg hw]
  have hidle : e.cfg.writer = .idle := by
    simp only [Chip.writerMayTake, Bool.and_eq_true, decide_eq_true_eq] at hw
    exact hw.1.1
  constructor
  · rw [hends.jobs, hsettle, Laws.each_proj (fun c => c.cfg) _ (by simp) _ _]
    simp [emptied, Chip.modCfg, jobsOf, hidle]
  · intro hle
    rw [hends.ctl, hsettle, each_jobFailed_ctl _ (emptied e) (.inr hle)]
    rfl

theorem mapStays_settle (h : e.map.commit = .idle) : MapStays e (settle e) := by
  have hbefore : MapStays e (beforeWriter e) := by
    rw [beforeWriter_idle fun info left hd => Commit.noConfusion (h.symm.trans hd)]
    exact MapStays.each MapStays.endWait _ e
  rw [settle_eq]
  by_cases hx : (beforeWriter e).cfg.generation = 0xFFFFFFFF#32 ∧ (beforeWriter e).writerMayTake = true
  · rw [writerTake_exhausted hx.1 hx.2]
    exact hbefore.trans ((MapStays.of_ports (d := emptied (beforeWriter e)) rfl).trans
      (MapStays.each MapStays.jobFailed _ _))
  · obtain ⟨u, hu, -⟩ := writerTake_takes hx
    rw [hu]
    exact hbefore

theorem settle_arb (h : e.map.commit = .idle) : (settle e).arb = e.arb := by
  rw [settle_eq, Laws.writerTake_arb, beforeWriter_idle (fun info left hd => Commit.noConfusion (h.symm.trans hd)),
    Laws.endWaits_arb]

/-- A swap stays installed through the end of its event. -/
theorem installed_swapped {s : State} {info : CommitInfo} {cfg : Configuration} (hgoes : Goes none s e)
    (h : Installed s e info cfg) : Swapped s { s with chip := conclude id e } info cfg := by
  have hsettled := h.keeps (settle_onward e) (mapStays_settle h.commit) (settle_map h.commit) (settle_arb h.commit)
  have hgoes : Goes none s (settle e) := hgoes.op fun k hk => k.settle hk
  exact swapped_ends hsettled hsettled hgoes hgoes nofun (conclude_id_ends e)

end

theorem job_of_writing {u : ConfigUnit} {j : Job} {target : Copy} {g : Word} (hw : u.writer = .writing j target g) :
    j ∈ jobsOf u := by
  unfold jobsOf
  rw [hw]
  exact List.mem_cons_self

/-! ### The write of a persist job, and its slot FREE -/

section
variable {s : State} {i : SlotNo} {r : SlotRec} {j : Job} {target : Copy} {g : Word}

theorem configComplete_write (hop : r.op = .write) (status : MediaStatus) : configComplete i status r s.chip =
    conclude id (resumeReset (if status = .ok then writeSucceeded (freeSlot i s.chip)
      else writeFailed .idle (freeSlot i s.chip))) := by
  unfold configComplete
  simp only [hop, if_true]

theorem HoldsStand.freeSlot {c : Chip} (h : HoldsStand s c) (i : SlotNo) : HoldsStand s (freeSlot i c) := by
  have hstate (x : Hold) : ∃ state, noLonger i x = { x with state := state } := by
    by_cases hs : ∃ ws, x.state = .pending ws
    · obtain ⟨ws, hs⟩ := hs
      exact ⟨_, noLonger_pending hs⟩
    · exact ⟨x.state, noLonger_other fun ws hw => hs ⟨ws, hw⟩⟩
  refine ⟨fun hrange => ?_, fun x hx => ?_⟩
  · rw [freeSlot_table]
    split
    · exact h.ascending hrange
    · rw [List.pairwise_map]
      simpa only [noLonger_id] using h.ascending hrange
  · obtain ⟨state, hm⟩ := h.stands x hx
    rw [freeSlot_table]
    split
    · exact ⟨state, hm⟩
    · obtain ⟨state', he⟩ := hstate { x with state := state }
      exact ⟨state', List.mem_map.2 ⟨_, hm, he⟩⟩

section
variable (hr : s.chip.slot i = some r) (hh : r.holder = .configuration)
include hr hh

theorem complete_configuration (hhigh : s.rstn = .high) (hservice : s.chip.cfg.bridge = .service) {left : Nat}
    (hp : r.phase = .issued left) (status : MediaStatus) :
    exec (.complete i status) s = .next { s with chip := configComplete i status r s.chip } := by
  refine complete_does hhigh ?_
  simp [completeTaken, Chip.takesCommandFrames, hservice, hr, hp, commandComplete, hh]

theorem freeSlot_goes : Goes none s (freeSlot i s.chip) := by
  rw [freeSlot_write hr hh]
  exact (Goes.start s).silent (.of_ports rfl (List.prefix_refl _))

/-- No wait is over but that of a hold that waits for slot `i` alone. -/
theorem freeSlot_holds (h : ∀ x ∈ s.chip.hold.table, ∀ waits, x.state = .pending waits → ∃ n ∈ waits, n ≠ i) :
    ∀ x ∈ (freeSlot i s.chip).hold.table, x.state ≠ .pending [] := by
  intro x hx hs
  rw [freeSlot_write hr hh] at hx
  obtain ⟨y, hy, rfl⟩ := List.mem_map.1 hx
  by_cases hp : ∃ ws, y.state = .pending ws
  · obtain ⟨ws, hp⟩ := hp
    rw [noLonger_pending hp] at hs
    obtain ⟨n, hn, hni⟩ := h y hy ws hp
    have hm : n ∈ ws.filter (· ≠ i) := List.mem_filter.2 ⟨hn, decide_eq_true hni⟩
    rw [HoldState.pending.inj hs] at hm
    exact List.not_mem_nil hm
  · rw [noLonger_other fun ws hw => hp ⟨ws, hw⟩] at hs
    exact hp ⟨[], hs⟩

end

section
variable (hw : s.chip.cfg.writer = .writing j target g)
include hw

theorem freeSlot_writing : (freeSlot i s.chip).cfg.writer = .writing j target g := by rw [Laws.freeSlot_cfg, hw]

/-! ### OK (R166) -/

theorem succeeded_eq : writeSucceeded (freeSlot i s.chip) = jobSucceeded j (written target g (freeSlot i s.chip)) :=
  writeSucceeded_eq (freeSlot_writing hw)

theorem succeeded_cfg : let u := (writeSucceeded (freeSlot i s.chip)).cfg
    u.current = some target ∧ u.generation = g ∧ u.mark target = .valid ∧ u.writer = .idle ∧
      u.queue = s.chip.cfg.queue ∧ u.bridge = s.chip.cfg.bridge ∧ u.resetMark = s.chip.cfg.resetMark := by
  obtain ⟨u, hu, hrest⟩ := written_rest target g (freeSlot i s.chip)
  rw [Laws.freeSlot_cfg] at hrest
  rw [succeeded_eq hw, Laws.jobSucceeded_cfg, hu]
  exact hrest

theorem succeeded_ctl : (writeSucceeded (freeSlot i s.chip)).ctl = s.chip.ctl := by
  obtain ⟨u, hu, -⟩ := written_rest target g (freeSlot i s.chip)
  rw [succeeded_eq hw, Laws.jobSucceeded_ctl, hu]
  exact Laws.freeSlot_ctl ..

/-! ### Any other status (R167) -/

theorem failed_eq : writeFailed .idle (freeSlot i s.chip) = jobFailed j (markedFailed .idle target (freeSlot i s.chip)) :=
  writeFailed_eq (freeSlot_writing hw) _

theorem failed_cfg : let u := (writeFailed .idle (freeSlot i s.chip)).cfg
    u.generation = s.chip.cfg.generation ∧ u.writer = .idle ∧
      u.queue = s.chip.cfg.queue ∧ u.bridge = s.chip.cfg.bridge ∧ u.resetMark = s.chip.cfg.resetMark := by
  obtain ⟨u, hu, hrest⟩ := markedFailed_rest .idle target (freeSlot i s.chip)
  rw [Laws.freeSlot_cfg] at hrest
  rw [failed_eq hw, Laws.jobFailed_cfg, hu]
  exact hrest

theorem failed_ctl : (writeFailed .idle (freeSlot i s.chip)).ctl =
    { s.chip.ctl with persistFailures := min 255 (s.chip.ctl.persistFailures + 1) } := by
  obtain ⟨u, hu, -⟩ := markedFailed_rest .idle target (freeSlot i s.chip)
  have hone := each_jobFailed_ctl [j] (markedFailed .idle target (freeSlot i s.chip)) (.inl (List.cons_ne_nil _ _))
  have hctl : (markedFailed .idle target (freeSlot i s.chip)).ctl = s.chip.ctl := by
    rw [hu]
    exact Laws.freeSlot_ctl ..
  rw [hctl] at hone
  rw [failed_eq hw]
  exact hone

/-! ### Under the reset mark (R179) -/

theorem resetFrom_succeeded (hmark : Marked s.chip) : ResetFrom s (writeSucceeded (freeSlot i s.chip)) := by
  refine ((ResetFrom.start hmark).freeSlot i).op (fun k h => k.writeSucceeded h) fun h _ _ hjob hc => ?_
  obtain ⟨u, hu, -, -, -, hidle, hqueue, -⟩ := written_rest target g (freeSlot i s.chip)
  rw [succeeded_eq hw]
  refine Carried.jobSucceeded ?_ fun he => hjob (he ▸ job_of_writing hw)
  rw [hu]
  refine hc.of_table rfl (fun hj => ?_) fun _ hn => hn
  change .hold h.id ∈ jobsOf u at hj
  rw [jobsOf, hidle] at hj
  rw [Laws.freeSlot_cfg]
  exact queue_jobs (by rwa [hqueue, Laws.freeSlot_cfg] at hj)

theorem resetFrom_failed (hmark : Marked s.chip) : ResetFrom s (writeFailed .idle (freeSlot i s.chip)) := by
  refine ((ResetFrom.start hmark).freeSlot i).op (fun k h => k.writeFailed (fun _ => Writer.noConfusion) h)
    fun h _ _ hjob hc => ?_
  obtain ⟨u, hu, -, hidle, hqueue, -⟩ := markedFailed_rest .idle target (freeSlot i s.chip)
  rw [failed_eq hw]
  refine Carried.jobFailed ?_ fun he => hjob (he ▸ job_of_writing hw)
  rw [hu]
  refine hc.of_table rfl (fun hj => ?_) fun _ hn => hn
  change .hold h.id ∈ jobsOf u at hj
  rw [jobsOf, hidle] at hj
  rw [Laws.freeSlot_cfg]
  exact queue_jobs (by rwa [hqueue, Laws.freeSlot_cfg] at hj)

theorem complete_begins (hop : r.op = .write) (hmark : s.chip.cfg.resetMark = true) (status : MediaStatus) :
    StartBegun s { s with chip := configComplete i status r s.chip } ∧
      (configComplete i status r s.chip).ctl = if status = .ok then s.chip.ctl
        else { s.chip.ctl with persistFailures := min 255 (s.chip.ctl.persistFailures + 1) } := by
  have hmarked : Marked s.chip := ⟨hmark, fun j => by rw [hw]; exact Writer.noConfusion⟩
  have hbegun {c : Chip} (k : ResetFrom s c) (hidle : c.cfg.writer = .idle) :
      StartBegun s { s with chip := conclude id (resumeReset c) } ∧ (conclude id (resumeReset c)).ctl = c.ctl := by
    rw [Laws.resumeReset_of k.marked.1 hidle, conclude_finishReset k.marked]
    exact ⟨k.begun, finishReset_ctl k.marked⟩
  rw [configComplete_write hop]
  split
  · obtain ⟨hstart, hctl⟩ := hbegun (resetFrom_succeeded hw hmarked) (succeeded_cfg hw).2.2.2.1
    exact ⟨hstart, hctl.trans (succeeded_ctl hw)⟩
  · obtain ⟨hstart, hctl⟩ := hbegun (resetFrom_failed hw hmarked) (failed_cfg hw).2.1
    exact ⟨hstart, hctl.trans (failed_ctl hw)⟩

/-! ### The end of the event, without the mark -/

section
variable (hr : s.chip.slot i = some r) (hh : r.holder = .configuration)
include hr hh

theorem succeeded_quiet (hcommit : ∀ info left, s.chip.map.commit ≠ .draining info left)
    (hholds : ∀ x ∈ s.chip.hold.table, ∀ waits, x.state = .pending waits → ∃ n ∈ waits, n ≠ i) :
    Quiet (writeSucceeded (freeSlot i s.chip)) := by
  obtain ⟨u, hu, -⟩ := written_rest target g (freeSlot i s.chip)
  rw [succeeded_eq hw, hu]
  refine ⟨jobSucceeded_calm ?_, fun x hx => ?_⟩
  · rw [freeSlot_write hr hh]
    exact hcommit
  · rcases mem_jobSucceeded hx with hx | ⟨h, rfl⟩
    · exact freeSlot_holds hr hh hholds x hx
    · exact HoldState.noConfusion

theorem failed_quiet (hcommit : ∀ info left, s.chip.map.commit ≠ .draining info left)
    (hholds : ∀ x ∈ s.chip.hold.table, ∀ waits, x.state = .pending waits → ∃ n ∈ waits, n ≠ i) :
    Quiet (writeFailed .idle (freeSlot i s.chip)) := by
  obtain ⟨u, hu, -⟩ := markedFailed_rest .idle target (freeSlot i s.chip)
  rw [failed_eq hw, hu]
  refine ⟨jobFailed_calm ?_, fun x hx => ?_⟩
  · rw [freeSlot_write hr hh]
    exact hcommit
  · rw [jobFailed_table] at hx
    exact freeSlot_holds hr hh hholds x (List.mem_filter.1 hx).1

omit hw in
theorem written_goes : Goes none s (written target g (freeSlot i s.chip)) := by
  obtain ⟨u, hu, -⟩ := written_rest target g (freeSlot i s.chip)
  rw [hu]
  exact (freeSlot_goes hr hh).silent (.of_ports rfl (List.prefix_refl _))

/-- The hold job that has succeeded (R34). -/
theorem succeeded_hold {h : Hold} (hm : h ∈ s.chip.hold.table) (hrange : HoldTableInRange s) (hj : j = .hold h.id)
    (hs : h.state = .persisting) (hq : g = 0xFFFFFFFF#32 → .hold h.id ∉ s.chip.cfg.queue) :
    HoldActivated s { s with chip := conclude id (writeSucceeded (freeSlot i s.chip)) } h none := by
  obtain ⟨u, hu, -⟩ := written_rest target g (freeSlot i s.chip)
  obtain ⟨-, hgen, -, -, hqueue, -⟩ := succeeded_cfg (i := i) hw
  have htable : (written target g (freeSlot i s.chip)).hold.table = s.chip.hold.table.map (noLonger i) := by
    rw [hu, freeSlot_write hr hh]
  have hp : (written target g (freeSlot i s.chip)).hold.table.Pairwise fun a b => a.id < b.id := by
    rw [hu]
    exact ((HoldsStand.of_same rfl).freeSlot i).ascending hrange
  have hmem : h ∈ (written target g (freeSlot i s.chip)).hold.table := by
    rw [htable]
    exact List.mem_map.2 ⟨h, hm, noLonger_other fun ws hws => HoldState.noConfusion (hs.symm.trans hws)⟩
  have heq : writeSucceeded (freeSlot i s.chip) = activateHold h (written target g (freeSlot i s.chip)) := by
    rw [succeeded_eq hw, hj, jobSucceeded_hold hp hmem]
  have hgoes := written_goes (target := target) (g := g) hr hh
  have hmap : (written target g (freeSlot i s.chip)).map.active = s.chip.map.active := by
    rw [hu, freeSlot_write hr hh]
  obtain ⟨hset, hanswered⟩ := activateHold_told hgoes hmap h
  rw [← heq] at hset hanswered
  have honward := settle_onward (writeSucceeded (freeSlot i s.chip))
  have hlast : Goes none s (settle (writeSucceeded (freeSlot i s.chip))) := by
    rw [succeeded_eq hw]
    exact (hgoes.op fun k hk => k.jobSucceeded j hk).op fun k hk => k.settle hk
  have hactive : HoldActivated s { s with chip := settle (writeSucceeded (freeSlot i s.chip)) } h none := by
    refine ⟨?_, (hset.onward honward).told hlast, placementAnswered_onward hanswered honward⟩
    refine mem_settle_of ?_ ?_ HoldState.noConfusion fun hx => ?_
    · rw [heq]
      exact activateHold_ascending h hp
    · rw [heq]
      exact mem_activateHold_self hmem
    · rw [hqueue]
      exact hq (hgen.symm.trans hx)
  exact holdActivated_ends hactive hactive (conclude_id_ends _)

/-- The commit job that has succeeded (R153). -/
theorem succeeded_commit {info : CommitInfo} {owner : Option Port} {cfg : Configuration} (hj : j = .commit)
    (hcommit : s.chip.map.commit = .persisting info) (hstaging : s.chip.map.staging = .committing owner cfg) :
    Swapped s { s with chip := conclude id (writeSucceeded (freeSlot i s.chip)) } info cfg := by
  obtain ⟨u, hu, -⟩ := written_rest target g (freeSlot i s.chip)
  have hgoes := written_goes (target := target) (g := g) hr hh
  have hsame : ∃ m x u, written target g (freeSlot i s.chip) = { s.chip with mlink := m, hold := x, cfg := u } :=
    ⟨_, _, u, by rw [hu, freeSlot_write hr hh]⟩
  obtain ⟨m, x, v, hsame⟩ := hsame
  have heq : writeSucceeded (freeSlot i s.chip) = swap info (written target g (freeSlot i s.chip)) := by
    rw [succeeded_eq hw, hj, jobSucceeded_commit (by rw [hsame]; exact hcommit)]
  rw [heq]
  refine installed_swapped (hgoes.op fun k hk => k.swap info hk) (installed_swap (owner := owner) hgoes ?_ ?_ ?_ ?_)
  · intro q; rw [hsame]
  · rw [hsame]
  · rw [hsame]
  · rw [hsame]; exact hstaging

end
end
end

/-- Settles O60. -/
theorem persistWriteSucceedsOrFails : Obligations.PersistWriteSucceedsOrFails := by
  unfold Obligations.PersistWriteSucceedsOrFails
  intro s i r left j target g hhigh hservice hr hp hh hop hw alone
  have hexec := complete_configuration hr hh hhigh hservice hp
  refine ⟨fun hmark status => ?_, fun hmark => ?_, fun hmark status hne hgen => ?_⟩
  · obtain ⟨hstart, hctl⟩ := complete_begins hw hop hmark status
    exact ⟨_, hexec status, hstart, hctl⟩
  · obtain ⟨hcurrent, hg, hvalid, hidle, hqueue, hbridge, hm⟩ := succeeded_cfg (i := i) hw
    have heq : configComplete i .ok r s.chip = conclude id (writeSucceeded (freeSlot i s.chip)) := by
      rw [configComplete_write hop, if_pos rfl, Laws.resumeReset_of_not (by rw [hm, hmark]; simp)]
    have hdone := hexec .ok
    rw [heq] at hdone
    obtain ⟨hc, hgn, hmk⟩ := conclude_copies Answering.id (writeSucceeded (freeSlot i s.chip))
    refine ⟨_, hdone, hc.trans hcurrent, hgn.trans hg, (hmk target).trans hvalid,
      (writerServed_iff _).2 (Served.conclude _ _), fun ⟨hcommit, hholds⟩ hne => ?_, fun ⟨hcommit, hholds⟩ hmax => ?_,
      fun h hin hrange hj hs hq => succeeded_hold hw hr hh hin hrange hj hs hq,
      fun info owner cfg hj hcommit hstaging => succeeded_commit hw hr hh hj hcommit hstaging⟩
    · refine ((succeeded_quiet hw hr hh hcommit hholds).jobs fun hx => hne (hg.symm.trans hx)).trans ?_
      rw [jobsOf, hidle]
      exact hqueue
    · have hmay : (writeSucceeded (freeSlot i s.chip)).writerMayTake = true := by
        simp [Chip.writerMayTake, hidle, hm, hmark, hbridge, hservice]
      obtain ⟨hjobs, hctl⟩ := (succeeded_quiet hw hr hh hcommit hholds).exhausted (hg.trans hmax) hmay
      rw [succeeded_ctl hw, hqueue] at hctl
      exact ⟨hjobs, fun hlog => hctl hlog.2.2⟩
  · obtain ⟨hg, hidle, hqueue, hbridge, hm⟩ := failed_cfg (i := i) hw
    have heq : configComplete i status r s.chip = conclude id (writeFailed .idle (freeSlot i s.chip)) := by
      rw [configComplete_write hop, if_neg hne, Laws.resumeReset_of_not (by rw [hm, hmark]; simp)]
    have hdone := hexec status
    rw [heq] at hdone
    have hfails : WriteFailed s { s with chip := writeFailed .idle (freeSlot i s.chip) } j target :=
      writeFailed_fails (freeSlot_goes hr hh) ((HoldsStand.of_same rfl).freeSlot i) (freeSlot_map i s.chip)
        ⟨.service, by decide, by rw [Laws.freeSlot_cfg, ← hservice]⟩ (Laws.freeSlot_ctl ..) hw .idle
    refine ⟨_, hdone, writeFailed_conclude Answering.id (by rw [hg]; exact hgen) rfl hfails,
      (writerServed_iff _).2 (Served.conclude _ _), fun ⟨hcommit, hholds⟩ => ?_⟩
    refine ((failed_quiet hw hr hh hcommit hholds).jobs (by rw [hg]; exact hgen)).trans ?_
    rw [jobsOf, hidle]
    exact hqueue

end Sys2Proof.Resets
end

section
/-! SUPPORT. The blocks of a link recovery before the end of its event: every slot FREE, and the writer at rest (R133, R167,
R168). -/

namespace Sys2Proof.Recovery

open Sys2Proof.Machine Sys2Proof.Safety Sys2Proof.Keeping Sys2Proof.DataPath Sys2Proof.SlotOps
  Sys2Proof.Grants Sys2Proof.Aftermath Sys2Proof.HoldProofs Sys2Proof.Counts Sys2Proof.Resets Sys2Proof.Pages

/-! ### Every slot at FREE (R119, R133) -/

section
variable {c : Chip}

theorem freeAllSlots_pointer (c : Chip) : (freeAllSlots c).arb.pointer = c.arb.pointer := by
  unfold freeAllSlots
  exact Laws.each_proj (fun c => c.arb.pointer) freeSlot (fun i c => freeSlot_arb Arbiter.pointer (fun _ _ => rfl) i c) allSlots c

theorem mem_freeSlot_free {i : SlotNo} {x : PageNo} (h : x ∈ c.pool.free) : x ∈ (freeSlot i c).pool.free := by
  rcases freeSlot_free i c with hsame | ⟨r, -, hpages⟩
  · rwa [hsame]
  · rw [hpages, (foldr_insertPage_perm r.pages c.pool.free).mem_iff]
    exact List.mem_append_right _ h

theorem freeSlot_returns {i : SlotNo} {r : SlotRec} {p : Port} (hr : c.slot i = some r) (hh : r.holder = .port p)
    {x : PageNo} (hx : x ∈ r.pages) : x ∈ (freeSlot i c).pool.free := by
  rw [freeSlot_proj (fun c => c.pool.free) (fun p i c => by rw [Laws.freeKept_pool]) hr hh]
  simp only [givenUp, returnPages, Laws.modPool_pool]
  rw [(foldr_insertPage_perm r.pages _).mem_iff]
  exact List.mem_append_left _ hx

/-- The pages of a slot are back in the pool when it is among those that become FREE. -/
theorem each_freeSlot_returns (l : List SlotNo) {c : Chip} {i : SlotNo} {r : SlotRec} {p : Port} (hr : c.slot i = some r)
    (hh : r.holder = .port p) {x : PageNo} (hx : x ∈ r.pages) (hi : i ∈ l) : x ∈ (each freeSlot l c).pool.free := by
  have hstays (l : List SlotNo) {c : Chip} (h : x ∈ c.pool.free) : x ∈ (each freeSlot l c).pool.free :=
    each_keeps (P := fun c => x ∈ c.pool.free) (fun _ _ h => mem_freeSlot_free h) l h
  induction l generalizing c with
  | nil => cases hi
  | cons j l ih =>
    change x ∈ (each freeSlot l (freeSlot j c)).pool.free
    by_cases hj : i = j
    · exact hstays l (freeSlot_returns (hj ▸ hr) hh hx)
    · exact ih (by rw [freeSlot_slot, if_neg hj]; exact hr) ((List.mem_cons.1 hi).resolve_left hj)

/-- A PENDING hold waits for no slot that has become FREE (R32). -/
theorem each_freeSlot_waits (l : List SlotNo) {c : Chip} {h : Hold} {waits : List SlotNo} (hm : h ∈ c.hold.table)
    (hs : h.state = .pending waits) (hused : ∀ n ∈ waits, c.slot n ≠ none) :
    { h with state := .pending (waits.filter (· ∉ l)) } ∈ (each freeSlot l c).hold.table := by
  induction l generalizing c h waits with
  | nil =>
    have hall : waits.filter (fun n => decide (n ∉ ([] : List SlotNo))) = waits :=
      List.filter_eq_self.2 fun n _ => decide_eq_true List.not_mem_nil
    rw [hall, ← hs]
    exact hm
  | cons i l ih =>
    change _ ∈ (each freeSlot l (freeSlot i c)).hold.table
    have hone : { h with state := .pending (waits.filter (· ≠ i)) } ∈ (freeSlot i c).hold.table := by
      rw [freeSlot_table]
      split
      · rename_i hnone
        have hsame : waits.filter (fun n => decide (n ≠ i)) = waits :=
          List.filter_eq_self.2 fun n hn => decide_eq_true fun he => hused n hn (he ▸ hnone)
        rw [hsame, ← hs]
        exact hm
      · rw [← noLonger_pending hs]
        exact List.mem_map_of_mem hm
    have hlater := ih hone rfl fun n hn => by
      obtain ⟨hn, hni⟩ := List.mem_filter.1 hn
      rw [freeSlot_slot, if_neg (of_decide_eq_true hni)]
      exact hused n hn
    rw [List.filter_filter] at hlater
    simpa only [List.mem_cons, not_or, Bool.decide_and, Bool.and_comm] using hlater

theorem freeAllSlots_waits {h : Hold} {waits : List SlotNo} (hm : h ∈ c.hold.table) (hs : h.state = .pending waits)
    (hused : ∀ n ∈ waits, c.slot n ≠ none) : { h with state := .pending [] } ∈ (freeAllSlots c).hold.table := by
  have hnone : waits.filter (fun n => decide (n ∉ allSlots)) = [] :=
    List.filter_eq_nil_iff.2 fun n _ hn => of_decide_eq_true hn (Grants.mem_allSlots n)
  rw [← hnone]
  unfold freeAllSlots
  exact each_freeSlot_waits allSlots hm hs hused

end

/-! ### The blocks of a recovery -/

/-- RECOVER, and MEDIA told (R133). -/
@[irreducible] def told (c : Chip) : Chip := raiseMedia (c.modCfg fun u => { u with bridge := .recover })

/-- The same with every slot FREE (R133). -/
@[irreducible] def freed (c : Chip) : Chip := freeAllSlots (told c)

/-- The same with the writer at rest (R167, R168). -/
@[irreducible] def recovered (c : Chip) : Chip := writerRecovers (freed c)

/-- The requests that held slots, each with the ABORT that waited on it (R110, R128). -/
@[irreducible] def owners (c : Chip) : List (SlotRec × Option Tag) := (allSlots.filterMap c.slot).map fun r => (r, c.waitingAbort r)

/-- Their answers (R128, R133). -/
def ownerAnswers (c : Chip) : Chip → Chip := each (fun x => answerOwner .mediaReset [] .tooLate x.2 x.1) (owners c)

/-- The end of the event, but for the attempt (R133). -/
@[irreducible] def concluded (c : Chip) : Chip := conclude (ownerAnswers c) (recovered c)

theorem startRecovery_eq (c : Chip) : startRecovery c =
    if (concluded c).cfg.resetMark ∧ (concluded c).cfg.writer = .idle then finishReset (concluded c)
    else beginBringUp (concluded c) := by
  unfold concluded ownerAnswers owners recovered freed told
  rfl

section
variable (c : Chip)

theorem raiseMedia_proj {β : Type} (g : Chip → β) (h : ∀ f p c, g (raiseFlag f p c) = g c) : g (raiseMedia c) = g c :=
  Laws.eachPort_proj g _ (fun p c => h .media p c) c

theorem told_rest : (told c).hold = c.hold ∧ (told c).map = c.map ∧ (told c).mlink = c.mlink ∧ (told c).ctl = c.ctl ∧
    (told c).arb = c.arb ∧ (told c).cfg = { c.cfg with bridge := .recover } := by
  unfold told
  exact ⟨raiseMedia_proj _ (fun c => c.hold) (by simp), raiseMedia_proj _ (fun c => c.map) (by simp),
    raiseMedia_proj _ (fun c => c.mlink) (by simp), raiseMedia_proj _ (fun c => c.ctl) (by simp),
    raiseMedia_proj _ (fun c => c.arb) (by simp), raiseMedia_proj _ (fun c => c.cfg) (by simp)⟩

theorem told_slot (n : SlotNo) : (told c).slot n = c.slot n := by
  obtain ⟨-, -, hmlink, -⟩ := told_rest c
  exact slot_congr (congrArg MlinkCtl.slots hmlink) n

theorem freed_cfg : (freed c).cfg = { c.cfg with bridge := .recover } := by
  unfold freed
  obtain ⟨-, -, -, -, -, hcfg⟩ := told_rest c
  rw [freeAllSlots_cfg, hcfg]

theorem freed_ctl : (freed c).ctl = c.ctl := by
  unfold freed
  obtain ⟨-, -, -, hctl, -⟩ := told_rest c
  rw [freeAllSlots_ctl, hctl]

theorem freed_map : ∃ u, (freed c).map = { c.map with usage := u } := by
  unfold freed
  obtain ⟨-, hmap, -⟩ := told_rest c
  obtain ⟨u, hu⟩ := freeAllSlots_map (told c)
  exact ⟨u, by rw [hu, hmap]⟩

theorem freed_mlink : ∃ x, (freed c).mlink = { c.mlink with slots := x } := by
  unfold freed
  obtain ⟨-, -, hmlink, -⟩ := told_rest c
  rw [freeAllSlots_mlink, hmlink]
  exact ⟨_, rfl⟩

theorem freed_slot (n : SlotNo) : (freed c).slot n = none := by
  unfold freed
  exact freeAllSlots_slot (told c) n

theorem freed_pointer : (freed c).arb.pointer = c.arb.pointer := by
  unfold freed
  obtain ⟨-, -, -, -, harb, -⟩ := told_rest c
  rw [freeAllSlots_pointer, harb]

theorem raiseFlag_mapStays {f : Flag} (hf : f ≠ .map) (p : Port) (c : Chip) : MapStays c (raiseFlag f p c) := by
  by_cases h : (c.ports.get p).session = .opened
  · intro q
    rw [raiseFlag_open h]
    change ((c.ports.modify p _).get q).delivered = _ ∧ ((c.ports.modify p _).get q).flags.map = _
    rw [Laws.PerPort.get_modify]
    split
    · rename_i hq
      subst hq
      exact ⟨rfl, flag_set_ne (x := .map) true (Ne.symm hf)⟩
    · exact ⟨rfl, rfl⟩
  · rw [raiseFlag_closed h]
    exact MapStays.refl c

theorem freed_mapStays : MapStays c (freed c) := by
  have hstart : MapStays c (c.modCfg fun u => { u with bridge := .recover }) := MapStays.of_ports rfl
  have htold : MapStays c (told c) := by
    unfold told
    exact eachPort_keeps (P := MapStays c) (fun p _ hc => hc.trans (raiseFlag_mapStays (by decide) p _)) hstart
  unfold freed
  exact htold.trans (MapStays.each (fun i d => MapStays.of_silent (Silent.freeSlot i d)) allSlots (told c))

end

section
variable {c : Chip}

theorem freed_returns {i : SlotNo} {r : SlotRec} {p : Port} (hr : c.slot i = some r) (hh : r.holder = .port p)
    {x : PageNo} (hx : x ∈ r.pages) : x ∈ (freed c).pool.free := by
  unfold freed freeAllSlots
  exact each_freeSlot_returns allSlots ((told_slot c i).trans hr) hh hx (Grants.mem_allSlots i)

theorem freed_waits {h : Hold} {waits : List SlotNo} (hm : h ∈ c.hold.table) (hs : h.state = .pending waits)
    (hused : ∀ n ∈ waits, c.slot n ≠ none) : { h with state := .pending [] } ∈ (freed c).hold.table := by
  obtain ⟨hhold, -⟩ := told_rest c
  unfold freed
  exact freeAllSlots_waits (c := told c) (by rw [hhold]; exact hm) hs fun n hn => by rw [told_slot]; exact hused n hn

theorem freed_stands {s : State} (h : HoldsStand s c) : HoldsStand s (freed c) := by
  obtain ⟨hhold, -⟩ := told_rest c
  unfold freed
  exact each_keeps (P := HoldsStand s) (fun i _ hc => hc.freeSlot i) allSlots (h.onto hhold)

theorem freed_keeps {P : Chip → Prop} (k : KeptConcluding P)
    (h : P (c.modCfg fun u => { u with bridge := .recover })) : P (freed c) := by
  unfold freed told
  exact k.freeAllSlots (k.raiseMedia h)

theorem freed_goes {s : State} {asker : Option Port} (h : Goes asker s c) : Goes asker s (freed c) := by
  have hstart : Goes asker s (c.modCfg fun u => { u with bridge := .recover }) := h.silent (Silent.of_same rfl rfl)
  exact hstart.op fun k hk => freed_keeps k.toKeptConcluding hk

theorem raiseMedia_set {q : Port} (h : (c.ports.get q).session = .opened) :
    ((raiseMedia c).ports.get q).flags.get .media = true := by
  have hstep (p : Port) (d : Chip) (hd : (d.ports.get q).session = .opened ∧
      (p = q ∨ (d.ports.get q).flags.get .media = true)) :
      ((raiseFlag .media p d).ports.get q).session = .opened ∧
        ((raiseFlag .media p d).ports.get q).flags.get .media = true := by
    refine ⟨((Onward.raiseFlag .media p d).opened q).2 hd.1, ?_⟩
    rcases hd.2 with rfl | hset
    · rw [raiseFlag_open hd.1]
      change ((d.ports.modify p _).get p).flags.get .media = true
      rw [Laws.PerPort.get_modify, if_pos rfl]
      rfl
    · exact (Onward.raiseFlag .media p d).flag q .media (by decide) hset
  unfold raiseMedia eachPort
  cases q with
  | p0 =>
    have h0 := hstep .p0 c ⟨h, .inl rfl⟩
    have h1 := hstep .p1 _ ⟨h0.1, .inr h0.2⟩
    exact (hstep .p2 _ ⟨h1.1, .inr h1.2⟩).2
  | p1 =>
    have h0 := ((Onward.raiseFlag .media .p0 c).opened .p1).2 h
    have h1 := hstep .p1 _ ⟨h0, .inl rfl⟩
    exact (hstep .p2 _ ⟨h1.1, .inr h1.2⟩).2
  | p2 =>
    have h0 := ((Onward.raiseFlag .media .p0 c).opened .p2).2 h
    have h1 := ((Onward.raiseFlag .media .p1 _).opened .p2).2 h0
    exact (hstep .p2 _ ⟨h1, .inl rfl⟩).2

/-- MEDIA is set for every OPEN session (R133). -/
theorem freed_media {q : Port} (h : (c.ports.get q).session = .opened) : ((freed c).ports.get q).flags.get .media = true := by
  have hset : ((told c).ports.get q).flags.get .media = true := by
    unfold told
    exact raiseMedia_set h
  unfold freed
  exact (Silent.each Silent.freeSlot allSlots (told c)).onward.flag q .media (by decide) hset

/-! ### The writer at rest (R167, R168) -/

/-- The writer state after a recovery has freed its slot. -/
def resting : Writer → Writer
  | .awaitingSlot j => .awaitingSlot j
  | .idle | .writing _ _ _ | .awaitingFree => .idle

theorem recovered_writing {j : Job} {target : Copy} {g : Word} (h : c.cfg.writer = .writing j target g) :
    recovered c = jobFailed j (markedFailed .idle target (freed c)) := by
  have hw : (freed c).cfg.writer = .writing j target g := by rw [freed_cfg]; exact h
  unfold recovered writerRecovers
  rw [hw]
  exact writeFailed_eq hw _

theorem recovered_other (h : ∀ j target g, c.cfg.writer ≠ .writing j target g) :
    recovered c = { freed c with cfg := { (freed c).cfg with writer := resting c.cfg.writer } } := by
  have hw : (freed c).cfg.writer = c.cfg.writer := by rw [freed_cfg]
  unfold recovered writerRecovers
  split
  · rename_i j target g hf
    exact absurd (hw.symm.trans hf) (h j target g)
  · rename_i hf
    rw [← hw, hf]
    rfl
  · rename_i hf
    rw [← hw, hf]
    simp only [resting, ← hf]
  · rename_i j hf
    rw [← hw, hf]
    simp only [resting, ← hf]

theorem recovered_cfg : let u := (recovered c).cfg
    u.generation = c.cfg.generation ∧ u.bridge = .recover ∧ u.resetMark = c.cfg.resetMark ∧ u.queue = c.cfg.queue ∧
      u.writer = resting c.cfg.writer := by
  by_cases h : ∃ j target g, c.cfg.writer = .writing j target g
  · obtain ⟨j, target, g, h⟩ := h
    obtain ⟨u, hu, hgen, hw, hq, hb, hm⟩ := markedFailed_rest .idle target (freed c)
    rw [freed_cfg] at hgen hq hb hm
    rw [recovered_writing h, Laws.jobFailed_cfg, hu, h]
    exact ⟨hgen, hb, hm, hq, hw⟩
  · rw [recovered_other fun j target g hw => h ⟨j, target, g, hw⟩, freed_cfg]
    exact ⟨rfl, rfl, rfl, rfl, rfl⟩

theorem recovered_jobs : jobsOf (recovered c).cfg = c.cfg.writer.waitingJob ++ c.cfg.queue := by
  obtain ⟨-, -, -, hq, hw⟩ := recovered_cfg (c := c)
  unfold jobsOf
  rw [hw, hq]
  cases c.cfg.writer <;> rfl

theorem recovered_ctl : (recovered c).ctl = match c.cfg.writer with
    | .writing _ _ _ => { c.ctl with persistFailures := min 255 (c.ctl.persistFailures + 1) }
    | .idle | .awaitingSlot _ | .awaitingFree => c.ctl := by
  by_cases h : ∃ j target g, c.cfg.writer = .writing j target g
  · obtain ⟨j, target, g, h⟩ := h
    obtain ⟨u, hu, -⟩ := markedFailed_rest .idle target (freed c)
    have hone := each_jobFailed_ctl [j] (markedFailed .idle target (freed c)) (.inl (List.cons_ne_nil _ _))
    have hctl : (markedFailed .idle target (freed c)).ctl = c.ctl := by
      rw [hu]
      exact freed_ctl c
    rw [hctl] at hone
    rw [recovered_writing h]
    simp only [h]
    exact hone
  · rw [recovered_other fun j target g hw => h ⟨j, target, g, hw⟩]
    cases hw : c.cfg.writer with
    | writing j target g => exact absurd ⟨j, target, g, hw⟩ h
    | idle | awaitingSlot | awaitingFree => exact freed_ctl c

/-- What a property keeps that the end of a write keeps. -/
theorem recovered_keeps {P : Chip → Prop} (k : KeptSettling P) (h : P (freed c)) : P (recovered c) := by
  unfold recovered
  exact k.writerRecovers h

theorem recovered_proj {β : Type} (g : Chip → β) (hjob : ∀ j c, g (jobFailed j c) = g c)
    (hcfg : ∀ (u : ConfigUnit) (c : Chip), g { c with cfg := u } = g c) : g (recovered c) = g (freed c) := by
  by_cases h : ∃ j target g, c.cfg.writer = .writing j target g
  · obtain ⟨j, target, w, h⟩ := h
    obtain ⟨u, hu, -⟩ := markedFailed_rest .idle target (freed c)
    rw [recovered_writing h, hjob, hu, hcfg]
  · rw [recovered_other fun j target g hw => h ⟨j, target, g, hw⟩, hcfg]

theorem recovered_mlink : ∃ x, (recovered c).mlink = { c.mlink with slots := x } := by
  rw [recovered_proj (fun c => c.mlink) (by simp) fun _ _ => rfl]
  exact freed_mlink c

theorem recovered_slot (n : SlotNo) : (recovered c).slot n = none := by
  rw [recovered_proj (fun c => c.slot n) (fun j c => by unfold Chip.slot; rw [Laws.jobFailed_mlink]) fun _ _ => rfl]
  exact freed_slot c n

theorem recovered_arb : (recovered c).arb = (freed c).arb := recovered_proj (fun c => c.arb) (by simp) fun _ _ => rfl

theorem recovered_pool : (recovered c).pool = (freed c).pool := recovered_proj (fun c => c.pool) (by simp) fun _ _ => rfl

theorem recovered_active : (recovered c).map.active = c.map.active := by
  obtain ⟨u, hu⟩ := freed_map c
  rw [recovered_proj (fun c => c.map.active) jobFailed_active fun _ _ => rfl, hu]

theorem jobFailed_epoch (j : Job) (c : Chip) : (jobFailed j c).map.epoch = c.map.epoch := by
  by_cases h : (∀ info, c.map.commit ≠ .persisting info) ∨ j ≠ .commit
  · rw [(jobFailed_map j c).1 h]
  · obtain ⟨hc, hj⟩ := not_or.1 h
    obtain ⟨info, hc⟩ := not_forall.1 hc
    rw [(jobFailed_map j c).2 info (not_not.1 hc) (not_not.1 hj)]
    rfl

theorem recovered_epoch : (recovered c).map.epoch = c.map.epoch := by
  obtain ⟨u, hu⟩ := freed_map c
  rw [recovered_proj (fun c => c.map.epoch) jobFailed_epoch fun _ _ => rfl, hu]

theorem recovered_map (h : ∀ info, c.map.commit ≠ .persisting info) : ∃ u, (recovered c).map = { c.map with usage := u } := by
  obtain ⟨u, hu⟩ := freed_map c
  refine ⟨u, ?_⟩
  by_cases hw : ∃ j target g, c.cfg.writer = .writing j target g
  · obtain ⟨j, target, g, hw⟩ := hw
    obtain ⟨v, hv, -⟩ := markedFailed_rest .idle target (freed c)
    have hmap : (markedFailed .idle target (freed c)).map = { c.map with usage := u } := by rw [hv]; exact hu
    rw [recovered_writing hw, (jobFailed_map j _).1 (.inl (by rw [hmap]; exact h)), hmap]
  · rw [recovered_other fun j target g h => hw ⟨j, target, g, h⟩]
    exact hu

theorem recovered_mapStays : MapStays c (recovered c) := by
  refine (freed_mapStays c).trans ?_
  by_cases h : ∃ j target g, c.cfg.writer = .writing j target g
  · obtain ⟨j, target, g, h⟩ := h
    obtain ⟨u, hu, -⟩ := markedFailed_rest .idle target (freed c)
    rw [recovered_writing h, hu]
    exact (MapStays.of_ports (c := freed c) (d := { freed c with cfg := u }) rfl).trans (MapStays.jobFailed j _)
  · rw [recovered_other fun j target g hw => h ⟨j, target, g, hw⟩]
    exact MapStays.of_ports rfl

theorem recovered_goes {s : State} {asker : Option Port} (h : Goes asker s c) : Goes asker s (recovered c) :=
  (freed_goes h).op fun k hk => recovered_keeps k.toKeptSettling hk

theorem recovered_table : (recovered c).hold.table = (freed c).hold.table ∨
    ∃ j target g, c.cfg.writer = .writing j target g ∧ (recovered c).hold.table = without [j] (freed c).hold.table := by
  by_cases h : ∃ j target g, c.cfg.writer = .writing j target g
  · obtain ⟨j, target, g, h⟩ := h
    obtain ⟨u, hu, -⟩ := markedFailed_rest .idle target (freed c)
    refine .inr ⟨j, target, g, h, ?_⟩
    rw [recovered_writing h, jobFailed_table, hu]
  · exact .inl (by rw [recovered_other fun j target g hw => h ⟨j, target, g, hw⟩])

theorem recovered_ascending (h : (freed c).hold.table.Pairwise fun a b => a.id < b.id) :
    (recovered c).hold.table.Pairwise fun a b => a.id < b.id := by
  rcases recovered_table (c := c) with ht | ⟨_, _, _, _, ht⟩
  · rw [ht]
    exact h
  · rw [ht]
    exact h.filter _

theorem mem_recovered {x : Hold} (hx : x ∈ (freed c).hold.table)
    (hw : ∀ target g, c.cfg.writer ≠ .writing (.hold x.id) target g) : x ∈ (recovered c).hold.table := by
  rcases recovered_table (c := c) with ht | ⟨j, target, g, h, ht⟩
  · rw [ht]
    exact hx
  · rw [ht]
    exact List.mem_filter.2 ⟨hx, decide_eq_true fun hm => hw target g (by rw [h, List.mem_singleton.1 hm])⟩

end

end Sys2Proof.Recovery
end

section
/-! SUPPORT. The end of the event of a link recovery, and START in its place under the reset mark (R133, R180). -/

namespace Sys2Proof.Recovery

open Sys2Proof.Machine Sys2Proof.Safety Sys2Proof.Keeping Sys2Proof.DataPath Sys2Proof.SlotOps
  Sys2Proof.Grants Sys2Proof.Aftermath Sys2Proof.HoldProofs Sys2Proof.Counts Sys2Proof.Resets

/-! ### The answers to the owners of the slots (R128, R133) -/

section
variable (c : Chip)

theorem answering_answerOwner (o : Outcome) (w : List Word) (o' : Outcome) (a : Option Tag) (r : SlotRec) :
    Answering (answerOwner o w o' a r) := by
  cases hh : r.holder with
  | port p => exact Answering.answerOwner o w o' a hh
  | configuration =>
    have hid : answerOwner o w o' a r = id := by
      funext d
      unfold answerOwner
      rw [hh]
      rfl
    rw [hid]
    exact Answering.id

theorem answering_each {α : Type} {f : α → Chip → Chip} (hf : ∀ a, Answering (f a)) (l : List α) : Answering (each f l) := by
  induction l with
  | nil => exact Answering.id
  | cons a l ih => exact (hf a).comp ih

theorem answering_ownerAnswers : Answering (ownerAnswers c) := by
  unfold ownerAnswers
  exact answering_each (fun x => answering_answerOwner _ _ _ x.2 x.1) (owners c)

theorem answerOwner_proj {β : Type} (g : Chip → β) (h : ∀ p t o w c, g (respond p t o w c) = g c) (o : Outcome)
    (w : List Word) (o' : Outcome) (a : Option Tag) (r : SlotRec) (d : Chip) : g (answerOwner o w o' a r d) = g d := by
  unfold answerOwner answerAbort
  split
  · split
    · rw [h, h]
    · rw [h]
  · rfl

theorem ownerAnswers_proj {β : Type} (g : Chip → β) (h : ∀ p t o w c, g (respond p t o w c) = g c) (d : Chip) :
    g (ownerAnswers c d) = g d := by
  unfold ownerAnswers
  exact Laws.each_proj g _ (fun x e => answerOwner_proj g h _ _ _ x.2 x.1 e) (owners c) d

end

/-! ### The end of an event outside SERVICE -/

section
variable {answers : Chip → Chip} {e : Chip}

theorem conclude_outside (ha : Answering answers) (h : e.cfg.bridge ≠ .service) :
    ∃ x n, conclude answers e = eachPort closeIfIdle { settle (answers e) with sent := x, free := n } := by
  obtain ⟨x, n, hx⟩ := eitherOrder_merged answers e
  refine ⟨x, n, ?_⟩
  unfold conclude
  rw [hx]
  refine Laws.arbitrate_noGrant (.inl ?_)
  obtain ⟨q, w, hcfg⟩ := settle_cfg (answers e)
  rw [Laws.eachPort_proj (fun c => c.cfg) _ (by simp)]
  change (settle (answers e)).cfg.bridge ≠ .service
  rw [hcfg, ha.cfg]
  exact h

theorem conclude_outside_proj {β : Type} (ha : Answering answers) (h : e.cfg.bridge ≠ .service) (g : Chip → β)
    (hclose : ∀ p c, g (closeIfIdle p c) = g c) (hsent : ∀ (c : Chip) x n, g { c with sent := x, free := n } = g c) :
    g (conclude answers e) = g (settle (answers e)) := by
  obtain ⟨x, n, hx⟩ := conclude_outside ha h
  rw [hx, Laws.eachPort_proj g _ hclose, hsent]

end

section
variable (c : Chip)

theorem recovered_bridge : (recovered c).cfg.bridge ≠ .service := by
  obtain ⟨-, hb, -⟩ := recovered_cfg (c := c)
  rw [hb]
  decide

/-- The blocks that follow the answers to the owners. -/
abbrev afterAnswers (c : Chip) : Chip := settle (ownerAnswers c (recovered c))

theorem concluded_proj {β : Type} (g : Chip → β) (hclose : ∀ p c, g (closeIfIdle p c) = g c)
    (hsent : ∀ (c : Chip) x n, g { c with sent := x, free := n } = g c) : g (concluded c) = g (afterAnswers c) := by
  unfold concluded
  exact conclude_outside_proj (answering_ownerAnswers c) (recovered_bridge c) g hclose hsent

theorem concluded_cfg : (concluded c).cfg = (afterAnswers c).cfg := concluded_proj c (fun c => c.cfg) (by simp) fun _ _ _ => rfl

theorem concluded_hold : (concluded c).hold = (afterAnswers c).hold :=
  concluded_proj c (fun c => c.hold) (by simp) fun _ _ _ => rfl

theorem concluded_ctl : (concluded c).ctl = (afterAnswers c).ctl := concluded_proj c (fun c => c.ctl) (by simp) fun _ _ _ => rfl

theorem concluded_mlink : (concluded c).mlink = (recovered c).mlink := by
  rw [concluded_proj c (fun c => c.mlink) (by simp) fun _ _ _ => rfl, Laws.settle_mlink, (answering_ownerAnswers c).mlink]

theorem concluded_pool : (concluded c).pool = (recovered c).pool := by
  rw [concluded_proj c (fun c => c.pool) (by simp) fun _ _ _ => rfl, Laws.settle_pool,
    ownerAnswers_proj c (fun c => c.pool) (by simp)]

theorem concluded_slot (n : SlotNo) : (concluded c).slot n = none := by
  rw [slot_congr (congrArg MlinkCtl.slots (concluded_mlink c)) n]
  exact recovered_slot n

/-- What the end of the event keeps, with the frames of either order, the whole keeps. -/
theorem concluded_keeps {P : Chip → Prop} (k : KeptConcluding P)
    (hmerged : ∀ {c d : Chip} (n : Nat), P c → P d → P { c with sent := d.sent, free := n }) (h : P (recovered c)) :
    P (concluded c) := by
  unfold concluded
  refine k.conclude_of hmerged (fun {d} hd => ?_) h
  unfold ownerAnswers
  exact each_keeps (P := P) (fun x d hd => k.answerOwner _ _ _ x.2 x.1 hd) (owners c) hd

end

/-! ### START in its place, under the reset mark (R180) -/

section
variable {s : State} {c : Chip}

theorem resetFrom_relinked (k : ResetFrom s c) (l : LinkState) : ResetFrom s (setMlink l c) :=
  { k with
    marked := k.marked
    mlink := by
      obtain ⟨_, x, hx⟩ := k.mlink
      refine ⟨l, x, ?_⟩
      change { c.mlink with link := l } = _
      rw [hx]
    mute := fun q hq => (Mute.mutes q (ClosedOnly s q) s.chip.sent).of_same (k.mute q hq) rfl rfl rfl
    counts := fun hexact => (k.counts hexact).of_same (fun _ => rfl) rfl rfl
    holds := fun hrange h hh hcls hjob => (k.holds hrange h hh hcls hjob).of_table rfl (fun hj => hj) fun _ hn => hn }

theorem carried_freed {used : Prop} {h : Hold} (k : Carried used h c) : Carried used h (freed c) := by
  obtain ⟨hhold, -, hmlink, -, -, hcfg⟩ := told_rest c
  have htold : Carried used h (told c) := k.of_table (by rw [hhold]) (fun hj => by rwa [hcfg] at hj) fun n hn => by
    rw [told_slot]
    exact hn
  unfold freed
  exact each_keeps (P := Carried used h) (fun i d hd => hd.freeSlot i) allSlots htold

theorem carried_recovered {used : Prop} {h : Hold} (k : Carried used h (freed c)) (hjob : .hold h.id ∉ jobsOf c.cfg) :
    Carried used h (recovered c) := by
  by_cases hw : ∃ j target g, c.cfg.writer = .writing j target g
  · obtain ⟨j, target, g, hw⟩ := hw
    obtain ⟨u, hu, -, hidle, hqueue, -⟩ := markedFailed_rest .idle target (freed c)
    rw [recovered_writing hw]
    refine Carried.jobFailed ?_ fun hj => hjob (hj ▸ job_of_writing hw)
    rw [hu]
    refine k.of_table rfl (fun hj => ?_) fun _ hn => hn
    change .hold h.id ∈ jobsOf u at hj
    rw [jobsOf, hidle] at hj
    rw [freed_cfg] at hqueue ⊢
    exact queue_jobs (by rwa [hqueue] at hj)
  · have hother : ∀ j target g, c.cfg.writer ≠ .writing j target g := fun j target g h => hw ⟨j, target, g, h⟩
    refine k.of_table (by rw [recovered_other hother]) (fun hj => ?_) fun n hn => absurd (freed_slot c n) hn
    rw [freed_cfg]
    rw [recovered_jobs] at hj
    change .hold h.id ∈ jobsOf c.cfg
    unfold jobsOf
    cases hwr : c.cfg.writer with
    | writing j target g => exact absurd hwr (hother j target g)
    | idle | awaitingSlot | awaitingFree =>
      rw [hwr] at hj
      exact hj

theorem carried_settled {used : Prop} {h : Hold} (hmark : Marked (recovered c)) (k : Carried used h (recovered c))
    (hcls : h.cls = .power) : Carried used h (concluded c) := by
  have ha := answering_ownerAnswers c
  have hanswered : Carried used h (ownerAnswers c (recovered c)) := k.of_mlink (ha.hold _) (ha.cfg _) (ha.mlink _)
  have hsettled : Carried used h (afterAnswers c) := by
    rw [show afterAnswers c = _ from Marked.settle_eq (hmark.of_cfg (ha.cfg _))]
    exact hanswered.beforeWriter (by rw [hcls]; decide)
  refine hsettled.of_mlink (concluded_hold c) (concluded_cfg c) ?_
  rw [concluded_mlink, Laws.settle_mlink, ha.mlink]

theorem resetFrom_concluded (k : ResetFrom s c) (hjobs : ∀ id, .hold id ∉ jobsOf s.chip.cfg → .hold id ∉ jobsOf c.cfg) :
    ResetFrom s (concluded c) := by
  have hstarted : ResetFrom s { c with cfg := { c.cfg with bridge := .recover } } :=
    k.of_cfg k.marked fun _ hj => hj
  have hfreed : ResetFrom s (freed c) := hstarted.op (fun kp h => freed_keeps kp h) fun h _ _ _ hc =>
    carried_freed (hc.of_table rfl (fun hj => hj) fun _ hn => hn)
  have hrecovered : ResetFrom s (recovered c) := hfreed.op (fun kp h => recovered_keeps kp.toKeptSettling h)
    fun h _ _ hjob hc => carried_recovered hc (hjobs h.id hjob)
  exact hrecovered.ofEnd (fun kp hmerged h => concluded_keeps c kp hmerged h) fun h _ hcls _ hc =>
    carried_settled hrecovered.marked hc hcls

theorem beforeWriter_ctl (e : Chip) : (beforeWriter e).ctl = e.ctl := by
  rw [beforeWriter, Laws.drainTest_ctl, Laws.endWaits_ctl]

/-- Under the mark the writer takes nothing more. -/
theorem concluded_marked (hmark : Marked (recovered c)) :
    (concluded c).cfg.writer = (recovered c).cfg.writer ∧ (concluded c).ctl = (recovered c).ctl := by
  have ha := answering_ownerAnswers c
  have hsettle : afterAnswers c = beforeWriter (ownerAnswers c (recovered c)) := Marked.settle_eq (hmark.of_cfg (ha.cfg _))
  obtain ⟨last, -, hcfg⟩ := beforeWriter_cfg (ownerAnswers c (recovered c))
  rw [concluded_cfg, concluded_ctl, hsettle, hcfg, beforeWriter_ctl, ha.cfg,
    ownerAnswers_proj c (fun c => c.ctl) (by simp)]
  exact ⟨rfl, rfl⟩

/-- Under the reset mark START takes the recovery's place (R180). -/
theorem startRecovery_marked {l : LinkState} (hmark : Marked s.chip) :
    StartBegun s { s with chip := startRecovery (setMlink l s.chip) } ∧
      (startRecovery (setMlink l s.chip)).ctl = (match s.chip.cfg.writer with
        | .writing _ _ _ => { s.chip.ctl with persistFailures := min 255 (s.chip.ctl.persistFailures + 1) }
        | .idle | .awaitingSlot _ | .awaitingFree => s.chip.ctl) ∧
      (startRecovery (setMlink l s.chip)).mlink.link = l := by
  obtain ⟨-, -, hm, -, hw⟩ := recovered_cfg (c := setMlink l s.chip)
  have hidle : resting s.chip.cfg.writer = .idle := by
    cases hwr : s.chip.cfg.writer with
    | awaitingSlot j => exact absurd hwr (hmark.2 j)
    | idle | writing | awaitingFree => rfl
  have hmarked : Marked (recovered (setMlink l s.chip)) :=
    ⟨hm.trans hmark.1, fun j hj => Writer.noConfusion ((hw.trans hidle).symm.trans hj)⟩
  obtain ⟨hwriter, hctl⟩ := concluded_marked hmarked
  have kfrom := resetFrom_concluded (resetFrom_relinked (ResetFrom.start hmark) l) fun _ hj => hj
  obtain ⟨x, hx⟩ := recovered_mlink (c := setMlink l s.chip)
  rw [startRecovery_eq, if_pos ⟨kfrom.marked.1, hwriter.trans (hw.trans hidle)⟩]
  refine ⟨kfrom.begun, ((finishReset_ctl kfrom.marked).trans hctl).trans recovered_ctl, ?_⟩
  rw [finishReset_link kfrom.marked, concluded_mlink, hx]
  rfl

end

end Sys2Proof.Recovery
end

section
/-! SUPPORT. What a link recovery has told, given back and left to do (R55, R69, R128, R133, R164). -/

namespace Sys2Proof.Recovery

open Sys2Proof.Machine Sys2Proof.Safety Sys2Proof.Keeping Sys2Proof.DataPath Sys2Proof.SlotOps
  Sys2Proof.Grants Sys2Proof.Aftermath Sys2Proof.HoldProofs Sys2Proof.Counts Sys2Proof.Resets

/-! ### The blocks before the ends of the CLOSING sessions -/

section
variable (c : Chip)

/-- The end of the event from blocks that have what answers and consequences keep. -/
theorem concluded_from : ∃ m, concluded c = eachPort closeIfIdle m ∧ ∀ {P : Chip → Prop}, KeptSettling P →
    (∀ {c d : Chip} (n : Nat), P c → P d → P { c with sent := d.sent, free := n }) → P (recovered c) → P m := by
  refine ⟨eitherOrder (ownerAnswers c) settle (recovered c), ?_, fun {P} k hmerged h => ?_⟩
  · obtain ⟨x, n, hx⟩ := eitherOrder_merged (ownerAnswers c) (recovered c)
    unfold concluded conclude
    refine Laws.arbitrate_noGrant (.inl ?_)
    obtain ⟨q, w, hcfg⟩ := settle_cfg (ownerAnswers c (recovered c))
    rw [Laws.eachPort_proj (fun c => c.cfg) _ (by simp), hx]
    change (settle (ownerAnswers c (recovered c))).cfg.bridge ≠ .service
    rw [hcfg, (answering_ownerAnswers c).cfg]
    exact recovered_bridge c
  · have hanswers {d : Chip} (hd : P d) : P (ownerAnswers c d) := by
      unfold ownerAnswers
      exact each_keeps (P := P) (fun x d hd => k.answerOwner _ _ _ x.2 x.1 hd) (owners c) hd
    have hfirst := k.settle (hanswers h)
    have hsecond := hanswers (k.settle h)
    unfold eitherOrder
    dsimp only
    split
    · exact hfirst
    · split
      · exact hmerged _ hfirst hfirst
      · exact hmerged _ hfirst hsecond

end

/-! ### MEDIA in every answer (R133) -/

/-- Every RESPONSE sent since `base` has carried MEDIA. -/
def Replies (base : List Sent) (d : Chip) : Prop :=
  ∃ frames, d.sent = base ++ frames ∧ ∀ q tag o fs w, .toPort q (.response tag o fs w) ∈ frames → fs.media = true

/-- The same, and MEDIA is set for every OPEN session. -/
def Carries (base : List Sent) (d : Chip) : Prop :=
  (∀ q, (d.ports.get q).session = .opened → (d.ports.get q).flags.get .media = true) ∧ Replies base d

section
variable {base : List Sent} {c d : Chip}

theorem Replies.add (h : Replies base c) (hd : ∃ more, d.sent = c.sent ++ more ∧
    ∀ q tag o fs w, .toPort q (.response tag o fs w) ∈ more → fs.media = true) : Replies base d := by
  obtain ⟨frames, hframes, hall⟩ := h
  obtain ⟨more, hmore, hmedia⟩ := hd
  refine ⟨frames ++ more, by rw [hmore, hframes, List.append_assoc], fun q tag o fs w hm => ?_⟩
  exact (List.mem_append.1 hm).elim (hall q tag o fs w) (hmedia q tag o fs w)

theorem Replies.of_same (h : Replies base c) (hd : d.sent = c.sent) : Replies base d := by
  obtain ⟨frames, hframes, hall⟩ := h
  exact ⟨frames, hd.trans hframes, hall⟩

theorem Replies.sendPort (h : Replies base c) (p : Port) {f : PFrame}
    (hf : ∀ tag o fs w, f = .response tag o fs w → fs.media = true) : Replies base (sendPort p f c) := by
  unfold Machine.sendPort
  split
  · refine h.add ⟨_, rfl, fun q tag o fs w hm => ?_⟩
    obtain ⟨-, hframe⟩ := Sent.toPort.inj (List.mem_singleton.1 hm)
    exact hf tag o fs w hframe.symm
  · exact h

theorem Replies.raiseFlag (h : Replies base c) (f : Flag) (p : Port) : Replies base (raiseFlag f p c) := by
  unfold Machine.raiseFlag
  dsimp only
  split
  · split
    · exact Replies.sendPort (c := setFlags p _ c) h p nofun
    · exact h
  · exact h

theorem Carries.onward (h : Carries base c) (hd : Onward c d) (hsent : Replies base d) : Carries base d :=
  ⟨fun q hq => hd.flag q .media (by decide) (h.1 q ((hd.opened q).1 hq)), hsent⟩

theorem Carries.of_same (h : Carries base c) (hports : d.ports = c.ports) (hsent : d.sent = c.sent) : Carries base d :=
  h.onward (Onward.of_same hports hsent) (h.2.of_same hsent)

theorem Carries.settling (base : List Sent) : KeptSettling (Carries base) where
  responded {c} p t o w hopen h := h.onward ((Silent.sendPort p _ c).trans (Silent.freeTag p t _)).onward
    (Replies.of_same (h.2.sendPort p fun tag o' fs w' he => by
      obtain ⟨-, -, rfl, -⟩ := PFrame.response.inj he
      exact h.1 p hopen) (Laws.freeTag_sent ..))
  raised f p _ _ h := h.onward (Onward.raiseFlag f p _) (h.2.raiseFlag f p)
  delivered {c} p h := h.onward (Onward.deliver p c.map.epoch c) (h.2.of_same (by rw [Management.deliver_epoch]; rfl))
  commit _ _ h := h.of_same rfl rfl
  swapped {c} cfg h := by
    refine h.onward (Onward.swapped cfg c) ?_
    have hcompare (p : Port) (d : Chip) (hd : Replies base d) :
        Replies base (if d.isOpen p then compareEpoch p d else d) := by
      unfold compareEpoch
      split
      · split
        · exact hd.of_same rfl
        · exact hd.raiseFlag _ _
      · exact hd
    exact eachPort_keeps hcompare (h.2.of_same rfl)
  holds _ _ h := h.of_same rfl rfl
  fewerHolds _ h := h.of_same rfl rfl
  oneChanged _ _ h := h.of_same rfl rfl
  jobs _ _ h := h.of_same rfl rfl
  failed h := h.of_same rfl rfl

theorem Carries.closeIfIdle (h : Carries base c) (p : Port) : Carries base (closeIfIdle p c) := by
  refine h.onward (Silent.closeIfIdle p c).onward ?_
  unfold Machine.closeIfIdle
  dsimp only
  split
  · split
    · rename_i reason _ _
      exact Replies.sendPort (c := c.modPort p fun pc => { pc with session := .down }) (h.2.of_same rfl) p
        (f := .closed reason) nofun
    · exact h.2
  all_goals exact h.2

theorem carries_freed (c : Chip) : Carries c.sent (freed c) := by
  refine ⟨fun q hq => freed_media ?_, ?_⟩
  · have hgoes : Goes none ⟨.high, c, []⟩ (freed c) := freed_goes (Goes.start ⟨.high, c, []⟩)
    exact (hgoes.opened q).1 hq
  · have hstart : Replies c.sent (c.modCfg fun u => { u with bridge := .recover }) :=
      ⟨[], (List.append_nil _).symm, nofun⟩
    unfold freed told
    refine Replies.of_same ?_ (freeAllSlots_sent _)
    exact eachPort_keeps (P := Replies c.sent) (fun p _ hd => hd.raiseFlag .media p) hstart

end

/-! ### The attempt that begins (R133, R134) -/

section
variable {s : State} {c d : Chip}

/-- The first attempt begun, in RECOVER. -/
theorem beginBringUp_recover (h : c.cfg.bridge ≠ .start) : ∃ frames, (∀ q f, .toPort q f ∉ frames) ∧
    beginBringUp c = { c with
      mlink := { c.mlink with
        attempts := 0, bringUp := .attempt (if c.mlink.link = .up then .awaitReady else .awaitLinkUp) 200 }
      sent := c.sent ++ frames } := by
  cases hl : c.mlink.link with
  | up =>
    refine ⟨[.toMedia .linkReset], fun q f hf => by simp at hf, ?_⟩
    have hup : (c.modMlink fun m => { m with attempts := 0 }).mlink.link = .up := hl
    unfold beginBringUp
    rw [beginAttempt_up hup]
    refine (sendLinkReset_other (by exact h)).trans ((Laws.sendMedia_up (by exact hl) _).trans ?_)
    rfl
  | down =>
    refine ⟨[], fun q f => List.not_mem_nil, ?_⟩
    have hdown : (c.modMlink fun m => { m with attempts := 0 }).mlink.link = .down := hl
    unfold beginBringUp
    rw [beginAttempt_down hdown, List.append_nil]
    rfl

/-- Blocks that have gone on by frames, and by changes of the M-link controller alone. -/
structure SentOn (c d : Chip) : Prop where
  ports : d.ports = c.ports
  hold : d.hold = c.hold
  map : d.map = c.map
  cfg : d.cfg = c.cfg
  arb : d.arb = c.arb
  ctl : d.ctl = c.ctl
  sent : c.sent <+: d.sent

namespace SentOn

variable (k : SentOn c d)
include k

theorem onward : Onward c d := (Silent.of_ports k.ports k.sent).onward

theorem holdActivated {x : Hold} (h : HoldActivated s { s with chip := c } x none) :
    HoldActivated s { s with chip := d } x none := by
  obtain ⟨hm, htold, hanswered⟩ := h
  refine ⟨?_, holdsTold_onward htold k.onward, placementAnswered_onward hanswered k.onward⟩
  change _ ∈ d.hold.table
  rw [k.hold]
  exact hm

theorem holdFailed {x : Hold} (h : HoldFailed s { s with chip := c } x) : HoldFailed s { s with chip := d } x :=
  holdFailed_onward h k.onward (Descends.of_same k.hold)

theorem waitEnded {x : Hold} (h : WaitEnded s { s with chip := c } x none) : WaitEnded s { s with chip := d } x none := by
  obtain ⟨hactive, hfixed⟩ := h
  refine ⟨fun hcls => k.holdActivated (hactive hcls), fun hcls => ⟨fun hx => ?_, fun hx => k.holdFailed ((hfixed hcls).2 hx)⟩⟩
  change _ ∈ d.hold.table ∧ _ ∈ jobsOf d.cfg
  rw [k.hold, k.cfg]
  exact (hfixed hcls).1 hx

theorem commitFailed {info : CommitInfo} {cfg : Configuration} (h : CommitFailed s { s with chip := c } info cfg) :
    CommitFailed s { s with chip := d } info cfg := by
  obtain ⟨hcommit, hactive, hepoch, howner, hnone, hanswered⟩ := h
  unfold CommitFailed
  rw [show (State.chip { s with chip := d }) = d from rfl, k.map]
  exact ⟨hcommit, hactive, hepoch, howner, hnone, commitAnswered_onward hanswered k.onward⟩

/-- Outside SERVICE nothing was granted after the swap. -/
theorem swapped {info : CommitInfo} {cfg : Configuration} (hb : c.cfg.bridge ≠ .service)
    (h : Swapped s { s with chip := c } info cfg) : Swapped s { s with chip := d } info cfg := by
  obtain ⟨hactive, hepoch, hstaging, hcommit, ⟨b, hbc, hpointer, hcredit⟩, hanswered, hself, hothers⟩ := h
  have hbc : c = arbitrate b := hbc
  have hbridge : b.cfg.bridge = c.cfg.bridge := by
    obtain ⟨w, x, y, hcfg⟩ := (Granted.arbitrate b).cfg
    rw [hbc, hcfg]
  have hsame : c = b := hbc.trans (Laws.arbitrate_noGrant (.inl (by rw [hbridge]; exact hb)))
  unfold Swapped
  rw [show (State.chip { s with chip := d }) = d from rfl, k.map, k.ports]
  refine ⟨hactive, hepoch, hstaging, hcommit, ⟨d, ?_, ?_, ?_⟩, commitAnswered_onward hanswered k.onward, hself,
    fun q hq ho => ⟨(hothers q hq ho).1, fun hd hdue => noticed_mono ((hothers q hq ho).2 hd hdue) k.sent⟩⟩
  · exact (Laws.arbitrate_noGrant (.inl (by rw [k.cfg]; exact hb))).symm
  · rw [k.arb, hsame]
    exact hpointer
  · rw [k.arb, hsame]
    exact hcredit

theorem drainEnded {info : CommitInfo} {owner : Option Port} {cfg : Configuration} (hb : c.cfg.bridge ≠ .service)
    (h : DrainEnded s { s with chip := c } info owner cfg) : DrainEnded s { s with chip := d } info owner cfg := by
  obtain ⟨hswap, hpersist⟩ := h
  refine ⟨fun hp => k.swapped hb (hswap hp), fun hp => ⟨fun hx => ?_, fun hx => k.commitFailed ((hpersist hp).2 hx)⟩⟩
  rw [show (State.chip { s with chip := d }) = d from rfl, k.map, k.cfg]
  exact (hpersist hp).1 hx

theorem writeFailed {j : Job} {target : Copy} (h : WriteFailed s { s with chip := c } j target) :
    WriteFailed s { s with chip := d } j target := by
  obtain ⟨hmark, hcurrent, hgeneration, hfailures, hreported⟩ := h
  have hreported := failureReported_onward hreported k.onward (Descends.of_same k.hold) fun _ => ⟨c.map.usage, k.map⟩
  unfold WriteFailed
  rw [show (State.chip { s with chip := d }) = d from rfl, k.cfg, k.ctl]
  exact ⟨hmark, hcurrent, hgeneration, hfailures, hreported⟩

end SentOn

/-! ### The counts of no slots (R6) -/

theorem countsExact_zero (h : CountsExact c) (hslots : ∀ n, c.slot n = none) :
    (∀ q, (c.ports.get q).inFlight = 0) ∧ ∀ w, (c.map.usage.get w).inFlight = 0 := by
  constructor
  · intro q
    rw [h.port, List.length_eq_zero_iff]
    exact List.filter_eq_nil_iff.2 fun i _ => by simp [hslots i]
  · intro w
    rw [h.window, List.length_eq_zero_iff]
    exact List.filter_eq_nil_iff.2 fun i _ => by simp [hslots i]

theorem freed_counts (h : CountsExact c) : CountsExact (freed c) :=
  freed_keeps CountsExact.ending.toKeptConcluding (h.of_same (fun _ => rfl) rfl rfl)

theorem freed_queued (w : WindowNo) : ((freed c).map.usage.get w).queued = (c.map.usage.get w).queued := by
  have hone (i : SlotNo) (c : Chip) : ((freeSlot i c).map.usage.get w).queued = (c.map.usage.get w).queued := by
    rw [freeSlot_usage]
  obtain ⟨-, hmap, -⟩ := told_rest c
  rw [← hmap]
  unfold freed freeAllSlots
  exact Laws.each_proj (fun c => (c.map.usage.get w).queued) freeSlot hone allSlots (told c)

theorem jobFailed_usage (j : Job) (c : Chip) : (jobFailed j c).map.usage = c.map.usage := by
  by_cases h : (∀ info, c.map.commit ≠ .persisting info) ∨ j ≠ .commit
  · rw [(jobFailed_map j c).1 h]
  · obtain ⟨hc, hj⟩ := not_or.1 h
    obtain ⟨info, hc⟩ := not_forall.1 hc
    rw [(jobFailed_map j c).2 info (not_not.1 hc) (not_not.1 hj)]
    rfl

theorem recovered_usage : (recovered c).map.usage = (freed c).map.usage :=
  recovered_proj (fun c => c.map.usage) jobFailed_usage fun _ _ => rfl

end

end Sys2Proof.Recovery
end

section
/-! SUPPORT. The events that start a link recovery, its answers, and what its event leaves (R128, R133, R156, R167, R168, R180). -/

namespace Sys2Proof.Recovery

open Sys2Proof.Machine Sys2Proof.Safety Sys2Proof.Keeping Sys2Proof.DataPath Sys2Proof.SlotOps Sys2Proof.Commands
  Sys2Proof.Grants Sys2Proof.Aftermath Sys2Proof.HoldProofs Sys2Proof.Counts Sys2Proof.Resets

/-! ### What starts a recovery (R130 to R133) -/

section
variable {s : State} {i : Instr}

theorem protocolError_service {c : Chip} (h : c.cfg.bridge = .service) : protocolError c = startRecovery c := if_pos h

theorem startsRecovery_exec (hhigh : s.rstn = .high) (hservice : s.chip.cfg.bridge = .service) (h : StartsRecovery s i) :
    exec i s = .next
      { s with chip := startRecovery (setMlink (if i = .mlinkLinkDown then .down else s.chip.mlink.link) s.chip) } := by
  have htakes := takes_of_service hservice
  have herror := protocolError_service hservice
  rcases h with rfl | ⟨frame, rfl⟩ | ⟨n, r, cause, left, rfl, hr, hp⟩ | ⟨n, status, rfl, hr⟩ | ⟨n, rfl, hr⟩ |
    ⟨n, index, block, rfl, hr⟩
  · refine does_of_action hhigh nofun nofun ?_
    change mlinkDown s.chip = _
    have hdown : (setMlink .down s.chip).cfg.bridge = .service := hservice
    unfold mlinkDown
    simp only [hdown, if_true]
  · exact does_of_action hhigh nofun nofun herror
  · refine does_of_action hhigh nofun nofun ?_
    change abandonExpiry n s.chip = _
    unfold abandonExpiry
    simp only [hr, hp, hservice, if_true]
    rfl
  · refine does_of_action hhigh nofun nofun ?_
    change completeTaken n status s.chip = _
    unfold completeTaken
    rcases hr with hr | ⟨r, hr, hp⟩
    · simp only [htakes, hr, if_true]
      exact herror
    · simp only [htakes, hr, hp, if_true]
      exact herror
  · refine does_of_action hhigh nofun nofun ?_
    change abandonAckTaken n s.chip = _
    unfold abandonAckTaken
    rcases hr with hr | ⟨r, hr, hp | ⟨left, hp⟩⟩
    · simp only [htakes, hr, if_true]
      exact herror
    · simp only [htakes, hr, hp, if_true]
      exact herror
    · simp only [htakes, hr, hp, if_true]
      exact herror
  · refine does_of_action hhigh nofun nofun ?_
    change mediaDataTaken n index.toNat block s.chip = _
    unfold mediaDataTaken
    rcases hr with hr | ⟨r, hr, hbad⟩
    · simp only [htakes, hr, if_true]
      exact herror
    · have hwrong : r.op ≠ .read ∨ r.phase = .taken ∨ (r.range.getD ⟨0, 0⟩).count ≤ index.toNat := by
        rcases hbad with hp | hop | ⟨range, hrange, hle⟩
        · exact .inr (.inl hp)
        · exact .inl hop
        · exact .inr (.inr (by rw [hrange]; exact hle))
      simp only [htakes, hr, hwrong, if_true]
      exact herror

end

/-! ### The answers to the owners (R128, R133) -/

section
variable {s : State} {c d : Chip} {p : Port} {tag : Tag} {abort : Option Tag}

/-- The request that owned a slot has been answered, then the ABORT that waited on it (R128, R133). -/
def OwnerTold (s : State) (p : Port) (tag : Tag) (abort : Option Tag) (d : Chip) : Prop :=
  Answered s { s with chip := d } p tag .mediaReset [] ∧
    ∀ a, abort = some a → AnsweredBoth s { s with chip := d } p tag .mediaReset p a .tooLate

/-- Their tags are free. -/
def OwnerGone (p : Port) (tag : Tag) (abort : Option Tag) (d : Chip) : Prop :=
  d.record p tag = none ∧ ∀ a, abort = some a → d.record p a = none

theorem OwnerTold.mono (h : OwnerTold s p tag abort c) (hsent : c.sent <+: d.sent) : OwnerTold s p tag abort d :=
  ⟨answered_mono h.1 hsent, fun a ha => answeredBoth_mono (h.2 a ha) hsent⟩

theorem OwnerGone.onward (h : OwnerGone p tag abort c) (hd : Onward c d) : OwnerGone p tag abort d :=
  ⟨hd.gone p tag h.1, fun a ha => hd.gone p a (h.2 a ha)⟩

theorem answerOwner_tells (h : Goes none s d) (hspeaks : Speaks s p) {r : SlotRec} (hh : r.holder = .port p)
    (ho : r.owner = some tag) (abort : Option Tag) :
    OwnerTold s p tag abort (answerOwner .mediaReset [] .tooLate abort r d) ∧
      OwnerGone p tag abort (answerOwner .mediaReset [] .tooLate abort r d) := by
  obtain ⟨hgone, hanswered⟩ := h.respond_answered hspeaks tag .mediaReset []
  obtain ⟨hopen, -⟩ := h.speaks hspeaks
  have hlast := Silent.answerAbort p .tooLate abort (respond p tag .mediaReset [] d)
  rw [answerOwner_some hh ho]
  refine ⟨⟨answered_mono hanswered hlast.sent, fun a ha => ?_⟩, hlast.gone p tag hgone, fun a ha => ?_⟩
  · subst ha
    exact h.answersInTurn hspeaks tag .mediaReset [] a .tooLate
  · subst ha
    exact respond_gone (((Silent.respond p tag .mediaReset [] d).opened p).2 hopen) a .tooLate []

theorem each_answerOwner_tells {l : List (SlotRec × Option Tag)} (h : Goes none s d) (hspeaks : Speaks s p) {r : SlotRec}
    (hx : (r, abort) ∈ l) (hh : r.holder = .port p) (ho : r.owner = some tag) :
    OwnerTold s p tag abort (each (fun x => answerOwner .mediaReset [] .tooLate x.2 x.1) l d) ∧
      OwnerGone p tag abort (each (fun x => answerOwner .mediaReset [] .tooLate x.2 x.1) l d) := by
  induction l generalizing d with
  | nil => cases hx
  | cons x l ih =>
    change OwnerTold s p tag abort (each _ l (answerOwner .mediaReset [] .tooLate x.2 x.1 d)) ∧
      OwnerGone p tag abort (each _ l (answerOwner .mediaReset [] .tooLate x.2 x.1 d))
    have hone := Silent.answerOwner .mediaReset [] .tooLate x.2 x.1 d
    rcases List.mem_cons.1 hx with rfl | hx
    · obtain ⟨htold, hgone⟩ := answerOwner_tells h hspeaks hh ho abort
      have hrest := Silent.each (fun (x : SlotRec × Option Tag) e => Silent.answerOwner .mediaReset [] .tooLate x.2 x.1 e) l
        (answerOwner .mediaReset [] .tooLate abort r d)
      exact ⟨htold.mono hrest.sent, hgone.onward hrest.onward⟩
    · exact ih (h.silent hone) hx

theorem concluded_tells (h : Goes none s c) (hspeaks : Speaks s p) {n : SlotNo} {r : SlotRec} (hr : c.slot n = some r)
    (hh : r.holder = .port p) (ho : r.owner = some tag) :
    OwnerTold s p tag (c.waitingAbort r) (concluded c) ∧ OwnerGone p tag (c.waitingAbort r) (concluded c) := by
  have hm : (r, c.waitingAbort r) ∈ owners c := by
    unfold owners
    exact List.mem_map_of_mem (List.mem_filterMap.2 ⟨n, Grants.mem_allSlots n, hr⟩)
  have htells {d : Chip} (hd : Goes none s d) : OwnerTold s p tag (c.waitingAbort r) (ownerAnswers c d) ∧
      OwnerGone p tag (c.waitingAbort r) (ownerAnswers c d) := by
    unfold ownerAnswers
    exact each_answerOwner_tells hd hspeaks hm hh ho
  have hrecovered := recovered_goes h
  have hprefix (d : Chip) : d.sent <+: (ownerAnswers c d).sent := ((answering_ownerAnswers c).silent d).sent
  obtain ⟨-, hgone, haborts⟩ := htells hrecovered
  unfold concluded
  refine ⟨?_, ends_gone hprefix hgone, fun a ha => ends_gone hprefix (haborts a ha)⟩
  exact ends_sent (B := fun t => OwnerTold s p tag (c.waitingAbort r) t.chip) (fun h hsent => h.mono hsent)
    (fun d hd => (htells hd).1) hrecovered

end

/-! ### The end of the event (R133, R164) -/

section
variable {s : State} {c : Chip}

theorem concluded_ends (c : Chip) : Ends (afterAnswers c) (settle (recovered c)) (concluded c) := by
  unfold concluded
  exact conclude_ends_of (answering_ownerAnswers c) (recovered c)

theorem concluded_onward (c : Chip) : Onward (freed c) (concluded c) := by
  have hrecovered : Onward (freed c) (recovered c) :=
    recovered_keeps (Onward.running (freed c)).toKeptSettling (Onward.refl _)
  unfold concluded
  exact hrecovered.trans (Onward.conclude (fun d => ((answering_ownerAnswers c).silent d).onward) (recovered c))

theorem freed_onward_sent (c : Chip) : c.sent <+: (concluded c).sent := by
  have hfreed : Goes none ⟨.high, c, []⟩ (freed c) := freed_goes (Goes.start ⟨.high, c, []⟩)
  exact hfreed.since.1.trans (concluded_onward c).sent

/-- What stands of the configuration unit but jobs and writer (R133). -/
theorem concluded_bridge (c : Chip) : (concluded c).cfg.bridge = .recover ∧
    (concluded c).cfg.resetMark = c.cfg.resetMark ∧ (concluded c).cfg.generation = c.cfg.generation := by
  obtain ⟨hg, hb, hm, -⟩ := recovered_cfg (c := c)
  obtain ⟨q, w, hcfg⟩ := settle_cfg (ownerAnswers c (recovered c))
  rw [concluded_cfg, hcfg, (answering_ownerAnswers c).cfg]
  exact ⟨hb, hm, hg⟩

theorem served_concluded (c : Chip) : Served (concluded c) := by
  unfold concluded
  exact Served.conclude _ _

/-- The writer has taken a job where it could, and only then. -/
theorem writerTake_writer (c : Chip) : (writerTake c).cfg.writer = c.cfg.writer ∨
    ∃ j, (writerTake c).cfg.writer = .awaitingSlot j := by
  unfold writerTake
  split
  · split
    · exact .inl (by rw [Laws.each_proj (fun c => c.cfg) _ (by simp)]; rfl)
    · split
      · exact .inr ⟨_, rfl⟩
      · exact .inl rfl
  · exact .inl rfl

theorem settle_writer (e : Chip) : (settle e).cfg.writer = e.cfg.writer ∨ ∃ j, (settle e).cfg.writer = .awaitingSlot j := by
  obtain ⟨last, -, hcfg⟩ := beforeWriter_cfg e
  have h := writerTake_writer (beforeWriter e)
  rw [hcfg] at h
  exact h

theorem concluded_writer (hmark : c.cfg.resetMark = false) :
    ((concluded c).cfg.writer = .idle ∧ (concluded c).cfg.queue = []) ∨ ∃ j, (concluded c).cfg.writer = .awaitingSlot j := by
  obtain ⟨-, -, -, -, hw⟩ := recovered_cfg (c := c)
  obtain ⟨hb, hm, -⟩ := concluded_bridge c
  have hrest : (concluded c).cfg.writer = resting c.cfg.writer ∨ ∃ j, (concluded c).cfg.writer = .awaitingSlot j := by
    have h := settle_writer (ownerAnswers c (recovered c))
    rwa [(answering_ownerAnswers c).cfg, hw, ← concluded_cfg] at h
  rcases hrest with hrest | htaken
  · cases hr : resting c.cfg.writer with
    | awaitingSlot j => exact .inr ⟨j, hrest.trans hr⟩
    | idle =>
      refine .inl ⟨hrest.trans hr, served_concluded c ?_⟩
      simp [Chip.writerMayTake, hrest, hr, hm, hmark, hb]
    | writing | awaitingFree => cases hwr : c.cfg.writer <;> simp [resting, hwr] at hr
  · exact .inr htaken

theorem concluded_jobs (hg : c.cfg.generation ≠ 0xFFFFFFFF#32) :
    ∃ new, jobsOf (concluded c).cfg = c.cfg.writer.waitingJob ++ c.cfg.queue ++ new := by
  obtain ⟨hgen, -⟩ := recovered_cfg (c := c)
  have ha := answering_ownerAnswers c
  obtain ⟨last, -, hcfg⟩ := beforeWriter_cfg (ownerAnswers c (recovered c))
  obtain ⟨u, hu, hjobs⟩ := settle_unfailed (e := ownerAnswers c (recovered c)) (by rw [ha.cfg, hgen]; exact hg)
  refine ⟨newJobs (ownerAnswers c (recovered c)) ++ last, ?_⟩
  rw [concluded_cfg, show afterAnswers c = _ from hu]
  change jobsOf u = _
  rw [hjobs, hcfg, List.append_assoc, jobsOf_append, ha.cfg, recovered_jobs]

/-- With no generation left the writer takes none. -/
theorem concluded_idle (hg : c.cfg.generation = 0xFFFFFFFF#32) (hmark : c.cfg.resetMark = false)
    (hw : ∀ j, c.cfg.writer ≠ .awaitingSlot j) : (concluded c).cfg.writer = .idle := by
  obtain ⟨hgen, hb, hm, -, hwriter⟩ := recovered_cfg (c := c)
  have ha := answering_ownerAnswers c
  have hidle : resting c.cfg.writer = .idle := by
    cases hwr : c.cfg.writer with
    | awaitingSlot j => exact absurd hwr (hw j)
    | idle | writing | awaitingFree => rfl
  obtain ⟨last, -, hcfg⟩ := beforeWriter_cfg (ownerAnswers c (recovered c))
  have hmay : (beforeWriter (ownerAnswers c (recovered c))).writerMayTake = true := by
    simp [Chip.writerMayTake, hcfg, ha.cfg, hwriter, hidle, hm, hmark, hb]
  have hmax : (beforeWriter (ownerAnswers c (recovered c))).cfg.generation = 0xFFFFFFFF#32 := by
    rw [hcfg, ha.cfg, hgen]
    exact hg
  rw [concluded_cfg]
  change (writerTake (beforeWriter (ownerAnswers c (recovered c)))).cfg.writer = _
  rw [writerTake_exhausted hmax hmay, Laws.each_proj (fun c => c.cfg) _ (by simp)]
  change (beforeWriter (ownerAnswers c (recovered c))).cfg.writer = _
  rw [hcfg, ha.cfg]
  exact hwriter.trans hidle

/-! ### The write that was under way (R167) -/

theorem recovered_writeFailed (l : LinkState) {j : Job} {target : Copy} {g : Word}
    (hw : s.chip.cfg.writer = .writing j target g) :
    WriteFailed s { s with chip := recovered (setMlink l s.chip) } j target := by
  have hstart : Goes none s (setMlink l s.chip) := (Goes.start s).silent (Silent.of_same rfl rfl)
  have hstands : HoldsStand s (freed (setMlink l s.chip)) := freed_stands (HoldsStand.of_same rfl)
  have hwriter : (freed (setMlink l s.chip)).cfg.writer = .writing j target g := by rw [freed_cfg]; exact hw
  unfold recovered writerRecovers
  simp only [hwriter]
  exact writeFailed_fails (freed_goes hstart) hstands (freed_map (setMlink l s.chip))
    ⟨.recover, by decide, freed_cfg (setMlink l s.chip)⟩ (freed_ctl (setMlink l s.chip)) hw .idle

theorem concluded_writeFailed (l : LinkState) {j : Job} {target : Copy} {g : Word}
    (hw : s.chip.cfg.writer = .writing j target g) (hg : s.chip.cfg.generation ≠ 0xFFFFFFFF#32) :
    WriteFailed s { s with chip := concluded (setMlink l s.chip) } j target := by
  obtain ⟨hgen, -⟩ := recovered_cfg (c := setMlink l s.chip)
  have hfails := recovered_writeFailed l hw
  unfold concluded
  exact writeFailed_conclude (answering_ownerAnswers _) (by rw [hgen]; exact hg)
    (ownerAnswers_proj _ (fun c => c.ctl) (by simp) _) hfails

/-! ### The CLOSING sessions (R55) -/

theorem freed_ports (c : Chip) (q : Port) : ((freed c).ports.get q).session = (c.ports.get q).session ∧
    ((freed c).ports.get q).link = (c.ports.get q).link := by
  have htold : PortsStay c (told c) := by
    unfold told
    exact (PortsStay.settling c).raiseMedia (c := c.modCfg fun u => { u with bridge := .recover }) (PortsStay.of_ports rfl)
  obtain ⟨hsession, hlink, -⟩ := htold q
  rw [← hsession, ← hlink]
  unfold freed freeAllSlots
  exact ⟨Laws.each_proj (fun c => (c.ports.get q).session) freeSlot (fun i c => freeSlot_session i q c) allSlots (told c),
    Laws.each_proj (fun c => (c.ports.get q).link) freeSlot (fun i c => (Silent.freeSlot i c).link q) allSlots (told c)⟩

/-- Every CLOSING session is DOWN, with its CLOSED where the link is UP. -/
theorem concluded_closing (hexact : CountsExact c) {q : Port} {reason : CloseReason}
    (hs : (c.ports.get q).session = .closing reason) : ((concluded c).ports.get q).session = .down ∧
      ∃ before frames, (concluded c).sent = c.sent ++ before ++ frames ∧
        ((c.ports.get q).link = .up → .toPort q (.closed reason) ∈ frames) := by
  obtain ⟨m, hm, hkeeps⟩ := concluded_from c
  obtain ⟨hfsession, hflink⟩ := freed_ports c q
  have hstays : PortsStay (freed c) m := hkeeps (PortsStay.settling (freed c)) (fun _ h _ => h)
    (recovered_keeps (PortsStay.settling (freed c)) (PortsStay.refl _))
  obtain ⟨hsession, hlink, hcount⟩ := hstays q
  obtain ⟨before, hbefore⟩ : c.sent <+: m.sent :=
    hkeeps (sentOn_ending c.sent).toKeptSettling (fun _ _ h => h) (recovered_keeps (sentOn_ending c.sent).toKeptSettling
      (freed_keeps (sentOn_ending c.sent).toKeptConcluding (List.prefix_refl _)))
  have hclosing : (m.ports.get q).session = .closing reason := hsession.trans (hfsession.trans hs)
  have hzero : (m.ports.get q).inFlight = 0 :=
    hcount.trans ((countsExact_zero (freed_counts hexact) (freed_slot c)).1 q)
  have hdown : ((concluded c).ports.get q).session = .down := by
    rw [hm, eachPort_closeIfIdle_port, ended_closing hclosing, if_pos hzero]
  obtain ⟨-, frames, hframes, -, hclosed⟩ : Closes q reason m.sent (eachPort closeIfIdle m) :=
    eachPort_keeps (fun p _ hc => (Closes.concluding q reason m.sent).closeIfIdle p hc) (Closes.start hclosing)
  refine ⟨hdown, before, frames, by rw [hm, hframes, hbefore], fun hup => hclosed.2 ⟨hm ▸ hdown, ?_⟩⟩
  have hends : ((eachPort closeIfIdle m).ports.get q).link = (m.ports.get q).link :=
    (eachPort_keeps (P := Silent m) (fun p d hd => hd.trans (Silent.closeIfIdle p d)) (Silent.refl m)).link q
  rw [hends, hlink, hflink]
  exact hup

end

end Sys2Proof.Recovery
end

section
/-! SUPPORT. Settles the link recovery: with what follows the fallen counts (R32 to R34, R133, R150, R156, R164, R180). -/

namespace Sys2Proof.Recovery

open Sys2Proof.Machine Sys2Proof.Safety Sys2Proof.Keeping Sys2Proof.DataPath Sys2Proof.SlotOps Sys2Proof.Commands
  Sys2Proof.Grants Sys2Proof.Aftermath Sys2Proof.HoldProofs Sys2Proof.Counts Sys2Proof.Resets

section
variable {s : State} {c : Chip}

/-- Every answer of the event has carried MEDIA (R133). -/
theorem carries_concluded (c : Chip) : Carries c.sent (concluded c) := by
  obtain ⟨m, hm, hkeeps⟩ := concluded_from c
  have hstart : Carries c.sent m := hkeeps (Carries.settling c.sent) (fun _ h h' => ⟨h.1, h'.2⟩)
    (recovered_keeps (Carries.settling c.sent) (carries_freed c))
  rw [hm]
  exact eachPort_keeps (fun p d hd => hd.closeIfIdle p) hstart

/-! ### What follows the fallen counts (R32 to R34, R150, R156) -/

section
variable (l : LinkState)

theorem relinked_goes (s : State) : Goes none s (setMlink l s.chip) := (Goes.start s).silent (Silent.of_same rfl rfl)

variable (hmark : s.chip.cfg.resetMark = false) (hlast : s.chip.cfg.generation = 0xFFFFFFFF#32 → MayTake s)
include hmark hlast

theorem falls_recovered : Falls none s (recovered (setMlink l s.chip)) where
  goes := recovered_goes (relinked_goes l s)
  delivered q := (recovered_mapStays (c := setMlink l s.chip) q).1
  active := recovered_active (c := setMlink l s.chip)
  epoch := recovered_epoch (c := setMlink l s.chip)
  pointer := by
    rw [recovered_arb, freed_pointer]
    rfl
  exhausted := by
    obtain ⟨hg, hb, hm, -, hw⟩ := recovered_cfg (c := setMlink l s.chip)
    constructor
    · rintro ⟨hmax, -⟩
      have hmax : s.chip.cfg.generation = 0xFFFFFFFF#32 := hg.symm.trans hmax
      exact ⟨hmax, hlast hmax⟩
    · rintro ⟨hmax, hidle, -, -⟩
      have hidle : (recovered (setMlink l s.chip)).cfg.writer = .idle := hw.trans (congrArg resting hidle)
      have hmark : (recovered (setMlink l s.chip)).cfg.resetMark = false := hm.trans hmark
      exact ⟨hg.trans hmax, by simp [Chip.writerMayTake, hidle, hb, hmark]⟩

theorem fallen_recovered (hrange : HoldTableInRange s) (hserved : WriterServed s) :
    Fallen none s (recovered (setMlink l s.chip)) where
  toFalls := falls_recovered l hmark hlast
  served hx := by
    obtain ⟨-, -, -, hq, -⟩ := recovered_cfg (c := setMlink l s.chip)
    exact hq.trans (hserved hx.2)
  ascending := by
    have hstands : HoldsStand s (freed (setMlink l s.chip)) := freed_stands (HoldsStand.of_same rfl)
    exact recovered_ascending (hstands.ascending hrange)

/-- Every PENDING hold ends its wait, but one whose job has failed (R32 to R34, R43). -/
theorem concluded_waits (hrange : HoldTableInRange s) (hserved : WriterServed s) {h : Hold} (hm : h ∈ s.chip.hold.table)
    {waits : List SlotNo} (hs : h.state = .pending waits) (hused : ∀ n ∈ waits, s.chip.slot n ≠ none)
    (hw : ∀ target g, s.chip.cfg.writer ≠ .writing (.hold h.id) target g) :
    WaitEnded s { s with chip := concluded (setMlink l s.chip) } h none := by
  have ha := answering_ownerAnswers (setMlink l s.chip)
  have hfallen := fallen_recovered l hmark hlast hrange hserved
  have hover : { h with state := .pending [] } ∈ (recovered (setMlink l s.chip)).hold.table :=
    mem_recovered (freed_waits (c := setMlink l s.chip) hm hs hused) hw
  have hsecond := (Aftermath.settled hfallen).waits _ hover rfl
  have hfirst := (Aftermath.settled (hfallen.answering ha)).waits _ (by rw [ha.hold]; exact hover) rfl
  exact waitEnded_ends hfirst hsecond (concluded_ends (setMlink l s.chip))

/-- A DRAINING commit without a queued request in its change set ends its drain (R156). -/
theorem concluded_drained (hrange : HoldTableInRange s) (hserved : WriterServed s) (hexact : SlotTableExact s)
    {info : CommitInfo} {left : Nat} {owner : Option Port} {cfg : Configuration}
    (hcommit : s.chip.map.commit = .draining info left) (hstaging : s.chip.map.staging = .committing owner cfg)
    (hqueued : ∀ n ∈ info.changeSet, (s.chip.map.usage.get n).queued = 0) :
    DrainEnded s { s with chip := concluded (setMlink l s.chip) } info owner cfg := by
  have ha := answering_ownerAnswers (setMlink l s.chip)
  have hfallen := fallen_recovered l hmark hlast hrange hserved
  have hcounts : CountsExact (setMlink l s.chip) := (countsExact_of_slotTable hexact).of_same (fun _ => rfl) rfl rfl
  have hcommitted : (setMlink l s.chip).map.commit = .draining info left := hcommit
  obtain ⟨u, hmap⟩ := recovered_map (c := setMlink l s.chip) fun k hk => Commit.noConfusion (hcommitted.symm.trans hk)
  have hc : (recovered (setMlink l s.chip)).map.commit = .draining info left := by rw [hmap]; exact hcommit
  have hst : (recovered (setMlink l s.chip)).map.staging = .committing owner cfg := by rw [hmap]; exact hstaging
  have hdone : DrainDone (recovered (setMlink l s.chip)) info := by
    obtain ⟨-, hb, -⟩ := recovered_cfg (c := setMlink l s.chip)
    refine ⟨fun n hn => ?_, by rw [hb]; decide⟩
    rw [recovered_usage]
    have hin := (countsExact_zero (freed_counts hcounts) (freed_slot _)).2 n
    have hq : ((freed (setMlink l s.chip)).map.usage.get n).queued = 0 := (freed_queued n).trans (hqueued n hn)
    cases hu : (freed (setMlink l s.chip)).map.usage.get n with
    | mk queued inFlight =>
      rw [hu] at hin hq
      cases hin
      cases hq
      rfl
  have hanswered : DrainDone (ownerAnswers (setMlink l s.chip) (recovered (setMlink l s.chip))) info := by
    unfold DrainDone
    rw [ha.map, ha.cfg]
    exact hdone
  have hsecond := Aftermath.settled hfallen
  have hfirst := Aftermath.settled (hfallen.answering ha)
  exact drainEnded_ends (hfirst.drained info left owner cfg (by rw [ha.map]; exact hc) (by rw [ha.map]; exact hst) hanswered)
    (hsecond.drained info left owner cfg hc hst hdone) hfirst.goes hsecond.goes nofun (concluded_ends (setMlink l s.chip))

end

/-! ### The recovery -/

theorem startRecovery_unmarked (hmark : c.cfg.resetMark = false) : startRecovery c = beginBringUp (concluded c) := by
  obtain ⟨-, hm, -⟩ := concluded_bridge c
  rw [startRecovery_eq, if_neg]
  rw [hm, hmark]
  simp

end

/-- Settles O58. -/
theorem linkRecoveryFreesEverySlot : Obligations.LinkRecoveryFreesEverySlot := by
  unfold Obligations.LinkRecoveryFreesEverySlot
  intro s i hhigh hservice hstarts
  have hexec := startsRecovery_exec hhigh hservice hstarts
  refine ⟨fun hmark hw => ?_, fun hmark => ?_⟩
  · obtain ⟨hbegun, hctl, hlink⟩ := startRecovery_marked (s := s)
      (l := if i = .mlinkLinkDown then .down else s.chip.mlink.link) ⟨hmark, hw⟩
    exact ⟨_, hexec, hbegun, hctl, hlink⟩
  generalize (if i = .mlinkLinkDown then LinkState.down else s.chip.mlink.link) = l at hexec ⊢
  rw [startRecovery_unmarked (c := setMlink l s.chip) hmark] at hexec
  obtain ⟨hbridge, -, hgen⟩ := concluded_bridge (setMlink l s.chip)
  obtain ⟨x, hx⟩ := recovered_mlink (c := setMlink l s.chip)
  have hlink : (concluded (setMlink l s.chip)).mlink.link = l := by
    rw [concluded_mlink, hx]
    rfl
  obtain ⟨frames, hports, hbegun⟩ := beginBringUp_recover (c := concluded (setMlink l s.chip)) (by rw [hbridge]; decide)
  have hoff : (concluded (setMlink l s.chip)).cfg.bridge ≠ .service := by rw [hbridge]; decide
  have k : SentOn (concluded (setMlink l s.chip)) (beginBringUp (concluded (setMlink l s.chip))) := by
    rw [hbegun]
    exact ⟨rfl, rfl, rfl, rfl, rfl, rfl, List.prefix_append _ _⟩
  have hcounts (h : SlotTableExact s) : CountsExact (setMlink l s.chip) :=
    (countsExact_of_slotTable h).of_same (fun _ => rfl) rfl rfl
  have honward := concluded_onward (setMlink l s.chip)
  have hgoes : Goes none s (freed (setMlink l s.chip)) := freed_goes (relinked_goes l s)
  refine ⟨_, hexec, ?_, fun n => ?_, ?_, ?_, ?_, fun q hq => ?_, fun p tag d n r hspeaks hd hstage hr hh ho => ?_,
    fun n r p hr hh y hy => ?_, fun j target g hw hg => ?_, ?_, fun hg => ?_, fun hg hw => ?_, fun q hdue => ?_, ?_,
    fun hexact => ?_, fun hrange hserved hlast => ⟨fun h hm waits hs hused hw => ?_,
      fun info left owner cfg hexact hcommit hstaging hqueued => ?_⟩⟩
  · exact (congrArg ConfigUnit.bridge k.cfg).trans hbridge
  · rw [hbegun]
    exact concluded_slot (setMlink l s.chip) n
  · rw [hbegun]
  · rw [hbegun]
    exact hlink
  · rw [hbegun]
  · change ((beginBringUp (concluded (setMlink l s.chip))).ports.get q).flags.get .media = true
    rw [k.ports]
    exact honward.flag q .media (by decide) (freed_media hq)
  · obtain ⟨htold, hgone⟩ := concluded_tells (relinked_goes l s) hspeaks (n := n) hr hh ho
    have htold := htold.mono k.sent
    have hgone := hgone.onward k.onward
    refine ⟨hgone.1, htold.1, fun a ha => ?_⟩
    have habort : (setMlink l s.chip).waitingAbort r = some a :=
      waitingAbort_abandoning (c := setMlink l s.chip) (i := n) hh ho hd ha
    exact ⟨hgone.2 a habort, htold.2 a habort⟩
  · have hpool : (beginBringUp (concluded (setMlink l s.chip))).pool = (freed (setMlink l s.chip)).pool := by
      rw [hbegun]
      exact (concluded_pool _).trans recovered_pool
    change y ∈ (beginBringUp (concluded (setMlink l s.chip))).pool.free
    rw [hpool]
    exact freed_returns (c := setMlink l s.chip) hr hh hy
  · exact k.writeFailed (concluded_writeFailed l hw hg)
  · change ((beginBringUp (concluded (setMlink l s.chip))).cfg.writer = _ ∧ _) ∨ _
    rw [k.cfg]
    exact concluded_writer (c := setMlink l s.chip) hmark
  · change ∃ new, jobsOf (beginBringUp (concluded (setMlink l s.chip))).cfg = _
    rw [k.cfg]
    exact concluded_jobs (c := setMlink l s.chip) hg
  · exact (congrArg ConfigUnit.writer k.cfg).trans (concluded_idle (c := setMlink l s.chip) hg hmark hw)
  · have hset := hgoes.noticed (f := .media) (freed_media (c := setMlink l s.chip) hdue.1) nofun hdue
    exact noticed_mono hset (honward.sent.trans k.sent)
  · obtain ⟨-, replies, hreplies, hmedia⟩ := carries_concluded (setMlink l s.chip)
    have hreplies : (concluded (setMlink l s.chip)).sent = s.chip.sent ++ replies := hreplies
    refine ⟨replies ++ frames, ?_, fun q tag o fs w hm => ?_, fun hexact q reason hs => ?_⟩
    · rw [hbegun, ← List.append_assoc, ← hreplies]
    · exact (List.mem_append.1 hm).elim (hmedia q tag o fs w) fun hf => absurd hf (hports q _)
    · obtain ⟨hdown, before, rest, hsent, hclosed⟩ := concluded_closing (hcounts hexact) (q := q) hs
      have hsent : (concluded (setMlink l s.chip)).sent = s.chip.sent ++ before ++ rest := hsent
      refine ⟨?_, fun hup => List.mem_append_left _ ?_⟩
      · change ((beginBringUp (concluded (setMlink l s.chip))).ports.get q).session = _
        rw [k.ports]
        exact hdown
      · have hsplit : replies = before ++ rest :=
          List.append_cancel_left (hreplies.symm.trans (hsent.trans (List.append_assoc _ _ _)))
        rw [hsplit]
        exact List.mem_append_right _ (hclosed hup)
  · have hend : CountsExact (concluded (setMlink l s.chip)) :=
      concluded_keeps _ CountsExact.ending.toKeptConcluding (fun _ h _ => h.of_same (fun _ => rfl) rfl rfl)
        (recovered_keeps CountsExact.ending.toKeptSettling (freed_counts (hcounts hexact)))
    have hzero := countsExact_zero hend (concluded_slot _)
    rw [hbegun]
    exact hzero
  · exact k.waitEnded (concluded_waits l hmark hlast hrange hserved hm hs hused hw)
  · exact k.drainEnded hoff (concluded_drained l hmark hlast hrange hserved hexact hcommit hstaging hqueued)

end Sys2Proof.Recovery
end

section
/-! SUPPORT. The reset reaches the ports: no answer goes to a session that it has ended, the writer goes on, and nothing is
reserved (R57, R95, R98, R179, R180). -/

namespace Sys2Proof.Resets

open Sys2Proof.Machine Sys2Proof.Safety Sys2Proof.Keeping Sys2Proof.Commands Sys2Proof.DataPath Sys2Proof.SlotOps
  Sys2Proof.Grants Sys2Proof.Aftermath Sys2Proof.HoldProofs Sys2Proof.Counts

/-! ### No answer after the end of a session (R57) -/

/-- A frame that is no RESPONSE. -/
def NotResponse (f : PFrame) : Prop := ∀ tag o fs d, f ≠ .response tag o fs d

theorem unanswered_ending (q : Port) (base : List Sent) : KeptEnding (Mute q NotResponse base) :=
  have E := (Mute.mutes q NotResponse base).ending
  { toKeptConcluding := E.toKeptConcluding
    left := fun {c} reason p _ h => by
      by_cases hp : p = q
      · subst hp
        have hsession : ((leaveOpen reason p c).ports.get p).session = .closing reason := by
          unfold leaveOpen Chip.modPort
          rw [Laws.PerPort.get_modify, if_pos rfl]
        obtain ⟨-, -, hframes⟩ := h
        exact ⟨by rw [hsession]; exact Session.noConfusion, fun _ _ => nofun, hframes⟩
      · exact E.left reason p hp h
    freed := E.freed
    keptSlot := E.keptSlot
    stopped := fun {c} p t pages _ h => by
      obtain ⟨hopen, hclosing, frames, hsent, hall⟩ := h
      rw [PinAndTime.stopDelivery_eq]
      refine ⟨hopen, hclosing, frames ++ _, (congrArg (· ++ _) hsent).trans (List.append_assoc _ _ _), fun f hf => ?_⟩
      rcases List.mem_append.1 hf with hf | hf
      · exact hall f hf
      · obtain ⟨x, -, hx⟩ := List.mem_map.1 (List.mem_of_mem_take hf)
        obtain ⟨-, rfl⟩ := Sent.toPort.inj hx
        exact nofun
    deliveryEnded := E.deliveryEnded
    taken := E.taken }

section
variable {c : Chip} {ports : List Port} {q : Port}

theorem each_leaveOpen_sent (l : List Port) (c : Chip) : (each (leaveOpen .reset) l c).sent = c.sent :=
  Laws.each_proj (fun c => c.sent) (leaveOpen .reset) (fun _ _ => rfl) l c

/-- Once the reset has reached a port no answer goes to it. -/
theorem resetPorts_unanswered (hq : q ∈ ports) : Mute q NotResponse c.sent (resetPorts ports c) := by
  have hsession : ((each (leaveOpen .reset) (ports.filter c.isOpen) c).ports.get q).session ≠ .opened := by
    rw [each_leaveOpen_session]
    split
    · exact Session.noConfusion
    · rename_i hnot
      exact fun ho => hnot (List.mem_filter.2 ⟨hq, by simpa [Chip.isOpen] using ho⟩)
  have hleft : Mute q NotResponse c.sent (each (leaveOpen .reset) (ports.filter c.isOpen) c) :=
    ⟨hsession, fun _ _ => nofun, [], by rw [each_leaveOpen_sent, List.append_nil], nofun⟩
  exact (unanswered_ending q c.sent).conclude_id
    (each_keeps (fun p _ hc => (unanswered_ending q c.sent).cleanUp (p := p) trivial hc) _ hleft)

theorem finishReset_unanswered (q : Port) (c : Chip) : Mute q NotResponse c.sent (finishReset c) := by
  have hm := Mute.mutes q NotResponse c.sent
  refine finishReset_after hm.concluding (fun step d hd => hm.of_same hd rfl rfl rfl) (fun d hd => ?_)
    (resetPorts_unanswered (Grants.mem_portAll q))
  refine hm.sends hd (by rw [Laws.sendMedia_ports]) (by rw [Laws.sendMedia_ports]) ⟨_, sendMedia_sent .linkReset d, ?_⟩
  intro f hf
  split at hf <;> simp at hf

/-! ### The writer goes on (R179) -/

theorem drainBesideEnd_cfg (p : Port) (c : Chip) : ∃ q, (drainBesideEnd p c).cfg = { c.cfg with queue := q } := by
  unfold drainBesideEnd
  split
  · rename_i info left hc
    split
    · dsimp only
      split
      · unfold drainEnd
        split
        · exact ⟨_, by simp only [appendJob, Chip.modCfg, Chip.modMap, endWaits_cfg]; rfl⟩
        · exact ⟨_, by rw [Laws.swap_cfg, endWaits_cfg]; rfl⟩
      · exact ⟨c.cfg.queue, rfl⟩
    · exact ⟨c.cfg.queue, rfl⟩
  all_goals exact ⟨c.cfg.queue, rfl⟩

theorem cleanUp_cfg (p : Port) (c : Chip) : ∃ q, (cleanUp p c).cfg = { c.cfg with queue := q } := by
  have hrecords (d : Chip) : (each (endRecord p) allTags d).cfg = d.cfg :=
    Laws.each_proj (fun c => c.cfg) (endRecord p) (fun t c => by
      unfold endRecord
      split
      · rfl
      · rfl
      · split
        all_goals simp [freeTag, setRecord, Chip.modPort]) allTags d
  unfold cleanUp
  dsimp only
  obtain ⟨q, hq⟩ := drainBesideEnd_cfg p (endSessionHolds p ((each (endRecord p) allTags c).modArb fun a =>
    { a with starvation := a.starvation.set p 0, reservation := a.reservation.filter (· ≠ p) }))
  exact ⟨q, by rw [Laws.endSessionStaging_cfg, hq, Laws.endSessionHolds_cfg, Laws.modArb_cfg, hrecords]⟩

theorem swept_cfg (ports : List Port) (c : Chip) : ∃ q, (swept ports c).cfg = { c.cfg with queue := q } := by
  have hleft : (each (leaveOpen .reset) (ports.filter c.isOpen) c).cfg = c.cfg :=
    Laws.each_proj (fun c => c.cfg) (leaveOpen .reset) (fun _ _ => rfl) _ c
  refine each_keeps (P := fun d => ∃ q, d.cfg = { c.cfg with queue := q }) (fun p d hd => ?_) _
    ⟨c.cfg.queue, hleft⟩
  obtain ⟨q, hq⟩ := hd
  obtain ⟨q', hq'⟩ := cleanUp_cfg p d
  exact ⟨q', by rw [hq', hq]⟩

/-- Under the mark the end of sessions leaves the writer alone and counts no failure. -/
theorem resetPorts_rest (hmark : Marked c) : (∃ q, (resetPorts ports c).cfg = { c.cfg with queue := q }) ∧
    (resetPorts ports c).ctl = c.ctl := by
  have hswept : Marked (swept ports c) := swept_keeps Marked.ending (fun _ _ _ => trivial) hmark
  obtain ⟨q, hq⟩ := swept_cfg ports c
  obtain ⟨last, -, hcfg⟩ := beforeWriter_cfg (swept ports c)
  have hends := (conclude_id_ends (swept ports c)).granted
  rw [resetPorts_eq]
  constructor
  · refine ⟨(beforeWriter (swept ports c)).cfg.queue, ?_⟩
    rw [hends.writer fun j => ?_, hswept.settle_eq, hcfg, hq]
    rw [hswept.settle_eq]
    exact hswept.beforeWriter.2 j
  · rw [hends.ctl, hswept.settle_eq]
    unfold beforeWriter
    rw [Laws.drainTest_ctl, Laws.endWaits_ctl, swept_ctl]

/-- No session comes to OPEN at the end of sessions. -/
theorem resetPorts_opened (h : (c.ports.get q).session ≠ .opened) : ((resetPorts ports c).ports.get q).session ≠ .opened :=
  ((unanswered_ending q c.sent).resetPorts (fun _ _ _ => trivial)
    ⟨h, fun _ _ => nofun, [], (List.append_nil _).symm, nofun⟩ : Mute q NotResponse c.sent (resetPorts ports c)).1

end

/-! ### The reservation (R95, R98) -/

section
variable {c : Chip}

theorem freeSlot_reservation (i : SlotNo) (c : Chip) : (freeSlot i c).arb.reservation = c.arb.reservation :=
  freeSlot_arb Arbiter.reservation (fun _ _ => rfl) i c

theorem dequeue_unreserved (p : Port) (t : Tag) (h : c.arb.reservation = []) : (dequeue p t c).arb.reservation = [] := by
  unfold dequeue
  split
  all_goals
    simp only [Laws.modArb_arb, Laws.modUsage_arb]
    split <;> simp [h]

theorem endRecord_unreserved (p : Port) (t : Tag) (h : c.arb.reservation = []) : (endRecord p t c).arb.reservation = [] := by
  unfold endRecord
  split
  · exact h
  · exact h
  · split
    · exact dequeue_unreserved p t h
    · exact (freeSlot_reservation _ c).trans h
    · simpa using h
    · simpa using h
    · simpa [freeTag, setRecord, Chip.modPort] using h

theorem swap_reservation (info : CommitInfo) (c : Chip) : (swap info c).arb.reservation = c.arb.reservation := by
  cases hs : c.map.staging with
  | committing owner cfg =>
    rw [swap_eq hs, Laws.answerCommit_arb, Laws.deliverCommit_arb, swapped_arb]
  | empty | opened =>
    unfold swap
    rw [hs]

theorem drainEnd_reservation (info : CommitInfo) (c : Chip) : (drainEnd info c).arb.reservation = c.arb.reservation := by
  unfold drainEnd
  split
  · rfl
  · exact swap_reservation info c

theorem beforeWriter_reservation (c : Chip) : (beforeWriter c).arb.reservation = c.arb.reservation := by
  rw [beforeWriter]
  unfold drainTest
  split
  · split
    · rw [drainEnd_reservation, Laws.endWaits_arb]
    · rw [Laws.endWaits_arb]
  · rw [Laws.endWaits_arb]
  · rw [Laws.endWaits_arb]

theorem drainBesideEnd_reservation (p : Port) (c : Chip) : (drainBesideEnd p c).arb.reservation = c.arb.reservation := by
  unfold drainBesideEnd
  split
  · split
    · dsimp only
      split
      · rw [drainEnd_reservation, Laws.endWaits_arb]
        rfl
      · rfl
    · rfl
  all_goals rfl

theorem cleanUp_unreserved (p : Port) (h : c.arb.reservation = []) : (cleanUp p c).arb.reservation = [] := by
  have hrecords : (each (endRecord p) allTags c).arb.reservation = [] :=
    each_keeps (P := fun d => d.arb.reservation = []) (fun t d hd => endRecord_unreserved p t hd) allTags h
  unfold cleanUp
  dsimp only
  rw [Laws.endSessionStaging_arb, drainBesideEnd_reservation, Laws.endSessionHolds_arb]
  change ((each (endRecord p) allTags c).arb.reservation).filter _ = []
  rw [hrecords]
  rfl

theorem swept_unreserved (ports : List Port) (h : c.arb.reservation = []) : (swept ports c).arb.reservation = [] := by
  have hleft : (each (leaveOpen .reset) (ports.filter c.isOpen) c).arb = c.arb :=
    Laws.each_proj (fun c => c.arb) (leaveOpen .reset) (fun _ _ => rfl) _ c
  exact each_keeps (P := fun d => d.arb.reservation = []) (fun p d hd => cleanUp_unreserved p hd) _ (by rw [hleft]; exact h)

/-- Entry to START takes no port into reservation. -/
theorem enterStart_reservation (b : Chip) : (enterStart b).arb.reservation = b.arb.reservation := by
  cases hl : b.mlink.link with
  | up =>
    rw [enterStart_settled hl, Laws.eachPort_proj (fun c => c.arb.reservation) _ (by simp), Laws.endWaits_arb]
    unfold linkReset freeAllSlots
    rw [Laws.each_proj (fun c => c.arb.reservation) freeSlot freeSlot_reservation, Laws.sendMedia_arb]
    rfl
  | down =>
    rw [enterStart_down hl]
    rfl

theorem finishReset_unreserved (hmark : Marked c) (h : c.arb.reservation = []) : (finishReset c).arb.reservation = [] := by
  have hdrop (j : Job) (c : Chip) : (dropJob j c).arb = c.arb := by
    unfold dropJob
    split
    · split
      · simp
      · rfl
    · rfl
  have hreset : (resetPorts Port.all c).arb.reservation = [] := by
    rw [resetPorts_marked hmark, Laws.eachPort_proj (fun c => c.arb.reservation) _ (by simp), beforeWriter_reservation]
    exact swept_unreserved Port.all h
  rw [finishReset_eq, enterStart_reservation]
  unfold stopped dropped
  rw [Laws.each_proj (fun c => c.arb) _ (by simp), Laws.each_proj (fun c => c.arb) _ hdrop]
  exact hreset

end

end Sys2Proof.Resets
end

section
/-! SUPPORT. Settles RESET-BRIDGE (R57, R95, R98, R179, R180, R198). -/

namespace Sys2Proof.Resets

open Sys2Proof.Machine Sys2Proof.Safety Sys2Proof.Keeping Sys2Proof.Commands Sys2Proof.DataPath Sys2Proof.SlotOps
  Sys2Proof.Grants Sys2Proof.Aftermath Sys2Proof.HoldProofs Sys2Proof.Counts Sys2Proof.Management

section
variable {s : State} {p q : Port} {t : Tag} {d : Chip}

/-! ### The request, taken (R179, R180, R198) -/

/-- The blocks when the request has been answered, or not, and the mark is set. -/
def resetAsked (s : State) (p : Port) (t : Tag) : Chip :=
  let a := asked s p t .resetBridge []
  let c := handed s p t .resetBridge []
  if c.cfg.resetMark then joinReset a c else beginReset (a.answer .ok [] c)

/-- The OK of RESET-BRIDGE. -/
def resetAnswer (s : State) (p : Port) (t : Tag) : List Sent :=
  [.toPort p (.response (some t) .ok (s.chip.ports.get p).flags [])]

theorem takeResetBridge_eq (s : State) (p : Port) (t : Tag) :
    takeResetBridge s.pending (asked s p t .resetBridge []) (handed s p t .resetBridge []) =
      if (returnJob (resetAsked s p t)).cfg.writer = .idle then finishReset (returnJob (resetAsked s p t))
      else reachPorts s.pending p (returnJob (resetAsked s p t)) := rfl

/-- What the request changes: a tag of its port, the mark, the reservation, and its answer. -/
structure Asks (s : State) (p : Port) (t : Tag) (d : Chip) : Prop where
  ports : ∀ q, ∃ tags, d.ports.get q = { s.chip.ports.get q with tags := tags }
  map : d.map = s.chip.map
  hold : d.hold = s.chip.hold
  mlink : d.mlink = s.chip.mlink
  ctl : d.ctl = s.chip.ctl
  cfg : d.cfg = { s.chip.cfg with resetMark := true }
  reservation : s.chip.cfg.resetMark = false → d.arb.reservation = []
  sent : d.sent = s.chip.sent ++ resetAnswer s p t ∨ (s.chip.cfg.resetMark = true ∧ d.sent = s.chip.sent)

theorem withRecord_port (p : Port) (t : Tag) (x : Option Record) (c : Chip) (q : Port) :
    ∃ tags, (withRecord p t x c).ports.get q = { c.ports.get q with tags := tags } := by
  unfold withRecord
  rw [Laws.PerPort.get_modify]
  split
  · rename_i hq
    subst hq
    exact ⟨_, rfl⟩
  · exact ⟨(c.ports.get q).tags, rfl⟩

theorem resetAsked_asks {r : Request} (hr : Ready s p r.tag) : Asks s p r.tag (resetAsked s p r.tag) := by
  obtain ⟨⟨-, hup, hopen⟩, -⟩ := id hr
  unfold resetAsked
  dsimp only
  cases hmark : s.chip.cfg.resetMark with
  | false =>
    rw [if_neg (by rw [show (handed s p r.tag .resetBridge []).cfg.resetMark = false from hmark]; decide),
      asked_answer_handed hr]
    exact ⟨fun q => ⟨(s.chip.ports.get q).tags, rfl⟩, rfl, rfl, rfl, rfl, rfl, fun _ => rfl, .inl rfl⟩
  | true =>
    have hcfg : s.chip.cfg = { s.chip.cfg with resetMark := true } := by rw [← hmark]
    rw [if_pos (show (handed s p r.tag .resetBridge []).cfg.resetMark = true from hmark)]
    unfold joinReset
    split
    · have hanswer : (asked s p r.tag .resetBridge []).answer .ok [] (handed s p r.tag .resetBridge []).takeFree =
          answered p r.tag .ok [] { s.chip with free := s.chip.free + 1 } :=
        asked_answer (c := { s.chip with free := s.chip.free + 1 }) hr .resetBridge .ok [] _ rfl
      rw [hanswer]
      exact ⟨fun q => ⟨(s.chip.ports.get q).tags, rfl⟩, rfl, rfl, rfl, rfl, hcfg, fun hf => Bool.noConfusion (hmark.symm.trans hf), .inl rfl⟩
    · exact ⟨fun q => withRecord_port p r.tag _ s.chip q, rfl, rfl, rfl, rfl, hcfg,
        fun hf => Bool.noConfusion (hmark.symm.trans hf), .inr ⟨hmark, rfl⟩⟩

/-- A job in AWAITING-SLOT is in the queue again, and that is all (R179). -/
theorem returnJob_rest (d : Chip) : ∃ u, returnJob d = { d with cfg := u } ∧ jobsOf u = jobsOf d.cfg ∧
    u.resetMark = d.cfg.resetMark ∧ u.bridge = d.cfg.bridge ∧ (∀ j, u.writer ≠ .awaitingSlot j) ∧
    (u.writer = .idle ↔ d.cfg.writer = .idle ∨ ∃ j, d.cfg.writer = .awaitingSlot j) ∧
    ((∀ j, d.cfg.writer ≠ .awaitingSlot j) → u.writer = d.cfg.writer) := by
  unfold returnJob
  split
  · rename_i j hw
    exact ⟨_, rfl, by simp [jobsOf, hw], rfl, rfl, fun _ => Writer.noConfusion, ⟨fun _ => .inr ⟨j, hw⟩, fun _ => rfl⟩,
      fun h => absurd hw (h j)⟩
  all_goals
    rename_i hw
    exact ⟨d.cfg, rfl, rfl, rfl, rfl, by simp [hw], by simp [hw], fun _ => rfl⟩

theorem returnJob_sent (d : Chip) : (returnJob d).sent = d.sent := by
  obtain ⟨u, hu, -⟩ := returnJob_rest d
  rw [hu]

section
variable (h : Asks s p t d)
include h

theorem Asks.marked : Marked (returnJob d) := by
  obtain ⟨u, hu, -, hm, -, hw, -⟩ := returnJob_rest d
  rw [hu]
  exact ⟨hm.trans (by rw [h.cfg]), hw⟩

theorem Asks.session (q : Port) : ((returnJob d).ports.get q).session = (s.chip.ports.get q).session := by
  obtain ⟨u, hu, -⟩ := returnJob_rest d
  obtain ⟨tags, htags⟩ := h.ports q
  rw [hu]
  change (d.ports.get q).session = _
  rw [htags]

/-- The answer goes to the sender alone, whose session is OPEN. -/
theorem Asks.frames : ∃ frames, d.sent = s.chip.sent ++ frames ∧ ∀ q f, q ≠ p → .toPort q f ∉ frames := by
  rcases h.sent with hsent | ⟨-, hsent⟩
  · refine ⟨_, hsent, fun q f hq hf => ?_⟩
    obtain ⟨hqp, -⟩ := Sent.toPort.inj (List.mem_singleton.1 hf)
    exact hq hqp
  · exact ⟨[], by rw [hsent, List.append_nil], fun _ _ _ => List.not_mem_nil⟩

theorem Asks.resetFrom (hopen : (s.chip.ports.get p).session = .opened) : ResetFrom s (returnJob d) := by
  obtain ⟨u, hu, hjobs, -⟩ := returnJob_rest d
  obtain ⟨frames, hframes, honly⟩ := h.frames
  have hmarked := h.marked
  have hsession := h.session
  rw [hu] at hmarked hsession ⊢
  have hslots : d.mlink.slots = s.chip.mlink.slots := by rw [h.mlink]
  refine
    { marked := hmarked
      opened := fun q => by rw [hsession q]
      checks := fun q => ?_
      mlink := ⟨s.chip.mlink.link, s.chip.mlink.slots, h.mlink⟩
      sent := ⟨frames, hframes.symm⟩
      mute := fun q hq => ⟨by rw [hsession q]; exact hq, fun reason hs => ⟨reason, (hsession q).symm.trans hs, rfl⟩,
        frames, hframes, fun f hf => absurd hf (honly q f fun he => hq (he ▸ hopen))⟩
      counts := fun hexact => (countsExact_of_slotTable hexact).of_same (fun q => ?_) (congrArg MapUnit.usage h.map) hslots
      holds := fun hrange x hx hcls hjob => ⟨?_, ?_, x, ?_, .refl x fun waits hs hu n hn => ?_⟩ }
  · obtain ⟨tags, htags⟩ := h.ports q
    change (d.ports.get q).checkFails = _
    rw [htags]
  · obtain ⟨tags, htags⟩ := h.ports q
    change (d.ports.get q).inFlight = _
    rw [htags]
  · change d.hold.table.Pairwise _
    rw [h.hold]
    exact hrange.2.2
  · change _ ∉ jobsOf u
    rw [hjobs, h.cfg]
    exact hjob
  · change x ∈ d.hold.table
    rw [h.hold]
    exact hx
  · change d.slot n ≠ none
    rw [slot_congr hslots n]
    exact hu waits hs n hn

/-! ### At once (R179) -/

theorem Asks.begins (hopen : (s.chip.ports.get p).session = .opened) :
    StartBegun s { s with chip := finishReset (returnJob d) } ∧ (finishReset (returnJob d)).ctl = s.chip.ctl ∧
      (s.chip.cfg.resetMark = false → (finishReset (returnJob d)).arb.reservation = []) := by
  have k := h.resetFrom hopen
  obtain ⟨u, hu, -⟩ := returnJob_rest d
  refine ⟨k.begun, (finishReset_ctl k.marked).trans ?_, fun hmark => finishReset_unreserved k.marked ?_⟩
  · rw [hu]
    exact h.ctl
  · rw [hu]
    exact h.reservation hmark

end

/-! ### Beside a write under way (R57, R179, R180) -/

section
variable {c : Chip} {waiting : List Instr}

theorem mem_joiners_pending {q : Port} {c : Chip} (h : q ∈ c.joiners waiting) : ∃ r, .resetBridge q r ∈ waiting := by
  obtain ⟨before, r, after, hp, -⟩ := Laws.mem_joiners h
  exact ⟨r, by rw [hp]; simp⟩

/-- The reset reaches a port that cannot join, and its sender. -/
theorem reachPorts_unanswered (hq : q = p ∨ q ∉ c.joiners waiting) :
    Mute q NotResponse c.sent (reachPorts waiting p c) := by
  have hreached : q ∈ Port.all.filter fun q =>
      q = p || !(c.joiners waiting).contains q || Config.resetReaches c.free (portCode q) := by
    refine List.mem_filter.2 ⟨Grants.mem_portAll q, ?_⟩
    rcases hq with rfl | hq <;> simp [*]
  have hfirst := resetPorts_unanswered (c := c.takeFree) hreached
  unfold reachPorts
  dsimp only
  split
  · exact hfirst
  · exact (unanswered_ending q c.sent).resetPorts (fun _ _ _ => trivial) hfirst

theorem reachPorts_opened (h : ((reachPorts waiting p c).ports.get q).session = .opened) :
    (c.ports.get q).session = .opened := by
  by_contra hnot
  unfold reachPorts at h
  dsimp only at h
  split at h
  · exact resetPorts_opened (c := c.takeFree) hnot h
  · exact resetPorts_opened (resetPorts_opened (c := c.takeFree) hnot) h

theorem reachPorts_sent : c.sent <+: (reachPorts waiting p c).sent := by
  have hkeeps (ports : List Port) {d : Chip} (hd : c.sent <+: d.sent) : c.sent <+: (resetPorts ports d).sent :=
    (sentOn_ending c.sent).resetPorts (fun _ _ _ => trivial) hd
  unfold reachPorts
  dsimp only
  split
  · exact hkeeps _ (d := c.takeFree) (List.prefix_refl _)
  · exact hkeeps _ (hkeeps _ (d := c.takeFree) (List.prefix_refl _))

theorem reachPorts_rest (hmark : Marked c) : (∃ q, (reachPorts waiting p c).cfg = { c.cfg with queue := q }) ∧
    (reachPorts waiting p c).ctl = c.ctl := by
  have hfree : Marked c.takeFree := hmark
  unfold reachPorts
  dsimp only
  generalize (Port.all.filter fun q => q = p || !(c.joiners waiting).contains q || Config.resetReaches c.free (portCode q)) = l
  obtain ⟨⟨x, hx⟩, hctl⟩ := resetPorts_rest (ports := l) hfree
  split
  · exact ⟨⟨x, hx⟩, hctl⟩
  · have hfirst : Marked (resetPorts l c.takeFree) := Marked.ending.resetPorts (fun _ _ _ => trivial) hfree
    obtain ⟨⟨y, hy⟩, hctl'⟩ := resetPorts_rest (ports := Port.all) hfirst
    exact ⟨⟨y, by rw [hy, hx]; rfl⟩, hctl'.trans hctl⟩

end

/-! ### The end of the request -/

/-- What the end of the request has left, whichever way the sequence goes on. -/
theorem Asks.after {c : Chip} (h : Asks s p t d) (hsent : (returnJob d).sent <+: c.sent) :
    ∃ after, c.sent = d.sent ++ after ∧
      (c.sent = s.chip.sent ++ resetAnswer s p t ++ after ∨ (s.chip.cfg.resetMark = true ∧ c.sent = s.chip.sent ++ after)) := by
  rw [returnJob_sent] at hsent
  obtain ⟨after, hafter⟩ := hsent
  refine ⟨after, hafter.symm, ?_⟩
  rcases h.sent with hs | ⟨hmark, hs⟩
  · exact .inl (by rw [← hafter, hs])
  · exact .inr ⟨hmark, by rw [← hafter, hs]⟩

/-- A port that is sent no answer since the request was. -/
theorem unanswered_after {c : Chip} {after : List Sent} (hm : Mute q NotResponse (returnJob d).sent c)
    (hafter : c.sent = d.sent ++ after) (tag : Option Tag) (o : Outcome) (fs : Flags) (w : List Word) :
    .toPort q (.response tag o fs w) ∉ after ∧ (c.ports.get q).session ≠ .opened := by
  obtain ⟨hopen, -, frames, hframes, hall⟩ := hm
  rw [returnJob_sent] at hframes
  have hsame : after = frames := List.append_cancel_left (hafter.symm.trans hframes)
  exact ⟨fun hf => hall _ (hsame ▸ hf) tag o fs w rfl, hopen⟩

end

/-- Settles O39. -/
theorem resetBridgeEndsSessionsAndBeginsStart : Obligations.ResetBridgeEndsSessionsAndBeginsStart := by
  unfold Obligations.ResetBridgeEndsSessionsAndBeginsStart
  intro s p r hr hadmin hcarries
  obtain ⟨⟨-, -, hopen⟩, -⟩ := id hr
  have h := resetAsked_asks hr
  have hexec : Does (.resetBridge p r) s
      (takeResetBridge s.pending (asked s p r.tag .resetBridge []) (handed s p r.tag .resetBridge [])) := by
    refine does_of_taker (k := .resetBridge) hr hcarries (by decide) ?_
    change adminOnly (emptyList (takeResetBridge s.pending)) (asked s p r.tag .resetBridge []) _ = _
    rw [adminOnly_asked_admin _ _ hadmin, emptyList_nil]
  obtain ⟨u, hu, -, hm, hb, -, hidle, hsame⟩ := returnJob_rest (resetAsked s p r.tag)
  rw [takeResetBridge_eq] at hexec
  have hwriter : (returnJob (resetAsked s p r.tag)).cfg.writer = u.writer := by rw [hu]
  have hasked : (resetAsked s p r.tag).cfg.writer = s.chip.cfg.writer := by rw [h.cfg]
  rw [hasked] at hidle hsame
  by_cases hw : u.writer = .idle
  · rw [if_pos (hwriter.trans hw)] at hexec
    obtain ⟨hbegun, hctl, hreserved⟩ := h.begins hopen
    have hmute (q : Port) := finishReset_unanswered q (returnJob (resetAsked s p r.tag))
    obtain ⟨-, -, frames, hframes, -⟩ := hmute p
    obtain ⟨after, hafter, hsent⟩ := h.after ⟨frames, hframes.symm⟩
    refine ⟨_, after, hexec, hsent, fun q tag o fs w _ => unanswered_after (hmute q) hafter tag o fs w,
      fun q hq => absurd hq (finishReset_noneOpen _ q), hctl, fun _ => ⟨hbegun, hreserved⟩, fun hbusy => ?_⟩
    exfalso
    rcases hidle.1 hw with hi | ⟨j, hi⟩
    · rcases hbusy with ⟨_, _, _, hx⟩ | hx
      · exact Writer.noConfusion (hi.symm.trans hx)
      · exact Writer.noConfusion (hi.symm.trans hx)
    · rcases hbusy with ⟨_, _, _, hx⟩ | hx
      · exact Writer.noConfusion (hi.symm.trans hx)
      · exact Writer.noConfusion (hi.symm.trans hx)
  · rw [if_neg fun hx => hw (hwriter.symm.trans hx)] at hexec
    obtain ⟨after, hafter, hsent⟩ := h.after (c := reachPorts s.pending p (returnJob (resetAsked s p r.tag))) reachPorts_sent
    obtain ⟨⟨x, hx⟩, hctl⟩ := reachPorts_rest (waiting := s.pending) (p := p) h.marked
    refine ⟨_, after, hexec, hsent, fun q tag o fs w hq => ?_, fun q hq => ?_, hctl.trans (by rw [hu]; exact h.ctl),
      fun hready => absurd (hidle.2 hready) hw, fun hbusy => ?_⟩
    · refine unanswered_after (reachPorts_unanswered (hq.imp_right fun hnone hj => ?_)) hafter tag o fs w
      obtain ⟨r', hr'⟩ := mem_joiners_pending hj
      exact hnone r' hr'
    · exact (h.session q).symm.trans (reachPorts_opened hq)
    · have hnot : ∀ j, s.chip.cfg.writer ≠ .awaitingSlot j := fun j hj => hw (hidle.2 (.inr ⟨j, hj⟩))
      have hcfg : (reachPorts s.pending p (returnJob (resetAsked s p r.tag))).cfg = { u with queue := x } := by
        rw [hx, hu]
      change (reachPorts s.pending p (returnJob (resetAsked s p r.tag))).cfg.bridge = _ ∧
        (reachPorts s.pending p (returnJob (resetAsked s p r.tag))).cfg.resetMark = _ ∧
        (reachPorts s.pending p (returnJob (resetAsked s p r.tag))).cfg.writer = _
      rw [hcfg]
      exact ⟨hb.trans (by rw [h.cfg]), hm.trans (by rw [h.cfg]), hsame hnot⟩

end Sys2Proof.Resets
end

section
/-! SUPPORT. The entry to FAULT, stage by stage: the jobs fail, the queues, the holds and the commit are answered (R44, R112,
R157, R167, R171). -/

namespace Sys2Proof.Faults

open Sys2Proof.Machine Sys2Proof.Safety Sys2Proof.Keeping Sys2Proof.DataPath Sys2Proof.SlotOps
  Sys2Proof.Grants Sys2Proof.Aftermath Sys2Proof.HoldProofs Sys2Proof.Resets Sys2Proof.Recovery

/-! ### The stages -/

/-- The bridge state and the writer of the entry. -/
def entering (c : Chip) : Chip :=
  c.modCfg fun u => { u with bridge := .fault, step := none, queue := [], writer := .idle }

/-- The jobs `l` have failed, and MEDIA is set. -/
@[irreducible] def jobsEnded (l : List Job) (c : Chip) : Chip := raiseMedia (each jobFailed l (entering c))

/-- The queued requests are answered; reservations and starvation counts are cleared. -/
@[irreducible] def queuesEnded (c : Chip) : Chip :=
  (eachPort faultQueue c).modArb fun a => { a with reservation := [], starvation := PerPort.same 0 }

/-- The entry to FAULT of blocks whose START, if they were in one, has ended. -/
@[irreducible] def faulted (l : List Job) (c : Chip) : Chip :=
  (faultMap (faultHolds (queuesEnded (jobsEnded l c)))).modMlink fun m => { m with bringUp := .idle, attempts := 0 }

/-- What precedes the entry in START: every slot returns to FREE, and the log time begins. -/
@[irreducible] def fromStart (c : Chip) : Chip :=
  if c.cfg.bridge = .start then restartLogTime (conclude id (freeAllSlots c)) else c

theorem enterFault_eq (c : Chip) : enterFault c = faulted (c.cfg.writer.waitingJob ++ c.cfg.queue) (fromStart c) := by
  unfold faulted queuesEnded jobsEnded fromStart
  rfl

section
variable {s : State} {asker : Option Port} {l : List Job} {c : Chip}

/-! ### What every run of events keeps -/

theorem jobsEnded_keeps {P : Chip → Prop} (k : KeptRunning P) (h : P c) : P (jobsEnded l c) := by
  unfold jobsEnded
  exact k.raiseMedia (each_keeps (fun j _ hc => k.jobFailed j hc) _ (k.faulted h))

theorem queuesEnded_keeps {P : Chip → Prop} (k : KeptRunning P) (h : P c) : P (queuesEnded c) := by
  unfold queuesEnded
  exact k.modArb _ rfl (eachPort_keeps (fun p _ hc => k.faultQueue p hc) h)

theorem faulted_keeps {P : Chip → Prop} (k : KeptRunning P) (h : P c) : P (faulted l c) := by
  unfold faulted
  exact k.modMlink _ rfl ⟨.inl rfl, .inl rfl, .inl rfl⟩
    (k.faultMap (k.faultHolds (queuesEnded_keeps k (jobsEnded_keeps k h))))

theorem fromStart_keeps {P : Chip → Prop} (k : KeptRunning P) (h : P c) : P (fromStart c) := by
  unfold fromStart
  split
  · exact k.restartLogTime (k.conclude_id (k.freeAllSlots h))
  · exact h

theorem fromStart_other (h : c.cfg.bridge ≠ .start) : fromStart c = c := by
  unfold fromStart
  exact if_neg h

/-! ### The jobs (R167, R171) -/

theorem each_jobFailed_proj {β : Type} (g : Chip → β) (h : ∀ j c, g (jobFailed j c) = g c) (l : List Job) (c : Chip) :
    g (each jobFailed l c) = g c :=
  Laws.each_proj g jobFailed h l c

theorem jobsEnded_cfg : (jobsEnded l c).cfg = { c.cfg with bridge := .fault, step := none, queue := [], writer := .idle } := by
  unfold jobsEnded
  rw [Laws.raiseMedia_cfg, each_jobFailed_proj (fun c => c.cfg) (by simp)]
  rfl

theorem jobsEnded_arb : (jobsEnded l c).arb = c.arb := by
  unfold jobsEnded
  rw [Laws.raiseMedia_arb, each_jobFailed_proj (fun c => c.arb) (by simp)]
  rfl

theorem jobsEnded_map : (jobsEnded l c).map = (each jobFailed l (entering c)).map := by
  unfold jobsEnded
  exact Laws.raiseMedia_map _

theorem jobsEnded_hold : (jobsEnded l c).hold.table = without l c.hold.table := by
  unfold jobsEnded
  rw [Laws.raiseMedia_hold, each_jobFailed_table]
  rfl

theorem jobsEnded_ctl : (jobsEnded l c).ctl = (each jobFailed l (entering c)).ctl := by
  unfold jobsEnded
  exact Laws.raiseMedia_ctl _

theorem jobsEnded_media {q : Port} (h : (c.ports.get q).session = .opened) :
    ((jobsEnded l c).ports.get q).flags.get .media = true := by
  unfold jobsEnded
  exact raiseMedia_set (((onward_jobsFailed l (entering c)).opened q).2 h)

/-- What the failed jobs have told stays told. -/
theorem jobsEnded_onward : Onward (each jobFailed l (entering c)) (jobsEnded l c) := by
  unfold jobsEnded
  exact Onward.eachPort (fun p c => Onward.raiseFlag .media p c) _

theorem entering_goes (h : Goes asker s c) : Goes asker s (entering c) := h.silent (Silent.of_same rfl rfl)

/-! ### The queues (R112) -/

/-- The queued requests of a list answered. -/
theorem faultQueue_eq (p : Port) (c : Chip) :
    faultQueue p c = each (fun t c => respond p t .mediaFault [] (dequeue p t c)) (c.arb.queues.get p) c := rfl

theorem faultQueue_silent (p : Port) (c : Chip) : Silent c (faultQueue p c) :=
  Silent.each (fun t c => (Silent.dequeue p t c).trans (Silent.respond ..)) _ c

theorem faultQueue_proj {β : Type} (g : Chip → β) (hr : ∀ p t o w c, g (respond p t o w c) = g c)
    (hd : ∀ p t c, g (dequeue p t c) = g c) (p : Port) (c : Chip) : g (faultQueue p c) = g c :=
  Laws.each_proj g _ (fun _ _ => (hr ..).trans (hd ..)) _ c

theorem queuesEnded_proj {β : Type} (g : Chip → β) (hr : ∀ p t o w c, g (respond p t o w c) = g c)
    (hd : ∀ p t c, g (dequeue p t c) = g c) (ha : ∀ (a : Arbiter) (c : Chip), g { c with arb := a } = g c) :
    g (queuesEnded c) = g c := by
  unfold queuesEnded
  exact (ha _ _).trans (Laws.eachPort_proj g faultQueue (faultQueue_proj g hr hd) c)

theorem queuesEnded_cfg : (queuesEnded c).cfg = c.cfg := queuesEnded_proj (fun c => c.cfg) (by simp) (by simp) fun _ _ => rfl
theorem queuesEnded_hold : (queuesEnded c).hold = c.hold := queuesEnded_proj (fun c => c.hold) (by simp) (by simp) fun _ _ => rfl
theorem queuesEnded_ctl : (queuesEnded c).ctl = c.ctl := queuesEnded_proj (fun c => c.ctl) (by simp) (by simp) fun _ _ => rfl

theorem queuesEnded_map_proj {β : Type} (g : MapUnit → β) (hg : ∀ m u, g { m with usage := u } = g m) :
    g (queuesEnded c).map = g c.map :=
  queuesEnded_proj (fun c => g c.map) (by simp) (fun p t c => by obtain ⟨u, hu⟩ := dequeue_map p t c; rw [hu, hg])
    fun _ _ => rfl

theorem queuesEnded_silent : Silent c (queuesEnded c) := by
  unfold queuesEnded eachPort
  exact ((faultQueue_silent ..).trans ((faultQueue_silent ..).trans (faultQueue_silent ..))).trans (Silent.of_same rfl rfl)

theorem faultQueue_queues_ne {p q : Port} (h : q ≠ p) (c : Chip) : (faultQueue p c).arb.queues.get q = c.arb.queues.get q :=
  Laws.each_proj (fun c => c.arb.queues.get q) _ (fun t c => by
    rw [Laws.respond_arb, Laws.dequeue_queues, Laws.PerPort.get_set, if_neg h]) _ c

theorem faultQueue_queues (p : Port) (c : Chip) : (faultQueue p c).arb.queues.get p = [] := by
  have hall (l : List Tag) (c : Chip) (h : c.arb.queues.get p = l) :
      (each (fun t c => respond p t .mediaFault [] (dequeue p t c)) l c).arb.queues.get p = [] := by
    induction l generalizing c with
    | nil => exact h
    | cons t l ih =>
      refine ih _ ?_
      rw [Laws.respond_arb, Laws.dequeue_queues, Laws.PerPort.get_set, if_pos rfl, h, List.erase_cons_head]
  exact hall _ c rfl

/-- A queued request is answered MEDIA-FAULT (R112). -/
theorem faultQueue_tells {p : Port} {u : Tag} (h : Goes asker s c) (hu : u ∈ c.arb.queues.get p) (hp : Speaks s p) :
    (faultQueue p c).record p u = none ∧ Answered s { s with chip := faultQueue p c } p u .mediaFault [] := by
  rw [faultQueue_eq]
  generalize c.arb.queues.get p = l at hu
  induction l generalizing c with
  | nil => cases hu
  | cons t l ih =>
    have hone : Goes asker s (dequeue p t c) := h.silent (Silent.dequeue p t c)
    rcases List.mem_cons.1 hu with rfl | hu
    · have hrest := Silent.each (fun t c => (Silent.dequeue p t c).trans (Silent.respond p t .mediaFault [] _)) l
        (respond p u .mediaFault [] (dequeue p u c))
      obtain ⟨hgone, hanswered⟩ := hone.respond_answered hp u .mediaFault []
      exact ⟨hrest.gone p u hgone, answered_mono hanswered hrest.sent⟩
    · exact ih (hone.silent (Silent.respond ..)) hu

end

end Sys2Proof.Faults
end

section
/-! SUPPORT. What the entry to FAULT leaves of the queues, the holds and the commit, and whom it has told (R44, R112, R157,
R171). -/

namespace Sys2Proof.Faults

open Sys2Proof.Machine Sys2Proof.Safety Sys2Proof.Keeping Sys2Proof.DataPath Sys2Proof.SlotOps
  Sys2Proof.Grants Sys2Proof.Aftermath Sys2Proof.HoldProofs Sys2Proof.Resets Sys2Proof.Recovery

section
variable {s : State} {asker : Option Port} {l : List Job} {c : Chip}

/-! ### The queues (R112) -/

theorem queuesEnded_queues (q : Port) : (queuesEnded c).arb.queues.get q = [] := by
  unfold queuesEnded eachPort
  change (faultQueue .p2 (faultQueue .p1 (faultQueue .p0 c))).arb.queues.get q = []
  cases q with
  | p0 => rw [faultQueue_queues_ne (by decide), faultQueue_queues_ne (by decide), faultQueue_queues]
  | p1 => rw [faultQueue_queues_ne (by decide), faultQueue_queues]
  | p2 => rw [faultQueue_queues]

theorem queuesEnded_cleared (q : Port) :
    (queuesEnded c).arb.reservation = [] ∧ (queuesEnded c).arb.starvation.get q = 0 := by
  unfold queuesEnded
  exact ⟨rfl, by cases q <;> rfl⟩

theorem dequeue_credit (p : Port) (t : Tag) (c : Chip) : (dequeue p t c).arb.credit = c.arb.credit := by
  unfold dequeue
  dsimp only
  split <;> dsimp only [Chip.modArb] <;> split <;> rfl

theorem queuesEnded_credit : (queuesEnded c).arb.credit = c.arb.credit ∧ (queuesEnded c).arb.pointer = c.arb.pointer := by
  unfold queuesEnded
  exact ⟨Laws.eachPort_proj (fun c => c.arb.credit) faultQueue
      (faultQueue_proj (fun c => c.arb.credit) (by simp) dequeue_credit) c,
    Laws.eachPort_proj (fun c => c.arb.pointer) faultQueue
      (faultQueue_proj (fun c => c.arb.pointer) (by simp) dequeue_pointer) c⟩

/-- Every queued request is answered MEDIA-FAULT (R112). -/
theorem queuesEnded_tells {q : Port} {u : Tag} (h : Goes asker s c) (hu : u ∈ c.arb.queues.get q) (hp : Speaks s q) :
    (queuesEnded c).record q u = none ∧ Answered s { s with chip := queuesEnded c } q u .mediaFault [] := by
  have hgoes (p : Port) {d : Chip} (hd : Goes asker s d) : Goes asker s (faultQueue p d) := hd.silent (faultQueue_silent p d)
  have hlater (p : Port) {d : Chip} (hd : d.record q u = none ∧ Answered s { s with chip := d } q u .mediaFault []) :
      (faultQueue p d).record q u = none ∧ Answered s { s with chip := faultQueue p d } q u .mediaFault [] :=
    ⟨(faultQueue_silent p d).gone q u hd.1, answered_mono hd.2 (faultQueue_silent p d).sent⟩
  unfold queuesEnded eachPort
  change (faultQueue .p2 (faultQueue .p1 (faultQueue .p0 c))).record q u = none ∧
    Answered s { s with chip := faultQueue .p2 (faultQueue .p1 (faultQueue .p0 c)) } q u .mediaFault []
  cases q with
  | p0 => exact hlater .p2 (hlater .p1 (faultQueue_tells h hu hp))
  | p1 => exact hlater .p2 (faultQueue_tells (hgoes .p0 h) (by rwa [faultQueue_queues_ne (by decide)]) hp)
  | p2 =>
    refine faultQueue_tells (hgoes .p1 (hgoes .p0 h)) ?_ hp
    rwa [faultQueue_queues_ne (by decide), faultQueue_queues_ne (by decide)]

/-! ### The holds (R44) -/

/-- One FIXED hold that is not ACTIVE, removed and answered. -/
abbrev holdEnded (x : Hold) (c : Chip) : Chip := answerPlacement x .persistFailed [item x.id] (removeHold x c)

theorem faultHolds_eq (c : Chip) : faultHolds c = each holdEnded (c.hold.table.filter Hold.unfinished) c := rfl

theorem faultHolds_proj {β : Type} (g : Chip → β) (h : ∀ x c, g (holdEnded x c) = g c) (c : Chip) :
    g (faultHolds c) = g c := Laws.each_proj g holdEnded h _ c

theorem faultHolds_cfg : (faultHolds c).cfg = c.cfg := faultHolds_proj (fun c => c.cfg) (by simp) c
theorem faultHolds_arb : (faultHolds c).arb = c.arb := faultHolds_proj (fun c => c.arb) (by simp) c
theorem faultHolds_map : (faultHolds c).map = c.map := faultHolds_proj (fun c => c.map) (by simp) c
theorem faultHolds_ctl : (faultHolds c).ctl = c.ctl := faultHolds_proj (fun c => c.ctl) (by simp) c

theorem each_holdEnded_table (l : List Hold) (c : Chip) :
    (each holdEnded l c).hold.table = c.hold.table.filter fun x => ∀ y ∈ l, x.id ≠ y.id := by
  induction l generalizing c with
  | nil => exact (List.filter_eq_self.2 fun _ _ => decide_eq_true fun _ hy => absurd hy List.not_mem_nil).symm
  | cons y l ih =>
    change (each holdEnded l (holdEnded y c)).hold.table = _
    rw [ih, Laws.answerPlacement_hold, removeHold_hold]
    simp only [List.filter_filter]
    refine List.filter_congr fun x _ => ?_
    simp [Bool.and_comm]

theorem unfinished_iff (h : Hold) : h.unfinished = true ↔ h.cls = .fixed ∧ ∀ left, h.state ≠ .active left := by
  unfold Hold.unfinished
  cases h.state <;> simp

/-- A hold that FAULT ends is gone (R44). -/
theorem faultHolds_gone {h : Hold} (hm : h ∈ c.hold.table) (hu : h.unfinished = true) :
    ∀ x ∈ (faultHolds c).hold.table, x.id ≠ h.id := by
  intro x hx
  rw [faultHolds_eq, each_holdEnded_table] at hx
  exact of_decide_eq_true (List.mem_filter.1 hx).2 h (List.mem_filter.2 ⟨hm, hu⟩)

theorem faultHolds_subset : (faultHolds c).hold.table ⊆ c.hold.table := by
  rw [faultHolds_eq, each_holdEnded_table]
  exact List.filter_subset_self _

theorem fixedActive_faultHolds : FixedActive (faultHolds c) := by
  intro x hx hcls
  by_contra hnot
  exact faultHolds_gone (faultHolds_subset hx) ((unfinished_iff x).2 ⟨hcls, fun left h => hnot ⟨left, h⟩⟩) x hx rfl

theorem faultHolds_onward : Onward c (faultHolds c) := (Onward.running c).faultHolds (Onward.refl c)

/-- The removal of a hold of a list is told, and its placement answered (R41, R44). -/
theorem each_holdEnded_told {l : List Hold} (h : Goes asker s c) {x : Hold} (hx : x ∈ l) :
    (c.map.active = s.chip.map.active → HoldsSet s (each holdEnded l c) x.range) ∧
      PlacementAnswered s { s with chip := each holdEnded l c } x .persistFailed [item x.id] := by
  induction l generalizing c with
  | nil => cases hx
  | cons y l ih =>
    have hrest : Onward (holdEnded y c) (each holdEnded l (holdEnded y c)) :=
      each_keeps (P := Onward (holdEnded y c))
        (fun z _ hd => (Onward.running _).answerPlacement z _ _ ((Onward.running _).removeHold z hd)) l (Onward.refl _)
    rcases List.mem_cons.1 hx with rfl | hx
    · obtain ⟨hset, hanswered⟩ := removeHold_told h x .persistFailed [item x.id]
      exact ⟨fun hactive => (hset hactive).onward hrest, placementAnswered_onward hanswered hrest⟩
    · have hmap : (holdEnded y c).map = c.map := by simp
      obtain ⟨hset, hanswered⟩ := ih (h.op fun k hk => k.answerPlacement y .persistFailed [item y.id] (k.removeHold y hk)) hx
      exact ⟨fun hactive => hset (by rw [hmap]; exact hactive), hanswered⟩

theorem faultHolds_told (h : Goes asker s c) {x : Hold} (hm : x ∈ c.hold.table) (hu : x.unfinished = true) :
    (c.map.active = s.chip.map.active → HoldsSet s (faultHolds c) x.range) ∧
      PlacementAnswered s { s with chip := faultHolds c } x .persistFailed [item x.id] :=
  each_holdEnded_told h (List.mem_filter.2 ⟨hm, hu⟩)

/-! ### The commit (R157) -/

theorem faultMap_cfg : (faultMap c).cfg = c.cfg := by unfold faultMap; split <;> simp [endCommit]
theorem faultMap_arb : (faultMap c).arb = c.arb := by unfold faultMap; split <;> simp [endCommit]
theorem faultMap_hold : (faultMap c).hold = c.hold := by unfold faultMap; split <;> simp [endCommit]
theorem faultMap_ctl : (faultMap c).ctl = c.ctl := by unfold faultMap; split <;> simp [endCommit]

theorem faultMap_draining {info : CommitInfo} {left : Nat} (h : c.map.commit = .draining info left) :
    faultMap c = answerCommit info .mediaFault [] (endCommit .empty c) := by
  unfold faultMap
  rw [h]

theorem faultMap_idle (h : c.map.commit = .idle) : faultMap c = endCommit .empty c := by
  unfold faultMap
  rw [h]

theorem faultMap_rest : (faultMap c).map.active = c.map.active ∧ (faultMap c).map.epoch = c.map.epoch := by
  unfold faultMap
  split <;> simp [endCommit]

theorem faultMap_ended (h : ∀ info, c.map.commit ≠ .persisting info) :
    (faultMap c).map.commit = .idle ∧ (faultMap c).map.staging = .empty := by
  unfold faultMap
  split
  · simp [endCommit]
  · simp [endCommit]
  · rename_i info hc
    exact absurd hc (h info)

theorem faultMap_onward : Onward c (faultMap c) := (Onward.running c).faultMap (Onward.refl c)

end

end Sys2Proof.Faults
end

section
/-! SUPPORT. FAULT has been entered, with everything that the entry answers (R44, R112, R152, R157, R167, R171). -/

namespace Sys2Proof.Faults

open Sys2Proof.Machine Sys2Proof.Safety Sys2Proof.Keeping Sys2Proof.DataPath Sys2Proof.SlotOps
  Sys2Proof.Grants Sys2Proof.Aftermath Sys2Proof.HoldProofs Sys2Proof.Resets Sys2Proof.Recovery

section
variable {s : State} {l : List Job} {c : Chip}

/-! ### The blocks in FAULT -/

/-- The blocks before the hold unit takes the entry. -/
abbrev answeredQueues (l : List Job) (c : Chip) : Chip := queuesEnded (jobsEnded l c)

/-- The blocks before the map unit takes the entry. -/
abbrev endedHolds (l : List Job) (c : Chip) : Chip := faultHolds (answeredQueues l c)

theorem faulted_cfg : (faulted l c).cfg = { c.cfg with bridge := .fault, step := none, queue := [], writer := .idle } := by
  unfold faulted
  change (faultMap (endedHolds l c)).cfg = _
  rw [faultMap_cfg, faultHolds_cfg, queuesEnded_cfg, jobsEnded_cfg]

theorem faulted_arb : (faulted l c).arb = (answeredQueues l c).arb := by
  unfold faulted
  change (faultMap (endedHolds l c)).arb = _
  rw [faultMap_arb, faultHolds_arb]

theorem faulted_hold : (faulted l c).hold = (endedHolds l c).hold := by
  unfold faulted
  exact faultMap_hold

theorem faulted_map : (faulted l c).map = (faultMap (endedHolds l c)).map := by
  unfold faulted
  rfl

theorem faulted_ctl : (faulted l c).ctl = (each jobFailed l (entering c)).ctl := by
  unfold faulted
  change (faultMap (endedHolds l c)).ctl = _
  rw [faultMap_ctl, faultHolds_ctl, queuesEnded_ctl, jobsEnded_ctl]

theorem faulted_mlink : (faulted l c).mlink.bringUp = .idle ∧ (faulted l c).mlink.attempts = 0 := by
  unfold faulted
  exact ⟨rfl, rfl⟩

theorem endedHolds_onward : Onward (endedHolds l c) (faulted l c) := by
  unfold faulted
  exact faultMap_onward.trans (Onward.of_same rfl rfl)

theorem answeredQueues_onward : Onward (answeredQueues l c) (faulted l c) := faultHolds_onward.trans endedHolds_onward

theorem jobsEnded_faulted : Onward (jobsEnded l c) (faulted l c) := queuesEnded_silent.onward.trans answeredQueues_onward

theorem faulted_onward : Onward c (faulted l c) := faulted_keeps (Onward.running c) (Onward.refl c)

/-- MEDIA is set for every OPEN session (R171). -/
theorem faulted_media {q : Port} (h : ((faulted l c).ports.get q).session = .opened) :
    ((faulted l c).ports.get q).flags.media = true :=
  jobsEnded_faulted.flag q .media (by decide) (jobsEnded_media ((faulted_onward.opened q).1 h))

theorem inFault_faulted : InFault (faulted l c) := by
  have hcfg := faulted_cfg (l := l) (c := c)
  refine ⟨by rw [hcfg], by rw [hcfg], by rw [hcfg], by rw [hcfg], fun q => ?_, ?_, ?_, faulted_mlink.1, faulted_mlink.2,
    fun q hq => faulted_media hq⟩
  · rw [faulted_arb]
    exact ⟨queuesEnded_queues q, (queuesEnded_cleared q).2⟩
  · rw [faulted_arb]
    exact (queuesEnded_cleared .p0).1
  · rw [faulted_hold]
    exact fixedActive_faultHolds

/-! ### What is told and answered (R44, R69, R112, R152, R157) -/

theorem jobsEnded_goes {asker : Option Port} (h : Goes asker s c) : Goes asker s (jobsEnded l c) := h.op fun k hk => jobsEnded_keeps k hk

theorem answeredQueues_goes {asker : Option Port} (h : Goes asker s c) : Goes asker s (answeredQueues l c) :=
  (jobsEnded_goes h).silent queuesEnded_silent

theorem faulted_goes {asker : Option Port} (h : Goes asker s c) : Goes asker s (faulted l c) := h.op fun k hk => faulted_keeps k hk

theorem faulted_noticed (h : Goes none s c) {q : Port} (hdue : NoticeDue s q .media) :
    Noticed s { s with chip := faulted l c } q .media := by
  have hgoes := faulted_goes (l := l) h
  exact hgoes.noticed (faulted_media ((hgoes.opened q).2 hdue.1)) nofun hdue

theorem answeredQueues_active : (answeredQueues l c).map.active = c.map.active := by
  have hjobs : (each jobFailed l (entering c)).map.active = c.map.active :=
    each_jobFailed_proj (fun c => c.map.active) jobFailed_active l (entering c)
  rw [queuesEnded_map_proj MapUnit.active fun _ _ => rfl, jobsEnded_map, hjobs]

/-- A FIXED hold that is not ACTIVE ends with its job, or at the hold unit (R44). -/
theorem faulted_hold_ends (h : Goes none s c) (hactive : c.map.active = s.chip.map.active)
    (hp : c.hold.table.Pairwise fun a b => a.id < b.id) {x : Hold} (hx : x ∈ c.hold.table) (hu : x.unfinished = true) :
    HoldFailed s { s with chip := faulted l c } x ∧ HoldsTold s { s with chip := faulted l c } x.range none := by
  have htable : (answeredQueues l c).hold.table = without l c.hold.table := by rw [queuesEnded_hold, jobsEnded_hold]
  have hkept (h : ∀ y ∈ (endedHolds l c).hold.table, y.id ≠ x.id) : ∀ y ∈ (faulted l c).hold.table, y.id ≠ x.id := by
    rwa [faulted_hold]
  by_cases hj : .hold x.id ∈ l
  · have hgone : ∀ y ∈ (faulted l c).hold.table, y.id ≠ x.id := hkept fun y hy hid => by
      have hy' := faultHolds_subset hy
      rw [htable] at hy'
      exact of_decide_eq_true (List.mem_filter.1 hy').2 (hid ▸ hj)
    obtain ⟨hset, hanswered⟩ := jobsFailed_told (entering_goes h) hp hx hj
    have hon : Onward (each jobFailed l (entering c)) (faulted l c) := jobsEnded_onward.trans jobsEnded_faulted
    exact ⟨⟨hgone, placementAnswered_onward hanswered hon⟩, ((hset hactive).onward hon).told (faulted_goes h)⟩
  · have hm : x ∈ (answeredQueues l c).hold.table := by
      rw [htable]
      exact List.mem_filter.2 ⟨hx, decide_eq_true hj⟩
    obtain ⟨hset, hanswered⟩ := faultHolds_told (answeredQueues_goes h) hm hu
    exact ⟨⟨hkept (faultHolds_gone hm hu), placementAnswered_onward hanswered endedHolds_onward⟩,
      ((hset (answeredQueues_active.trans hactive)).onward endedHolds_onward).told (faulted_goes h)⟩

theorem faulted_queue_answered (h : Goes none s c) {q : Port} {u : Tag} (hu : u ∈ c.arb.queues.get q) (hp : Speaks s q) :
    (faulted l c).record q u = none ∧ Answered s { s with chip := faulted l c } q u .mediaFault [] := by
  obtain ⟨hgone, hanswered⟩ := queuesEnded_tells (jobsEnded_goes (l := l) h) (by rwa [jobsEnded_arb]) hp
  exact ⟨answeredQueues_onward.gone q u hgone, answered_mono hanswered answeredQueues_onward.sent⟩

theorem faulted_credit : (faulted l c).arb.credit = c.arb.credit ∧ (faulted l c).arb.pointer = c.arb.pointer := by
  rw [faulted_arb, queuesEnded_credit.1, queuesEnded_credit.2, jobsEnded_arb]
  exact ⟨rfl, rfl⟩

theorem faulted_map_rest : (faulted l c).map.active = c.map.active ∧ (faulted l c).map.epoch = c.map.epoch := by
  have hepoch : (each jobFailed l (entering c)).map.epoch = c.map.epoch :=
    each_jobFailed_proj (fun c => c.map.epoch) jobFailed_epoch l (entering c)
  rw [faulted_map, faultMap_rest.1, faultMap_rest.2, faultHolds_map]
  exact ⟨answeredQueues_active,
    by rw [queuesEnded_map_proj MapUnit.epoch fun _ _ => rfl, jobsEnded_map, hepoch]⟩

/-- What the failed jobs leave of the commit is what the map unit takes. -/
theorem endedHolds_commit : (endedHolds l c).map.commit = (each jobFailed l (entering c)).map.commit := by
  rw [faultHolds_map, queuesEnded_map_proj MapUnit.commit fun _ _ => rfl, jobsEnded_map]

theorem endedHolds_unpersisting (h : ∀ info, c.map.commit ≠ .persisting info) :
    (endedHolds l c).map.commit = c.map.commit := by
  rw [endedHolds_commit, each_jobFailed_map_same (c := entering c) (.inl h)]
  rfl

theorem faulted_commit (h : ∀ info, (endedHolds l c).map.commit ≠ .persisting info) :
    (faulted l c).map.commit = .idle ∧ (faulted l c).map.staging = .empty := by
  rw [faulted_map]
  exact faultMap_ended h

theorem faulted_draining (h : Goes none s c) {info : CommitInfo} {left : Nat} (hc : c.map.commit = .draining info left) :
    (faulted l c).map.commit = .idle ∧ (faulted l c).map.staging = .empty ∧
      CommitAnswered s { s with chip := faulted l c } info .mediaFault [] := by
  have hstays : (endedHolds l c).map.commit = .draining info left :=
    (endedHolds_unpersisting fun info hi => by rw [hc] at hi; cases hi).trans hc
  obtain ⟨hidle, hempty⟩ := faulted_commit (l := l) (c := c) fun info hi => by rw [hstays] at hi; cases hi
  have hgoes : Goes none s (endedHolds l c) := (answeredQueues_goes h).op fun k hk => k.faultHolds hk
  have hended : Goes none s (endCommit .empty (endedHolds l c)) := hgoes.silent (Silent.of_same rfl rfl)
  have hanswered := answerCommit_answered hended info .mediaFault []
  rw [← faultMap_draining hstays] at hanswered
  refine ⟨hidle, hempty, commitAnswered_onward hanswered ?_⟩
  unfold faulted
  exact Onward.of_same rfl rfl

theorem faulted_persisting (h : Goes none s c) {info : CommitInfo} (hc : c.map.commit = .persisting info) (hl : .commit ∈ l) :
    (faulted l c).map.commit = .idle ∧ (faulted l c).map.staging = .empty ∧
      CommitAnswered s { s with chip := faulted l c } info .persistFailed [] := by
  have hidle : (endedHolds l c).map.commit = .idle := by
    rw [endedHolds_commit, each_jobFailed_map (c := entering c) hc hl]
    rfl
  obtain ⟨hcommit, hempty⟩ := faulted_commit (l := l) (c := c) fun info hi => by rw [hidle] at hi; cases hi
  exact ⟨hcommit, hempty, commitAnswered_onward (jobsFailed_commit (entering_goes h) (c := entering c) hc hl)
    (jobsEnded_onward.trans jobsEnded_faulted)⟩

end

/-! ### The entry (R171) -/

/-- FAULT is entered from RECOVER or START, whatever the M-link controller has done before. -/
theorem enterFault_enters (s : State) (m : MlinkCtl) :
    EntersFault s { s with chip := enterFault { s.chip with mlink := m } } := by
  have hgoes : Goes none s { s.chip with mlink := m } := (Goes.start s).silent (Silent.of_same rfl rfl)
  have hstart : Goes none s (fromStart { s.chip with mlink := m }) := hgoes.op fun k hk => fromStart_keeps k hk
  rw [enterFault_eq]
  refine ⟨inFault_faulted, fun q hdue => faulted_noticed hstart hdue, fun hrecover => ?_⟩
  have hsame : fromStart { s.chip with mlink := m } = { s.chip with mlink := m } :=
    fromStart_other (c := { s.chip with mlink := m }) (by rw [show ({ s.chip with mlink := m } : Chip).cfg = s.chip.cfg from rfl, hrecover]; decide)
  rw [hsame] at hstart ⊢
  refine ⟨fun hlog => ?_, fun hrange h hm hcls hstate => ?_, fun q u hu hp => faulted_queue_answered hstart hu hp,
    faulted_credit.1, faulted_credit.2, faulted_map_rest.1, faulted_map_rest.2, fun hidle => ?_,
    fun info left hc => faulted_draining hstart hc, fun info hc hl => faulted_persisting hstart hc hl⟩
  · obtain ⟨-, -, hle⟩ := hlog
    rw [show ∀ t : Chip, (State.chip { s with chip := t }) = t from fun _ => rfl, faulted_ctl,
      each_jobFailed_ctl _ (entering { s.chip with mlink := m }) (.inr hle)]
    rfl
  · exact faulted_hold_ends hstart rfl hrange.2.2 hm ((unfinished_iff h).2 ⟨hcls, hstate⟩)
  · refine faulted_commit fun info hi => ?_
    rw [endedHolds_unpersisting (c := { s.chip with mlink := m }) fun info hi => by
      rw [show ({ s.chip with mlink := m } : Chip).map = s.chip.map from rfl, hidle] at hi; cases hi] at hi
    rw [show ({ s.chip with mlink := m } : Chip).map = s.chip.map from rfl, hidle] at hi
    cases hi

end Sys2Proof.Faults
end

section
/-! SUPPORT. The attempts of a bring-up, and their success and failure (R131, R133 to R135, R174, R175). -/

namespace Sys2Proof.Faults

open Sys2Proof.Machine Sys2Proof.Safety Sys2Proof.Keeping Sys2Proof.Commands Sys2Proof.DataPath Sys2Proof.SlotOps
  Sys2Proof.Grants Sys2Proof.Aftermath Sys2Proof.HoldProofs Sys2Proof.Resets Sys2Proof.Recovery

/-! ### The next attempt (R134) -/

section
variable {c : Chip}

theorem conclude_id_bridge (e : Chip) : (conclude id e).cfg.bridge = e.cfg.bridge := by
  obtain ⟨w, a, b, hcfg⟩ := (conclude_ends_of Answering.id e).granted.cfg
  obtain ⟨q, v, hsettle⟩ := settle_cfg e
  rw [hcfg, show settle (id e) = settle e from rfl, hsettle]

theorem beginAttempt_bridge (c : Chip) : (beginAttempt c).cfg.bridge = c.cfg.bridge := by
  cases hl : c.mlink.link with
  | down => rw [beginAttempt_down hl]; rfl
  | up =>
    rw [beginAttempt_up hl]
    by_cases hb : c.cfg.bridge = .start
    · rw [sendLinkReset_start (c := setBringUp (.attempt .awaitReady Config.attemptLimit) c) hb, conclude_id_bridge,
        freeAllSlots_cfg, Laws.sendMedia_cfg]
      rfl
    · rw [sendLinkReset_other (c := setBringUp (.attempt .awaitReady Config.attemptLimit) c) hb, Laws.sendMedia_cfg]
      rfl

theorem beginAttempt_mlink (c : Chip) : (beginAttempt c).mlink = { c.mlink with
    slots := (beginAttempt c).mlink.slots
    bringUp := .attempt (if c.mlink.link = .up then .awaitReady else .awaitLinkUp) 200 } := by
  cases hl : c.mlink.link with
  | down => rw [beginAttempt_down hl]; rfl
  | up =>
    rw [beginAttempt_up hl]
    by_cases hb : c.cfg.bridge = .start
    · exact (sendLinkReset_mlink (c := setBringUp (.attempt .awaitReady Config.attemptLimit) c) hb).1
    · rw [sendLinkReset_other (c := setBringUp (.attempt .awaitReady Config.attemptLimit) c) hb, Laws.sendMedia_mlink]
      rfl

/-! ### The frames that end an attempt -/

theorem identifyTaken_of_not (h : ∀ left, c.mlink.bringUp ≠ .attempt .awaitReply left) (cap : Word) (n : Byte) :
    identifyTaken cap n c = c := by
  unfold identifyTaken
  split
  · rename_i left hb; exact absurd hb (h left)
  all_goals rfl

theorem identifyTaken_awaits {left : Nat} (h : c.mlink.bringUp = .attempt .awaitReply left) (cap : Word) (n : Byte) :
    identifyTaken cap n c = if 1 ≤ n.toNat ∧ n.toNat ≤ 16 then bringUpDone cap n.toNat c else attemptFailed c := by
  unfold identifyTaken
  rw [h]
  rfl

theorem attemptExpiry_idle (h : c.mlink.bringUp = .idle) : attemptExpiry c = c := by
  unfold attemptExpiry
  rw [h]

theorem attemptExpiry_attempt {step : AttemptStep} {left : Nat} (h : c.mlink.bringUp = .attempt step left) :
    attemptExpiry c = attemptFailed c := by
  unfold attemptExpiry
  rw [h]

/-- The blocks with one more attempt counted. -/
abbrev attempted (c : Chip) : Chip := c.modMlink fun m => { m with attempts := m.attempts + 1 }

theorem attemptFailed_again (h : c.mlink.attempts + 1 < 3) : attemptFailed c = beginAttempt (attempted c) := if_pos h

theorem attemptFailed_last (h : 3 ≤ c.mlink.attempts + 1) : attemptFailed c = enterFault (attempted c) :=
  if_neg (Nat.not_lt.2 h)

/-! ### Success (R135, R174, R175) -/

/-- The M-link controller after an attempt that has succeeded. -/
abbrev identified (n : Nat) (c : Chip) : Chip := c.modMlink fun m => { m with bringUp := .idle, attempts := 0, slotCount := n }

theorem bringUpDone_recover (h : c.cfg.bridge = .recover) (cap : Word) (n : Nat) :
    bringUpDone cap n c = if cap = c.mlink.capacity then
      conclude id (((identified n c).modMlink fun m => { m with recoveries := saturatingSucc Config.saturate8 m.recoveries }).modCfg
        fun u => { u with bridge := .service })
    else enterFault (identified n c) := by
  unfold bringUpDone
  dsimp only
  rw [show (identified n c).cfg.bridge = .recover from h]
  rfl

theorem bringUpDone_first (h : c.cfg.bridge = .start) (hs : c.cfg.step = some .bringUp) (cap : Word) (n : Nat) :
    bringUpDone cap n c = if cap.toNat < 4096 then enterFault ((identified n c).modMlink fun m => { m with capacity := cap })
      else readCopy .a (setStep .readA ((identified n c).modMlink fun m => { m with capacity := cap })) := by
  unfold bringUpDone
  dsimp only
  rw [show (identified n c).cfg.bridge = .start from h]
  exact if_pos hs

theorem bringUpDone_later (h : c.cfg.bridge = .start) (hs : c.cfg.step ≠ some .bringUp) (cap : Word) (n : Nat) :
    bringUpDone cap n c = if cap = c.mlink.capacity then nextStartStep (identified n c) else enterFault (identified n c) := by
  unfold bringUpDone
  dsimp only
  rw [show (identified n c).cfg.bridge = .start from h]
  exact if_neg hs

end

/-- The read of a copy issued in slot 0 (R121, R175). -/
theorem readCopy_up {c : Chip} (hup : c.mlink.link = .up) (x : Copy) :
    readCopy x c = toldMedia (.command 0 .read false (c.copyBlock x) 1)
      (setSlot 0 (some { configSlot .read (c.copyBlock x) false with phase := .issued 500 }) c) :=
  Laws.sendMedia_up (c := setSlot 0 (some { configSlot .read (c.copyBlock x) false with phase := .issued 500 }) c) hup _

/-! ### The statement -/

section
variable {s : State}

/-- An attempt that fails is followed by the next, or by FAULT (R134, R135). -/
theorem attemptFailed_goes_on :
    (s.chip.mlink.attempts + 1 < 3 → (attemptFailed s.chip).cfg.bridge = s.chip.cfg.bridge ∧
      (attemptFailed s.chip).mlink.attempts = s.chip.mlink.attempts + 1 ∧
      (attemptFailed s.chip).mlink.bringUp = .attempt (if s.chip.mlink.link = .up then .awaitReady else .awaitLinkUp) 200) ∧
    (3 ≤ s.chip.mlink.attempts + 1 → EntersFault s { s with chip := attemptFailed s.chip }) := by
  refine ⟨fun h => ?_, fun h => ?_⟩
  · rw [attemptFailed_again h, beginAttempt_mlink]
    exact ⟨beginAttempt_bridge (attempted s.chip), rfl, rfl⟩
  · rw [attemptFailed_last h]
    exact enterFault_enters s _

/-- A recovery ends in SERVICE, with what waited for it (R135). -/
theorem recovery_ends (m : MlinkCtl) :
    let e : Chip := { s.chip with mlink := m, cfg := { s.chip.cfg with bridge := .service } }
    (conclude id e).cfg.bridge = .service ∧ MlinkIs m (conclude id e) ∧
      WriterServed { s with chip := conclude id e } ∧ ∃ c, conclude id e = arbitrate c :=
  ⟨conclude_id_bridge _, (mlinkIs_ending m).conclude_id ⟨m.slots, rfl⟩, (writerServed_iff _).2 (Served.conclude id _),
    ⟨_, conclude_id_eq _⟩⟩

end

/-- Settles O52: an attempt is followed by the next one, by FAULT, by SERVICE or by the read of copy A. -/
theorem attemptSucceedsOrFails : Obligations.AttemptSucceedsOrFails := by
  unfold Obligations.AttemptSucceedsOrFails
  intro s hhigh
  refine ⟨fun cap n hnot => does_of_action hhigh nofun nofun (identifyTaken_of_not hnot cap n),
    fun hidle => does_of_action hhigh nofun nofun (attemptExpiry_idle hidle), ?_, fun cap n left hawaits hlow hle => ?_⟩
  · rintro i step left hattempt (rfl | ⟨rfl, cap, n, rfl, hbad⟩)
    · exact ⟨_, does_of_action hhigh nofun nofun (attemptExpiry_attempt hattempt), attemptFailed_goes_on⟩
    · refine ⟨_, does_of_action hhigh nofun nofun ((identifyTaken_awaits hattempt cap n).trans (if_neg ?_)), attemptFailed_goes_on⟩
      omega
  · have hdone : Does (.identifyReply cap n) s (bringUpDone cap n.toNat s.chip) :=
      does_of_action hhigh nofun nofun ((identifyTaken_awaits hawaits cap n).trans (if_pos ⟨hlow, hle⟩))
    refine ⟨_, hdone, fun hb hcap => ?_, fun hb hcap => ?_, fun hb hs hcap => ?_, fun hb hs hcap hup => ?_⟩
    · rw [bringUpDone_recover hb, if_pos hcap]
      obtain ⟨hbridge, ⟨x, hmlink⟩, hserved, harb⟩ := recovery_ends (s := s) { s.chip.mlink with
        bringUp := .idle, attempts := 0, slotCount := n.toNat, recoveries := min 255 (s.chip.mlink.recoveries + 1) }
      refine ⟨hbridge, ?_, ?_, ?_, ?_, hserved, harb⟩
      all_goals exact (congrArg _ hmlink).trans rfl
    · rw [bringUpDone_recover hb, if_neg hcap]
      exact enterFault_enters s _
    · rw [bringUpDone_first hb hs, if_pos hcap]
      exact enterFault_enters s _
    · rw [bringUpDone_first hb hs, if_neg (Nat.not_lt.2 hcap), readCopy_up (by exact hup)]
      exact ⟨rfl, rfl, rfl, rfl, ⟨_, Laws.Table.get_set_self .., rfl, rfl, rfl, rfl⟩, rfl⟩

end Sys2Proof.Faults
end

section
/-! SUPPORT. The load of a configuration: the hold table that it leaves, and the end of its event (R40, R46, R177). -/

namespace Sys2Proof.Loads

open Sys2Proof.Machine Sys2Proof.Safety Sys2Proof.Keeping Sys2Proof.DataPath Sys2Proof.SlotOps
  Sys2Proof.Grants Sys2Proof.Aftermath Sys2Proof.HoldProofs Sys2Proof.Resets Sys2Proof.Recovery

/-! ### The table loaded (R46) -/

/-- Whether a load keeps a POWER record, if there is room. -/
def kept (limit : Nat) (ids : List Nat) (h : Hold) : Bool :=
  !ids.contains h.id && decide (h.range.first + h.range.count ≤ limit)

theorem kept_iff {limit : Nat} {ids : List Nat} {h : Hold} :
    kept limit ids h = true ↔ h.id ∉ ids ∧ h.range.first + h.range.count ≤ limit := by
  simp [kept]

theorem keepPower_eq (limit : Nat) (ids : List Nat) (table : List Hold) (h : Hold) :
    keepPower limit ids table h = if kept limit ids h = true ∧ table.length < 48 then insertHold h table else table := by
  unfold keepPower kept
  simp only [Bool.and_eq_true, decide_eq_true_eq]
  rfl

/-- The records that a load adds to a table. -/
theorem foldl_keepPower_perm (limit : Nat) (ids : List Nat) (l table : List Hold) :
    (l.foldl (keepPower limit ids) table).Perm (table ++ (l.filter (kept limit ids)).take (48 - table.length)) := by
  induction l generalizing table with
  | nil => simp
  | cons h l ih =>
    rw [List.foldl_cons, keepPower_eq]
    by_cases hk : kept limit ids h = true
    · by_cases hroom : table.length < 48
      · rw [if_pos ⟨hk, hroom⟩, List.filter_cons_of_pos hk]
        have hlen : (insertHold h table).length = table.length + 1 := (insertHold_perm h table).length_eq
        obtain ⟨n, hn⟩ : ∃ n, 48 - table.length = n + 1 := ⟨47 - table.length, by omega⟩
        have hn' : 48 - (insertHold h table).length = n := by omega
        have hrest := ih (insertHold h table)
        rw [hn'] at hrest
        rw [hn, List.take_succ_cons]
        exact hrest.trans (((insertHold_perm h table).append_right _).trans List.perm_middle.symm)
      · have hfull : 48 - table.length = 0 := by omega
        have hrest := ih table
        rw [if_neg fun hb => hroom hb.2, hfull, List.take_zero]
        rwa [hfull, List.take_zero] at hrest
    · rw [if_neg fun hb => hk hb.1, List.filter_cons_of_neg hk]
      exact ih table

theorem mem_loadedTable {cap : Nat} {rec : ConfigRecord} {old : List Hold} {h : Hold} :
    h ∈ loadedTable (cap - 2) rec.holds old ↔ (∃ z ∈ rec.holds, h = loadedHold z) ∨ h ∈ keptPower cap rec old := by
  have hperm : (loadedTable (cap - 2) rec.holds old).Perm (storedTable rec.holds ++ keptPower cap rec old) := by
    have hfilter : (old.filter fun h => h.cls = .power).filter (kept (cap - 2) (rec.holds.map StoredHold.id)) =
        old.filter fun h => h.cls = .power ∧ h.range.first + h.range.count ≤ cap - 2 ∧ ∀ z ∈ rec.holds, z.id ≠ h.id := by
      rw [List.filter_filter]
      refine List.filter_congr fun x _ => Bool.eq_iff_iff.2 ?_
      simp only [Bool.and_eq_true, kept_iff, decide_eq_true_eq, List.mem_map, not_exists, not_and]
      constructor
      · rintro ⟨⟨hids, hrange⟩, hcls⟩
        exact ⟨hcls, hrange, hids⟩
      · rintro ⟨hcls, hrange, hids⟩
        exact ⟨⟨hids, hrange⟩, hcls⟩
    have hfold := foldl_keepPower_perm (cap - 2) (rec.holds.map StoredHold.id) (old.filter fun h => h.cls = .power)
      (storedTable rec.holds)
    rw [hfilter, length_storedTable] at hfold
    exact hfold
  rw [hperm.mem_iff, List.mem_append, mem_storedTable]
  rfl

theorem keptPower_spec {cap : Nat} {rec : ConfigRecord} {old : List Hold} {h : Hold} (hm : h ∈ keptPower cap rec old) :
    h ∈ old ∧ h.cls = .power ∧ ∀ z ∈ rec.holds, z.id ≠ h.id := by
  obtain ⟨hold, hd⟩ := List.mem_filter.1 (List.mem_of_mem_take hm)
  obtain ⟨hcls, -, hids⟩ := of_decide_eq_true hd
  exact ⟨hold, hcls, hids⟩

/-- A change of the states alone does not change which POWER records are kept. -/
theorem keptPower_map {f : Hold → Hold} (hf : ∀ h, ∃ x, f h = { h with state := x }) (cap : Nat) (rec : ConfigRecord)
    (old : List Hold) : keptPower cap rec (old.map f) = (keptPower cap rec old).map f := by
  unfold keptPower
  rw [List.filter_map, List.map_take]
  congr 2
  refine List.filter_congr fun h _ => ?_
  obtain ⟨x, hx⟩ := hf h
  simp only [Function.comp_apply, hx]

/-! ### The end of the waits, record by record -/

theorem mem_endWaits_of {c : Chip} {x : Hold} (hx : x ∈ c.hold.table)
    (hother : ∀ y ∈ c.hold.table, y.state = .pending [] → y.id ≠ x.id) : x ∈ (endWaits c).hold.table := by
  unfold endWaits
  refine each_keeps_mem (P := fun c => x ∈ c.hold.table) (f := endWait) (fun y hy d hd => ?_) hx
  obtain ⟨hm, hs⟩ := List.mem_filter.1 hy
  have hid : x.id ≠ y.id := fun he => hother y hm (of_decide_eq_true hs) he.symm
  change x ∈ (endWait y d).hold.table
  rw [Laws.endWait_table]
  exact List.mem_map.2 ⟨x, hd, if_neg hid⟩

theorem endedHold_cls (h : Hold) : (Laws.endedHold h).cls = h.cls := by
  unfold Laws.endedHold
  split <;> rfl

/-! ### The end of the event -/

theorem writerTake_empty {c : Chip} (h : c.cfg.queue = []) : writerTake c = c := by
  have hemptied : (c.modCfg fun u => { u with queue := [] }) = c := by
    unfold Chip.modCfg
    rw [← h]
  unfold writerTake
  rw [h]
  split
  · split
    · exact hemptied
    · rfl
  · rfl

/-- With no commit, no job and no FIXED hold to end, the ends of waits are all that follows. -/
theorem settle_calm {e : Chip} (hc : e.map.commit = .idle) (hq : e.cfg.queue = []) (hf : FixedActive e) :
    settle e = endWaits e := by
  have hqueue : (endWaits e).cfg.queue = [] := by rw [endWaits_cfg, newJobs_fixedActive hf, hq]; rfl
  rw [settle_eq, beforeWriter_idle fun info left h => by rw [hc] at h; cases h]
  exact writerTake_empty hqueue

theorem arbitrate_closed {c : Chip} (hw : c.cfg.writer = .idle) (hclosed : NoneOpen c) : arbitrate c = c := by
  refine Laws.arbitrate_eq_self ?_
  cases hd : grantDecision c with
  | none => rfl
  | some d =>
    exfalso
    obtain ⟨-, ⟨j, -, hj, -, -⟩ | ⟨-, p, -, -, -, -, -, he, -, -, -⟩⟩ := grantDecision_cases hd
    · rw [hw] at hj
      cases hj
    · obtain ⟨-, -, -, ⟨hopen, -⟩, -⟩ := Laws.eligible_iff.1 he
      exact hclosed p hopen

/-- Blocks of a START in which no session, no commit and no job waits for anything (R45, R170, R173). -/
structure Resting (c : Chip) : Prop where
  commit : c.map.commit = .idle
  queue : c.cfg.queue = []
  writer : c.cfg.writer = .idle
  fixed : FixedActive c
  closed : NoneOpen c

theorem Resting.endWaits_cfg {e : Chip} (h : Resting e) : (endWaits e).cfg = e.cfg := by
  rw [Aftermath.endWaits_cfg, newJobs_fixedActive h.fixed, List.append_nil]

theorem Resting.conclude_id {e : Chip} (h : Resting e) : conclude id e = eachPort closeIfIdle (endWaits e) := by
  rw [conclude_id_eq, settle_calm h.commit h.queue h.fixed]
  refine arbitrate_closed ?_ (eachPort_keeps (fun p _ hd => noneOpen_kept.closeIfIdle p hd) (noneOpen_kept.endWaits h.closed))
  rw [Laws.eachPort_proj (fun c => c.cfg) _ (by simp), h.endWaits_cfg]
  exact h.writer

/-- What the end of such an event leaves as it was. -/
theorem Resting.conclude_rest {e : Chip} (h : Resting e) : (conclude id e).cfg = e.cfg ∧ (conclude id e).map = e.map ∧
    (conclude id e).arb = e.arb ∧ (conclude id e).ctl = e.ctl ∧ (conclude id e).hold = (endWaits e).hold := by
  have hports {β : Type} (g : Chip → β) (hg : ∀ p c, g (closeIfIdle p c) = g c) : g (conclude id e) = g (endWaits e) := by
    rw [h.conclude_id]
    exact Laws.eachPort_proj g _ hg _
  exact ⟨(hports (fun c => c.cfg) (by simp)).trans h.endWaits_cfg,
    (hports (fun c => c.map) (by simp)).trans (Laws.endWaits_map e),
    (hports (fun c => c.arb) (by simp)).trans (Laws.endWaits_arb e),
    (hports (fun c => c.ctl) (by simp)).trans (Laws.endWaits_ctl e),
    hports (fun c => c.hold) (by simp)⟩

end Sys2Proof.Loads
end

section
/-! SUPPORT. A configuration is loaded, and START goes on (R40, R46, R87, R97, R175 to R177). -/

namespace Sys2Proof.Loads

open Sys2Proof.Machine Sys2Proof.Safety Sys2Proof.Keeping Sys2Proof.DataPath Sys2Proof.SlotOps
  Sys2Proof.Grants Sys2Proof.Aftermath Sys2Proof.HoldProofs Sys2Proof.Resets Sys2Proof.Recovery

/-! ### The blocks from which START goes on -/

/-- The hold table of `c` is that of `s`, but for the slots that PENDING holds wait for. -/
def SameButWaits (s : State) (c : Chip) : Prop :=
  ∃ f : Hold → Hold, (∀ h, ∃ x, f h = { h with state := x }) ∧ (∀ h, (∀ waits, h.state ≠ .pending waits) → f h = h) ∧
    c.hold.table = s.chip.hold.table.map f

/-- START goes on from `c` with the configuration unit `u`: a step of it has ended that began at `s` (R175). -/
structure OnFrom (s : State) (u : ConfigUnit) (c : Chip) : Prop where
  cfg : c.cfg = u
  capacity : c.mlink.capacity = s.chip.mlink.capacity
  link : c.mlink.link = s.chip.mlink.link
  sent : c.sent = s.chip.sent
  ctl : c.ctl = s.chip.ctl
  holds : SameButWaits s c
  commit : c.map.commit = .idle
  queue : u.queue = []
  writer : u.writer = .idle
  closed : NoneOpen c

/-! ### The load (R177) -/

/-- The blocks with a record loaded, before the end of the event. -/
def atLoad (x : Option Copy) (r : ConfigRecord) (c : Chip) : Chip :=
  restartLogTime (reloadCredits ((loadedInto x r c).modArb fun a => { a with pointer := .p0 }))

theorem load_eq (x : Option Copy) (r : ConfigRecord) (c : Chip) : load x r c = conclude id (atLoad x r c) := rfl

theorem foldl_max_eq {l : List Nat} {a n : Nat} (hle : ∀ y ∈ l, y ≤ n) (ha : a ≤ n) (h : a = n ∨ n ∈ l) :
    l.foldl max a = n := by
  induction l generalizing a with
  | nil => exact h.resolve_right List.not_mem_nil
  | cons y l ih =>
    have hy : y ≤ n := hle y List.mem_cons_self
    refine ih (fun z hz => hle z (List.mem_cons_of_mem y hz)) (max_le ha hy) ?_
    rcases h with rfl | h
    · exact .inl (max_eq_left hy)
    · rcases List.mem_cons.1 h with rfl | h
      · exact .inl (max_eq_right ha)
      · exact .inr h

section
variable {s : State} {u : ConfigUnit} {c : Chip} {x : Option Copy} {r : ConfigRecord}

theorem OnFrom.mem_atLoad (k : OnFrom s u c) {h : Hold} : h ∈ (atLoad x r c).hold.table ↔
    (∃ z ∈ r.holds, h = loadedHold z) ∨ h ∈ keptPower s.chip.mlink.capacity.toNat r c.hold.table := by
  rw [← mem_loadedTable]
  rw [← k.capacity]
  rfl

theorem OnFrom.fixed_atLoad (k : OnFrom s u c) {h : Hold} (hm : h ∈ (atLoad x r c).hold.table) (hcls : h.cls = .fixed) :
    ∃ z ∈ r.holds, h = loadedHold z := by
  rcases k.mem_atLoad.1 hm with hz | hk
  · exact hz
  · obtain ⟨-, hpower, -⟩ := keptPower_spec hk
    exact absurd (hcls.symm.trans hpower) nofun

theorem OnFrom.power_atLoad (k : OnFrom s u c) {h : Hold} (hm : h ∈ (atLoad x r c).hold.table) (hcls : h.cls ≠ .fixed) :
    h ∈ keptPower s.chip.mlink.capacity.toNat r c.hold.table := by
  rcases k.mem_atLoad.1 hm with ⟨z, -, rfl⟩ | hk
  · exact absurd rfl hcls
  · exact hk

theorem OnFrom.resting_atLoad (k : OnFrom s u c) : Resting (atLoad x r c) where
  commit := k.commit
  queue := (congrArg ConfigUnit.queue k.cfg).trans k.queue
  writer := (congrArg ConfigUnit.writer k.cfg).trans k.writer
  fixed h hm hcls := by
    obtain ⟨z, -, rfl⟩ := k.fixed_atLoad hm hcls
    exact ⟨none, rfl⟩
  closed := k.closed

/-- The table of a loaded record that may be loaded stands in strictly ascending id (R21). -/
theorem OnFrom.ascending_atLoad (k : OnFrom s u c) (hr : Loadable r) (hrange : HoldTableInRange s) :
    (atLoad x r c).hold.table.Pairwise fun a b => a.id < b.id := by
  obtain ⟨hlen, hids⟩ := loadable_holds hr
  obtain ⟨f, hf, -, htable⟩ := k.holds
  have hold : Ascending c.hold.table := by
    rw [htable]
    refine List.pairwise_map.2 (hrange.2.2.imp fun {a b} hab => ?_)
    obtain ⟨y, hy⟩ := hf a
    obtain ⟨z, hz⟩ := hf b
    rw [hy, hz]
    exact hab
  exact (loadedTable_fits hlen hids hold).2.2

/-- The FIXED holds after a load are those of its record (R46). -/
theorem OnFrom.fixed_loaded (k : OnFrom s u c) (h : Hold) :
    h ∈ (endWaits (atLoad x r c)).hold.table ∧ h.cls = .fixed ↔ ∃ z ∈ r.holds, h = loadedHold z := by
  constructor
  · rintro ⟨hm, hcls⟩
    rcases mem_endWaits hm with ⟨hm, -⟩ | ⟨z, hz, hs, rfl⟩
    · exact k.fixed_atLoad hm hcls
    · obtain ⟨y, -, rfl⟩ := k.fixed_atLoad hz ((endedHold_cls z).symm.trans hcls)
      cases hs
  · rintro ⟨z, hz, rfl⟩
    refine ⟨mem_endWaits_of (k.mem_atLoad.2 (.inl ⟨z, hz, rfl⟩)) fun y hy hs hid => ?_, rfl⟩
    rcases k.mem_atLoad.1 hy with ⟨w, -, rfl⟩ | hk
    · cases hs
    · obtain ⟨-, -, hids⟩ := keptPower_spec hk
      exact hids z hz hid.symm

theorem OnFrom.no_session (k : OnFrom s u c) (h : Hold) (hm : h ∈ (endWaits (atLoad x r c)).hold.table) :
    h.cls ≠ .session := by
  have hload {y : Hold} (hy : y ∈ (atLoad x r c).hold.table) : y.cls ≠ .session := by
    rcases k.mem_atLoad.1 hy with ⟨z, -, rfl⟩ | hk
    · exact HoldClass.noConfusion
    · obtain ⟨-, hpower, -⟩ := keptPower_spec hk
      rw [hpower]
      exact HoldClass.noConfusion
  rcases mem_endWaits hm with ⟨hm, -⟩ | ⟨z, hz, -, rfl⟩
  · exact hload hm
  · rw [endedHold_cls]
    exact hload hz

/-- The POWER holds after a load are those that are kept (R46). -/
theorem OnFrom.power_loaded (k : OnFrom s u c) (hr : Loadable r) (hrange : HoldTableInRange s) :
    (∀ h ∈ (endWaits (atLoad x r c)).hold.table, h.cls = .power →
        ∃ y ∈ keptPower s.chip.mlink.capacity.toNat r s.chip.hold.table, y.id = h.id) ∧
      ∀ y ∈ keptPower s.chip.mlink.capacity.toNat r s.chip.hold.table,
        (∃ h ∈ (endWaits (atLoad x r c)).hold.table, h.cls = .power ∧ h.id = y.id) ∧
          ((∀ waits, y.state ≠ .pending waits) → y ∈ (endWaits (atLoad x r c)).hold.table) := by
  have htable := endWaits_table (k.ascending_atLoad (x := x) hr hrange)
  obtain ⟨f, hf, hsame, hc⟩ := k.holds
  have hmap := keptPower_map hf s.chip.mlink.capacity.toNat r s.chip.hold.table
  rw [← hc] at hmap
  have hid (y : Hold) : (f y).id = y.id ∧ (f y).cls = y.cls := by
    obtain ⟨z, hz⟩ := hf y
    rw [hz]
    exact ⟨rfl, rfl⟩
  rw [htable]
  refine ⟨fun h hm hcls => ?_, fun y hy => ?_⟩
  · obtain ⟨z, hz, rfl⟩ := List.mem_map.1 hm
    have hz' : z.cls = .power := by
      rw [← hcls]
      split
      · rw [endedHold_cls]
      · rfl
    have hk := k.power_atLoad hz (by rw [hz']; exact HoldClass.noConfusion)
    rw [hmap] at hk
    obtain ⟨y, hy, rfl⟩ := List.mem_map.1 hk
    refine ⟨y, hy, ?_⟩
    rw [← (hid y).1]
    split
    · rw [Laws.endedHold_id]
    · rfl
  · have hm : f y ∈ (atLoad x r c).hold.table := k.mem_atLoad.2 (.inr (by rw [hmap]; exact List.mem_map_of_mem hy))
    obtain ⟨-, hpower, -⟩ := keptPower_spec hy
    refine ⟨⟨_, List.mem_map_of_mem hm, ?_, ?_⟩, fun hnot => List.mem_map.2 ⟨f y, hm, ?_⟩⟩
    · split
      · rw [endedHold_cls, (hid y).2, hpower]
      · rw [(hid y).2, hpower]
    · split
      · rw [Laws.endedHold_id, (hid y).1]
      · exact (hid y).1
    · rw [hsame y hnot, if_neg (hnot [])]

theorem endWaits_nextId (e : Chip) : (endWaits e).hold.nextId = e.hold.nextId :=
  Laws.each_proj (fun c => c.hold.nextId) endWait endWait_nextId _ e

/-- A configuration has been loaded (R177). -/
theorem OnFrom.loaded (k : OnFrom s u c) (x : Option Copy) (hr : Loadable r) :
    Loaded s { s with chip := load x r c } u x r := by
  obtain ⟨hcfg, hmap, harb, hctl, hhold⟩ := (k.resting_atLoad (x := x) (r := r)).conclude_rest
  have hnext : (load x r c).hold.nextId = idAfter ((r.holds.map StoredHold.id).foldl max 0) := by
    rw [load_eq, hhold, endWaits_nextId]
    rfl
  rw [load_eq] at hnext ⊢
  refine ⟨?_, ?_, ?_, ?_, fun p => ?_, ?_, ?_, ?_, fun hnone => ?_, fun z hz hmax => ?_, ?_⟩
  · rw [hcfg, ← k.cfg]
    rfl
  · rw [hmap]
    rfl
  · rw [hmap]
    rfl
  · rw [harb]
    rfl
  · rw [harb]
    cases p <;> rfl
  · rw [hhold]
    exact k.fixed_loaded
  · rw [hhold]
    exact k.no_session
  · rw [hhold]
    exact k.power_loaded hr
  · rw [hnext, hnone]
    rfl
  · have hfold : (r.holds.map StoredHold.id).foldl max 0 = z.id := by
      refine foldl_max_eq (fun y hy => ?_) (Nat.zero_le _) (.inr (List.mem_map_of_mem hz))
      obtain ⟨w, hw, rfl⟩ := List.mem_map.1 hy
      exact hmax w hw
    rw [hnext, hfold, idAfter_eq]
  · rw [hctl, ← k.ctl]
    rfl

/-! ### The selection (R176) -/

theorem validRecord_of {c : Chip} {cap : Nat} {y : Copy} {rec : ConfigRecord} (hcap : c.mlink.capacity.toNat = cap)
    (h : ValidCopy cap c.cfg y rec) : c.validRecord y = some rec := by
  obtain ⟨hmark, b, harea, hread⟩ := h
  unfold Chip.validRecord
  rw [if_pos hmark, harea, hcap]
  exact hread

theorem validRecord_none {c : Chip} {y : Copy} (h : c.cfg.mark y ≠ .valid) : c.validRecord y = none := if_neg h

/-- The copy that START selects is loaded (R176). -/
theorem selectCopy_of {cap : Nat} (hcap : c.mlink.capacity.toNat = cap) {x : Option Copy} (h : Selected cap c.cfg x r) :
    selectCopy c = load x r c ∧ Loadable r := by
  have hread {y : Copy} (hv : ValidCopy cap c.cfg y r) : Loadable r := by
    obtain ⟨-, b, -, hb⟩ := hv
    exact .inr ⟨_, b, hb⟩
  unfold selectCopy
  rcases h with ⟨rfl, hv, hb | ⟨b, hb, hle⟩⟩ | ⟨rfl, hv, ha | ⟨a, ha, hlt⟩⟩ | ⟨rfl, rfl, ha, hb⟩
  · rw [validRecord_of hcap hv, validRecord_none hb]
    exact ⟨rfl, hread hv⟩
  · rw [validRecord_of hcap hv, validRecord_of hcap hb]
    exact ⟨if_neg (Nat.not_lt.2 hle), hread hv⟩
  · rw [validRecord_of hcap hv, validRecord_none ha]
    exact ⟨rfl, hread hv⟩
  · rw [validRecord_of hcap ha, validRecord_of hcap hv]
    exact ⟨if_pos hlt, hread hv⟩
  · rw [validRecord_none ha, validRecord_none hb]
    exact ⟨rfl, .inl rfl⟩

/-! ### The next step (R175) -/

/-- START goes on: the read of copy B, or the load. -/
theorem OnFrom.goesOn (k : OnFrom s u c) : GoesOn s { s with chip := nextStartStep c } u := by
  refine ⟨fun hstep hup hcap => ?_, fun hstep x rec hselected => ?_⟩
  · have hnext : nextStartStep c = readCopy .b (setStep .readB c) := by
      unfold nextStartStep
      rw [k.cfg, hstep]
    have hblock : (setStep .readB c).copyBlock .b = s.chip.mlink.capacity.toNat - 1 := by
      change c.mlink.capacity.toNat - 2 + 1 = _
      rw [k.capacity]
      omega
    rw [hnext, Faults.readCopy_up (c := setStep .readB c) (k.link.trans hup), hblock]
    refine ⟨?_, ⟨_, Laws.Table.get_set_self .., rfl, rfl, rfl, rfl⟩, ?_⟩
    · rw [← k.cfg]
      rfl
    · rw [← k.sent]
      rfl
  · have hnext : nextStartStep c = selectCopy c := by
      unfold nextStartStep
      rw [k.cfg, hstep]
    rw [← k.cfg] at hselected
    obtain ⟨hload, hr⟩ := selectCopy_of (congrArg BitVec.toNat k.capacity) hselected
    rw [hnext, hload]
    exact k.loaded x hr

end

end Sys2Proof.Loads
end

section
/-! SUPPORT. The reads of the copies in START: how each ends, and the bring-up that runs again (R126, R161, R174, R175). -/

namespace Sys2Proof.Loads

open Sys2Proof.Machine Sys2Proof.Safety Sys2Proof.Keeping Sys2Proof.Commands Sys2Proof.DataPath Sys2Proof.SlotOps
  Sys2Proof.Grants Sys2Proof.Aftermath Sys2Proof.HoldProofs Sys2Proof.Resets Sys2Proof.Recovery

/-! ### The blocks from which START goes on -/

section
variable {s : State} {u : ConfigUnit} {c : Chip}

theorem setMark_eq (x : Copy) (m : Mark) (c : Chip) : setMark x m c = { c with cfg := marked x m c.cfg } := by
  cases x <;> rfl

theorem OnFrom.marked (k : OnFrom s u c) (x : Copy) (m : Mark) : OnFrom s (marked x m u) (setMark x m c) := by
  have hcfg : (setMark x m c).cfg = Safety.marked x m u := by
    rw [setMark_eq, ← k.cfg]
  rw [setMark_eq] at hcfg ⊢
  exact ⟨hcfg, k.capacity, k.link, k.sent, k.ctl, k.holds, k.commit, by cases x <;> exact k.queue,
    by cases x <;> exact k.writer, k.closed⟩

/-- Changes of the M-link controller that leave the link and the capacity. -/
theorem OnFrom.onMlink (k : OnFrom s u c) {m : MlinkCtl} (hcap : m.capacity = c.mlink.capacity) (hlink : m.link = c.mlink.link) :
    OnFrom s u { c with mlink := m } :=
  ⟨k.cfg, hcap.trans k.capacity, hlink.trans k.link, k.sent, k.ctl, k.holds, k.commit, k.queue, k.writer, k.closed⟩

theorem quietStart_onFrom (h : QuietStart s) : OnFrom s s.chip.cfg s.chip := by
  obtain ⟨-, -, hcommit, hqueue, hwriter, -, hclosed⟩ := h
  exact ⟨rfl, rfl, rfl, rfl, rfl, ⟨id, fun h => ⟨h.state, rfl⟩, fun _ _ => rfl, (List.map_id _).symm⟩, hcommit, hqueue, hwriter,
    hclosed⟩

theorem quietStart_resting (h : QuietStart s) : Resting s.chip := by
  obtain ⟨-, -, hcommit, hqueue, hwriter, hfixed, hclosed⟩ := h
  exact ⟨hcommit, hqueue, hwriter, hfixed, hclosed⟩

end

/-! ### The bring-up that runs again (R174, R175) -/

section
variable {c : Chip}

theorem Resting.of_rest {d : Chip} (h : Resting c) (hcommit : d.map.commit = c.map.commit) (hqueue : d.cfg.queue = c.cfg.queue)
    (hwriter : d.cfg.writer = c.cfg.writer) (hholds : Descends c d) (hclosed : NoneOpen d) : Resting d :=
  ⟨hcommit.trans h.commit, hqueue.trans h.queue, hwriter.trans h.writer, h.fixed.descends hholds, hclosed⟩

theorem Resting.freeAllSlots (h : Resting c) : Resting (freeAllSlots c) := by
  obtain ⟨u, hmap⟩ := freeAllSlots_map c
  have hcfg := freeAllSlots_cfg c
  refine h.of_rest (by rw [hmap]) (by rw [hcfg]) (by rw [hcfg]) ?_ (noneOpen_kept.freeAllSlots h.closed)
  unfold Machine.freeAllSlots
  exact Descends.each Descends.freeSlot allSlots c

/-- In such a START an attempt begins and the configuration unit stays. -/
theorem Resting.beginAttempt_cfg (h : Resting c) (hb : c.cfg.bridge = .start) : (beginAttempt c).cfg = c.cfg := by
  cases hl : c.mlink.link with
  | down => rw [beginAttempt_down hl]; rfl
  | up =>
    have hsent : sendMedia .linkReset (setBringUp (.attempt .awaitReady Config.attemptLimit) c) = _ :=
      Laws.sendMedia_up (c := setBringUp (.attempt .awaitReady Config.attemptLimit) c) hl .linkReset
    have hrest : Resting (sendMedia .linkReset (setBringUp (.attempt .awaitReady Config.attemptLimit) c)) := by
      rw [hsent]
      exact h.of_rest rfl rfl rfl (Descends.of_same rfl) h.closed
    obtain ⟨hcfg, -⟩ := hrest.freeAllSlots.conclude_rest
    rw [beginAttempt_up hl, sendLinkReset_start (c := setBringUp (.attempt .awaitReady Config.attemptLimit) c) hb, hcfg,
      freeAllSlots_cfg, Laws.sendMedia_cfg]
    rfl

/-- A step that reads copy `x` (R175). -/
abbrev readStep (x : Copy) : StartStep :=
  match x with
  | .a => .readA
  | .b => .readB

theorem copy_readStep (x : Copy) : (some (readStep x)).bind StartStep.copy? = some x := by cases x <;> rfl

theorem readEnded_eq {u : ConfigUnit} {x : Copy} (hs : u.step = some (readStep x)) :
    readEnded u = if u.mark x = .unread then marked x .invalid u else u := by
  cases u
  cases hs
  cases x <;> rfl

theorem readLost_eq {x : Copy} (hs : c.cfg.step = some (readStep x)) : readLost c = { c with cfg := readEnded c.cfg } := by
  unfold readLost
  rw [readEnded_eq hs, hs, copy_readStep]
  dsimp only
  split
  · rw [setMark_eq]
  · rfl

theorem readEnded_rest (u : ConfigUnit) : (readEnded u).queue = u.queue ∧ (readEnded u).writer = u.writer ∧
    (readEnded u).bridge = u.bridge := by
  unfold readEnded
  split
  · split <;> exact ⟨rfl, rfl, rfl⟩
  · split <;> exact ⟨rfl, rfl, rfl⟩
  all_goals exact ⟨rfl, rfl, rfl⟩

end

/-! ### The ends of a read -/

section
variable {s : State} {i : SlotNo} {r : SlotRec} {x : Copy}

theorem takes_of_start (h : s.chip.cfg.bridge = .start) : s.chip.takesCommandFrames = true := by
  simp [Chip.takesCommandFrames, h]

section
variable (hquiet : QuietStart s) (hr : s.chip.slot i = some r) (hh : r.holder = .configuration)
include hquiet hr hh

theorem freed_onFrom : OnFrom s s.chip.cfg (freeSlot i s.chip) := by
  obtain ⟨-, -, hcommit, hqueue, hwriter, -, hclosed⟩ := hquiet
  have htable := freeSlot_table i s.chip
  rw [if_neg (by rw [hr]; exact Option.some_ne_none r)] at htable
  have hstate (h : Hold) : ∃ x, noLonger i h = { h with state := x } := by
    unfold noLonger
    split
    · exact ⟨_, rfl⟩
    all_goals exact ⟨h.state, rfl⟩
  have hfreed := freeSlot_of_configuration hr hh
  refine ⟨Laws.freeSlot_cfg i s.chip, ?_, ?_, ?_, ?_, ⟨noLonger i, hstate, fun h hn => noLonger_other hn, htable⟩, ?_, hqueue,
    hwriter, noneOpen_kept.freedSlot i hclosed⟩
  all_goals rw [hfreed]
  · rfl
  · rfl
  · rfl
  · rfl
  · exact hcommit

theorem complete_read {left : Nat} (hidle : s.chip.mlink.bringUp = .idle) (hop : r.op = .read) (hp : r.phase = .issued left)
    (hs : s.chip.cfg.step = some (readStep x)) (status : MediaStatus) :
    exec (.complete i status) s = .next { s with
      chip := nextStartStep (if status = .ok ∧ r.allReceived then judgeCopy x (freeSlot i s.chip)
        else setMark x .invalid (freeSlot i s.chip)) } := by
  have htakes := takes_of_start hquiet.2.1
  have hcfg : (freeSlot i s.chip).cfg = s.chip.cfg := Laws.freeSlot_cfg i s.chip
  have hmlink : (freeSlot i s.chip).mlink.bringUp = .idle := by
    rw [freeSlot_of_configuration hr hh]
    exact hidle
  refine complete_does hquiet.1 ?_
  unfold completeTaken
  simp only [htakes, hr, hp, commandComplete, hh, if_true]
  unfold configComplete
  simp only [hop, hmlink, hcfg, hs, copy_readStep, reduceCtorEq, if_false, if_true]

theorem judgeCopy_freed {b : Block} (harea : s.chip.cfg.area x = some b) : judgeCopy x (freeSlot i s.chip) =
    setMark x (if (readRecord s.chip.mlink.capacity.toNat b).isSome then .valid else .invalid) (freeSlot i s.chip) := by
  have k := freed_onFrom hquiet hr hh
  unfold judgeCopy
  rw [k.cfg, k.capacity, harea]
  rfl

omit hquiet in
theorem timedOut_read {left : Nat} (hop : r.op = .read) (hp : r.phase = .issued left) (hs : s.chip.cfg.step = some (readStep x))
    (hup : s.chip.mlink.link = .up) :
    responseExpiry i s.chip = { timedOut i r s.chip with cfg := readEnded s.chip.cfg } := by
  have hread : readLost (timedOut i r s.chip) = _ := readLost_eq (c := timedOut i r s.chip) (x := x) hs
  unfold responseExpiry
  simp only [hr, hp, hh, hop, reduceCtorEq, if_false, abandonSlot_timedOut hr hup]
  exact hread

omit hquiet in
theorem endTimeout_read (hidle : s.chip.mlink.bringUp = .idle) (hop : r.op = .read) :
    endTimeout i r s.chip = nextStartStep (freeSlot i s.chip) := by
  have hmlink : (freeSlot i s.chip).mlink.bringUp = .idle := by
    rw [freeSlot_of_configuration hr hh]
    exact hidle
  unfold endTimeout
  simp only [hh, hop, hmlink, reduceCtorEq, if_false, if_true]

theorem abandonExpiry_read {cause : AbandonCause} {left : Nat} (hidle : s.chip.mlink.bringUp = .idle)
    (hp : r.phase = .abandoning cause left) : abandonExpiry i s.chip = bringUpAgain s.chip := by
  unfold abandonExpiry
  simp [hr, hp, hh, hidle, hquiet.2.1]

end

/-- A bring-up that runs again in START (R175). -/
theorem bringUpAgain_begins (hquiet : QuietStart s) (hs : s.chip.cfg.step = some (readStep x)) :
    (bringUpAgain s.chip).cfg = readEnded s.chip.cfg ∧ (bringUpAgain s.chip).mlink.attempts = 0 ∧
      (bringUpAgain s.chip).mlink.bringUp = .attempt (if s.chip.mlink.link = .up then .awaitReady else .awaitLinkUp) 200 ∧
      (s.chip.mlink.link = .up → ∀ n, (bringUpAgain s.chip).slot n = none) := by
  have hlost := readLost_eq (c := s.chip) (x := x) hs
  obtain ⟨hqueue, hwriter, hbridge⟩ := readEnded_rest s.chip.cfg
  have hstart : (readEnded s.chip.cfg).bridge = .start := hbridge.trans hquiet.2.1
  unfold bringUpAgain beginBringUp
  rw [hlost]
  generalize hd : ({ s.chip with cfg := readEnded s.chip.cfg } : Chip).modMlink (fun m => { m with attempts := 0 }) = d
  have hcfg : d.cfg = readEnded s.chip.cfg := by rw [← hd]; rfl
  have hmlink : d.mlink = { s.chip.mlink with attempts := 0 } := by rw [← hd]; rfl
  have hrest : Resting d := (quietStart_resting hquiet).of_rest (by rw [← hd]; rfl) (by rw [hcfg, hqueue])
    (by rw [hcfg, hwriter]) (Descends.of_same (by rw [← hd]; rfl)) (by rw [← hd]; exact (quietStart_resting hquiet).closed)
  refine ⟨(hrest.beginAttempt_cfg (by rw [hcfg]; exact hstart)).trans hcfg, ?_, ?_, fun hup n => ?_⟩
  · rw [Faults.beginAttempt_mlink, hmlink]
  · rw [Faults.beginAttempt_mlink, hmlink]
  · have hlink : d.mlink.link = .up := by rw [hmlink]; exact hup
    rw [beginAttempt_up hlink]
    exact (sendLinkReset_mlink (c := setBringUp (.attempt .awaitReady Config.attemptLimit) d) (by
      change d.cfg.bridge = _
      rw [hcfg]
      exact hstart)).2 n

/-- Link-down runs a new bring-up, which waits for the link (R132, R175). -/
theorem mlinkDown_read (hquiet : QuietStart s) (hidle : s.chip.mlink.bringUp = .idle) (hs : s.chip.cfg.step = some (readStep x)) :
    mlinkDown s.chip = { s.chip with
      mlink := { s.chip.mlink with link := .down, attempts := 0, bringUp := .attempt .awaitLinkUp 200 }
      cfg := readEnded s.chip.cfg } := by
  have hlost := readLost_eq (c := setMlink .down s.chip) (x := x) hs
  unfold mlinkDown
  dsimp only
  rw [show (setMlink .down s.chip).cfg.bridge = .start from hquiet.2.1,
    show (setMlink .down s.chip).mlink.bringUp = .idle from hidle]
  change bringUpAgain (setMlink .down s.chip) = _
  unfold bringUpAgain beginBringUp
  rw [hlost, beginAttempt_down rfl]
  rfl

end

/-- Settles O53: each end of a read frees its slot and marks its copy, and START goes on from there or begins a bring-up. -/
theorem startReadsTheCopiesAndLoads : Obligations.StartReadsTheCopiesAndLoads := by
  unfold Obligations.StartReadsTheCopiesAndLoads
  intro s i r x hquiet hs
  have hhigh := hquiet.1
  refine ⟨fun hidle hr hh hop => ⟨fun left hp => ⟨fun b rec hrange hlen harea => ?_, fun b status hrange hbad => ?_,
      fun hup => does_of_action hhigh nofun nofun (timedOut_read (x := x) hr hh hop hp hs hup)⟩,
    fun left k hp hk => ?_, fun cause left hp => ?_⟩,
    fun hidle => does_of_action hhigh nofun nofun (mlinkDown_read (x := x) hquiet hidle hs), fun cap n left hawaits hlow hle => ?_⟩
  · have hall : r.allReceived = true := (allReceived_iff hrange).2 hlen
    have hexec := complete_read hquiet hr hh hidle hop hp hs .ok
    rw [if_pos ⟨rfl, hall⟩, judgeCopy_freed hquiet hr hh harea] at hexec
    refine ⟨_, hexec, fun ⟨y, hy⟩ => ?_, fun hnone => ?_⟩
    · rw [hy]
      exact ((freed_onFrom hquiet hr hh).marked x .valid).goesOn
    · rw [hnone]
      exact ((freed_onFrom hquiet hr hh).marked x .invalid).goesOn
  · have hexec := complete_read hquiet hr hh hidle hop hp hs status
    rw [if_neg fun hgood => hbad.elim (fun hn => hn hgood.1) fun hn => hn ((allReceived_iff hrange).1 hgood.2)] at hexec
    exact ⟨_, hexec, ((freed_onFrom hquiet hr hh).marked x .invalid).goesOn⟩
  · have hexec := abandonEnds_configuration hr hh hp (takes_of_start hquiet.2.1) hhigh hk
    rw [endTimeout_read hr hh hidle hop] at hexec
    exact ⟨_, hexec, (freed_onFrom hquiet hr hh).goesOn⟩
  · exact ⟨_, does_of_action hhigh nofun nofun (abandonExpiry_read hquiet hr hh hidle hp), bringUpAgain_begins (x := x) hquiet hs⟩
  · have hstep : s.chip.cfg.step ≠ some .bringUp := by
      rw [hs]
      cases x <;> exact fun h => by cases h
    have hdone : Does (.identifyReply cap n) s (bringUpDone cap n.toNat s.chip) :=
      does_of_action hhigh nofun nofun ((Faults.identifyTaken_awaits hawaits cap n).trans (if_pos ⟨hlow, hle⟩))
    rw [Faults.bringUpDone_later hquiet.2.1 hstep] at hdone
    refine ⟨_, hdone, fun hcap => ?_, fun hcap => ?_⟩
    · rw [if_pos hcap]
      exact ((quietStart_onFrom hquiet).onMlink (m := { s.chip.mlink with bringUp := .idle, attempts := 0, slotCount := n.toNat })
        rfl rfl).goesOn
    · rw [if_neg hcap]
      exact Faults.enterFault_enters s _

end Sys2Proof.Loads
end

section
/-! SUPPORT. The records of a session that ends, one after the other: what becomes of each, and the slots that come back (R53,
R54, R107, R119). -/

namespace Sys2Proof.SessionEnds

open Sys2Proof.Machine Sys2Proof.Safety Sys2Proof.Keeping Sys2Proof.DataPath Sys2Proof.SlotOps
  Sys2Proof.Grants Sys2Proof.Aftermath Sys2Proof.HoldProofs Sys2Proof.Resets

/-- The request of a record is on the media in slot `n`. -/
def OnMedia (d : DataRec) (n : SlotNo) : Prop := d.stage = .issued n ∨ ∃ a, d.stage = .abandoning n a

/-! ### One record (R53, R54) -/

theorem endRecord_none {p : Port} {t : Tag} {c : Chip} (h : c.record p t = none) : endRecord p t c = c := by
  unfold endRecord
  rw [h]

theorem endRecord_handed {p : Port} {t : Tag} {c : Chip} {k : ReqKind} {l : List Word} {v : Option Privilege}
    (h : c.record p t = some (.handed k l v)) : endRecord p t c = freeTag p t c := by
  unfold endRecord
  rw [h]

section
variable {p : Port} {t : Tag} {c : Chip} {d : DataRec} (h : c.record p t = some (.data d))
include h

theorem endRecord_admitted (hs : d.stage = .admitted) : endRecord p t c = freeTag p t (dequeue p t c) := by
  unfold endRecord
  rw [h]
  dsimp only
  rw [hs]

theorem endRecord_granted {i : SlotNo} {got : List Nat} {timer : Nat} (hs : d.stage = .granted i got timer) :
    endRecord p t c = freeTag p t (freeSlot i c) := by
  unfold endRecord
  rw [h]
  dsimp only
  rw [hs]

theorem endRecord_onMedia {i : SlotNo} (hs : OnMedia d i) : endRecord p t c = disown i c := by
  unfold endRecord
  rw [h]
  dsimp only
  rcases hs with hs | ⟨a, hs⟩ <;> rw [hs]

theorem endRecord_delivering {pages : List PageNo} (hs : d.stage = .delivering pages) :
    endRecord p t c = freeTag p t (returnPages pages (stopDelivery p t pages c)) := by
  unfold endRecord
  rw [h]
  dsimp only
  rw [hs]

end

theorem dataRecord_iff {c : Chip} {p : Port} {t : Tag} {d : DataRec} :
    c.dataRecord p t = some d ↔ c.record p t = some (.data d) := by
  unfold Chip.dataRecord
  split
  · rename_i e he
    rw [he]
    simp
  · rename_i he
    rw [he]
    simp
  · rename_i he
    rw [he]
    simp

theorem holdsSlot_of {d : DataRec} {i : SlotNo} (h : Record.holdsSlot i (some (.data d)) = true) :
    (∃ got timer, d.stage = .granted i got timer) ∨ OnMedia d i := by
  have hslot : d.stage.slot? = some i := of_decide_eq_true h
  unfold Stage.slot? at hslot
  split at hslot
  · rename_i hs
    obtain rfl := Option.some.inj hslot
    exact .inl ⟨_, _, hs⟩
  · rename_i hs
    obtain rfl := Option.some.inj hslot
    exact .inr (.inl hs)
  · rename_i hs
    obtain rfl := Option.some.inj hslot
    exact .inr (.inr ⟨_, hs⟩)
  all_goals cases hslot

/-! ### The slots that come back (R107) -/

/-- The slots of the writes of port `p` that wait for data, under the tags of a list. -/
def grantedBy (b : Chip) (p : Port) (l : List Tag) : List SlotNo :=
  allSlots.filter fun i => l.any fun u =>
    match (b.dataRecord p u).map DataRec.stage with
    | some (.granted n _ _) => n = i
    | _ => false

theorem grantedSlots_eq (b : Chip) (p : Port) : grantedSlots b p = grantedBy b p allTags := rfl

section
variable {b : Chip} {p : Port} {l : List Tag} {t : Tag} {i n : SlotNo}

theorem mem_grantedBy : n ∈ grantedBy b p l ↔
    ∃ u ∈ l, ∃ d got timer, b.dataRecord p u = some d ∧ d.stage = .granted n got timer := by
  unfold grantedBy
  rw [List.mem_filter, List.any_eq_true]
  constructor
  · rintro ⟨-, u, hu, h⟩
    refine ⟨u, hu, ?_⟩
    split at h
    · rename_i got timer hs
      obtain ⟨d, hd, hstage⟩ := Option.map_eq_some_iff.1 hs
      obtain rfl := of_decide_eq_true h
      exact ⟨d, got, timer, hd, hstage⟩
    · cases h
  · rintro ⟨u, hu, d, got, timer, hd, hs⟩
    refine ⟨mem_allSlots n, u, hu, ?_⟩
    rw [hd, Option.map_some, hs]
    exact decide_eq_true rfl

theorem grantedBy_mono {l' : List Tag} (h : l ⊆ l') (hn : n ∈ grantedBy b p l) : n ∈ grantedBy b p l' := by
  obtain ⟨u, hu, hd⟩ := mem_grantedBy.1 hn
  exact mem_grantedBy.2 ⟨u, h hu, hd⟩

theorem mem_grantedBy_snoc {d : DataRec} {got : List Nat} {timer : Nat} (hd : b.dataRecord p t = some d)
    (hs : d.stage = .granted i got timer) : n ∈ grantedBy b p (l ++ [t]) ↔ n = i ∨ n ∈ grantedBy b p l := by
  constructor
  · intro hn
    obtain ⟨u, hu, e, got', timer', he, hs'⟩ := mem_grantedBy.1 hn
    rcases List.mem_append.1 hu with hu | hu
    · exact .inr (mem_grantedBy.2 ⟨u, hu, e, got', timer', he, hs'⟩)
    · obtain rfl := List.mem_singleton.1 hu
      obtain rfl := Option.some.inj (hd.symm.trans he)
      obtain ⟨rfl, -⟩ := Stage.granted.inj (hs.symm.trans hs')
      exact .inl rfl
  · rintro (rfl | hn)
    · exact mem_grantedBy.2 ⟨t, by simp, d, got, timer, hd, hs⟩
    · exact grantedBy_mono (List.subset_append_left l [t]) hn

theorem mem_grantedBy_other (h : ∀ d got timer i, b.dataRecord p t = some d → d.stage ≠ .granted i got timer) :
    n ∈ grantedBy b p (l ++ [t]) ↔ n ∈ grantedBy b p l := by
  refine ⟨fun hn => ?_, grantedBy_mono (List.subset_append_left l [t])⟩
  obtain ⟨u, hu, e, got', timer', he, hs'⟩ := mem_grantedBy.1 hn
  rcases List.mem_append.1 hu with hu | hu
  · exact mem_grantedBy.2 ⟨u, hu, e, got', timer', he, hs'⟩
  · obtain rfl := List.mem_singleton.1 hu
    exact absurd hs' (h e got' timer' n he)

end

/-- A slot record without its owner. -/
def ownerless (r : SlotRec) : SlotRec := { r with owner := none }

/-- The slots of the writes under `l` are FREE in `c`; every other one is as in `b`, but for its owner. -/
def SlotsBack (b : Chip) (p : Port) (l : List Tag) (c : Chip) : Prop :=
  ∀ n, (n ∈ grantedBy b p l → c.slot n = none) ∧ (n ∉ grantedBy b p l → (c.slot n).map ownerless = (b.slot n).map ownerless)

/-! ### The records, after some of them (R53, R54) -/

/-- The blocks `c` when the records under the tags of `l` have ended, from `b`: those are gone, but for requests on the media;
another one is as it was, or it went with a slot that it shared. -/
structure Unwound (b : Chip) (p : Port) (l : List Tag) (c : Chip) : Prop where
  closed : (c.ports.get p).session ≠ .opened
  rest : ∀ u ∉ l, c.record p u = b.record p u ∨
    (c.record p u = none ∧ ∃ i ∈ grantedBy b p l, Record.holdsSlot i (b.record p u) = true)
  ended : ∀ u ∈ l, ∀ x, c.record p u = some x → ∃ d n, x = .data d ∧ OnMedia d n
  slots : SlotsBack b p l c

/-- What the end of the record under `t` is, by the record that it was in `b`. -/
inductive RecordStep (b : Chip) (p : Port) (t : Tag) (c : Chip) : Chip → Prop
  | gone : b.record p t = none → c.record p t = none → RecordStep b p t c c
  | handed {k l v} : b.record p t = some (.handed k l v) → RecordStep b p t c (freeTag p t c)
  | admitted {d} : b.record p t = some (.data d) → d.stage = .admitted → c.record p t = some (.data d) →
    RecordStep b p t c (freeTag p t (dequeue p t c))
  | granted {d i got timer e} : b.record p t = some (.data d) → d.stage = .granted i got timer →
    e = freeTag p t (freeSlot i c) ∨ (e = freeSlot i c ∧ c.record p t = none) → RecordStep b p t c e
  | onMedia {d i e} : b.record p t = some (.data d) → OnMedia d i →
    e = disown i c ∨ (e = c ∧ c.slot i = none ∧ c.record p t = none) → RecordStep b p t c e
  | delivering {d pages} : b.record p t = some (.data d) → d.stage = .delivering pages →
    RecordStep b p t c (freeTag p t (returnPages pages (stopDelivery p t pages c)))

section
variable {b c e : Chip} {p : Port} {l : List Tag} {t : Tag}

theorem Unwound.step (k : Unwound b p l c) (ht : t ∉ l) : RecordStep b p t c (endRecord p t c) := by
  rcases k.rest t ht with hsame | ⟨hnone, i, hi, hholds⟩
  · cases hb : b.record p t with
    | none =>
      have hc := hsame.trans hb
      rw [endRecord_none hc]
      exact .gone hb hc
    | some x =>
      have hc := hsame.trans hb
      cases x with
      | handed k l v =>
        rw [endRecord_handed hc]
        exact .handed hb
      | data d =>
        cases hs : d.stage with
        | admitted =>
          rw [endRecord_admitted hc hs]
          exact .admitted hb hs hc
        | granted i got timer =>
          rw [endRecord_granted hc hs]
          exact .granted hb hs (.inl rfl)
        | issued i =>
          rw [endRecord_onMedia hc (.inl hs)]
          exact .onMedia hb (.inl hs) (.inl rfl)
        | abandoning i a =>
          rw [endRecord_onMedia hc (.inr ⟨a, hs⟩)]
          exact .onMedia hb (.inr ⟨a, hs⟩) (.inl rfl)
        | delivering pages =>
          rw [endRecord_delivering hc hs]
          exact .delivering hb hs
  · rw [endRecord_none hnone]
    have hfree := (k.slots i).1 hi
    cases hb : b.record p t with
    | none => rw [hb] at hholds; cases hholds
    | some x =>
      rw [hb] at hholds
      cases x with
      | handed k l v => cases hholds
      | data d =>
        rcases holdsSlot_of hholds with ⟨got, timer, hs⟩ | hs
        · exact .granted hb hs (.inr ⟨(freeSlot_of_none hfree).symm, hnone⟩)
        · exact .onMedia hb hs (.inr ⟨rfl, hfree, hnone⟩)

/-! ### What one record's end leaves, block by block -/

theorem disown_slot (i n : SlotNo) (c : Chip) :
    (disown i c).slot n = if n = i then (c.slot i).map ownerless else c.slot n := by
  unfold disown
  rw [setSlot_slot]
  rfl

/-- What no record but a write's that waits for data changes. -/
theorem RecordStep.proj {β : Type} (g : Chip → β) (k : RecordStep b p t c e) (hfree : ∀ c, g (freeTag p t c) = g c)
    (hdequeue : ∀ d, b.record p t = some (.data d) → d.stage = .admitted → g (dequeue p t c) = g c)
    (hslot : ∀ i c, g (freeSlot i c) = g c) (hdisown : ∀ i c, g (disown i c) = g c)
    (hstop : ∀ d pages, b.record p t = some (.data d) → d.stage = .delivering pages →
      g (returnPages pages (stopDelivery p t pages c)) = g c) : g e = g c := by
  cases k with
  | gone => rfl
  | handed => exact hfree c
  | admitted hb hs => exact (hfree _).trans (hdequeue _ hb hs)
  | granted _ _ he =>
    rcases he with rfl | ⟨rfl, -⟩
    · exact (hfree _).trans (hslot _ c)
    · exact hslot _ c
  | onMedia _ _ he =>
    rcases he with rfl | ⟨rfl, -⟩
    · exact hdisown _ c
    · rfl
  | delivering hb hs => exact (hfree _).trans (hstop _ _ hb hs)

end

end Sys2Proof.SessionEnds
end

section
/-! SUPPORT. The records and the slots of a session, after all its records have ended (R53, R54, R119). -/

namespace Sys2Proof.SessionEnds

open Sys2Proof.Machine Sys2Proof.Safety Sys2Proof.Keeping Sys2Proof.DataPath Sys2Proof.SlotOps
  Sys2Proof.Grants Sys2Proof.Aftermath Sys2Proof.HoldProofs Sys2Proof.Resets

section
variable {b c e : Chip} {p : Port} {l : List Tag} {t : Tag}

theorem RecordStep.session (k : RecordStep b p t c e) (q : Port) : (e.ports.get q).session = (c.ports.get q).session :=
  k.proj (fun c => (c.ports.get q).session) (freeTag_session p q t) (fun _ _ _ => by rw [Laws.dequeue_ports])
    (fun i c => freeSlot_session i q c) (fun i c => by simp [disown]) (fun _ _ _ _ => by simp)

/-- A record under another tag stays, or goes with the slot that it shares. -/
theorem RecordStep.record_ne (k : RecordStep b p t c e) {u : Tag} (hu : u ≠ t) : e.record p u = c.record p u ∨
    (e.record p u = none ∧ ∃ d i got timer, b.record p t = some (.data d) ∧ d.stage = .granted i got timer ∧
      Record.holdsSlot i (c.record p u) = true) := by
  have hne (x : Chip) : (freeTag p t x).record p u = x.record p u := by rw [freeTag_record, if_neg fun h => hu h.2]
  cases k with
  | gone => exact .inl rfl
  | handed => exact .inl (hne c)
  | admitted => exact .inl ((hne _).trans (record_congr (Laws.dequeue_ports p t c) _ _))
  | granted hb hs he =>
    rename_i d i got timer
    have hslot : e.record p u = if keptFor i c p u then none else c.record p u := by
      rcases he with rfl | ⟨rfl, -⟩
      · rw [hne, freeSlot_record]
      · rw [freeSlot_record]
    by_cases hkept : keptFor i c p u = true
    · refine .inr ⟨hslot.trans (if_pos hkept), d, i, got, timer, hb, hs, ?_⟩
      unfold keptFor at hkept
      simp only [Bool.and_eq_true] at hkept
      exact hkept.2
    · exact .inl (hslot.trans (if_neg hkept))
  | onMedia _ _ he =>
    rcases he with rfl | ⟨rfl, -⟩
    · exact .inl (record_congr (Laws.disown_ports _ c) _ _)
    · exact .inl rfl
  | delivering => exact .inl ((hne _).trans (record_congr (by simp) _ _))

theorem RecordStep.record_self (k : RecordStep b p t c e) (h : c.record p t = b.record p t ∨ c.record p t = none) {x : Record}
    (hx : e.record p t = some x) : ∃ d n, x = .data d ∧ OnMedia d n := by
  have hfreed (y : Chip) : (freeTag p t y).record p t = none := by rw [freeTag_record, if_pos ⟨rfl, rfl⟩]
  cases k with
  | gone _ hc => rw [hc] at hx; cases hx
  | handed => rw [hfreed] at hx; cases hx
  | admitted => rw [hfreed] at hx; cases hx
  | granted _ _ he =>
    rcases he with rfl | ⟨rfl, hc⟩
    · rw [hfreed] at hx; cases hx
    · rw [freeSlot_record, hc] at hx
      split at hx <;> cases hx
  | onMedia hb hs he =>
    rename_i d i
    have hsame : e.record p t = c.record p t := by
      rcases he with rfl | ⟨rfl, -⟩
      · exact record_congr (Laws.disown_ports _ c) _ _
      · rfl
    rw [hsame] at hx
    rcases h with h | h
    · rw [h, hb] at hx
      exact ⟨d, i, (Option.some.inj hx).symm, hs⟩
    · rw [h] at hx; cases hx
  | delivering => rw [hfreed] at hx; cases hx

theorem RecordStep.slotsBack (k : RecordStep b p t c e) (h : SlotsBack b p l c) : SlotsBack b p (l ++ [t]) e := by
  have hother (hb : ∀ d got timer i, b.dataRecord p t = some d → d.stage ≠ .granted i got timer)
      (hslot : ∀ n, (e.slot n).map ownerless = (c.slot n).map ownerless) : SlotsBack b p (l ++ [t]) e := fun n => by
    rw [mem_grantedBy_other hb, hslot]
    refine ⟨fun hn => ?_, (h n).2⟩
    have hnone := hslot n
    rw [(h n).1 hn] at hnone
    exact Option.map_eq_none_iff.1 hnone
  have hfree (x : Chip) (n : SlotNo) : (freeTag p t x).slot n = x.slot n := rfl
  cases k with
  | gone hb => exact hother (fun d _ _ _ hd => by rw [dataRecord_iff, hb] at hd; cases hd) fun _ => rfl
  | handed hb => exact hother (fun d _ _ _ hd => by rw [dataRecord_iff, hb] at hd; cases hd) fun _ => rfl
  | admitted hb hs =>
    refine hother (fun d _ _ _ hd hg => ?_) fun n => ?_
    · rw [dataRecord_iff, hb] at hd
      obtain rfl := Record.data.inj (Option.some.inj hd)
      exact absurd (hs.symm.trans hg) nofun
    · rw [hfree, slot_congr (congrArg MlinkCtl.slots (Laws.dequeue_mlink p t c)) n]
  | granted hb hs he =>
    rename_i d i got timer
    have hslot (n : SlotNo) : e.slot n = if n = i then none else c.slot n := by
      rcases he with rfl | ⟨rfl, -⟩
      · rw [hfree, freeSlot_slot]
      · exact freeSlot_slot i n c
    intro n
    rw [mem_grantedBy_snoc (dataRecord_iff.2 hb) hs, hslot]
    refine ⟨fun hn => ?_, fun hn => ?_⟩
    · split
      · rfl
      · rename_i hne
        exact (h n).1 (hn.resolve_left hne)
    · rw [if_neg fun he => hn (.inl he)]
      exact (h n).2 fun hm => hn (.inr hm)
  | onMedia hb hs he =>
    rename_i d i
    refine hother (fun d' _ _ _ hd hg => ?_) fun n => ?_
    · rw [dataRecord_iff, hb] at hd
      obtain rfl := Record.data.inj (Option.some.inj hd)
      rcases hs with hs | ⟨a, hs⟩ <;> exact absurd (hs.symm.trans hg) nofun
    · rcases he with rfl | ⟨rfl, -⟩
      · rw [disown_slot]
        split
        · rename_i hn
          rw [hn, Option.map_map]
          rfl
        · rfl
      · rfl
  | delivering hb hs =>
    refine hother (fun d _ _ _ hd hg => ?_) fun n => ?_
    · rw [dataRecord_iff, hb] at hd
      obtain rfl := Record.data.inj (Option.some.inj hd)
      exact absurd (hs.symm.trans hg) nofun
    · rw [hfree, slot_congr (c := c) (by simp) n]

/-- One more record has ended. -/
theorem Unwound.next (k : Unwound b p l c) (ht : t ∉ l) : Unwound b p (l ++ [t]) (endRecord p t c) := by
  have hstep := k.step ht
  refine ⟨by rw [hstep.session]; exact k.closed, fun u hu => ?_, fun u hu x hx => ?_, hstep.slotsBack k.slots⟩
  · have hul : u ∉ l := fun h => hu (List.mem_append_left _ h)
    have hut : u ≠ t := fun h => hu (by simp [h])
    have hmore {i : SlotNo} (h : i ∈ grantedBy b p l) : i ∈ grantedBy b p (l ++ [t]) :=
      grantedBy_mono (List.subset_append_left l [t]) h
    rcases hstep.record_ne hut with hsame | ⟨hnone, d, i, got, timer, hd, hs, hholds⟩
    · rw [hsame]
      exact (k.rest u hul).imp id fun ⟨hnone, i, hi, h⟩ => ⟨hnone, i, hmore hi, h⟩
    · refine .inr ⟨hnone, i, (mem_grantedBy_snoc (dataRecord_iff.2 hd) hs).2 (.inl rfl), ?_⟩
      rcases k.rest u hul with hsame | ⟨hgone, -⟩
      · rwa [← hsame]
      · rw [hgone] at hholds
        cases hholds
  · rcases List.mem_append.1 hu with hu | hu
    · have hut : u ≠ t := fun h => ht (h ▸ hu)
      rcases hstep.record_ne hut with hsame | ⟨hnone, -⟩
      · exact k.ended u hu x (hsame.symm.trans hx)
      · rw [hnone] at hx
        cases hx
    · obtain rfl := List.mem_singleton.1 hu
      exact hstep.record_self ((k.rest u ht).imp id And.left) hx

theorem Unwound.start (h : (b.ports.get p).session ≠ .opened) : Unwound b p [] b :=
  ⟨h, fun _ _ => .inl rfl, fun _ hu => absurd hu List.not_mem_nil, fun n => ⟨fun hn => by
    obtain ⟨u, hu, -⟩ := mem_grantedBy.1 hn
    exact absurd hu List.not_mem_nil, fun _ => rfl⟩⟩

/-- A property that each record's end carries on holds when all have ended. -/
theorem unwound_induction (h : (b.ports.get p).session ≠ .opened) {P : List Tag → Chip → Prop} (hstart : P [] b)
    (hstep : ∀ {l c t}, Unwound b p l c → t ∉ l → RecordStep b p t c (endRecord p t c) → P l c →
      P (l ++ [t]) (endRecord p t c)) : P allTags (each (endRecord p) allTags b) := by
  have hall (m l : List Tag) (c : Chip) (hn : (l ++ m).Nodup) (k : Unwound b p l c) (hP : P l c) :
      P (l ++ m) (each (endRecord p) m c) := by
    induction m generalizing l c with
    | nil => rwa [List.append_nil]
    | cons t m ih =>
      have ht : t ∉ l := fun hm => (List.nodup_append.1 hn).2.2 t hm t List.mem_cons_self rfl
      have happend : l ++ t :: m = (l ++ [t]) ++ m := by simp
      rw [happend] at hn ⊢
      exact ih _ _ hn (k.next ht) (hstep k ht (k.step ht) hP)
  exact hall allTags [] b Pages.nodup_allTags (Unwound.start h) hstart

theorem unwound_all (h : (b.ports.get p).session ≠ .opened) : Unwound b p allTags (each (endRecord p) allTags b) :=
  unwound_induction (P := fun l c => Unwound b p l c) h (Unwound.start h) fun k ht _ _ => k.next ht

end

end Sys2Proof.SessionEnds
end

section
/-! SUPPORT. The counts and the pages that a session that ends gives back (R53, R89, R103, R119). -/

namespace Sys2Proof.SessionEnds

open Sys2Proof.Machine Sys2Proof.Safety Sys2Proof.Keeping Sys2Proof.DataPath Sys2Proof.SlotOps
  Sys2Proof.Grants Sys2Proof.Aftermath Sys2Proof.HoldProofs Sys2Proof.Resets Sys2Proof.Counts

section
variable {b c e : Chip} {p : Port} {l : List Tag} {t : Tag}

/-! ### One slot at most comes back with a record -/

/-- Whether the record under `t` is a write that waits for data, and what it means for a part that but a slot changes. -/
theorem RecordStep.split {β : Type} (g : Chip → β) (k : RecordStep b p t c e) (hfree : ∀ c, g (freeTag p t c) = g c)
    (hdequeue : ∀ d, b.record p t = some (.data d) → d.stage = .admitted → g (dequeue p t c) = g c)
    (hdisown : ∀ i c, g (disown i c) = g c)
    (hstop : ∀ d pages, b.record p t = some (.data d) → d.stage = .delivering pages →
      g (returnPages pages (stopDelivery p t pages c)) = g c) :
    ((∀ d got timer i, b.dataRecord p t = some d → d.stage ≠ .granted i got timer) ∧ g e = g c) ∨
      ∃ d i got timer, b.dataRecord p t = some d ∧ d.stage = .granted i got timer ∧ g e = g (freeSlot i c) := by
  have hnone (hb : ∀ d, b.record p t ≠ some (.data d)) (d : DataRec) (got : List Nat) (timer : Nat) (i : SlotNo)
      (hd : b.dataRecord p t = some d) : d.stage ≠ .granted i got timer := absurd (dataRecord_iff.1 hd) (hb d)
  have hstage {d : DataRec} (hb : b.record p t = some (.data d)) (hs : ∀ got timer i, d.stage ≠ .granted i got timer)
      (d' : DataRec) (got : List Nat) (timer : Nat) (i : SlotNo) (hd : b.dataRecord p t = some d') :
      d'.stage ≠ .granted i got timer := by
    rw [dataRecord_iff, hb] at hd
    obtain rfl := Record.data.inj (Option.some.inj hd)
    exact hs got timer i
  cases k with
  | gone hb => exact .inl ⟨hnone (fun d h => by rw [hb] at h; cases h), rfl⟩
  | handed hb => exact .inl ⟨hnone (fun d h => by rw [hb] at h; cases h), hfree c⟩
  | admitted hb hs =>
    exact .inl ⟨hstage hb fun _ _ _ h => absurd (hs.symm.trans h) nofun, (hfree _).trans (hdequeue _ hb hs)⟩
  | granted hb hs he =>
    refine .inr ⟨_, _, _, _, dataRecord_iff.2 hb, hs, ?_⟩
    rcases he with rfl | ⟨rfl, -⟩
    · exact hfree _
    · rfl
  | onMedia hb hs he =>
    refine .inl ⟨hstage hb fun _ _ _ h => ?_, ?_⟩
    · rcases hs with hs | ⟨a, hs⟩ <;> exact absurd (hs.symm.trans h) nofun
    · rcases he with rfl | ⟨rfl, -⟩
      · exact hdisown _ c
      · rfl
  | delivering hb hs =>
    exact .inl ⟨hstage hb fun _ _ _ h => absurd (hs.symm.trans h) nofun, (hfree _).trans (hstop _ _ hb hs)⟩

theorem RecordStep.eq_admitted (k : RecordStep b p t c e) {d : DataRec} (hb : b.record p t = some (.data d))
    (hs : d.stage = .admitted) : e = freeTag p t (dequeue p t c) ∧ c.record p t = some (.data d) := by
  have hdata {d' : DataRec} (hb' : b.record p t = some (.data d')) : d' = d :=
    (Record.data.inj (Option.some.inj (hb.symm.trans hb'))).symm
  cases k with
  | gone hb' => rw [hb'] at hb; cases hb
  | handed hb' => rw [hb'] at hb; cases hb
  | admitted hb' _ hc => exact ⟨rfl, hc.trans (hb'.symm.trans hb)⟩
  | granted hb' hs' => exact absurd ((hdata hb' ▸ hs').symm.trans hs) nofun
  | onMedia hb' hs' => rcases hdata hb' ▸ hs' with hs' | ⟨a, hs'⟩ <;> exact absurd (hs'.symm.trans hs) nofun
  | delivering hb' hs' => exact absurd ((hdata hb' ▸ hs').symm.trans hs) nofun

theorem RecordStep.eq_delivering (k : RecordStep b p t c e) {d : DataRec} {pages : List PageNo}
    (hb : b.record p t = some (.data d)) (hs : d.stage = .delivering pages) :
    e = freeTag p t (returnPages pages (stopDelivery p t pages c)) := by
  have hdata {d' : DataRec} (hb' : b.record p t = some (.data d')) : d' = d :=
    (Record.data.inj (Option.some.inj (hb.symm.trans hb'))).symm
  cases k with
  | gone hb' => rw [hb'] at hb; cases hb
  | handed hb' => rw [hb'] at hb; cases hb
  | admitted hb' hs' => exact absurd ((hdata hb' ▸ hs').symm.trans hs) nofun
  | granted hb' hs' => exact absurd ((hdata hb' ▸ hs').symm.trans hs) nofun
  | onMedia hb' hs' => rcases hdata hb' ▸ hs' with hs' | ⟨a, hs'⟩ <;> exact absurd (hs'.symm.trans hs) nofun
  | delivering hb' hs' =>
    obtain rfl := Stage.delivering.inj ((hdata hb' ▸ hs').symm.trans hs)
    rfl

/-- The slot of a write that waits for data: it came back before, or it is as at the start but for its owner. -/
theorem Unwound.slot (k : Unwound b p l c) (i : SlotNo) :
    (i ∈ grantedBy b p l ∧ c.slot i = none) ∨ (i ∉ grantedBy b p l ∧ (c.slot i).map ownerless = (b.slot i).map ownerless) := by
  by_cases h : i ∈ grantedBy b p l
  · exact .inl ⟨h, (k.slots i).1 h⟩
  · exact .inr ⟨h, (k.slots i).2 h⟩

/-! ### Counting the slots that come back -/

theorem filter_grantedBy (b : Chip) (p : Port) (l : List Tag) (q : SlotNo → Bool) :
    (grantedBy b p l).filter q = allSlots.filter fun n => q n && decide (n ∈ grantedBy b p l) := by
  have hself : grantedBy b p l = allSlots.filter fun n => decide (n ∈ grantedBy b p l) := by
    conv_lhs => unfold grantedBy
    refine List.filter_congr fun n hn => ?_
    rw [Bool.eq_iff_iff, decide_eq_true_eq]
    unfold grantedBy
    rw [List.mem_filter]
    exact (and_iff_right hn).symm
  conv_lhs => rw [hself]
  rw [List.filter_filter]

/-- One more record: its slot is counted if it has not come back before. -/
theorem count_grantedBy_snoc {d : DataRec} {i : SlotNo} {got : List Nat} {timer : Nat} (hd : b.dataRecord p t = some d)
    (hs : d.stage = .granted i got timer) (q : SlotNo → Bool) : ((grantedBy b p (l ++ [t])).filter q).length =
      ((grantedBy b p l).filter q).length + if i ∈ grantedBy b p l then 0 else (q i).toNat := by
  have hmem (n : SlotNo) := mem_grantedBy_snoc (n := n) (l := l) hd hs
  rw [filter_grantedBy, filter_grantedBy]
  have hupdate := length_filter_update (i := i) (f := fun n => q n && decide (n ∈ grantedBy b p (l ++ [t])))
    (g := fun n => q n && decide (n ∈ grantedBy b p l)) fun n hn => by simp [hmem n, hn]
  have hi : i ∈ grantedBy b p (l ++ [t]) := (hmem i).2 (.inl rfl)
  simp only [hi, decide_true, Bool.and_true] at hupdate
  split
  · rename_i hbefore
    simp only [hbefore, decide_true, Bool.and_true] at hupdate
    omega
  · rename_i hbefore
    simp only [hbefore, decide_false, Bool.and_false, Bool.toNat_false] at hupdate
    omega

theorem grantedBy_other (h : ∀ d got timer i, b.dataRecord p t = some d → d.stage ≠ .granted i got timer) :
    grantedBy b p (l ++ [t]) = grantedBy b p l := by
  unfold grantedBy
  refine List.filter_congr fun i _ => ?_
  rw [List.any_append, List.any_cons, List.any_nil, Bool.or_false]
  have hfalse : (match (b.dataRecord p t).map DataRec.stage with
      | some (.granted n _ _) => decide (n = i)
      | _ => false) = false := by
    split
    · rename_i n got timer hs
      obtain ⟨d, hd, hstage⟩ := Option.map_eq_some_iff.1 hs
      exact absurd hstage (h d got timer n hd)
    · rfl
  exact (congrArg _ hfalse).trans (Bool.or_false _)

/-! ### The in-flight counts (R6, R48) -/

/-- Whether a slot counts for port `p`. -/
def heldBy (b : Chip) (p : Port) (n : SlotNo) : Bool := decide ((b.slot n).map SlotRec.holder = some (.port p))

/-- Whether a slot counts for window `w`. -/
def onWindow (b : Chip) (w : WindowNo) (n : SlotNo) : Bool :=
  (b.slot n).any fun r => decide (r.holder ≠ .configuration) && decide (r.window = some w)

theorem heldBy_congr {i : SlotNo} (h : (c.slot i).map ownerless = (b.slot i).map ownerless) : heldBy c p i = heldBy b p i := by
  have hholder (x : Option SlotRec) : x.map SlotRec.holder = (x.map ownerless).map SlotRec.holder := by cases x <;> rfl
  unfold heldBy
  rw [hholder (c.slot i), h, ← hholder]

theorem onWindow_congr {w : WindowNo} {i : SlotNo} (h : (c.slot i).map ownerless = (b.slot i).map ownerless) :
    onWindow c w i = onWindow b w i := by
  have hany (x : Option SlotRec) : x.any (fun r => decide (r.holder ≠ .configuration) && decide (r.window = some w)) =
      (x.map ownerless).any fun r => decide (r.holder ≠ .configuration) && decide (r.window = some w) := by cases x <;> rfl
  unfold onWindow
  rw [hany (c.slot i), h, ← hany]

theorem unwound_inFlight (h : (b.ports.get p).session ≠ .opened) :
    ((each (endRecord p) allTags b).ports.get p).inFlight =
      (b.ports.get p).inFlight - ((grantedBy b p allTags).filter (heldBy b p)).length := by
  refine unwound_induction (P := fun l c => (c.ports.get p).inFlight =
    (b.ports.get p).inFlight - ((grantedBy b p l).filter (heldBy b p)).length) h ?_ fun {l c t} k _ hstep hP => ?_
  · have hempty : grantedBy b p [] = [] := List.filter_eq_nil_iff.2 fun _ _ => Bool.false_ne_true
    rw [hempty]
    rfl
  · have hfree (x : Chip) : ((freeTag p t x).ports.get p).inFlight = (x.ports.get p).inFlight := by
      simp [freeTag, setRecord, Chip.modPort]
    rcases hstep.split (fun c => (c.ports.get p).inFlight) hfree (fun _ _ _ => by rw [Laws.dequeue_ports])
        (fun i c => by rw [Laws.disown_ports]) (fun _ _ _ _ => by simp) with ⟨hb, he⟩ | ⟨d, i, got, timer, hd, hs, he⟩
    · rw [he, hP, grantedBy_other hb]
    · rw [he, count_grantedBy_snoc hd hs, freeSlot_inFlight, hP]
      rcases k.slot i with ⟨hi, hnone⟩ | ⟨hi, hsame⟩
      · rw [hnone, if_pos hi, if_neg (by simp)]
        rfl
      · have hheld := heldBy_congr (p := p) hsame
        rw [if_neg hi, ← hheld]
        unfold heldBy
        by_cases hh : (c.slot i).map SlotRec.holder = some (.port p)
        · rw [if_pos hh, decide_eq_true hh]
          exact Nat.sub_sub _ _ _
        · rw [if_neg hh, decide_eq_false hh]
          rfl

/-! ### The windows' counts (R6) -/

/-- The queued requests on window `w` under the tags of a list. -/
def queuedBy (b : Chip) (p : Port) (w : WindowNo) (l : List Tag) : List Tag :=
  l.filter fun u => (b.dataRecord p u).any fun d => decide (d.stage = .admitted) && decide (d.window = w)

theorem dequeue_usage {d : DataRec} (hd : c.dataRecord p t = some d) (w : WindowNo) : (dequeue p t c).map.usage.get w =
    { c.map.usage.get w with queued := (c.map.usage.get w).queued - if d.window = w then 1 else 0 } := by
  unfold dequeue
  simp only [hd]
  rw [Laws.modArb_map]
  unfold modUsage
  by_cases hw : d.window = w
  · subst hw
    simp
  · simp [Laws.Table.get_modify_ne _ _ (Ne.symm hw), hw]

theorem unwound_usage (h : (b.ports.get p).session ≠ .opened) (w : WindowNo) :
    (each (endRecord p) allTags b).map.usage.get w =
      ⟨(b.map.usage.get w).queued - (queuedBy b p w allTags).length,
        (b.map.usage.get w).inFlight - ((grantedBy b p allTags).filter (onWindow b w)).length⟩ := by
  refine unwound_induction (P := fun l c => c.map.usage.get w = ⟨(b.map.usage.get w).queued - (queuedBy b p w l).length,
    (b.map.usage.get w).inFlight - ((grantedBy b p l).filter (onWindow b w)).length⟩) h ?_ fun {l c t} k _ hstep hP => ?_
  · have hempty : grantedBy b p [] = [] := List.filter_eq_nil_iff.2 fun _ _ => Bool.false_ne_true
    rw [hempty]
    rfl
  · have hqueued (hb : ∀ d, b.dataRecord p t = some d → d.stage ≠ .admitted) : queuedBy b p w (l ++ [t]) = queuedBy b p w l := by
      unfold queuedBy
      rw [List.filter_append, List.filter_cons_of_neg, List.filter_nil, List.append_nil]
      cases hd : b.dataRecord p t with
      | none => exact Bool.false_ne_true
      | some d => simp [hb d hd]
    by_cases hadmitted : ∃ d, b.record p t = some (.data d) ∧ d.stage = .admitted
    · obtain ⟨d, hb, hs⟩ := hadmitted
      have hbd : b.dataRecord p t = some d := dataRecord_iff.2 hb
      have hlength : (queuedBy b p w (l ++ [t])).length = (queuedBy b p w l).length + if d.window = w then 1 else 0 := by
        unfold queuedBy
        rw [List.filter_append, List.length_append]
        congr 1
        by_cases hw : d.window = w <;> simp [hbd, hs, hw]
      have hgranted : grantedBy b p (l ++ [t]) = grantedBy b p l := grantedBy_other fun d' _ _ _ hd' hs' => by
        obtain rfl := Option.some.inj (hbd.symm.trans hd')
        exact absurd (hs.symm.trans hs') nofun
      obtain ⟨he, hc⟩ := hstep.eq_admitted hb hs
      have husage : (endRecord p t c).map.usage.get w = (dequeue p t c).map.usage.get w := by rw [he]; rfl
      rw [husage, dequeue_usage (dataRecord_iff.2 hc), hP, hgranted, hlength]
      simp only [Nat.sub_sub]
    · rw [hqueued fun d hd hs => hadmitted ⟨d, dataRecord_iff.1 hd, hs⟩]
      rcases hstep.split (fun c => c.map.usage.get w) (fun _ => rfl) (fun d hb hs => absurd ⟨d, hb, hs⟩ hadmitted)
          (fun i c => by rw [Laws.disown_map]) (fun _ _ _ _ => by simp) with ⟨hb, he⟩ | ⟨d, i, got, timer, hd, hs, he⟩
      · rw [he, hP, grantedBy_other hb]
      · rw [he, count_grantedBy_snoc hd hs, freeSlot_usage, hP]
        rcases k.slot i with ⟨hi, hnone⟩ | ⟨hi, hsame⟩
        · rw [hnone, if_pos hi, if_neg (by simp)]
          rfl
        · have hwindow := onWindow_congr (w := w) hsame
          rw [if_neg hi, ← hwindow]
          unfold onWindow
          cases (c.slot i).any fun r => decide (r.holder ≠ .configuration) && decide (r.window = some w)
          · rfl
          · simp only [if_true, Bool.toNat_true, Nat.sub_sub]

/-! ### The pages (R103) -/

/-- The pages that the records under `l` have given back. -/
structure PagesBack (b : Chip) (p : Port) (l : List Tag) (c : Chip) : Prop where
  writes : ∀ n ∈ grantedBy b p l, ∀ r, b.slot n = some r → r.holder = .port p → ∀ x ∈ r.pages, x ∈ c.pool.free
  reads : ∀ u ∈ l, ∀ d pages, b.dataRecord p u = some d → d.stage = .delivering pages → ∀ x ∈ pages, x ∈ c.pool.free

theorem RecordStep.mem_free (k : RecordStep b p t c e) {x : PageNo} (hx : x ∈ c.pool.free) : x ∈ e.pool.free := by
  cases k with
  | gone => exact hx
  | handed => exact hx
  | admitted => change x ∈ (dequeue p t c).pool.free; rwa [Laws.dequeue_pool]
  | granted _ _ he =>
    rcases he with rfl | ⟨rfl, -⟩
    · exact Recovery.mem_freeSlot_free hx
    · exact Recovery.mem_freeSlot_free hx
  | onMedia _ _ he =>
    rcases he with rfl | ⟨rfl, -⟩
    · rwa [Laws.disown_pool]
    · exact hx
  | delivering =>
    change x ∈ (returnPages _ (stopDelivery p t _ c)).pool.free
    simp only [returnPages, Laws.modPool_pool, Laws.stopDelivery_pool]
    rw [(Pages.foldr_insertPage_perm _ _).mem_iff]
    exact List.mem_append_right _ hx

theorem unwound_pages (h : (b.ports.get p).session ≠ .opened) : PagesBack b p allTags (each (endRecord p) allTags b) := by
  refine unwound_induction (P := fun l c => PagesBack b p l c) h ⟨fun n hn => ?_, fun _ hu => absurd hu List.not_mem_nil⟩
    fun {l c t} k _ hstep hP => ⟨fun n hn r hr hh x hx => ?_, fun u hu d pages hd hs x hx => ?_⟩
  · obtain ⟨u, hu, -⟩ := mem_grantedBy.1 hn
    exact absurd hu List.not_mem_nil
  · by_cases hbefore : n ∈ grantedBy b p l
    · exact hstep.mem_free (hP.writes n hbefore r hr hh x hx)
    · obtain ⟨u, hu, d, got, timer, hd, hs⟩ := mem_grantedBy.1 hn
      obtain rfl : u = t := by
        rcases List.mem_append.1 hu with hu | hu
        · exact absurd (mem_grantedBy.2 ⟨u, hu, d, got, timer, hd, hs⟩) hbefore
        · exact List.mem_singleton.1 hu
      have hsame := (k.slots n).2 hbefore
      rw [hr] at hsame
      obtain ⟨r', hr', hown⟩ := Option.map_eq_some_iff.1 hsame
      have hpages : (ownerless r').pages = (ownerless r).pages := congrArg SlotRec.pages hown
      have hholder : (ownerless r').holder = (ownerless r).holder := congrArg SlotRec.holder hown
      rcases hstep.split (fun c => c.pool.free) (fun _ => rfl) (fun _ _ _ => by rw [Laws.dequeue_pool])
          (fun i c => by rw [Laws.disown_pool]) (fun d' pages hb' hs' => by
            have hsome := dataRecord_iff.2 hb'
            rw [hd] at hsome
            obtain rfl := Option.some.inj hsome
            exact absurd (hs.symm.trans hs') nofun) with ⟨hb, -⟩ | ⟨d', i, got', timer', hd', hs', he⟩
      · exact absurd hs (hb d got timer n hd)
      · rw [hd] at hd'
        obtain rfl := Option.some.inj hd'
        obtain ⟨rfl, -⟩ := Stage.granted.inj (hs.symm.trans hs')
        rw [he]
        exact Recovery.freeSlot_returns hr' (hholder.trans hh) (hpages.symm ▸ hx)
  · rcases List.mem_append.1 hu with hu | hu
    · exact hstep.mem_free (hP.reads u hu d pages hd hs x hx)
    · obtain rfl := List.mem_singleton.1 hu
      rw [hstep.eq_delivering (dataRecord_iff.1 hd) hs]
      change x ∈ (returnPages _ (stopDelivery p u _ c)).pool.free
      simp only [returnPages, Laws.modPool_pool]
      rw [(Pages.foldr_insertPage_perm _ _).mem_iff]
      exact List.mem_append_left _ hx

end

end Sys2Proof.SessionEnds
end

section
/-! SUPPORT. The frames, the owners, the wait sets and the queue of a session that ends (R32, R42, R53, R54, R89). -/

namespace Sys2Proof.SessionEnds

open Sys2Proof.Machine Sys2Proof.Safety Sys2Proof.Keeping Sys2Proof.DataPath Sys2Proof.SlotOps
  Sys2Proof.Grants Sys2Proof.Aftermath Sys2Proof.HoldProofs Sys2Proof.Resets Sys2Proof.Counts

section
variable {b c e : Chip} {p : Port} {l : List Tag} {t : Tag}

/-! ### The frames that had gone out (R53; log entry 5) -/

/-- The DATA frames of a DELIVERING read that had gone out before its delivery stopped. -/
def goneFrames (b : Chip) (p : Port) (gone : Tag → Nat) (tag : Tag) : List Sent :=
  match (b.dataRecord p tag).map DataRec.stage with
  | some (.delivering pages) => (pageFrames (fun k x => .toPort p (.data tag k x)) pages b.pool.content).take (gone tag)
  | _ => []

theorem goneFrames_delivering {gone : Tag → Nat} {d : DataRec} {pages : List PageNo} (hd : b.dataRecord p t = some d)
    (hs : d.stage = .delivering pages) : goneFrames b p gone t =
      (pageFrames (fun k x => .toPort p (.data t k x)) pages b.pool.content).take (gone t) := by
  unfold goneFrames
  rw [hd, Option.map_some, hs]

theorem goneFrames_other {gone : Tag → Nat} (h : ∀ d pages, b.dataRecord p t = some d → d.stage ≠ .delivering pages) :
    goneFrames b p gone t = [] := by
  unfold goneFrames
  split
  · rename_i pages hs
    obtain ⟨d, hd, hstage⟩ := Option.map_eq_some_iff.1 hs
    exact absurd hstage (h d pages hd)
  · rfl

theorem goneFrames_congr {gone gone' : Tag → Nat} (h : gone' t = gone t) : goneFrames b p gone' t = goneFrames b p gone t := by
  unfold goneFrames
  rw [h]

/-- The frames sent while the records end are those of the deliveries that stop, by ascending tag. -/
def FramesGone (b : Chip) (p : Port) (l : List Tag) (c : Chip) : Prop :=
  c.pool.content = b.pool.content ∧ ∃ gone : Tag → Nat, c.sent = b.sent ++ l.flatMap (goneFrames b p gone) ∧
    ∀ tag ∈ l, ∀ d pages, b.dataRecord p tag = some d → d.stage = .delivering pages → pages ≠ [] → gone tag < pages.length

theorem RecordStep.content (k : RecordStep b p t c e) : e.pool.content = c.pool.content :=
  k.proj (fun c => c.pool.content) (fun _ => rfl) (fun _ _ _ => by rw [Laws.dequeue_pool]) (fun i c => by
    cases hr : c.slot i with
    | none => rw [freeSlot_of_none hr]
    | some r =>
      cases hh : r.holder with
      | configuration => rw [freeSlot_of_configuration hr hh]; rfl
      | port q =>
        rw [freeSlot_proj (fun c => c.pool.content) (fun p i c => by rw [Laws.freeKept_pool]) hr hh]
        simp [givenUp, returnPages]) (fun i c => by rw [Laws.disown_pool]) fun _ _ _ _ => by simp [returnPages]

theorem unwound_frames (h : (b.ports.get p).session ≠ .opened) : FramesGone b p allTags (each (endRecord p) allTags b) := by
  refine unwound_induction (P := fun l c => FramesGone b p l c) h
    ⟨rfl, fun _ => 0, (List.append_nil _).symm, fun _ hu => absurd hu List.not_mem_nil⟩
    fun {l c t} _ ht hstep ⟨hcontent, gone, hsent, hfewer⟩ => ⟨hstep.content.trans hcontent, ?_⟩
  by_cases hdelivering : ∃ d pages, b.record p t = some (.data d) ∧ d.stage = .delivering pages
  · obtain ⟨d, pages, hb, hs⟩ := hdelivering
    have hbd : b.dataRecord p t = some d := dataRecord_iff.2 hb
    obtain ⟨n, hn⟩ : ∃ n, n = Config.framesSent c.free % pages.length := ⟨_, rfl⟩
    have hold : l.flatMap (goneFrames b p (Function.update gone t n)) = l.flatMap (goneFrames b p gone) :=
      List.flatMap_congr fun u hu => goneFrames_congr (Function.update_of_ne (fun hut : u = t => ht (hut ▸ hu)) n gone)
    refine ⟨Function.update gone t n, ?_, fun u hu d' pages' hd' hs' hne => ?_⟩
    · rw [hstep.eq_delivering hb hs, List.flatMap_append, hold, List.flatMap_singleton, goneFrames_delivering hbd hs,
        Function.update_self, ← List.append_assoc, ← hsent, ← hcontent, hn]
      change (returnPages pages (stopDelivery p t pages c)).sent = _
      simp only [returnPages, Chip.modPool]
      rw [PinAndTime.stopDelivery_eq]
    · by_cases hut : u = t
      · subst hut
        rw [hbd] at hd'
        obtain rfl := Option.some.inj hd'
        obtain rfl := Stage.delivering.inj (hs.symm.trans hs')
        rw [Function.update_self, hn]
        exact Nat.mod_lt _ (List.length_pos_iff.2 hne)
      · rw [Function.update_of_ne hut]
        refine hfewer u ?_ d' pages' hd' hs' hne
        exact (List.mem_append.1 hu).resolve_right fun h => hut (List.mem_singleton.1 h)
  · have hnone : goneFrames b p gone t = [] := goneFrames_other fun d pages hd hs =>
      hdelivering ⟨d, pages, dataRecord_iff.1 hd, hs⟩
    have hsame : (endRecord p t c).sent = c.sent :=
      hstep.proj (fun c => c.sent) (fun _ => rfl) (fun _ _ _ => by rw [Laws.dequeue_sent])
        (fun i c => by rw [Laws.freeSlot_sent]) (fun i c => by rw [Laws.disown_sent])
        fun d pages hb hs => absurd ⟨d, pages, hb, hs⟩ hdelivering
    refine ⟨gone, ?_, fun u hu d pages hd hs hne => ?_⟩
    · rw [hsame, hsent, List.flatMap_append, List.flatMap_singleton, hnone, List.append_nil]
    · rcases List.mem_append.1 hu with hu | hu
      · exact hfewer u hu d pages hd hs hne
      · obtain rfl := List.mem_singleton.1 hu
        exact absurd ⟨d, pages, dataRecord_iff.1 hd, hs⟩ hdelivering

/-! ### Requests on the media have no owner (R53) -/

theorem RecordStep.owner (k : RecordStep b p t c e) {n : SlotNo} {r : SlotRec} (hr : e.slot n = some r) :
    r.owner = none ∨ c.slot n = some r := by
  have hfree (x : Chip) : (freeTag p t x).slot n = x.slot n := rfl
  cases k with
  | gone => exact .inr hr
  | handed => exact .inr hr
  | admitted =>
    rw [hfree, slot_congr (congrArg MlinkCtl.slots (Laws.dequeue_mlink p t c)) n] at hr
    exact .inr hr
  | granted _ _ he =>
    rename_i d i got timer _ _
    have hslot : e.slot n = if n = i then none else c.slot n := by
      rcases he with rfl | ⟨rfl, -⟩
      · rw [hfree, freeSlot_slot]
      · exact freeSlot_slot i n c
    rw [hslot] at hr
    split at hr
    · cases hr
    · exact .inr hr
  | onMedia _ _ he =>
    rcases he with rfl | ⟨rfl, -⟩
    · rw [disown_slot] at hr
      split at hr
      · obtain ⟨r', -, rfl⟩ := Option.map_eq_some_iff.1 hr
        exact .inl rfl
      · exact .inr hr
    · exact .inr hr
  | delivering =>
    rw [hfree, slot_congr (c := c) (by simp) n] at hr
    exact .inr hr

theorem RecordStep.owner_media (k : RecordStep b p t c e) {d : DataRec} {n : SlotNo} {r : SlotRec}
    (hb : b.record p t = some (.data d)) (hs : OnMedia d n) (hr : e.slot n = some r) : r.owner = none := by
  have hdata {d' : DataRec} (hb' : b.record p t = some (.data d')) : d' = d :=
    (Record.data.inj (Option.some.inj (hb.symm.trans hb'))).symm
  cases k with
  | gone hb' => rw [hb'] at hb; cases hb
  | handed hb' => rw [hb'] at hb; cases hb
  | admitted hb' hs' => rcases hs with hs | ⟨a, hs⟩ <;> exact absurd ((hdata hb' ▸ hs').symm.trans hs) nofun
  | granted hb' hs' => rcases hs with hs | ⟨a, hs⟩ <;> exact absurd ((hdata hb' ▸ hs').symm.trans hs) nofun
  | delivering hb' hs' => rcases hs with hs | ⟨a, hs⟩ <;> exact absurd ((hdata hb' ▸ hs').symm.trans hs) nofun
  | onMedia hb' hs' he =>
    rename_i d' i
    obtain rfl : n = i := by
      have hsame := hdata hb'
      subst hsame
      rcases hs with hs | ⟨a, hs⟩ <;> rcases hs' with hs' | ⟨a', hs'⟩
      · exact Stage.issued.inj (hs.symm.trans hs')
      · exact absurd (hs.symm.trans hs') nofun
      · exact absurd (hs.symm.trans hs') nofun
      · exact (Stage.abandoning.inj (hs.symm.trans hs')).1
    rcases he with rfl | ⟨rfl, hnone, -⟩
    · rw [disown_slot, if_pos rfl] at hr
      obtain ⟨r', -, rfl⟩ := Option.map_eq_some_iff.1 hr
      rfl
    · rw [hnone] at hr
      cases hr

theorem unwound_owner (h : (b.ports.get p).session ≠ .opened) {u : Tag} {d : DataRec} {n : SlotNo} {r : SlotRec}
    (hd : b.dataRecord p u = some d) (hs : OnMedia d n) (hr : (each (endRecord p) allTags b).slot n = some r) :
    r.owner = none := by
  refine unwound_induction (P := fun l c => u ∈ l → ∀ r, c.slot n = some r → r.owner = none) h
    (fun hu => absurd hu List.not_mem_nil) (fun {l c t} _ _ hstep hP hu r hr => ?_) (mem_allTags u) r hr
  rcases hstep.owner hr with howner | hbefore
  · exact howner
  · rcases List.mem_append.1 hu with hu | hu
    · exact hP hu r hbefore
    · obtain rfl := List.mem_singleton.1 hu
      exact hstep.owner_media (dataRecord_iff.1 hd) hs hr

/-! ### The wait sets (R32) -/

/-- A hold that no longer waits for the slots `freed`. -/
def unwaiting (freed : List SlotNo) (h : Hold) : Hold :=
  { h with
    state :=
      match h.state with
      | .pending waits => .pending (waits.filter (· ∉ freed))
      | .persisting | .active _ => h.state }

theorem unwaiting_congr {freed freed' : List SlotNo} (h : ∀ n, n ∈ freed' ↔ n ∈ freed) : unwaiting freed' = unwaiting freed := by
  funext x
  unfold unwaiting
  simp only [h]

theorem noLonger_unwaiting {freed freed' : List SlotNo} {i : SlotNo} (h : ∀ n, n ∈ freed' ↔ n = i ∨ n ∈ freed) (x : Hold) :
    noLonger i (unwaiting freed x) = unwaiting freed' x := by
  obtain ⟨id, cls, scope, range, owner, expiry, state, answerTo⟩ := x
  cases state with
  | pending waits =>
    unfold unwaiting noLonger
    simp only [List.filter_filter, h, not_or, Bool.decide_and]
  | persisting => rfl
  | active left => rfl

/-- The slots in use that come back with the writes under the tags of a list. -/
def freedBy (b : Chip) (p : Port) (l : List Tag) : List SlotNo := (grantedBy b p l).filter fun i => (b.slot i).isSome

theorem mem_freedBy {n : SlotNo} : n ∈ freedBy b p l ↔ n ∈ grantedBy b p l ∧ (b.slot n).isSome = true := List.mem_filter

theorem unwound_table (h : (b.ports.get p).session ≠ .opened) : (each (endRecord p) allTags b).hold.table =
    b.hold.table.map (unwaiting (freedBy b p allTags)) := by
  refine unwound_induction (P := fun l c => c.hold.table = b.hold.table.map (unwaiting (freedBy b p l))) h ?_
    fun {l c t} k _ hstep hP => ?_
  · have hempty : freedBy b p [] = [] := List.eq_nil_iff_forall_not_mem.2 fun n hn => by
      obtain ⟨u, hu, -⟩ := mem_grantedBy.1 (mem_freedBy.1 hn).1
      exact absurd hu List.not_mem_nil
    rw [hempty]
    refine (List.map_id'' (fun x => ?_) _).symm
    obtain ⟨id, cls, scope, range, owner, expiry, state, answerTo⟩ := x
    cases state with
    | pending waits => simp [unwaiting]
    | persisting => rfl
    | active left => rfl
  · rcases hstep.split (fun c => c.hold.table) (fun _ => rfl) (fun _ _ _ => by rw [Laws.dequeue_hold])
        (fun i c => by rw [Laws.disown_hold]) (fun _ _ _ _ => by simp) with ⟨hb, he⟩ | ⟨d, i, got, timer, hd, hs, he⟩
    · rw [he, hP]
      unfold freedBy
      rw [grantedBy_other hb]
    · have hmem (n : SlotNo) : n ∈ freedBy b p (l ++ [t]) ↔ (n = i ∧ (b.slot n).isSome = true) ∨ n ∈ freedBy b p l := by
        rw [mem_freedBy, mem_freedBy, mem_grantedBy_snoc hd hs]
        tauto
      rw [he, freeSlot_table]
      rcases k.slot i with ⟨hi, hnone⟩ | ⟨hi, hsame⟩
      · rw [if_pos hnone, hP, unwaiting_congr fun n => (hmem n).trans ⟨fun hn => ?_, .inr⟩]
        rcases hn with ⟨rfl, hsome⟩ | hn
        · exact mem_freedBy.2 ⟨hi, hsome⟩
        · exact hn
      · cases hslot : b.slot i with
        | none =>
          rw [hslot] at hsame
          rw [if_pos (Option.map_eq_none_iff.1 hsame), hP, unwaiting_congr fun n => (hmem n).trans ⟨fun hn => ?_, .inr⟩]
          rcases hn with ⟨rfl, hsome⟩ | hn
          · rw [hslot] at hsome
            cases hsome
          · exact hn
        | some r =>
          rw [hslot] at hsame
          obtain ⟨r', hr', -⟩ := Option.map_eq_some_iff.1 hsame
          rw [if_neg (by rw [hr']; exact Option.some_ne_none r'), hP, List.map_map]
          refine List.map_congr_left fun x _ => noLonger_unwaiting (fun n => (hmem n).trans ⟨fun hn => ?_, fun hn => ?_⟩) x
          · exact hn.imp And.left id
          · rcases hn with rfl | hn
            · exact .inl ⟨rfl, by rw [hslot]; rfl⟩
            · exact .inr hn

/-! ### The queue (R54, R89) -/

theorem unwound_queue (h : (b.ports.get p).session ≠ .opened) (hn : (b.arb.queues.get p).Nodup)
    (hadmitted : ∀ u ∈ b.arb.queues.get p, ∃ d, b.dataRecord p u = some d ∧ d.stage = .admitted) :
    (each (endRecord p) allTags b).arb.queues.get p = [] := by
  obtain ⟨-, hall⟩ := unwound_induction (P := fun l c => (c.arb.queues.get p).Nodup ∧
    ∀ u ∈ c.arb.queues.get p, u ∈ b.arb.queues.get p ∧ u ∉ l) h ⟨hn, fun u hu => ⟨hu, List.not_mem_nil⟩⟩
    fun {l c t} _ _ hstep ⟨hnc, hrest⟩ => by
      by_cases ht : ∃ d, b.record p t = some (.data d) ∧ d.stage = .admitted
      · obtain ⟨d, hb, hs⟩ := ht
        have hqueue : (endRecord p t c).arb.queues.get p = (c.arb.queues.get p).erase t := by
          rw [(hstep.eq_admitted hb hs).1]
          change (dequeue p t c).arb.queues.get p = _
          rw [Laws.dequeue_queues, Laws.PerPort.get_set_self]
        rw [hqueue]
        refine ⟨hnc.erase t, fun u hu => ?_⟩
        obtain ⟨hut, hu⟩ := hnc.mem_erase_iff.1 hu
        exact ⟨(hrest u hu).1, fun hm => (List.mem_append.1 hm).elim (hrest u hu).2 fun h => hut (List.mem_singleton.1 h)⟩
      · have hqueue : (endRecord p t c).arb.queues.get p = c.arb.queues.get p :=
          hstep.proj (fun c => c.arb.queues.get p) (fun _ => rfl) (fun d hb hs => absurd ⟨d, hb, hs⟩ ht)
            (fun i c => by rw [freeSlot_queues]) (fun i c => by rw [Laws.disown_arb]) fun _ _ _ _ => by simp
        rw [hqueue]
        refine ⟨hnc, fun u hu => ⟨(hrest u hu).1, fun hm => (List.mem_append.1 hm).elim (hrest u hu).2 fun h => ?_⟩⟩
        obtain rfl := List.mem_singleton.1 h
        obtain ⟨d, hd, hs⟩ := hadmitted u (hrest u hu).1
        exact ht ⟨d, dataRecord_iff.1 hd, hs⟩
  exact List.eq_nil_iff_forall_not_mem.2 fun u hu => (hall u hu).2 (mem_allTags u)

end

end Sys2Proof.SessionEnds
end

section
/-! SUPPORT. A session that has left OPEN, with its records ended and its holds gone (R32, R42, R52 to R54). -/

namespace Sys2Proof.SessionEnds

open Sys2Proof.Machine Sys2Proof.Safety Sys2Proof.Keeping Sys2Proof.DataPath Sys2Proof.SlotOps
  Sys2Proof.Grants Sys2Proof.Aftermath Sys2Proof.HoldProofs Sys2Proof.Resets Sys2Proof.Counts

/-! ### The session has left OPEN (R52) -/

/-- The blocks of `s` when the session of port `p` has left OPEN, on a link in state `l`. -/
def closedAt (s : State) (p : Port) (reason : CloseReason) (l : LinkState) : Chip :=
  { s.chip with ports := s.chip.ports.modify p fun pc =>
    { pc with link := l, session := .closing reason, flags := Flags.clear } }

section
variable {s : State} {p : Port} {reason : CloseReason} {l : LinkState}

theorem leaveOpen_eq : leaveOpen reason p s.chip = closedAt s p reason (s.chip.ports.get p).link := by
  unfold leaveOpen closedAt Chip.modPort
  cases p <;> rfl

theorem leaveOpen_setLink : leaveOpen reason p (setLink p l s.chip) = closedAt s p reason l := by
  unfold leaveOpen setLink closedAt Chip.modPort
  cases p <;> rfl

theorem closedAt_self : (closedAt s p reason l).ports.get p =
    { s.chip.ports.get p with link := l, session := .closing reason, flags := Flags.clear } := by
  unfold closedAt
  cases p <;> rfl

theorem closedAt_ne {q : Port} (h : q ≠ p) : (closedAt s p reason l).ports.get q = s.chip.ports.get q :=
  Laws.PerPort.get_modify_ne _ _ h

theorem closedAt_closed : ((closedAt s p reason l).ports.get p).session ≠ .opened := by
  rw [closedAt_self]
  exact nofun

theorem closedAt_record (q : Port) (u : Tag) : (closedAt s p reason l).record q u = s.chip.record q u := by
  unfold Chip.record
  by_cases h : q = p
  · subst h
    rw [closedAt_self]
  · rw [closedAt_ne h]

theorem closedAt_dataRecord (q : Port) (u : Tag) : (closedAt s p reason l).dataRecord q u = s.chip.dataRecord q u := by
  unfold Chip.dataRecord
  rw [closedAt_record]

theorem closedAt_granted (m : List Tag) : grantedBy (closedAt s p reason l) p m = grantedBy s.chip p m := by
  unfold grantedBy
  simp only [closedAt_dataRecord]

theorem closedAt_freed : freedBy (closedAt s p reason l) p allTags =
    (grantedSlots s.chip p).filter fun i => (s.chip.slot i).isSome := by
  unfold freedBy
  rw [closedAt_granted]
  rfl

end

/-! ### The state that is left -/

section
variable (s : State) (p : Port) (reason : CloseReason) (u : Table 16 Usage)

theorem leftBy_ports : (leftBy s p reason u).chip.ports = s.chip.ports.modify p fun pc =>
    { pc with session := .closing reason, flags := Flags.clear } := rfl

theorem leftBy_map_rest : (leftBy s p reason u).chip.map.active = s.chip.map.active ∧
    (leftBy s p reason u).chip.map.epoch = s.chip.map.epoch ∧ (leftBy s p reason u).chip.map.usage = u := by
  unfold leftBy
  dsimp only
  split
  · split <;> exact ⟨rfl, rfl, rfl⟩
  · split <;> exact ⟨rfl, rfl, rfl⟩
  all_goals exact ⟨rfl, rfl, rfl⟩

theorem leftBy_own {cfg : Configuration} (h : s.chip.map.staging = .opened p cfg ∨ s.chip.map.staging = .committing (some p) cfg) :
    (leftBy s p reason u).chip.map = { s.chip.map with usage := u, staging := .empty, commit := .idle } := by
  unfold leftBy
  dsimp only
  rcases h with h | h <;> rw [h] <;> exact if_pos rfl

theorem leftBy_other (h : ∀ cfg, s.chip.map.staging ≠ .opened p cfg ∧ s.chip.map.staging ≠ .committing (some p) cfg) :
    (leftBy s p reason u).chip.map = { s.chip.map with usage := u } := by
  unfold leftBy
  dsimp only
  split
  · rename_i q cfg hs
    exact if_neg fun hq : q = p => (h cfg).1 (hq ▸ hs)
  · rename_i q cfg hs
    exact if_neg fun hq : q = p => (h cfg).2 (hq ▸ hs)
  all_goals rfl

variable {s p reason u}

theorem leftBy_self : (leftBy s p reason u).chip.ports.get p =
    { s.chip.ports.get p with session := .closing reason, flags := Flags.clear } := by
  rw [leftBy_ports]
  cases p <;> rfl

theorem leftBy_ne {q : Port} (h : q ≠ p) : (leftBy s p reason u).chip.ports.get q = s.chip.ports.get q :=
  Laws.PerPort.get_modify_ne _ _ h

/-- The port that has left OPEN is not among those that are told anything. -/
theorem goes_closedAt (l : LinkState) : Goes none (leftBy s p reason u) (closedAt s p reason l) := by
  have hsame {q : Port} (hq : ((leftBy s p reason u).chip.ports.get q).session = .opened) :
      (closedAt s p reason l).ports.get q = (leftBy s p reason u).chip.ports.get q := by
    have hne : q ≠ p := by
      rintro rfl
      rw [leftBy_self] at hq
      cases hq
    rw [closedAt_ne hne, leftBy_ne hne]
  refine ⟨fun q => ?_, fun q hq => by rw [hsame hq], List.prefix_refl _, fun q f _ hdue => .inl ?_⟩
  · by_cases hq : q = p
    · subst hq
      rw [closedAt_self, leftBy_self]
    · rw [closedAt_ne hq, leftBy_ne hq]
  · obtain ⟨hopen, hclear, htags, hup⟩ := hdue
    unfold Due
    rw [hsame hopen]
    exact ⟨hopen, hclear, fun u => (congrArg (fun pc => pc.tags.get u) (hsame hopen)).trans (htags u), hup⟩

end

/-! ### The records have ended, and the holds are gone (R42, R53, R54) -/

/-- The blocks when every record of the session has ended. -/
@[irreducible] def unwound (p : Port) (b : Chip) : Chip := each (endRecord p) allTags b

/-- The same, with no starvation and no reservation of the port (R95, R98). -/
abbrev relieved (p : Port) (b : Chip) : Chip :=
  (unwound p b).modArb fun a => { a with starvation := a.starvation.set p 0, reservation := a.reservation.filter (· ≠ p) }

/-- The blocks before the end of the session reaches the map unit. -/
@[irreducible] def stripped (p : Port) (b : Chip) : Chip := endSessionHolds p (relieved p b)

theorem cleanUp_eq (p : Port) (b : Chip) : cleanUp p b = endSessionStaging p (drainBesideEnd p (stripped p b)) := by
  unfold stripped relieved unwound
  rfl

section
variable {p : Port} {b : Chip}

theorem silent_endRecord (p : Port) (t : Tag) (c : Chip) : Silent c (endRecord p t c) := by
  cases hr : c.record p t with
  | none => rw [endRecord_none hr]; exact Silent.refl c
  | some x =>
    cases x with
    | handed k l v => rw [endRecord_handed hr]; exact Silent.freeTag p t c
    | data d =>
      cases hs : d.stage with
      | admitted => rw [endRecord_admitted hr hs]; exact (Silent.dequeue p t c).trans (Silent.freeTag p t _)
      | granted i got timer => rw [endRecord_granted hr hs]; exact (Silent.freeSlot i c).trans (Silent.freeTag p t _)
      | issued i => rw [endRecord_onMedia hr (.inl hs)]; exact Silent.setSlot i _ c
      | abandoning i a => rw [endRecord_onMedia hr (.inr ⟨a, hs⟩)]; exact Silent.setSlot i _ c
      | delivering pages =>
        rw [endRecord_delivering hr hs, PinAndTime.stopDelivery_eq]
        refine Silent.trans (c := returnPages pages _) ?_ (Silent.freeTag p t _)
        exact Silent.of_ports rfl (List.prefix_append _ _)

theorem silent_unwound : Silent b (unwound p b) := by
  unfold unwound
  exact Silent.each (fun t c => silent_endRecord p t c) allTags b

theorem unwound_proj {β : Type} (g : Chip → β) (hfree : ∀ t c, g (freeTag p t c) = g c) (hdequeue : ∀ t c, g (dequeue p t c) = g c)
    (hslot : ∀ i c, g (freeSlot i c) = g c) (hdisown : ∀ i c, g (disown i c) = g c)
    (hstop : ∀ t pages c, g (returnPages pages (stopDelivery p t pages c)) = g c) : g (unwound p b) = g b := by
  unfold unwound
  refine Laws.each_proj g (endRecord p) (fun t c => ?_) allTags b
  cases hr : c.record p t with
  | none => rw [endRecord_none hr]
  | some x =>
    cases x with
    | handed k l v => rw [endRecord_handed hr]; exact hfree t c
    | data d =>
      cases hs : d.stage with
      | admitted => rw [endRecord_admitted hr hs]; exact (hfree t _).trans (hdequeue t c)
      | granted i got timer => rw [endRecord_granted hr hs]; exact (hfree t _).trans (hslot i c)
      | issued i => rw [endRecord_onMedia hr (.inl hs)]; exact hdisown i c
      | abandoning i a => rw [endRecord_onMedia hr (.inr ⟨a, hs⟩)]; exact hdisown i c
      | delivering pages => rw [endRecord_delivering hr hs]; exact (hfree t _).trans (hstop t pages c)

theorem unwound_cfg : (unwound p b).cfg = b.cfg :=
  unwound_proj (fun c => c.cfg) (fun _ _ => rfl) (by simp) (by simp) (by simp) (by simp)

theorem unwound_map : ∃ u, (unwound p b).map = { b.map with usage := u } := by
  have hall : { (unwound p b).map with usage := b.map.usage } = { b.map with usage := b.map.usage } :=
    unwound_proj (fun c => ({ c.map with usage := b.map.usage } : MapUnit)) (fun _ _ => rfl)
      (fun t c => by obtain ⟨u, hu⟩ := dequeue_map p t c; rw [hu]) (fun i c => by obtain ⟨u, hu⟩ := freeSlot_map i c; rw [hu])
      (by simp) (by simp)
  refine ⟨(unwound p b).map.usage, ?_⟩
  calc (unwound p b).map = { ({ (unwound p b).map with usage := b.map.usage } : MapUnit) with usage := (unwound p b).map.usage } := rfl
    _ = _ := by rw [hall]

theorem unwound_pointer : (unwound p b).arb.pointer = b.arb.pointer :=
  unwound_proj (fun c => c.arb.pointer) (fun _ _ => rfl) (fun t c => dequeue_pointer p t c)
    (fun i c => freeSlot_arb Arbiter.pointer (fun _ _ => rfl) i c) (by simp) (by simp)

/-! ### The hold unit (R42) -/

theorem removeHolds_keeps {P : Chip → Prop} (k : KeptSettling P) {c : Chip} (f : Hold → Bool) (h : P c) :
    P (each removeHold (c.hold.table.filter f) c) := each_keeps (fun x _ hd => k.removeHold x hd) _ h

theorem stripped_keeps {P : Chip → Prop} (k : KeptSettling P)
    (harb : ∀ {c : Chip} (a : Arbiter), a.queues = c.arb.queues → P c → P { c with arb := a }) (h : P (unwound p b)) :
    P (stripped p b) := by
  unfold stripped endSessionHolds
  refine k.holds _ (fun h => by split <;> exact ⟨rfl, rfl⟩) (removeHolds_keeps k _ ?_)
  exact harb _ rfl h

theorem stripped_proj {β : Type} (g : Chip → β) (harb : ∀ (a : Arbiter) (c : Chip), g { c with arb := a } = g c)
    (hholds : ∀ (u : HoldUnit) (c : Chip), g { c with hold := u } = g c) (hremove : ∀ x c, g (removeHold x c) = g c) :
    g (stripped p b) = g (unwound p b) := by
  unfold stripped endSessionHolds
  exact (hholds _ _).trans ((Laws.each_proj g removeHold hremove _ _).trans (harb _ _))

theorem stripped_cfg : (stripped p b).cfg = b.cfg :=
  (stripped_proj (fun c => c.cfg) (fun _ _ => rfl) (fun _ _ => rfl) (by simp)).trans unwound_cfg
theorem stripped_map_eq : (stripped p b).map = (unwound p b).map :=
  stripped_proj (fun c => c.map) (fun _ _ => rfl) (fun _ _ => rfl) (by simp)
theorem stripped_mlink : (stripped p b).mlink = (unwound p b).mlink :=
  stripped_proj (fun c => c.mlink) (fun _ _ => rfl) (fun _ _ => rfl) (by simp)
theorem stripped_pool : (stripped p b).pool = (unwound p b).pool :=
  stripped_proj (fun c => c.pool) (fun _ _ => rfl) (fun _ _ => rfl) (by simp)

theorem stripped_pointer : (stripped p b).arb.pointer = b.arb.pointer := by
  unfold stripped endSessionHolds
  refine Eq.trans ?_ (unwound_pointer (p := p) (b := b))
  exact Laws.each_proj (fun c => c.arb.pointer) removeHold (by simp) _ _

theorem stripped_queues : (stripped p b).arb.queues = (unwound p b).arb.queues := by
  unfold stripped endSessionHolds
  exact Laws.each_proj (fun c => c.arb.queues) removeHold (by simp) _ _

theorem stripped_mapStays : MapStays (unwound p b) (stripped p b) := by
  unfold stripped endSessionHolds
  exact (MapStays.of_ports (d := (unwound p b).modArb _) rfl).trans ((MapStays.each MapStays.removeHold _ _).trans (MapStays.of_ports rfl))

theorem stripped_ports : PortsStay (unwound p b) (stripped p b) :=
  stripped_keeps (PortsStay.settling _) (fun _ _ h => h.trans (PortsStay.of_ports rfl)) (PortsStay.refl _)

theorem stripped_onward : Onward b (stripped p b) := by
  have k := (Onward.running (unwound p b)).toKeptConcluding
  exact silent_unwound.onward.trans (stripped_keeps k.toKeptSettling k.arb (Onward.refl _))

end

end Sys2Proof.SessionEnds
end

section
/-! SUPPORT. The end of a session at the map unit, and what it leaves alone (R150, R155; log entry 4). -/

namespace Sys2Proof.SessionEnds

open Sys2Proof.Machine Sys2Proof.Safety Sys2Proof.Keeping Sys2Proof.DataPath Sys2Proof.SlotOps
  Sys2Proof.Grants Sys2Proof.Aftermath Sys2Proof.HoldProofs Sys2Proof.Resets Sys2Proof.Counts

/-! ### Staging of the session that ends (R155) -/

/-- Staging that port `p` owns. -/
def Owns (p : Port) (x : Staging) : Prop := ∃ cfg, x = .opened p cfg ∨ x = .committing (some p) cfg

section
variable {p : Port} {c : Chip} {cfg : Configuration} {info : CommitInfo}

/-- The commit under way, without its session. -/
def forgotten (info : CommitInfo) : CommitInfo := { info with session := none, tag := none }

theorem endSessionStaging_opened (h : c.map.staging = .opened p cfg) : endSessionStaging p c = endCommit .empty c := by
  unfold endSessionStaging
  rw [h]
  exact if_pos rfl

theorem endSessionStaging_draining {left : Nat} (h : c.map.staging = .committing (some p) cfg)
    (hc : c.map.commit = .draining info left) : endSessionStaging p c = endCommit .empty c := by
  unfold endSessionStaging
  rw [h, hc]
  exact if_pos rfl

theorem endSessionStaging_persisting (h : c.map.staging = .committing (some p) cfg)
    (hc : c.map.commit = .persisting info) : endSessionStaging p c =
      { c with map := { c.map with staging := .committing none cfg, commit := .persisting (forgotten info) } } := by
  unfold endSessionStaging
  rw [h, hc]
  exact if_pos rfl

theorem endSessionStaging_other (h : ¬ Owns p c.map.staging) : endSessionStaging p c = c := by
  have hopened {cfg} : c.map.staging ≠ .opened p cfg := fun hs => h ⟨cfg, .inl hs⟩
  have hcommitting {cfg} : c.map.staging ≠ .committing (some p) cfg := fun hs => h ⟨cfg, .inr hs⟩
  unfold endSessionStaging
  split
  · rename_i q cfg hs
    exact if_neg fun hq : q = p => hopened (hq ▸ hs)
  · rename_i q cfg info hs _
    exact if_neg fun hq : q = p => hcommitting (hq ▸ hs)
  · rename_i q cfg info left hs _
    exact if_neg fun hq : q = p => hcommitting (hq ▸ hs)
  · rfl

theorem endSessionStaging_eq (p : Port) (c : Chip) :
    ∃ x y, endSessionStaging p c = { c with map := { c.map with staging := x, commit := y } } := by
  unfold endSessionStaging
  split
  · split
    · exact ⟨.empty, .idle, rfl⟩
    · exact ⟨_, _, rfl⟩
  · split
    · exact ⟨_, _, rfl⟩
    · exact ⟨_, _, rfl⟩
  · split
    · exact ⟨.empty, .idle, rfl⟩
    · exact ⟨_, _, rfl⟩
  · exact ⟨_, _, rfl⟩

/-- The end of the session is taken first, or the end of a drain that is over (log entry 4). -/
theorem drainBesideEnd_cases (p : Port) (c : Chip) : drainBesideEnd p c = c ∨ drainBesideEnd p c = c.takeFree ∨
    ∃ info left, c.map.commit = .draining info left ∧ info.session = some p ∧ DrainDone c info ∧
      drainBesideEnd p c = drainEnd info (endWaits c.takeFree) := by
  unfold drainBesideEnd
  split
  · rename_i info left hc
    split
    · rename_i hover
      obtain ⟨hsession, hdrained, hbridge⟩ := hover
      dsimp only
      split
      · exact .inr (.inr ⟨info, left, hc, hsession, ⟨(drained_iff c info).1 hdrained, hbridge⟩, rfl⟩)
      · exact .inr (.inl rfl)
    · exact .inl rfl
  all_goals exact .inl rfl

theorem drainBesideEnd_idle (h : ∀ info left, c.map.commit = .draining info left → ¬ DrainDone c info) :
    drainBesideEnd p c = c ∨ drainBesideEnd p c = c.takeFree := by
  rcases drainBesideEnd_cases p c with hc | hc | ⟨info, left, hc, -, hdone, -⟩
  · exact .inl hc
  · exact .inr hc
  · exact absurd hdone (h info left hc)

end

/-! ### What the rest of the cleanup keeps -/

section
variable {p : Port} {b : Chip}

theorem cleanUp_keeps {P : Chip → Prop} (k : KeptSettling P) (htaken : ∀ {c}, P c → P c.takeFree) (h : P (stripped p b)) :
    P (cleanUp p b) := by
  have hdrain : P (drainBesideEnd p (stripped p b)) := by
    rcases drainBesideEnd_cases p (stripped p b) with hd | hd | ⟨info, left, -, -, -, hd⟩ <;> rw [hd]
    · exact h
    · exact htaken h
    · exact k.drainEnd info (k.endWaits (htaken h))
  rw [cleanUp_eq]
  obtain ⟨x, y, hxy⟩ := endSessionStaging_eq p (drainBesideEnd p (stripped p b))
  rw [hxy]
  exact k.commit x y hdrain

/-- What slots, pages and windows count, and what lies in the pages, is as in `c`. -/
def LoansStay (c d : Chip) : Prop := d.mlink = c.mlink ∧ d.pool = c.pool ∧ d.map.usage = c.map.usage

theorem loansStay_settling (c : Chip) : KeptSettling (LoansStay c) where
  responded p t o w _ h := by simpa [LoansStay] using h
  raised f p _ _ h := by simpa [LoansStay] using h
  delivered p h := by simpa [LoansStay] using h
  commit _ _ h := h
  swapped {d} cfg h := by
    refine eachPort_keeps (P := LoansStay c) (fun q d hd => ?_) (show LoansStay c (reloadCredits (d.modMap fun x =>
      { x with active := cfg, epoch := x.epoch + 1, staging := .empty, commit := .idle })) from h)
    split
    · simpa [LoansStay] using hd
    · exact hd
  holds _ _ h := h
  fewerHolds _ h := h
  oneChanged _ _ h := h
  jobs _ _ h := h
  failed h := h

theorem cleanUp_loans : LoansStay (unwound p b) (cleanUp p b) :=
  cleanUp_keeps (loansStay_settling _) (fun h => h)
    ⟨stripped_mlink, stripped_pool, congrArg MapUnit.usage stripped_map_eq⟩

theorem cleanUp_ports : PortsStay (unwound p b) (cleanUp p b) :=
  cleanUp_keeps (PortsStay.settling _) (fun h => h) stripped_ports

theorem cleanUp_onward : Onward b (cleanUp p b) :=
  cleanUp_keeps (Onward.running b).toKeptSettling (fun h => h.trans (Onward.of_same rfl rfl)) stripped_onward

end

end Sys2Proof.SessionEnds
end

section
/-! SUPPORT. Staging of a session that ends, at the end of the event (R150, R152, R155; log entry 4). -/

namespace Sys2Proof.Aftermath

open Sys2Proof.Machine Sys2Proof.Safety Sys2Proof.Keeping

namespace Falls

variable {asker : Option Port} {s : State} {e : Chip}

theorem takeFree (h : Falls asker s e) : Falls asker s e.takeFree :=
  ⟨h.goes.silent (Silent.of_same rfl rfl), h.delivered, h.active, h.epoch, h.pointer, h.exhausted⟩

theorem staged (h : Falls asker s e) (x : Staging) (y : Commit) :
    Falls asker s { e with map := { e.map with staging := x, commit := y } } :=
  ⟨h.goes.silent (Silent.of_same rfl rfl), h.delivered, h.active, h.epoch, h.pointer, h.exhausted⟩

theorem appendJob (h : Falls asker s e) (j : Job) : Falls asker s (appendJob j e) :=
  ⟨h.goes.silent (Silent.of_same rfl rfl), h.delivered, h.active, h.epoch, h.pointer, h.exhausted⟩

theorem endWaits (h : Falls asker s e) : Falls asker s (endWaits e) where
  goes := h.goes.op fun k hk => k.endWaits hk
  delivered q := ((MapStays.each MapStays.endWait _ e) q).1.trans (h.delivered q)
  active := by rw [Laws.endWaits_map]; exact h.active
  epoch := by rw [Laws.endWaits_map]; exact h.epoch
  pointer := by rw [Laws.endWaits_arb]; exact h.pointer
  exhausted := by
    simp only [Chip.writerMayTake, endWaits_cfg]
    exact h.exhausted

end Falls

end Sys2Proof.Aftermath

namespace Sys2Proof.SessionEnds

open Sys2Proof.Machine Sys2Proof.Safety Sys2Proof.Keeping Sys2Proof.DataPath Sys2Proof.SlotOps
  Sys2Proof.Grants Sys2Proof.Aftermath Sys2Proof.HoldProofs Sys2Proof.Resets Sys2Proof.Counts

section
variable {s : State} {p : Port} {reason : CloseReason} {l : LinkState} {u : Table 16 Usage}

/-- The blocks when the end of the session reaches the map unit. -/
abbrev before (s : State) (p : Port) (reason : CloseReason) (l : LinkState) : Chip := stripped p (closedAt s p reason l)

/-- The blocks when the session has been cleaned up. -/
abbrev cleaned (s : State) (p : Port) (reason : CloseReason) (l : LinkState) : Chip := cleanUp p (closedAt s p reason l)

theorem before_map : ∃ v, (before s p reason l).map = { s.chip.map with usage := v } := by
  obtain ⟨v, hv⟩ := unwound_map (p := p) (b := closedAt s p reason l)
  exact ⟨v, stripped_map_eq.trans hv⟩

theorem before_map_rest : (before s p reason l).map.active = s.chip.map.active ∧
    (before s p reason l).map.epoch = s.chip.map.epoch ∧ (before s p reason l).map.staging = s.chip.map.staging ∧
    (before s p reason l).map.commit = s.chip.map.commit := by
  obtain ⟨v, hv⟩ := before_map (s := s) (p := p) (reason := reason) (l := l)
  rw [hv]
  exact ⟨rfl, rfl, rfl, rfl⟩

theorem before_cfg : (before s p reason l).cfg = s.chip.cfg := stripped_cfg

theorem before_usage : (cleaned s p reason l).map.usage = (before s p reason l).map.usage :=
  cleanUp_loans.2.2.trans (congrArg MapUnit.usage stripped_map_eq).symm

theorem falls_before : Falls none (leftBy s p reason u) (before s p reason l) := by
  obtain ⟨hactive, hepoch, -⟩ := before_map_rest (s := s) (p := p) (reason := reason) (l := l)
  obtain ⟨hleftActive, hleftEpoch, -⟩ := leftBy_map_rest s p reason u
  have hgoes : Goes none (leftBy s p reason u) (before s p reason l) :=
    ((goes_closedAt l).silent silent_unwound).op fun k hk => stripped_keeps k.toKeptSettling k.arb hk
  refine Falls.of_goes hgoes (fun q => ?_) (hactive.trans hleftActive.symm) (hepoch.trans hleftEpoch.symm) stripped_pointer
    before_cfg
  have hclosed : ((closedAt s p reason l).ports.get q).delivered = ((leftBy s p reason u).chip.ports.get q).delivered := by
    by_cases hq : q = p
    · subst hq
      rw [closedAt_self, leftBy_self]
    · rw [closedAt_ne hq, leftBy_ne hq]
  exact (stripped_mapStays q).1.trans ((silent_unwound.delivered q).trans hclosed)

theorem conclude_map (e : Chip) : ∃ v, (conclude id e).map = { (settle e).map with usage := v } :=
  (conclude_id_ends e).granted.map

/-! ### Staging that is OPEN -/

theorem drainEnd_opened {c : Chip} {q : Port} {cfg : Configuration} (h : c.map.staging = .opened q cfg) (info : CommitInfo) :
    (drainEnd info c).map.staging = .opened q cfg := by
  unfold drainEnd
  split
  · exact h
  · unfold swap
    rw [h]
    exact h

/-- OPEN staging of the session becomes EMPTY. -/
theorem cleaned_opened {cfg : Configuration} (h : s.chip.map.staging = .opened p cfg) :
    (conclude id (cleaned s p reason l)).map.staging = .empty := by
  obtain ⟨-, -, hstaging, -⟩ := before_map_rest (s := s) (p := p) (reason := reason) (l := l)
  have hopened : (drainBesideEnd p (before s p reason l)).map.staging = .opened p cfg := by
    rcases drainBesideEnd_cases p (before s p reason l) with hd | hd | ⟨info, left, -, -, -, hd⟩ <;> rw [hd]
    · exact hstaging.trans h
    · exact hstaging.trans h
    · exact drainEnd_opened (by rw [Laws.endWaits_map]; exact hstaging.trans h) info
  obtain ⟨v, hv⟩ := conclude_map (cleaned s p reason l)
  have hcleaned : cleaned s p reason l = endCommit .empty (drainBesideEnd p (before s p reason l)) :=
    (cleanUp_eq p _).trans (endSessionStaging_opened hopened)
  rw [hv, settle_map (by rw [hcleaned]; rfl), hcleaned]
  rfl

/-- Staging of another session stays, when no commit is under way. -/
theorem cleaned_not_owned (hown : ¬ Owns p s.chip.map.staging) (hc : s.chip.map.commit = .idle) :
    (conclude id (cleaned s p reason l)).map.staging = s.chip.map.staging := by
  obtain ⟨-, -, hstaging, hcommit⟩ := before_map_rest (s := s) (p := p) (reason := reason) (l := l)
  have hbeside : (drainBesideEnd p (before s p reason l)).map = (before s p reason l).map := by
    rcases drainBesideEnd_idle (p := p) (c := before s p reason l) (fun info left hd => by
      rw [hcommit, hc] at hd; cases hd) with hd | hd <;> rw [hd]
    rfl
  have hcleaned : (cleaned s p reason l).map = (before s p reason l).map := by
    rw [cleaned, cleanUp_eq, endSessionStaging_other (by rw [hbeside, hstaging]; exact hown), hbeside]
  obtain ⟨v, hv⟩ := conclude_map (cleaned s p reason l)
  rw [hv, settle_map (by rw [hcleaned, hcommit, hc]), hcleaned]
  exact hstaging

/-! ### A commit of the session that is DRAINING -/

section
variable {cfg : Configuration} {info : CommitInfo} {left : Nat}

/-- The commit is abandoned when the end of the session is taken first. -/
theorem cleaned_abandoned {e : Chip} (he : e = before s p reason l ∨ e = (before s p reason l).takeFree)
    (hcleaned : cleaned s p reason l = endSessionStaging p e) (hs : s.chip.map.staging = .committing (some p) cfg)
    (hc : s.chip.map.commit = .draining info left) :
    Abandoned s { s with chip := conclude id (cleaned s p reason l) } := by
  obtain ⟨hactive, hepoch, hstaging, hcommit⟩ := before_map_rest (s := s) (p := p) (reason := reason) (l := l)
  have hmap : e.map = (before s p reason l).map := by rcases he with rfl | rfl <;> rfl
  rw [endSessionStaging_draining (by rw [hmap, hstaging, hs]) (by rw [hmap, hcommit, hc])] at hcleaned
  obtain ⟨v, hv⟩ := conclude_map (cleaned s p reason l)
  unfold Abandoned
  rw [show (State.chip { s with chip := conclude id (cleaned s p reason l) }) = conclude id (cleaned s p reason l) from rfl,
    hv, settle_map (by rw [hcleaned]; rfl), hcleaned]
  exact ⟨by rw [← hactive, ← hmap]; rfl, by rw [← hepoch, ← hmap]; rfl, rfl, rfl⟩

/-- The blocks when the commit has become PERSISTING and its session has ended. -/
def persisting (cfg : Configuration) (info : CommitInfo) (e : Chip) : Chip :=
  appendJob .commit
    { endWaits e with map := { e.map with staging := .committing none cfg, commit := .persisting (forgotten info) } }

theorem persisting_of_drainEnd {e : Chip} (hp : info.persist = true) (hs : e.map.staging = .committing (some p) cfg) :
    endSessionStaging p (drainEnd info (endWaits e)) = persisting cfg info e := by
  have hmap : (drainEnd info (endWaits e)).map = { e.map with commit := .persisting info } := by
    rw [drainEnd_persist hp, ← Laws.endWaits_map e]
    rfl
  rw [endSessionStaging_persisting (cfg := cfg) (info := info) (by rw [hmap]; exact hs) (by rw [hmap]), hmap,
    drainEnd_persist hp]
  rfl

/-- A PERSISTING commit without an owner: its job waits, or has failed for want of a generation. -/
theorem persisting_settled {e : Chip} (h : Falls none (leftBy s p reason u) e) :
    (¬ Exhausted s → (settle (persisting cfg info e)).map.active = s.chip.map.active ∧
      (settle (persisting cfg info e)).map.epoch = s.chip.map.epoch ∧
      (settle (persisting cfg info e)).map.staging = .committing none cfg ∧
      (settle (persisting cfg info e)).map.commit = .persisting (forgotten info) ∧
      .commit ∈ jobsOf (settle (persisting cfg info e)).cfg) ∧
    (Exhausted s → (settle (persisting cfg info e)).map.active = s.chip.map.active ∧
      (settle (persisting cfg info e)).map.epoch = s.chip.map.epoch ∧
      (settle (persisting cfg info e)).map.staging = .empty ∧ (settle (persisting cfg info e)).map.commit = .idle) := by
  obtain ⟨hleftActive, hleftEpoch, -⟩ := leftBy_map_rest s p reason u
  have hactive : e.map.active = s.chip.map.active := h.active.trans hleftActive
  have hepoch : e.map.epoch = s.chip.map.epoch := h.epoch.trans hleftEpoch
  have hfalls : Falls none (leftBy s p reason u) (persisting cfg info e) := by
    have hstaged := (h.endWaits.staged (.committing none cfg) (.persisting (forgotten info))).appendJob .commit
    rwa [Laws.endWaits_map] at hstaged
  have hbefore : beforeWriter (persisting cfg info e) = endWaits (persisting cfg info e) :=
    beforeWriter_idle fun i n hd => by cases hd
  have hmap : (beforeWriter (persisting cfg info e)).map = (persisting cfg info e).map := by
    rw [hbefore, Laws.endWaits_map]
  have hqueue : .commit ∈ (beforeWriter (persisting cfg info e)).cfg.queue := by
    rw [hbefore, endWaits_cfg]
    exact List.mem_append_left _ (List.mem_append_right _ (List.mem_singleton.2 rfl))
  constructor
  · intro hx
    obtain ⟨v, hv, hjobs⟩ := settle_taken hfalls hx
    rw [hv, hjobs]
    change (beforeWriter (persisting cfg info e)).map.active = _ ∧ (beforeWriter (persisting cfg info e)).map.epoch = _ ∧
      (beforeWriter (persisting cfg info e)).map.staging = _ ∧ (beforeWriter (persisting cfg info e)).map.commit = _ ∧ _
    rw [hmap]
    exact ⟨hactive, hepoch, rfl, rfl, queue_jobs hqueue⟩
  · intro hx
    have hcommit : (emptied (beforeWriter (persisting cfg info e))).map.commit = .persisting (forgotten info) := by
      change (beforeWriter (persisting cfg info e)).map.commit = _
      rw [hmap]
      rfl
    rw [settle_failed hfalls hx, each_jobFailed_map hcommit hqueue]
    refine ⟨?_, ?_, ?_, rfl⟩
    · change (beforeWriter (persisting cfg info e)).map.active = _
      rw [hmap]
      exact hactive
    · change (beforeWriter (persisting cfg info e)).map.epoch = _
      rw [hmap]
      exact hepoch
    · unfold mapAfterFailure
      dsimp only
      split <;> rfl

/-- The commit of the session is abandoned, or the end of its drain is taken first (R155; log entry 4). -/
theorem cleaned_draining (hs : s.chip.map.staging = .committing (some p) cfg) (hc : s.chip.map.commit = .draining info left) :
    Abandoned s { s with chip := conclude id (cleaned s p reason l) } ∨
      ((∀ n ∈ info.changeSet, (cleaned s p reason l).map.usage.get n = ⟨0, 0⟩) ∧
        ((info.persist = false ∧
            Swapped (leftBy s p reason u) { s with chip := conclude id (cleaned s p reason l) } info cfg) ∨
          (info.persist = true ∧ cleaned s p reason l = persisting cfg info (before s p reason l).takeFree))) := by
  obtain ⟨hactive, hepoch, hstaging, hcommit⟩ := before_map_rest (s := s) (p := p) (reason := reason) (l := l)
  have heq := cleanUp_eq p (closedAt s p reason l)
  rcases drainBesideEnd_cases p (before s p reason l) with hd | hd | ⟨info', left', hc', -, hdone, hd⟩
  · rw [hd] at heq
    exact .inl (cleaned_abandoned (.inl rfl) heq hs hc)
  · rw [hd] at heq
    exact .inl (cleaned_abandoned (.inr rfl) heq hs hc)
  · rw [hcommit, hc] at hc'
    obtain ⟨rfl, -⟩ := Commit.draining.inj hc'
    rw [hd] at heq
    refine .inr ⟨fun n hn => by rw [before_usage]; exact hdone.1 n hn, ?_⟩
    have hbefore : (before s p reason l).takeFree.map.staging = .committing (some p) cfg := hstaging.trans hs
    cases hp : info.persist with
    | true => exact .inr ⟨rfl, heq.trans (persisting_of_drainEnd hp hbefore)⟩
    | false =>
      refine .inl ⟨rfl, ?_⟩
      have hfalls := (falls_before (s := s) (p := p) (reason := reason) (l := l) (u := u)).takeFree.endWaits
      have hinstalled : Installed (leftBy s p reason u) (swap info (endWaits (before s p reason l).takeFree)) info cfg :=
        installed_swap hfalls.goes hfalls.delivered hfalls.epoch hfalls.pointer
          (owner := some p) (by rw [Laws.endWaits_map]; exact hbefore)
      have hswap : cleaned s p reason l = swap info (endWaits (before s p reason l).takeFree) := by
        rw [cleaned, heq, drainEnd_swap hp]
        exact endSessionStaging_other (by rw [hinstalled.staging]; exact nofun)
      have hgoes : Goes none (leftBy s p reason u) (swap info (endWaits (before s p reason l).takeFree)) :=
        hfalls.goes.op fun k hk => k.swap info hk
      rw [hswap]
      exact installed_swapped hgoes hinstalled

/-- What has become of a commit of the session that was DRAINING (R155; log entry 4). -/
theorem draining_over (hs : s.chip.map.staging = .committing (some p) cfg) (hc : s.chip.map.commit = .draining info left) :
    let t : State := { s with chip := conclude id (cleaned s p reason l) }
    ((∃ n ∈ info.changeSet, (cleaned s p reason l).map.usage.get n ≠ ⟨0, 0⟩) → Abandoned s t) ∧
      (Abandoned s t ∨ (info.persist = false ∧ Swapped (leftBy s p reason u) t info cfg) ∨
        (info.persist = true ∧ ¬ Exhausted s ∧ t.chip.map.active = s.chip.map.active ∧
          t.chip.map.epoch = s.chip.map.epoch ∧ t.chip.map.staging = .committing none cfg ∧
          t.chip.map.commit = .persisting (forgotten info) ∧ .commit ∈ jobsOf t.chip.cfg)) := by
  dsimp only
  rcases cleaned_draining (reason := reason) (l := l) (u := u) hs hc with habandoned | ⟨hdrained, hover⟩
  · exact ⟨fun _ => habandoned, .inl habandoned⟩
  · refine ⟨fun ⟨n, hn, hne⟩ => absurd (hdrained n hn) hne, ?_⟩
    rcases hover with hswapped | ⟨hpersist, hcleaned⟩
    · exact .inr (.inl hswapped)
    · obtain ⟨hwaits, hfails⟩ := persisting_settled (cfg := cfg) (info := info)
        (falls_before (s := s) (p := p) (reason := reason) (l := l) (u := u)).takeFree
      rw [← hcleaned] at hwaits hfails
      obtain ⟨v, hv⟩ := conclude_map (cleaned s p reason l)
      have hjobs := (conclude_id_ends (cleaned s p reason l)).granted.jobs
      by_cases hx : Exhausted s
      · obtain ⟨hactive, hepoch, hstaging, hcommit⟩ := hfails hx
        refine .inl ?_
        unfold Abandoned
        dsimp only
        rw [hv]
        exact ⟨hactive, hepoch, hstaging, hcommit⟩
      · rw [hjobs, hv]
        exact .inr (.inr ⟨hpersist, hx, hwaits hx⟩)

end

/-- A commit of the session that is PERSISTING goes on without an owner (R155). -/
theorem persisting_goes_on {cfg : Configuration} {info : CommitInfo} (hs : s.chip.map.staging = .committing (some p) cfg)
    (hc : s.chip.map.commit = .persisting info) (hserved : WriterServed s) :
    let t : State := { s with chip := conclude id (cleaned s p reason l) }
    t.chip.map.active = s.chip.map.active ∧ t.chip.map.epoch = s.chip.map.epoch ∧
      t.chip.map.staging = .committing none cfg ∧ t.chip.map.commit = .persisting (forgotten info) := by
  obtain ⟨hactive, hepoch, hstaging, hcommit⟩ := before_map_rest (s := s) (p := p) (reason := reason) (l := l)
  have hbeside : drainBesideEnd p (before s p reason l) = before s p reason l := by
    unfold drainBesideEnd
    rw [hcommit, hc]
  have hcleaned : cleaned s p reason l = { before s p reason l with map := { (before s p reason l).map with
      staging := .committing none cfg, commit := .persisting (forgotten info) } } := by
    rw [cleaned, cleanUp_eq, hbeside]
    exact endSessionStaging_persisting (hstaging.trans hs) (hcommit.trans hc)
  have hfalls : Falls none (leftBy s p reason s.chip.map.usage) (cleaned s p reason l) := by
    rw [hcleaned]
    exact falls_before.staged _ _
  have hmap : (settle (cleaned s p reason l)).map = (cleaned s p reason l).map := by
    refine settle_undrained hfalls (fun hx => ?_) fun i n hd => ?_
    · rw [hcleaned]
      exact (congrArg ConfigUnit.queue before_cfg).trans (hserved hx.2)
    · rw [hcleaned] at hd
      cases hd
  obtain ⟨v, hv⟩ := conclude_map (cleaned s p reason l)
  dsimp only
  rw [hv, hmap, hcleaned]
  exact ⟨hactive, hepoch, rfl, rfl⟩

end

end Sys2Proof.SessionEnds
end

section
/-! SUPPORT. What the end of a session gives back, and what goes out to its port (R52 to R55, R89, R103, R119). -/

namespace Sys2Proof.SessionEnds

open Sys2Proof.Machine Sys2Proof.Safety Sys2Proof.Keeping Sys2Proof.DataPath Sys2Proof.SlotOps
  Sys2Proof.Grants Sys2Proof.Aftermath Sys2Proof.HoldProofs Sys2Proof.Resets Sys2Proof.Counts

section
variable {s : State} {p : Port} {reason : CloseReason} {l : LinkState}

/-- The blocks before the grant decisions at the end of the event. -/
abbrev ungranted (s : State) (p : Port) (reason : CloseReason) (l : LinkState) : Chip :=
  eachPort closeIfIdle (settle (cleaned s p reason l))

theorem conclude_cleaned : conclude id (cleaned s p reason l) = arbitrate (ungranted s p reason l) := conclude_id_eq _

theorem ungranted_loans : LoansStay (unwound p (closedAt s p reason l)) (ungranted s p reason l) := by
  obtain ⟨hmlink, hpool, husage⟩ : LoansStay (unwound p (closedAt s p reason l)) (settle (cleaned s p reason l)) :=
    (loansStay_settling _).settle cleanUp_loans
  refine ⟨Eq.trans ?_ hmlink, Eq.trans ?_ hpool, Eq.trans ?_ husage⟩
  · exact Laws.eachPort_proj (fun c => c.mlink) closeIfIdle (by simp) _
  · exact Laws.eachPort_proj (fun c => c.pool) closeIfIdle (by simp) _
  · exact Laws.eachPort_proj (fun c => c.map.usage) closeIfIdle (by simp) _

theorem ungranted_usage : (ungranted s p reason l).map.usage = (cleaned s p reason l).map.usage :=
  ungranted_loans.2.2.trans cleanUp_loans.2.2.symm

theorem ungranted_inFlight : ((ungranted s p reason l).ports.get p).inFlight =
    ((unwound p (closedAt s p reason l)).ports.get p).inFlight := by
  rw [ungranted, eachPort_closeIfIdle_port, ended_inFlight,
    ((PortsStay.settling _).settle (PortsStay.refl (cleaned s p reason l)) p).2.2, (cleanUp_ports p).2.2]

/-- What the cleanup has given back (R53, R89, R103, R119). -/
theorem givenBack_unwound : GivenBack s p (unwound p (closedAt s p reason l)) := by
  have hclosed : ((closedAt s p reason l).ports.get p).session ≠ .opened := closedAt_closed
  have hgranted : grantedBy (closedAt s p reason l) p allTags = grantedSlots s.chip p := closedAt_granted allTags
  have hslots := (unwound_all hclosed).slots
  have hpages := unwound_pages hclosed
  have hinFlight := unwound_inFlight hclosed
  have husage := unwound_usage hclosed
  rw [hgranted] at hinFlight
  simp only [hgranted] at husage
  unfold unwound
  refine ⟨fun n hn => (hslots n).1 (hgranted ▸ hn), fun n hn => (hslots n).2 (hgranted ▸ hn), fun u d n r hd hs hr => ?_,
    fun n hn r hr => hpages.writes n (hgranted ▸ hn) r hr, fun u d pages hd => ?_, ?_, fun w => ?_⟩
  · exact unwound_owner hclosed ((closedAt_dataRecord p u).trans hd) hs hr
  · exact hpages.reads u (mem_allTags u) d pages ((closedAt_dataRecord p u).trans hd)
  · rw [hinFlight, closedAt_self]
    rfl
  · have hqueued : queuedBy (closedAt s p reason l) p w allTags = queuedTags s.chip p w := by
      unfold queuedBy
      simp only [closedAt_dataRecord]
      rfl
    rw [husage w, hqueued]
    rfl

theorem givenBack : GivenBack s p (ungranted s p reason l) := by
  obtain ⟨hmlink, hpool, husage⟩ := ungranted_loans (s := s) (p := p) (reason := reason) (l := l)
  have hback := givenBack_unwound (s := s) (p := p) (reason := reason) (l := l)
  have hslot (n : SlotNo) : (ungranted s p reason l).slot n = (unwound p (closedAt s p reason l)).slot n :=
    slot_congr (congrArg MlinkCtl.slots hmlink) n
  unfold GivenBack at hback ⊢
  simp only [hslot, hpool, husage, ungranted_inFlight]
  exact hback

end

end Sys2Proof.SessionEnds
end

section
/-! SUPPORT. The port of a session that ends, at the end of the event (R52 to R55, R89). -/

namespace Sys2Proof.SessionEnds

open Sys2Proof.Machine Sys2Proof.Safety Sys2Proof.Keeping Sys2Proof.DataPath Sys2Proof.SlotOps
  Sys2Proof.Grants Sys2Proof.Aftermath Sys2Proof.HoldProofs Sys2Proof.Resets Sys2Proof.Counts

/-! ### Grants and consequences at a port that is not OPEN -/

theorem decision_port {c d : Chip} {p : Port} (hd : grantDecision c = some d) (h : (c.ports.get p).session ≠ .opened) :
    d.ports.get p = c.ports.get p := by
  obtain ⟨hports | ⟨q, t, r, x, hopen, -, hports⟩, -⟩ := decision_effect hd
  · rw [hports]
  · rw [hports]
    exact Laws.PerPort.get_modify_ne _ _ fun hpq : p = q => h (hpq ▸ hopen)

theorem arbitrate_port {c : Chip} {p : Port} (h : (c.ports.get p).session ≠ .opened) :
    (arbitrate c).ports.get p = c.ports.get p := by
  have hall (n : Nat) : ∀ c : Chip, (c.ports.get p).session ≠ .opened → (decisions n c).ports.get p = c.ports.get p := by
    induction n with
    | zero => exact fun _ _ => rfl
    | succ n ih =>
      intro c h
      unfold decisions
      split
      · rename_i d hd
        have hport := decision_port hd h
        rw [ih d (by rw [hport]; exact h), hport]
      · rfl
  exact hall 16 c h

/-- The controller of port `p` is `pc`, but for the epoch that has been delivered. -/
def Shut (p : Port) (pc : PortCtl) (d : Chip) : Prop := ∃ e, d.ports.get p = { pc with delivered := e }

section
variable {p : Port} {pc : PortCtl}

theorem Shut.ne_of_opened {c : Chip} (hpc : pc.session ≠ .opened) (h : Shut p pc c) {q : Port}
    (hq : (c.ports.get q).session = .opened) : p ≠ q := by
  rintro rfl
  obtain ⟨e, he⟩ := h
  rw [he] at hq
  exact hpc hq

theorem Shut.of_get {c d : Chip} (h : Shut p pc c) (hd : d.ports.get p = c.ports.get p) : Shut p pc d :=
  h.imp fun _ he => hd.trans he

theorem Shut.raiseFlag {c : Chip} (hpc : pc.session ≠ .opened) (h : Shut p pc c) (f : Flag) (q : Port) :
    Shut p pc (raiseFlag f q c) := by
  by_cases hq : (c.ports.get q).session = .opened
  · refine h.of_get ?_
    rw [raiseFlag_open hq]
    exact Laws.PerPort.get_modify_ne _ _ (h.ne_of_opened hpc hq)
  · rw [raiseFlag_closed hq]
    exact h

/-- The consequences of an event leave a port alone whose session is not OPEN. -/
theorem shut_settling (hpc : pc.session ≠ .opened) (hflags : pc.flags.map = false) : KeptSettling (Shut p pc) where
  responded {c} q t o w hq h := by
    refine h.of_get ?_
    calc (freeTag q t (reply q t o w c)).ports.get p = (reply q t o w c).ports.get p :=
          Laws.PerPort.get_modify_ne _ _ (h.ne_of_opened hpc hq)
      _ = c.ports.get p := by rw [Laws.reply_ports]
  raised f q _ _ h := h.raiseFlag hpc f q
  delivered {c} q h := by
    obtain ⟨e, he⟩ := h
    rw [Management.deliver_epoch]
    by_cases hq : p = q
    · subst hq
      refine ⟨c.map.epoch, ?_⟩
      rw [Laws.modPort_ports, Laws.PerPort.get_modify, if_pos rfl, he]
      rw [← hflags]
    · exact ⟨e, (Laws.PerPort.get_modify_ne _ _ hq).trans he⟩
  commit _ _ h := h
  swapped {c} cfg h := by
    refine eachPort_keeps (P := Shut p pc) (fun q d hd => ?_) (show Shut p pc (reloadCredits (c.modMap fun x =>
      { x with active := cfg, epoch := x.epoch + 1, staging := .empty, commit := .idle })) from h)
    split
    · rename_i hopen
      have hq : (d.ports.get q).session = .opened := by simpa [Chip.isOpen] using hopen
      unfold compareEpoch
      split
      · refine hd.of_get ?_
        rw [Management.clearFlag_eq]
        exact Laws.PerPort.get_modify_ne _ _ (hd.ne_of_opened hpc hq)
      · exact hd.raiseFlag hpc .map q
    · exact hd
  holds _ _ h := h
  fewerHolds _ h := h
  oneChanged _ _ h := h
  jobs _ _ h := h
  failed h := h

end

section
variable {s : State} {p : Port} {reason : CloseReason} {l : LinkState}

/-- The controller of the port when the records of its session have ended. -/
abbrev ending (s : State) (p : Port) (reason : CloseReason) (l : LinkState) : PortCtl :=
  (unwound p (closedAt s p reason l)).ports.get p

theorem ending_session : (ending s p reason l).session = .closing reason := by
  refine (unwound_proj (fun c => (c.ports.get p).session) (fun t c => freeTag_session ..) (by simp)
    (fun i c => freeSlot_session ..) (by simp) (fun t pages c => by simp [returnPages])).trans ?_
  rw [closedAt_self]

theorem ending_flags : (ending s p reason l).flags = Flags.clear := by
  refine (silent_unwound.flags p).trans ?_
  rw [closedAt_self]

theorem ending_link : (ending s p reason l).link = l := by
  refine (silent_unwound.link p).trans ?_
  rw [closedAt_self]

theorem shut_cleaned : Shut p (ending s p reason l) (cleaned s p reason l) := by
  have k : KeptSettling (Shut p (ending s p reason l)) :=
    shut_settling (by rw [ending_session]; exact nofun) (by rw [ending_flags]; rfl)
  exact cleanUp_keeps k (fun h => h) (stripped_keeps k (fun _ _ h => h) ⟨_, rfl⟩)

theorem cleaned_session : ((cleaned s p reason l).ports.get p).session = .closing reason := by
  obtain ⟨e, he⟩ := shut_cleaned (s := s) (p := p) (reason := reason) (l := l)
  rw [he]
  exact ending_session

theorem settled_port : ∃ e, (settle (cleaned s p reason l)).ports.get p = { ending s p reason l with delivered := e } :=
  (shut_settling (by rw [ending_session]; exact nofun) (by rw [ending_flags]; rfl)).settle shut_cleaned

/-- The port of the session at the end of the event. -/
theorem concluded_port : ∃ e x, (conclude id (cleaned s p reason l)).ports.get p =
    { ending s p reason l with delivered := e, session := x } ∧
      (ungranted s p reason l).ports.get p = (conclude id (cleaned s p reason l)).ports.get p ∧
      x = if (ending s p reason l).inFlight = 0 then .down else .closing reason := by
  obtain ⟨e, he⟩ := settled_port (s := s) (p := p) (reason := reason) (l := l)
  have hclosing : ((settle (cleaned s p reason l)).ports.get p).session = .closing reason := by
    rw [he]
    exact ending_session
  have hport : (ungranted s p reason l).ports.get p = ended ((settle (cleaned s p reason l)).ports.get p) :=
    eachPort_closeIfIdle_port p _
  have hsession := ended_closing hclosing
  have hsame : (conclude id (cleaned s p reason l)).ports.get p = (ungranted s p reason l).ports.get p := by
    rw [conclude_cleaned]
    refine arbitrate_port ?_
    rw [hport, hsession]
    split <;> exact nofun
  have hended : ended ((settle (cleaned s p reason l)).ports.get p) =
      { (settle (cleaned s p reason l)).ports.get p with
        session := (ended ((settle (cleaned s p reason l)).ports.get p)).session } := by
    unfold ended
    rw [hclosing]
    dsimp only
    split
    · rfl
    · rfl
  refine ⟨e, _, ?_, hsame.symm, rfl⟩
  rw [hsame, hport, hended, hsession, he]

end

end Sys2Proof.SessionEnds
end

section
/-! SUPPORT. What a session that has ended leaves: frames, records, its queue, its holds (R32, R42, R52 to R55, R89). -/

namespace Sys2Proof.SessionEnds

open Sys2Proof.Machine Sys2Proof.Safety Sys2Proof.Keeping Sys2Proof.DataPath Sys2Proof.SlotOps
  Sys2Proof.Grants Sys2Proof.Aftermath Sys2Proof.HoldProofs Sys2Proof.Resets Sys2Proof.Counts

section
variable {s : State} {p : Port} {reason : CloseReason} {l : LinkState}

/-! ### Frames (R53, R55; log entry 5) -/

theorem closedAt_goneFrames (gone : Tag → Nat) : goneFrames (closedAt s p reason l) p gone = goneFrames s.chip p gone := by
  funext tag
  unfold goneFrames
  rw [closedAt_dataRecord]
  rfl

theorem closes_cleaned : Closes p reason (unwound p (closedAt s p reason l)).sent (conclude id (cleaned s p reason l)) := by
  have m := Closes.mutes p reason (unwound p (closedAt s p reason l)).sent
  have k := m.concluding
  exact k.conclude_id (cleanUp_keeps k.toKeptSettling (fun h => m.of_same h rfl rfl rfl)
    (stripped_keeps k.toKeptSettling k.arb (Closes.start ending_session)))

theorem frames_over : ∃ (gone : Tag → Nat) (after : List Sent), (conclude id (cleaned s p reason l)).sent =
      s.chip.sent ++ allTags.flatMap (goneFrames s.chip p gone) ++ after ∧
    (∀ tag d pages, s.chip.dataRecord p tag = some d → d.stage = .delivering pages → pages ≠ [] →
      gone tag < pages.length) ∧
    (∀ f, .toPort p f ∈ after → f = .closed reason) ∧
    (.toPort p (.closed reason) ∈ after ↔ ((conclude id (cleaned s p reason l)).ports.get p).inFlight = 0 ∧ l = .up) := by
  obtain ⟨-, gone, hgone, hfewer⟩ := unwound_frames (closedAt_closed (s := s) (p := p) (reason := reason) (l := l))
  obtain ⟨-, after, hafter, hclosed, hiff⟩ := closes_cleaned (s := s) (p := p) (reason := reason) (l := l)
  have hsent : (unwound p (closedAt s p reason l)).sent = s.chip.sent ++ allTags.flatMap (goneFrames s.chip p gone) := by
    rw [← closedAt_goneFrames (reason := reason) (l := l)]
    unfold unwound
    exact hgone
  refine ⟨gone, after, by rw [hafter, hsent], fun tag d pages hd => ?_, hclosed, hiff.trans ?_⟩
  · exact hfewer tag (mem_allTags tag) d pages ((closedAt_dataRecord p tag).trans hd)
  · obtain ⟨e, x, hport, -, hx⟩ := concluded_port (s := s) (p := p) (reason := reason) (l := l)
    rw [hport]
    refine and_congr ?_ (by rw [ending_link])
    rw [hx]
    by_cases hidle : (ending s p reason l).inFlight = 0
    · simp [hidle]
    · simp [hidle]

/-! ### Records and the queue (R54, R89) -/

theorem records_over {u : Tag} {x : Record} (h : (conclude id (cleaned s p reason l)).record p u = some x) :
    ∃ d n, x = .data d ∧ OnMedia d n := by
  obtain ⟨e, y, hport, -⟩ := concluded_port (s := s) (p := p) (reason := reason) (l := l)
  refine (unwound_all (closedAt_closed (s := s) (p := p) (reason := reason) (l := l))).ended u (mem_allTags u) x ?_
  unfold Chip.record at h ⊢
  rw [hport] at h
  unfold ending unwound at h
  exact h

theorem queuesStay_settling (base : PerPort (List Tag)) : KeptSettling fun d : Chip => d.arb.queues = base where
  responded p t o w _ h := by simpa using h
  raised f p _ _ h := by simpa using h
  delivered p h := by simpa using h
  commit _ _ h := h
  swapped {c} cfg h := by
    rw [swapped_arb]
    exact h
  holds _ _ h := h
  fewerHolds _ h := h
  oneChanged _ _ h := h
  jobs _ _ h := h
  failed h := h

theorem queue_over (hn : (s.chip.arb.queues.get p).Nodup)
    (hadmitted : ∀ u ∈ s.chip.arb.queues.get p, ∃ d, s.chip.dataRecord p u = some d ∧ d.stage = .admitted) :
    (conclude id (cleaned s p reason l)).arb.queues.get p = [] := by
  have hunwound : (unwound p (closedAt s p reason l)).arb.queues.get p = [] := by
    unfold unwound
    refine unwound_queue closedAt_closed hn fun u hu => ?_
    rw [closedAt_dataRecord]
    exact hadmitted u hu
  have k := queuesStay_settling (unwound p (closedAt s p reason l)).arb.queues
  have hsettled := k.settle (cleanUp_keeps k (fun h => h) (stripped_keeps k (fun _ ha h => ha.trans h) rfl))
  have hsuffix := (conclude_id_ends (cleaned s p reason l)).granted.queues p
  rw [hsettled, hunwound] at hsuffix
  exact List.suffix_nil.1 hsuffix

/-! ### Holds of the port (R32, R42) -/

/-- Every hold of port `p` outlives its session, and its placement is answered no more. -/
def Silenced (p : Port) (c : Chip) : Prop := ∀ h ∈ c.hold.table, h.owner = p → h.cls ≠ .session ∧ h.answerTo = none

theorem silenced_stripped {b : Chip} : Silenced p (stripped p b) := by
  unfold stripped
  intro x hx howner
  refine ⟨fun hcls => noSessionHold_end p _ x hx hcls howner, ?_⟩
  rw [endSessionHolds_table, List.mem_map] at hx
  obtain ⟨y, -, rfl⟩ := hx
  by_cases hy : y.owner = p
  · rw [if_pos hy]
  · rw [if_neg hy] at howner
    exact absurd howner hy

theorem Silenced.fewer {c d : Chip} (h : Silenced p c) (hd : d.hold.table ⊆ c.hold.table) : Silenced p d :=
  fun x hx => h x (hd hx)

theorem Silenced.endWaits {c : Chip} (h : Silenced p c) : Silenced p (endWaits c) := by
  intro x hx howner
  rcases mem_endWaits hx with ⟨hm, -⟩ | ⟨z, hz, -, rfl⟩
  · exact h x hm howner
  · unfold Laws.endedHold at howner ⊢
    by_cases hc : z.cls = .fixed
    · rw [if_pos hc] at howner ⊢
      exact h z hz howner
    · rw [if_neg hc] at howner ⊢
      exact ⟨(h z hz howner).1, rfl⟩

theorem Silenced.settle {c : Chip} (h : Silenced p c) : Silenced p (settle c) := by
  have hbefore : Silenced p (beforeWriter c) := by
    refine h.endWaits.fewer ?_
    rw [beforeWriter, Laws.drainTest_hold]
    exact List.Subset.refl _
  rw [settle_eq]
  by_cases hx : (beforeWriter c).cfg.generation = 0xFFFFFFFF#32 ∧ (beforeWriter c).writerMayTake = true
  · rw [writerTake_exhausted hx.1 hx.2]
    refine hbefore.fewer ?_
    rw [each_jobFailed_table]
    exact List.filter_sublist.subset
  · obtain ⟨u, hu, -⟩ := writerTake_takes hx
    rw [hu]
    exact hbefore

theorem holds_over : Silenced p (conclude id (cleaned s p reason l)) := by
  have hbeside : Silenced p (drainBesideEnd p (before s p reason l)) := by
    rcases drainBesideEnd_cases p (before s p reason l) with hd | hd | ⟨info, left, -, -, -, hd⟩ <;> rw [hd]
    · exact silenced_stripped
    · exact silenced_stripped.fewer (List.Subset.refl _)
    · have hwaits : Silenced p (endWaits (before s p reason l).takeFree) :=
        (silenced_stripped.fewer (d := (before s p reason l).takeFree) (List.Subset.refl _)).endWaits
      exact hwaits.fewer (by rw [Laws.drainEnd_hold]; exact List.Subset.refl _)
  have hcleaned : Silenced p (cleaned s p reason l) :=
    hbeside.fewer (by rw [cleaned, cleanUp_eq, Laws.endSessionStaging_hold]; exact List.Subset.refl _)
  exact hcleaned.settle.fewer (by rw [(conclude_id_ends _).granted.hold]; exact List.Subset.refl _)

end

end Sys2Proof.SessionEnds
end

section
/-! SUPPORT. The holds of a session that ends: what is told of them, and what the others are (R32, R41, R42, R119). -/

namespace Sys2Proof.SessionEnds

open Sys2Proof.Machine Sys2Proof.Safety Sys2Proof.Keeping Sys2Proof.DataPath Sys2Proof.SlotOps
  Sys2Proof.Grants Sys2Proof.Aftermath Sys2Proof.HoldProofs Sys2Proof.Resets Sys2Proof.Counts

theorem each_removeHold_told {asker : Option Port} {s : State} {c : Chip} {list : List Hold} (h : Goes asker s c)
    (hactive : c.map.active = s.chip.map.active) {x : Hold} (hx : x ∈ list) :
    HoldsSet s (each removeHold list c) x.range := by
  induction list generalizing c with
  | nil => cases hx
  | cons y rest ih =>
    change HoldsSet s (each removeHold rest (removeHold y c)) x.range
    rcases List.mem_cons.1 hx with rfl | hx
    · have hset : HoldsSet s (removeHold x c) x.range :=
        holdsSet_notice (h.silent (d := dropHold x.id c) (Silent.of_same rfl rfl)) hactive x.range
      exact hset.onward (each_keeps (fun z _ hd => (Onward.running _).toKeptSettling.removeHold z hd) rest (Onward.refl _))
    · exact ih (h.op fun k hk => k.removeHold y hk) (by simpa using hactive) hx

section
variable {s : State} {p : Port} {reason : CloseReason} {l : LinkState} {u : Table 16 Usage}

theorem goes_cleaned : Goes none (leftBy s p reason u) (cleaned s p reason l) := by
  have hbefore := (falls_before (s := s) (p := p) (reason := reason) (l := l) (u := u)).goes
  have k := (Since.running none (leftBy s p reason u)).toKeptSettling
  have honward : Onward (before s p reason l) (cleaned s p reason l) :=
    cleanUp_keeps (Onward.running _).toKeptSettling (fun h => h.trans (Onward.of_same rfl rfl)) (Onward.refl _)
  exact hbefore.onward honward (cleanUp_keeps k (fun h => h.of_same rfl rfl) hbefore.since)

theorem goes_concluded : Goes none (leftBy s p reason u) (conclude id (cleaned s p reason l)) :=
  goes_cleaned.op fun k hk => k.conclude_id hk

theorem unwound_holds : (unwound p (closedAt s p reason l)).hold.table =
    s.chip.hold.table.map (unwaiting ((grantedSlots s.chip p).filter fun i => (s.chip.slot i).isSome)) := by
  unfold unwound
  rw [unwound_table closedAt_closed, closedAt_freed]
  rfl

theorem goes_unwound : Goes none (leftBy s p reason u) (unwound p (closedAt s p reason l)) :=
  (goes_closedAt l).silent silent_unwound

/-- Each SESSION hold that goes is told of (R41, R42). -/
theorem holds_told {h : Hold} (hm : h ∈ s.chip.hold.table) (howner : h.owner = p) (hcls : h.cls = .session) :
    HoldsTold (leftBy s p reason u) { s with chip := conclude id (cleaned s p reason l) } h.range none := by
  obtain ⟨b, hb⟩ : ∃ b, b = closedAt s p reason l := ⟨_, rfl⟩
  obtain ⟨v, hv⟩ := unwound_map (p := p) (b := b)
  have hactive : (relieved p b).map.active = (leftBy s p reason u).chip.map.active := by
    change (unwound p b).map.active = _
    rw [hv, (leftBy_map_rest s p reason u).1, hb]
    rfl
  have hmem : unwaiting ((grantedSlots s.chip p).filter fun i => (s.chip.slot i).isSome) h ∈
      (relieved p b).hold.table.filter fun h => h.owner = p && h.cls = .session := by
    refine List.mem_filter.2 ⟨?_, by simp [unwaiting, howner, hcls]⟩
    change _ ∈ (unwound p b).hold.table
    rw [hb, unwound_holds]
    exact List.mem_map_of_mem hm
  have hgoes : Goes none (leftBy s p reason u) (relieved p b) := by
    rw [hb]
    exact goes_unwound.silent (Silent.of_same rfl rfl)
  have hset : HoldsSet (leftBy s p reason u) (before s p reason l) h.range := by
    unfold before stripped
    rw [← hb]
    exact (each_removeHold_told hgoes hactive hmem).onward (d := endSessionHolds p (relieved p b)) (Onward.of_same rfl rfl)
  have honward : Onward (before s p reason l) (cleaned s p reason l) :=
    cleanUp_keeps (Onward.running _).toKeptSettling (fun h => h.trans (Onward.of_same rfl rfl)) (Onward.refl _)
  have hend : Onward (before s p reason l) (conclude id (cleaned s p reason l)) :=
    honward.trans (Onward.conclude (answers := id) Onward.refl _)
  exact (hset.onward hend).told goes_concluded

/-- The holds that the end of the session leaves (R32, R42, R119). -/
theorem before_table (hrange : HoldTableInRange s) :
    (before s p reason l).hold.table = (leftBy s p reason u).chip.hold.table := by
  obtain ⟨freed, hfreed⟩ : ∃ freed, freed = (grantedSlots s.chip p).filter fun i => (s.chip.slot i).isSome := ⟨_, rfl⟩
  have hleft : (leftBy s p reason u).chip.hold.table =
      (s.chip.hold.table.filter fun h => h.owner ≠ p ∨ h.cls ≠ .session).map (orphaned p freed) := by
    rw [hfreed]
    rfl
  have htable : (relieved p (closedAt s p reason l)).hold.table =
      s.chip.hold.table.map (unwaiting freed) := by
    rw [hfreed]
    exact unwound_holds
  have horphaned : (fun h : Hold => if h.owner = p then { h with answerTo := none } else h) ∘ unwaiting freed =
      orphaned p freed := by
    funext h
    change (if h.owner = p then { unwaiting freed h with answerTo := none } else unwaiting freed h) =
      { unwaiting freed h with answerTo := if h.owner = p then none else h.answerTo }
    by_cases ho : h.owner = p
    · rw [if_pos ho, if_pos ho]
    · rw [if_neg ho, if_neg ho]
      rfl
  have hgone (h : Hold) (hm : h ∈ s.chip.hold.table) :
      (∀ y ∈ (s.chip.hold.table.map (unwaiting freed)).filter (fun h : Hold => h.owner = p && h.cls = .session),
        (unwaiting freed h).id ≠ y.id) ↔ (h.owner ≠ p ∨ h.cls ≠ .session) := by
    constructor
    · intro hall
      by_contra hown
      simp only [not_or, not_not] at hown
      exact hall (unwaiting freed h) (List.mem_filter.2 ⟨List.mem_map_of_mem hm, by simp [unwaiting, hown.1, hown.2]⟩) rfl
    · intro hother y hy hid
      obtain ⟨hy, hown⟩ := List.mem_filter.1 hy
      obtain ⟨z, hz, rfl⟩ := List.mem_map.1 hy
      have hzh : z = h := eq_of_id_eq hrange.2.2 hz hm hid.symm
      subst hzh
      have hboth : z.owner = p ∧ z.cls = .session := by
        rw [Bool.and_eq_true] at hown
        exact ⟨of_decide_eq_true hown.1, of_decide_eq_true hown.2⟩
      exact hother.elim (fun ho => ho hboth.1) fun hc => hc hboth.2
  rw [before, stripped, endSessionHolds_table, htable, hleft, List.filter_map, List.map_map, horphaned]
  congr 1
  refine List.filter_congr fun h hm => ?_
  simp only [Function.comp]
  exact decide_eq_decide.2 (hgone h hm)

end

end Sys2Proof.SessionEnds
end

section
/-! SUPPORT. What the counts that a session gives back bring about (R32 to R34, R119, R150, R155, R163, R164). -/

namespace Sys2Proof.SessionEnds

open Sys2Proof.Machine Sys2Proof.Safety Sys2Proof.Keeping Sys2Proof.DataPath Sys2Proof.SlotOps
  Sys2Proof.Grants Sys2Proof.Aftermath Sys2Proof.HoldProofs Sys2Proof.Resets Sys2Proof.Counts

/-- `CountsFell` looks at the hold table, the configuration unit and a commit under way alone. -/
theorem countsFell_congr {s t : State} {c d : Chip} (h : CountsFell s t c) (hhold : d.hold.table = c.hold.table)
    (hcfg : d.cfg = c.cfg) (hmap : d.map.commit = .idle ∨ d.map = c.map) : CountsFell s t d := by
  intro hrange hserved
  obtain ⟨hwaits, hothers, hdrains, hjobs, hleft⟩ := h hrange hserved
  refine ⟨by rw [hhold]; exact hwaits, by rw [hhold]; exact hothers, fun info left owner cfg hc hs => ?_,
    by rw [hhold, hcfg]; exact hjobs, hleft⟩
  rcases hmap with hidle | hmap
  · rw [hidle] at hc
    cases hc
  · rw [hmap] at hc hs ⊢
    rw [hcfg]
    exact hdrains info left owner cfg hc hs

theorem endWaits_self {c : Chip} (h : ∀ x ∈ c.hold.table, x.state ≠ .pending []) : endWaits c = c := by
  unfold endWaits
  rw [List.filter_eq_nil_iff.2 fun x hx => by simpa using h x hx]
  rfl

/-- The end of a drain leaves no commit DRAINING, or there is nothing to swap. -/
theorem drainEnd_over (info : CommitInfo) (c : Chip) : (∀ i n, (drainEnd info c).map.commit ≠ .draining i n) ∨
    (drainEnd info c = c ∧ ∀ owner cfg, c.map.staging ≠ .committing owner cfg) := by
  cases hp : info.persist with
  | true =>
    rw [drainEnd_persist hp]
    exact .inl fun i n => nofun
  | false =>
    rw [drainEnd_swap hp]
    cases hs : c.map.staging with
    | committing owner cfg =>
      refine .inl fun i n => ?_
      rw [swap_eq hs, Laws.answerCommit_map, Laws.deliverCommit_map, swapped_map]
      exact nofun
    | empty => exact .inr ⟨by unfold swap; rw [hs], nofun⟩
    | opened q cfg => exact .inr ⟨by unfold swap; rw [hs], nofun⟩

theorem endSessionStaging_commit {p : Port} {c : Chip} {i : CommitInfo} {n : Nat}
    (h : (endSessionStaging p c).map.commit = .draining i n) : endSessionStaging p c = c := by
  by_cases hown : Owns p c.map.staging
  · obtain ⟨cfg, hs | hs⟩ := hown
    · rw [endSessionStaging_opened hs] at h
      cases h
    · cases hc : c.map.commit with
      | idle => unfold endSessionStaging; rw [hs, hc]
      | draining info left => rw [endSessionStaging_draining hs hc] at h; cases h
      | persisting info => rw [endSessionStaging_persisting hs hc] at h; cases h
  · exact endSessionStaging_other hown

section
variable {s : State} {p : Port} {reason : CloseReason} {l : LinkState} {u : Table 16 Usage}

/-- The end of the drain has been taken first (log entry 4). -/
structure DrainFirst (s : State) (p : Port) (reason : CloseReason) (l : LinkState) (info : CommitInfo) (left : Nat) : Prop where
  commit : s.chip.map.commit = .draining info left
  done : DrainDone (before s p reason l).takeFree info
  blocks : cleaned s p reason l = endSessionStaging p (beforeWriter (before s p reason l).takeFree)

/-- The end of the session has been taken first, or the end of the drain. -/
theorem cleaned_cases : (∃ e, (e = before s p reason l ∨ e = (before s p reason l).takeFree) ∧
      cleaned s p reason l = endSessionStaging p e) ∨ ∃ info left, DrainFirst s p reason l info left := by
  obtain ⟨-, -, -, hcommit⟩ := before_map_rest (s := s) (p := p) (reason := reason) (l := l)
  have heq := cleanUp_eq p (closedAt s p reason l)
  rcases drainBesideEnd_cases p (before s p reason l) with hd | hd | ⟨info, left, hc, -, hdone, hd⟩
  · exact .inl ⟨_, .inl rfl, by rw [hd] at heq; exact heq⟩
  · exact .inl ⟨_, .inr rfl, by rw [hd] at heq; exact heq⟩
  · refine .inr ⟨info, left, hcommit.symm.trans hc, hdone, ?_⟩
    rw [beforeWriter_drained (e := (before s p reason l).takeFree) hc hdone, ← hd]
    exact heq

/-! ### The end of the session first -/

theorem left_map_other (hown : ¬ Owns p s.chip.map.staging) :
    (leftBy s p reason u).chip.map = { s.chip.map with usage := u } :=
  leftBy_other s p reason u fun cfg => ⟨fun hs => hown ⟨cfg, .inl hs⟩, fun hs => hown ⟨cfg, .inr hs⟩⟩

theorem left_commit_idle (hown : Owns p s.chip.map.staging) : (leftBy s p reason u).chip.map.commit = .idle := by
  obtain ⟨cfg, hs⟩ := hown
  rw [leftBy_own s p reason u hs]

theorem before_map_left (hown : ¬ Owns p s.chip.map.staging) :
    (before s p reason l).map = (leftBy s p reason (before s p reason l).map.usage).chip.map := by
  obtain ⟨v, hv⟩ := before_map (s := s) (p := p) (reason := reason) (l := l)
  rw [left_map_other hown, hv]

theorem countsFell_endFirst (hrange : HoldTableInRange s) {e : Chip}
    (he : e = before s p reason l ∨ e = (before s p reason l).takeFree)
    (hcleaned : cleaned s p reason l = endSessionStaging p e) (hu : u = (before s p reason l).map.usage) :
    CountsFell (leftBy s p reason u) { s with chip := conclude id (cleaned s p reason l) } (leftBy s p reason u).chip := by
  have hfalls : Falls none (leftBy s p reason u) e := by
    rcases he with rfl | rfl
    · exact falls_before
    · exact falls_before.takeFree
  have hsame : e.cfg = s.chip.cfg ∧ e.map = (before s p reason l).map ∧
      e.hold.table = (leftBy s p reason u).chip.hold.table := by
    rcases he with rfl | rfl <;> exact ⟨before_cfg, rfl, before_table hrange⟩
  obtain ⟨hcfg, hmap, htable⟩ := hsame
  obtain ⟨x, y, hxy⟩ := endSessionStaging_eq p e
  have hstaged : Falls none (leftBy s p reason u) (cleaned s p reason l) := by
    rw [hcleaned, hxy]
    exact hfalls.staged x y
  have hcfg' : (cleaned s p reason l).cfg = s.chip.cfg := by rw [hcleaned, hxy]; exact hcfg
  have htable' : (leftBy s p reason u).chip.hold.table = (cleaned s p reason l).hold.table := by
    rw [hcleaned, hxy]; exact htable.symm
  have hcounts : CountsFell (leftBy s p reason u) { s with chip := conclude id (cleaned s p reason l) }
      (cleaned s p reason l) :=
    countsFell_conclude Answering.id rfl rfl rfl fun hleft hserved =>
      hstaged.fallen hserved hcfg' (by rw [← htable']; exact hleft.2.2)
  refine countsFell_congr hcounts htable' hcfg'.symm ?_
  by_cases hown : Owns p s.chip.map.staging
  · exact .inl (left_commit_idle hown)
  · obtain ⟨-, -, hstaging, -⟩ := before_map_rest (s := s) (p := p) (reason := reason) (l := l)
    rw [hcleaned, endSessionStaging_other (by rw [hmap, hstaging]; exact hown), hmap, hu]
    exact .inr (before_map_left hown).symm

/-! ### The end of the drain first -/

section
variable {info : CommitInfo} {left : Nat}

/-- Nothing but the writer's turn follows: the waits and the drain have ended. -/
theorem DrainFirst.settle_cleaned (k : DrainFirst s p reason l info left) :
    settle (cleaned s p reason l) = writerTake (cleaned s p reason l) := by
  obtain ⟨hc, hdone, hblocks⟩ := k
  obtain ⟨e, he⟩ : ∃ e, e = (before s p reason l).takeFree := ⟨_, rfl⟩
  obtain ⟨-, -, -, hcommit⟩ := before_map_rest (s := s) (p := p) (reason := reason) (l := l)
  have hbefore : beforeWriter e = drainEnd info (endWaits e) := by
    rw [he]
    exact beforeWriter_drained (hcommit.trans hc) hdone
  rw [← he] at hblocks
  obtain ⟨x, y, hxy⟩ := endSessionStaging_eq p (beforeWriter e)
  have hwaits : endWaits (cleaned s p reason l) = cleaned s p reason l := by
    refine endWaits_self fun z hz => ?_
    rw [hblocks, hxy] at hz
    exact beforeWriter_none hz
  have hdrains : drainTest (cleaned s p reason l) = cleaned s p reason l := by
    by_cases hdraining : ∃ i n, (cleaned s p reason l).map.commit = .draining i n
    · obtain ⟨i, n, hi⟩ := hdraining
      rw [hblocks] at hi
      rw [hblocks, endSessionStaging_commit hi]
      rw [endSessionStaging_commit hi] at hi
      rcases drainEnd_over info (endWaits e) with hnone | ⟨hsame, -⟩
      · exact absurd (hbefore ▸ hi) (hnone i n)
      · rw [hbefore, hsame]
        exact hbefore.trans hsame
    · exact drainTest_same fun i n hi => absurd ⟨i, n, hi⟩ hdraining
  rw [settle_eq, beforeWriter, hwaits, hdrains]

theorem DrainFirst.after (k : DrainFirst s p reason l info left) :
    After none (leftBy s p reason u) (before s p reason l).takeFree (cleaned s p reason l) := by
  obtain ⟨hgoes, honward, htable, last, hlast, hcfg⟩ :=
    after_beforeWriter (falls_before (s := s) (p := p) (reason := reason) (l := l) (u := u)).takeFree
  obtain ⟨x, y, hxy⟩ := endSessionStaging_eq p (beforeWriter (before s p reason l).takeFree)
  rw [k.blocks, hxy]
  exact ⟨hgoes.silent (Silent.of_same rfl rfl), honward.trans (Onward.of_same rfl rfl), htable, last, hlast, hcfg⟩

/-- Where another session owns the staging, the end of this one changes nothing of it. -/
theorem DrainFirst.settle_other (k : DrainFirst s p reason l info left) (hown : ¬ Owns p s.chip.map.staging) :
    settle (cleaned s p reason l) = settle (before s p reason l).takeFree := by
  obtain ⟨-, -, hstaging, hcommit⟩ := before_map_rest (s := s) (p := p) (reason := reason) (l := l)
  have hbefore : beforeWriter (before s p reason l).takeFree = drainEnd info (endWaits (before s p reason l).takeFree) :=
    beforeWriter_drained (hcommit.trans k.commit) k.done
  have hwaits : (endWaits (before s p reason l).takeFree).map.staging = s.chip.map.staging := by
    rw [Laws.endWaits_map]
    exact hstaging
  have hdrained : ¬ Owns p (beforeWriter (before s p reason l).takeFree).map.staging := by
    rw [hbefore]
    cases hp : info.persist with
    | true =>
      rw [drainEnd_persist hp]
      change ¬ Owns p (endWaits (before s p reason l).takeFree).map.staging
      rw [hwaits]
      exact hown
    | false =>
      rw [drainEnd_swap hp]
      cases hs : s.chip.map.staging with
      | committing owner cfg =>
        rw [swap_eq (hwaits.trans hs), Laws.answerCommit_map, Laws.deliverCommit_map, swapped_map]
        exact nofun
      | empty =>
        unfold swap
        rw [hwaits, hs]
        dsimp only
        rw [hwaits]
        exact hown
      | opened q cfg =>
        unfold swap
        rw [hwaits, hs]
        dsimp only
        rw [hwaits]
        exact hown
  rw [k.settle_cleaned, settle_eq (before s p reason l).takeFree, k.blocks, endSessionStaging_other hdrained]

theorem countsFell_drainFirst (k : DrainFirst s p reason l info left) (hrange : HoldTableInRange s)
    (hu : u = (before s p reason l).map.usage) :
    CountsFell (leftBy s p reason u) { s with chip := conclude id (cleaned s p reason l) } (leftBy s p reason u).chip := by
  intro hleft hserved
  obtain ⟨e, he⟩ : ∃ e, e = (before s p reason l).takeFree := ⟨_, rfl⟩
  have htable : (leftBy s p reason u).chip.hold.table = e.hold.table := by rw [he]; exact (before_table hrange).symm
  have hcfg : e.cfg = (leftBy s p reason u).chip.cfg := by rw [he]; exact before_cfg
  have hfalls : Falls none (leftBy s p reason u) e := by rw [he]; exact falls_before.takeFree
  have hfallen : Fallen none (leftBy s p reason u) e := hfalls.fallen hserved hcfg (by rw [← htable]; exact hleft.2.2)
  have hafter : After none (leftBy s p reason u) e (cleaned s p reason l) := by rw [he]; exact k.after
  have hends := conclude_id_ends (cleaned s p reason l)
  rw [k.settle_cleaned] at hends
  rw [htable]
  refine ⟨fun h hm ho => ?_, fun h hm ho => ?_, fun i n owner cfg hc hs => ?_, fun hx => ?_, ?_⟩
  · exact waitEnded_ends (hafter.waitEnded hfallen hm ho) (hafter.waitEnded hfallen hm ho) hends
  · change h ∈ (conclude id (cleaned s p reason l)).hold.table
    rw [hends.granted.hold]
    exact hafter.other_stays hfallen hm ho
  · have hown : ¬ Owns p s.chip.map.staging := fun hown => by
      rw [left_commit_idle hown] at hc
      cases hc
    have hmap : e.map = (leftBy s p reason u).chip.map := by rw [he, hu]; exact before_map_left hown
    have hi : i = info := by
      rw [left_map_other hown] at hc
      exact (Commit.draining.inj (hc.symm.trans k.commit)).1
    subst hi
    have hdone : DrainDone e i := by rw [he]; exact k.done
    have hover : DrainOver (leftBy s p reason u) (settle e) i owner cfg :=
      settle_drained hfalls (by rw [hmap]; exact hc) (by rw [hmap]; exact hs) hdone
    rw [← k.settle_cleaned, k.settle_other hown, ← he] at hends
    refine ⟨fun _ _ => ?_, fun hnot => absurd (by rw [← hmap]; exact hdone.1) hnot⟩
    exact drainEnded_ends hover hover (settle_goes hfalls) (settle_goes hfalls) nofun hends
  · obtain ⟨last, hlast, hjobs⟩ := hafter.jobs hfalls hx
    refine ⟨last, hlast, ?_⟩
    change jobsOf (conclude id (cleaned s p reason l)).cfg = _
    rw [hends.granted.jobs, hjobs, hcfg]
    rfl
  · exact (writerServed_iff _).2 (Served.conclude id (cleaned s p reason l))

end

/-- What the counts that the session gives back bring about. -/
theorem countsFell_cleaned (hrange : HoldTableInRange s) (hu : u = (before s p reason l).map.usage) :
    CountsFell (leftBy s p reason u) { s with chip := conclude id (cleaned s p reason l) } (leftBy s p reason u).chip := by
  rcases cleaned_cases (s := s) (p := p) (reason := reason) (l := l) with ⟨e, he, hcleaned⟩ | ⟨info, left, k⟩
  · exact countsFell_endFirst hrange he hcleaned hu
  · exact countsFell_drainFirst k hrange hu

end

end Sys2Proof.SessionEnds
end

section
/-! The end of a session (R30, R42, R52 to R57, R155). -/

namespace Sys2Proof.SessionEnds

open Sys2Proof.Machine Sys2Proof.Safety Sys2Proof.Keeping Sys2Proof.DataPath Sys2Proof.SlotOps
  Sys2Proof.Grants Sys2Proof.Aftermath Sys2Proof.HoldProofs Sys2Proof.Resets Sys2Proof.Counts Sys2Proof.Commands

/-- CLOSE and link-down clean up an OPEN session, and what follows. -/
theorem exec_end {s : State} {p : Port} {i : Instr} {reason : CloseReason} (hhigh : s.rstn = .high)
    (hopen : (s.chip.ports.get p).session = .opened)
    (hi : (i = .closeFrame p ∧ reason = .close ∧ (s.chip.ports.get p).link = .up) ∨
      (i = .plinkLinkDown p ∧ reason = .linkDown)) :
    ∃ l, (l = .up ↔ i = .closeFrame p) ∧ Does i s (conclude id (cleaned s p reason l)) := by
  have hisOpen : s.chip.isOpen p = true := by simp [Chip.isOpen, hopen]
  rcases hi with ⟨rfl, rfl, hup⟩ | ⟨rfl, rfl⟩
  · refine ⟨.up, iff_of_true rfl rfl, does_of_action hhigh nofun nofun ?_⟩
    rw [action, received, if_pos hup, if_pos hisOpen, closeSession, if_pos hisOpen, leaveOpen_eq, hup]
  · refine ⟨.down, iff_of_false nofun nofun, does_of_action hhigh nofun nofun ?_⟩
    have hstill : (setLink p .down s.chip).isOpen p = true := by
      simp [Chip.isOpen, setLink, hopen]
    change closeSession .linkDown p (setLink p .down s.chip) = _
    rw [closeSession, if_pos hstill, leaveOpen_setLink]

/-- Staging that another port has OPEN is not owned. -/
theorem not_owns_opened {p q : Port} {cfg : Configuration} (hq : q ≠ p) : ¬ Owns p (.opened q cfg) := by
  rintro ⟨cfg', hs | hs⟩
  · exact hq (Staging.opened.inj hs).1
  · cases hs

/-- Settles O19. -/
theorem sessionEndCleansUp : Obligations.SessionEndCleansUp := by
  unfold Obligations.SessionEndCleansUp
  intro s p i reason hhigh hopen hi hnodup hadmitted
  obtain ⟨l, hl, hdoes⟩ := exec_end hhigh hopen hi
  obtain ⟨e, x, hport, hsame, hx⟩ := concluded_port (s := s) (p := p) (reason := reason) (l := l)
  have hframes := frames_over (s := s) (p := p) (reason := reason) (l := l)
  have hback := givenBack (s := s) (p := p) (reason := reason) (l := l)
  have harbitrated := conclude_cleaned (s := s) (p := p) (reason := reason) (l := l)
  have hrecords := @records_over s p reason l
  have hholds := holds_over (s := s) (p := p) (reason := reason) (l := l)
  have hqueue := queue_over (reason := reason) (l := l) hnodup hadmitted
  have hopened := @cleaned_opened s p reason l
  have hothers := @cleaned_not_owned s p reason l
  have husage : (ungranted s p reason l).map.usage = (cleaned s p reason l).map.usage := ungranted_usage
  have htold := @holds_told s p reason l (ungranted s p reason l).map.usage
  have hdraining := @draining_over s p reason l (ungranted s p reason l).map.usage
  have hpersisting := @persisting_goes_on s p reason l
  have hfell (hrange : HoldTableInRange s) :=
    countsFell_cleaned (reason := reason) (l := l) hrange (husage.trans before_usage)
  simp only [← husage] at hdraining
  have hinFlight : (ending s p reason l).inFlight = ((conclude id (cleaned s p reason l)).ports.get p).inFlight := by
    rw [hport]
  have hflags : ((conclude id (cleaned s p reason l)).ports.get p).flags = Flags.clear := by
    rw [hport]
    exact ending_flags
  have hsession : ((conclude id (cleaned s p reason l)).ports.get p).session = x := by rw [hport]
  generalize conclude id (cleaned s p reason l) = d at *
  generalize ungranted s p reason l = c at *
  obtain ⟨gone, after, hsent, hfewer, hclosed, hiff⟩ := hframes
  rw [hl] at hiff
  rw [hinFlight] at hx
  exact ⟨{ s with chip := d }, c, hdoes, harbitrated, hback, congrArg PortCtl.inFlight hsame.symm, hflags, hsession.trans hx,
    ⟨gone, after, hsent, hfewer, hclosed, hiff⟩, fun u record hr => hrecords hr, hholds, hqueue, fun cfg hs => hopened hs,
    fun q cfg hs hq hc => hothers (by rw [hs]; exact not_owns_opened hq) hc,
    fun h hm howner hcls => htold hm howner hcls, fun hrange => hfell hrange,
    fun cfg info left hs hc => hdraining hs hc, fun cfg info hs hc hserved => hpersisting hs hc hserved⟩

end Sys2Proof.SessionEnds
end

section
/-! SUPPORT. The slot table by bridge state (R92, R115, R118, R174), through the commands of an event. -/

namespace Sys2Proof.SlotTables

open Sys2Proof.Machine Sys2Proof.Safety Sys2Proof.Keeping Sys2Proof.DataPath Sys2Proof.SlotOps Sys2Proof.Grants
  Sys2Proof.Aftermath Sys2Proof.Counts Sys2Proof.Pages

/-- Every slot is FREE. -/
def AllFree (c : Chip) : Prop := ∀ i, c.slot i = none

/-- The slots in use, by bridge state and bring-up (R92, R118, R174). -/
structure Bridged (c : Chip) : Prop where
  step : c.cfg.step ≠ none → c.cfg.bridge = .start
  service : c.cfg.bridge = .service → c.mlink.bringUp = .idle ∧ ∀ i, c.slot i ≠ none → i.val < c.mlink.slotCount
  stopped : c.cfg.bridge = .recover ∨ c.cfg.bridge = .fault → AllFree c
  fault : c.cfg.bridge = .fault → c.mlink.bringUp = .idle
  attempt : c.cfg.bridge = .start → ∀ step left, c.mlink.bringUp = .attempt step left → step ≠ .awaitLinkUp → AllFree c
  reading : c.cfg.bridge = .start → c.mlink.bringUp = .idle → ∀ i, i ≠ 0 → c.slot i = none

/-- The slot table and the in-flight counts are exact. -/
structure TableExact (c : Chip) : Prop extends Bridged c, CountsExact c

theorem slotTableExact_iff (s : State) : SlotTableExact s ↔ TableExact s.chip := by
  constructor
  · rintro ⟨hstep, hservice, hstopped, hfault, hstart, hport, hwindow⟩
    exact ⟨⟨hstep, hservice, hstopped, hfault, fun hb => (hstart hb).1, fun hb => (hstart hb).2⟩, ⟨hport, hwindow⟩⟩
  · rintro ⟨⟨hstep, hservice, hstopped, hfault, hattempt, hreading⟩, hport, hwindow⟩
    exact ⟨hstep, hservice, hstopped, hfault, fun hb => ⟨hattempt hb, hreading hb⟩, hport, hwindow⟩

/-- `d` has the bridge state and the bring-up of `c`. -/
structure SameUnits (c d : Chip) : Prop where
  bridge : d.cfg.bridge = c.cfg.bridge
  step : d.cfg.step = c.cfg.step
  bringUp : d.mlink.bringUp = c.mlink.bringUp
  slotCount : d.mlink.slotCount = c.mlink.slotCount

theorem SameUnits.of_same {c d : Chip} (hcfg : d.cfg = c.cfg) (hmlink : d.mlink = c.mlink) : SameUnits c d := by
  refine ⟨?_, ?_, ?_, ?_⟩
  · rw [hcfg]
  · rw [hcfg]
  · rw [hmlink]
  · rw [hmlink]

section
variable {c d : Chip}

theorem Bridged.of_units (h : Bridged c) (hd : SameUnits c d)
    (hslots : ∀ i, d.slot i ≠ none → c.slot i ≠ none ∨ (c.cfg.bridge = .service ∧ i.val < c.mlink.slotCount)) : Bridged d := by
  obtain ⟨hbridge, hstep, hbringUp, hcount⟩ := hd
  have hnone {i : SlotNo} (hb : c.cfg.bridge ≠ .service) (hi : c.slot i = none) : d.slot i = none := by
    by_contra hne
    rcases hslots i hne with hc | ⟨hs, -⟩
    · exact hc hi
    · exact hb hs
  refine ⟨?_, ?_, ?_, ?_, ?_, ?_⟩ <;> rw [hbridge]
  · rw [hstep]
    exact h.step
  · intro hb
    rw [hbringUp, hcount]
    refine ⟨(h.service hb).1, fun i hi => ?_⟩
    rcases hslots i hi with hc | ⟨-, hlt⟩
    · exact (h.service hb).2 i hc
    · exact hlt
  · intro hb i
    exact hnone (by rcases hb with hb | hb <;> rw [hb] <;> exact nofun) (h.stopped hb i)
  · rw [hbringUp]
    exact h.fault
  · rw [hbringUp]
    exact fun hb step left hu hs i => hnone (by rw [hb]; exact nofun) (h.attempt hb step left hu hs i)
  · rw [hbringUp]
    exact fun hb hu i hi => hnone (by rw [hb]; exact nofun) (h.reading hb hu i hi)

/-- Bridge state, bring-up and slots in use stay. -/
theorem Bridged.of_same (h : Bridged c) (hcfg : d.cfg = c.cfg) (hmlink : d.mlink = c.mlink) : Bridged d :=
  h.of_units (.of_same hcfg hmlink) fun i hi => .inl (by rwa [slot_congr (congrArg MlinkCtl.slots hmlink) i] at hi)

/-- With every slot FREE, only the bring-up counts. -/
theorem bridged_of_free (hfree : AllFree c) (hstep : c.cfg.step ≠ none → c.cfg.bridge = .start)
    (hidle : c.cfg.bridge = .service ∨ c.cfg.bridge = .fault → c.mlink.bringUp = .idle) : Bridged c where
  step := hstep
  service hb := ⟨hidle (.inl hb), fun i hi => absurd (hfree i) hi⟩
  stopped _ := hfree
  fault hb := hidle (.inr hb)
  attempt _ _ _ _ _ := hfree
  reading _ _ i _ := hfree i

theorem Bridged.freeSlot (h : Bridged c) (i : SlotNo) : Bridged (freeSlot i c) := by
  have hmlink := SlotOps.freeSlot_mlink i c
  refine h.of_units ⟨?_, ?_, ?_, ?_⟩ fun j hj => .inl ?_
  · rw [Laws.freeSlot_cfg]
  · rw [Laws.freeSlot_cfg]
  · rw [hmlink]
  · rw [hmlink]
  · rw [freeSlot_slot] at hj
    split at hj
    · exact absurd rfl hj
    · exact hj

/-- A grant takes a slot below the slot count, in SERVICE (R92). -/
theorem Bridged.granted (h : Bridged c) (hd : grantDecision c = some d) : Bridged d := by
  have hgranted := Granted.decision hd
  obtain ⟨x, hmlink⟩ := hgranted.mlink
  obtain ⟨w, a, b, hcfg⟩ := hgranted.cfg
  obtain ⟨hservice, hcases⟩ := grantDecision_cases hd
  refine h.of_units ⟨by rw [hcfg], by rw [hcfg], by rw [hmlink], by rw [hmlink]⟩ fun n hn => ?_
  obtain ⟨i, hi, hslot⟩ : ∃ i, c.freeSlot = some i ∧ ∀ n, n ≠ i → d.slot n = c.slot n := by
    rcases hcases with ⟨j, i, -, hi, rfl⟩ | ⟨reserved, p, t, r, i, c', hc', -, -, hi, rfl⟩
    · exact ⟨i, hi, fun n hn => by rw [grantPersist_slot, if_neg hn]⟩
    · refine ⟨i, hi, fun n hn => ?_⟩
      rw [grantHead_slot, if_neg hn]
      rcases hc' with rfl | rfl <;> rfl
  by_cases hni : n = i
  · have hlt := List.find?_some hi
    simp only [Bool.and_eq_true, decide_eq_true_eq] at hlt
    exact .inr ⟨hservice, hni ▸ hlt.1⟩
  · rw [hslot n hni] at hn
    exact .inl hn

end

namespace TableExact

variable {c d : Chip}

/-- Nothing that the slot table or its counts look at changes. -/
theorem of_stays (h : TableExact c) (hports : PortsStay c d) (hmap : ∀ w, (d.map.usage.get w).inFlight = (c.map.usage.get w).inFlight)
    (hmlink : d.mlink = c.mlink) (hcfg : d.cfg = c.cfg) : TableExact d where
  toBridged := h.toBridged.of_same hcfg hmlink
  toCountsExact := h.toCountsExact.of_shares (fun p => (hports p).2.2) hmap fun i => by
    rw [slot_congr (congrArg MlinkCtl.slots hmlink) i]
    exact ⟨fun _ => rfl, fun _ => rfl⟩

theorem of_same (h : TableExact c) (hports : ∀ p, (d.ports.get p).inFlight = (c.ports.get p).inFlight)
    (hmap : d.map.usage = c.map.usage) (hmlink : d.mlink = c.mlink) (hcfg : d.cfg = c.cfg) : TableExact d where
  toBridged := h.toBridged.of_same hcfg hmlink
  toCountsExact := h.toCountsExact.of_same hports hmap (congrArg MlinkCtl.slots hmlink)

theorem modPort (h : TableExact c) (p : Port) {f : PortCtl → PortCtl} (hf : (f (c.ports.get p)).inFlight = (c.ports.get p).inFlight) :
    TableExact (c.modPort p f) :=
  h.of_same (forall_ports (R := fun a b => b.inFlight = a.inFlight) (Laws.modPort_ports ..) hf fun _ => rfl) rfl rfl rfl

theorem setStage_inFlight (p q : Port) (t : Tag) (x : Stage) (c : Chip) :
    ((setStage p t x c).ports.get q).inFlight = (c.ports.get q).inFlight := by
  unfold setStage
  split
  · exact withRecord_inFlight p q t _ c
  · rfl

theorem setStage (h : TableExact c) (p : Port) (t : Tag) (x : Stage) : TableExact (setStage p t x c) :=
  h.of_same (fun q => setStage_inFlight p q t x c) (by simp) (by simp) (by simp)

theorem keptSlot (h : TableExact c) (i : SlotNo) {r r' : SlotRec} (hr : c.slot i = some r) (hholder : r'.holder = r.holder)
    (hwindow : r'.window = r.window) : TableExact (setSlot i (some r') c) where
  toBridged := h.toBridged.of_units ⟨rfl, rfl, rfl, rfl⟩ fun j hj => .inl (by
    rw [slot_of_setSlot rfl j] at hj
    split at hj
    · rename_i hji
      rw [hji, hr]
      exact nofun
    · exact hj)
  toCountsExact := h.toCountsExact.of_shares (fun _ => rfl) (fun _ => rfl) fun j => by
    rw [slot_of_setSlot rfl j]
    split
    · rename_i hj
      simp [portShare, windowShare, hj, hr, hholder, hwindow]
    · exact ⟨fun _ => rfl, fun _ => rfl⟩

theorem freeSlot (h : TableExact c) (i : SlotNo) : TableExact (freeSlot i c) :=
  ⟨h.toBridged.freeSlot i, h.toCountsExact.freeSlot i⟩

theorem jobs (h : TableExact c) (u : ConfigUnit) (hu : JobsOnly c.cfg u) : TableExact { c with cfg := u } where
  toBridged := h.toBridged.of_units ⟨hu.1, hu.2.1, rfl, rfl⟩ fun _ hi => .inl hi
  toCountsExact := CountsExact.ending.jobs u hu h.toCountsExact

/-- What the commands of an event but those of the bridge states do. -/
theorem inEvent : KeptInEvent TableExact where
  responded p t o w _ h := h.of_stays (PortsStay.freedReply p t o w _) (fun w => by simp) (by simp) (by simp)
  raised f p _ _ h := h.of_stays (PortsStay.raiseFlag f p _) (fun w => by simp) (by simp) (by simp)
  delivered p h := h.of_stays (PortsStay.deliver p _) (fun w => by simp) (by simp) (by simp)
  commit _ _ h := h.of_same (fun _ => rfl) rfl rfl rfl
  swapped cfg h := h.of_stays (PortsStay.swapped cfg _) (fun w => by rw [swapped_map]) (by rw [swapped_mlink])
    (by rw [swapped_cfg])
  holds _ _ h := h.of_same (fun _ => rfl) rfl rfl rfl
  fewerHolds _ h := h.of_same (fun _ => rfl) rfl rfl rfl
  oneChanged _ _ h := h.of_same (fun _ => rfl) rfl rfl rfl
  jobs u hu h := h.jobs u hu
  failed h := h.of_same (fun _ => rfl) rfl rfl rfl
  closed {c} r p hs h := ⟨h.toBridged.of_same (by simp) (by simp), CountsExact.ending.closed r p hs h.toCountsExact⟩
  granted hd h := ⟨h.toBridged.granted hd, h.toCountsExact.granted hd⟩
  dequeued p t h := ⟨h.toBridged.of_same (by simp) (by simp), CountsExact.ending.dequeued p t h.toCountsExact⟩
  freedSlot i h := h.freeSlot i
  arb _ _ h := h.of_same (fun _ => rfl) rfl rfl rfl
  left _ p _ h := h.modPort p rfl
  freed p t h := h.of_same (fun q => withRecord_inFlight p q t none _) rfl rfl rfl
  keptSlot i _ _ hr hl h := h.keptSlot i hr hl.1 hl.2.1
  stopped p t pages _ h := h.of_same (fun q => by rw [Laws.stopDelivery_ports]) (by simp) (by simp) (by simp)
  deliveryEnded {c} p t d pages _ _ h := h.of_same (d := freeTag p t (returnPages pages c))
    (fun q => withRecord_inFlight p q t none _) rfl rfl rfl
  taken h := h.of_same (fun _ => rfl) rfl rfl rfl
  frames _ _ h := h.of_same (fun _ => rfl) rfl rfl rfl
  handed p t _ _ _ h := h.of_same (fun q => withRecord_inFlight p q t _ _) rfl rfl rfl
  staged p t x _ h := h.setStage p t x
  cleared _ p _ h := h.modPort p rfl
  enqueued {c} p t d _ h := by
    refine ⟨h.toBridged.of_same rfl rfl, h.toCountsExact.of_shares (fun q => withRecord_inFlight p q t _ _) (fun w => ?_)
      fun i => ⟨fun _ => rfl, fun _ => rfl⟩⟩
    change ((c.map.usage.modify d.window fun u => { u with queued := u.queued + 1 }).get w).inFlight = _
    by_cases hw : w = d.window
    · rw [hw, Laws.Table.get_modify_self]
    · rw [Laws.Table.get_modify_ne _ _ hw]
  filled _ _ h := h.of_same (fun _ => rfl) rfl rfl rfl
  handedOver p t i r hr h := ((h.keptSlot i (r' := { r with pages := [] }) hr rfl rfl).freeSlot i).setStage p t _
  oneHold _ _ _ h := h.of_same (fun _ => rfl) rfl rfl rfl
  refused _ _ _ _ _ _ h := h.of_same (fun _ => rfl) rfl rfl rfl
  emptied h := h.of_same (fun _ => rfl) rfl rfl rfl

end TableExact

end Sys2Proof.SlotTables
end

section
/-! SUPPORT. The slot table through the changes of the bridge state (R133 to R135, R171 to R180). -/

namespace Sys2Proof.SlotTables

open Sys2Proof.Machine Sys2Proof.Safety Sys2Proof.Keeping Sys2Proof.DataPath Sys2Proof.SlotOps Sys2Proof.Grants
  Sys2Proof.Aftermath Sys2Proof.Counts Sys2Proof.Pages Sys2Proof.Resets Sys2Proof.Faults

/-- Counts are exact, every slot is FREE, and bridge state and bring-up are those of `b`. -/
structure Vacant (b c : Chip) : Prop extends CountsExact c where
  free : AllFree c
  units : SameUnits b c

namespace Vacant

variable {b c d : Chip}

theorem self (hc : CountsExact c) (hfree : AllFree c) : Vacant c c := ⟨hc, hfree, .of_same rfl rfl⟩

theorem of_counts (h : Vacant b c) (hd : CountsExact d) (hcfg : d.cfg.bridge = c.cfg.bridge ∧ d.cfg.step = c.cfg.step)
    (hmlink : d.mlink = c.mlink) : Vacant b d where
  toCountsExact := hd
  free i := by rw [slot_congr (congrArg MlinkCtl.slots hmlink) i]; exact h.free i
  units := by
    obtain ⟨hbridge, hstep, hbringUp, hcount⟩ := h.units
    exact ⟨hcfg.1.trans hbridge, hcfg.2.trans hstep, by rw [hmlink]; exact hbringUp, by rw [hmlink]; exact hcount⟩

theorem freeSlot (h : Vacant b c) (i : SlotNo) : Vacant b (freeSlot i c) := by
  rw [freeSlot_of_none (h.free i)]
  exact h

/-- Outside SERVICE no grant takes a slot. -/
theorem concluding (hb : b.cfg.bridge ≠ .service) : KeptConcluding (Vacant b) where
  responded p t o w hopen h := h.of_counts (CountsExact.ending.responded p t o w hopen h.toCountsExact) (by simp) (by simp)
  raised f p hf hopen h := h.of_counts (CountsExact.ending.raised f p hf hopen h.toCountsExact) (by simp) (by simp)
  delivered p h := h.of_counts (CountsExact.ending.delivered p h.toCountsExact) (by simp) (by simp)
  commit x y h := h.of_counts (CountsExact.ending.commit x y h.toCountsExact) ⟨rfl, rfl⟩ rfl
  swapped cfg h := h.of_counts (CountsExact.ending.swapped cfg h.toCountsExact) (by rw [swapped_cfg]; exact ⟨rfl, rfl⟩)
    (by rw [swapped_mlink])
  holds f hf h := h.of_counts (CountsExact.ending.holds f hf h.toCountsExact) ⟨rfl, rfl⟩ rfl
  fewerHolds f h := h.of_counts (CountsExact.ending.fewerHolds f h.toCountsExact) ⟨rfl, rfl⟩ rfl
  oneChanged x hx h := h.of_counts (CountsExact.ending.oneChanged x hx h.toCountsExact) ⟨rfl, rfl⟩ rfl
  jobs u hu h := h.of_counts (CountsExact.ending.jobs u hu h.toCountsExact) ⟨hu.1, hu.2.1⟩ rfl
  failed h := h.of_counts (CountsExact.ending.failed h.toCountsExact) ⟨rfl, rfl⟩ rfl
  closed r p hs h := h.of_counts (CountsExact.ending.closed r p hs h.toCountsExact) (by simp) (by simp)
  granted hd h := absurd (h.units.bridge.symm.trans (grantDecision_cases hd).1) hb
  dequeued p t h := h.of_counts (CountsExact.ending.dequeued p t h.toCountsExact) (by simp) (by simp)
  freedSlot i h := h.freeSlot i
  arb a ha h := h.of_counts (CountsExact.ending.arb a ha h.toCountsExact) ⟨rfl, rfl⟩ rfl

/-- Every slot has returned to FREE. -/
theorem of_freeAllSlots (hb : CountsExact b) : Vacant b (freeAllSlots b) where
  toCountsExact := CountsExact.ending.freeAllSlots hb
  free := freeAllSlots_slot b
  units := by
    refine ⟨?_, ?_, ?_, ?_⟩
    · rw [freeAllSlots_cfg]
    · rw [freeAllSlots_cfg]
    · rw [freeAllSlots_mlink]
    · rw [freeAllSlots_mlink]

theorem bridged (h : Vacant b c) (hstep : b.cfg.step ≠ none → b.cfg.bridge = .start)
    (hidle : b.cfg.bridge = .service ∨ b.cfg.bridge = .fault → b.mlink.bringUp = .idle) : TableExact c where
  toBridged := bridged_of_free h.free (by rw [h.units.step, h.units.bridge]; exact hstep)
    (by rw [h.units.bridge, h.units.bringUp]; exact hidle)
  toCountsExact := h.toCountsExact

end Vacant

theorem CountsExact.modMlink {c : Chip} (h : CountsExact c) (f : MlinkCtl → MlinkCtl) (hf : (f c.mlink).slots = c.mlink.slots) :
    CountsExact (c.modMlink f) := h.of_same (fun _ => rfl) rfl hf

/-! ### Bring-up attempts (R133, R134, R174) -/

/-- A bring-up can begin: in START, or in RECOVER with every slot FREE. -/
structure MayBringUp (c : Chip) : Prop extends CountsExact c where
  bridge : c.cfg.bridge = .start ∨ c.cfg.bridge = .recover ∧ c.cfg.step = none ∧ AllFree c

section
variable {c : Chip}

theorem MayBringUp.modMlink (h : MayBringUp c) (f : MlinkCtl → MlinkCtl) (hf : (f c.mlink).slots = c.mlink.slots) :
    MayBringUp (c.modMlink f) where
  toCountsExact := CountsExact.modMlink h.toCountsExact f hf
  bridge := h.bridge.imp_right fun ⟨hb, hs, hfree⟩ => ⟨hb, hs, fun i => (slot_congr hf i).trans (hfree i)⟩

/-- LINK-RESET leaves every slot FREE. -/
theorem sendLinkReset_exact (h : MayBringUp c) : TableExact (sendLinkReset c) := by
  have hsent : CountsExact (sendMedia .linkReset c) := h.of_same (fun _ => by simp) (by simp) (by simp)
  have hcfg : (sendMedia .linkReset c).cfg = c.cfg := by simp
  unfold sendLinkReset
  dsimp only
  rcases h.bridge with hb | ⟨hb, hstep, hfree⟩
  · have hb' : (sendMedia .linkReset c).cfg.bridge = .start := by rw [hcfg, hb]
    rw [if_pos hb']
    refine ((Vacant.concluding (b := sendMedia .linkReset c) (by rw [hb']; exact nofun)).conclude_id
      (Vacant.of_freeAllSlots hsent)).bridged (fun _ => hb') fun hx => ?_
    rw [hb'] at hx
    rcases hx with hx | hx <;> cases hx
  · rw [if_neg (by rw [hcfg, hb]; exact nofun)]
    refine (Vacant.self hsent fun i => ?_).bridged (fun hs => absurd (by rw [hcfg]; exact hstep) hs) fun hx => ?_
    · exact (slot_congr (by simp) i).trans (hfree i)
    · rw [hcfg, hb] at hx
      rcases hx with hx | hx <;> cases hx

/-- An attempt waits for the link. -/
theorem awaitLinkUp_exact (h : MayBringUp c) (left : Nat) : TableExact (setBringUp (.attempt .awaitLinkUp left) c) := by
  have hset := h.modMlink (fun m => { m with bringUp := .attempt .awaitLinkUp left }) rfl
  rcases hset.bridge with hb | ⟨hb, hstep, hfree⟩
  · refine ⟨⟨fun _ => hb, fun hx => ?_, fun hx => ?_, fun hx => ?_, fun _ step left hu hs => ?_, fun _ hu => ?_⟩,
      hset.toCountsExact⟩
    · exact BridgeState.noConfusion (hb.symm.trans hx)
    · rcases hx with hx | hx <;> exact BridgeState.noConfusion (hb.symm.trans hx)
    · exact BridgeState.noConfusion (hb.symm.trans hx)
    · cases hu
      exact absurd rfl hs
    · cases hu
  · refine (Vacant.self hset.toCountsExact hfree).bridged (fun hs => absurd hstep hs) fun hx => ?_
    rcases hx with hx | hx <;> exact BridgeState.noConfusion (hb.symm.trans hx)

theorem beginAttempt_exact (h : MayBringUp c) : TableExact (beginAttempt c) := by
  unfold beginAttempt
  split
  · exact sendLinkReset_exact (h.modMlink _ rfl)
  · exact awaitLinkUp_exact h _

theorem beginBringUp_exact (h : MayBringUp c) : TableExact (beginBringUp c) := beginAttempt_exact (h.modMlink _ rfl)

/-! ### Entry to START, and the end of a bridge reset (R173, R179) -/

theorem enterStart_exact (h : CountsExact c) : TableExact (enterStart c) :=
  beginBringUp_exact ⟨h.of_same (fun _ => rfl) rfl rfl, .inl rfl⟩

theorem finishReset_exact (h : CountsExact c) : TableExact (finishReset c) := by
  have k := CountsExact.ending
  have hports := k.resetPorts (ports := Port.all) (fun _ _ _ => trivial) h
  refine enterStart_exact (each_keeps (fun x d hd => k.removeHold x hd) _ (each_keeps (fun j d hd => k.dropJob j hd) _ ?_))
  exact hports.of_same (fun _ => rfl) rfl rfl

theorem resumeReset_exact (h : TableExact c) : TableExact (resumeReset c) := by
  unfold resumeReset
  split
  · exact finishReset_exact h.toCountsExact
  · exact h

/-! ### Entry to FAULT (R171) -/

theorem fromStart_vacant (h : CountsExact c) (hc : c.cfg.bridge = .start ∨ AllFree c) :
    CountsExact (fromStart c) ∧ AllFree (fromStart c) := by
  unfold fromStart
  split
  · rename_i hb
    have hvacant := (Vacant.concluding (b := c) (by rw [hb]; exact nofun)).conclude_id (Vacant.of_freeAllSlots h)
    generalize conclude id (freeAllSlots c) = d at hvacant
    exact ⟨hvacant.toCountsExact.of_same (fun _ => rfl) rfl rfl, hvacant.free⟩
  · rename_i hb
    exact ⟨h, hc.resolve_left hb⟩

/-- What fails the jobs and what follows it up to the last stage leave every slot FREE. -/
theorem jobsEnded_vacant {b : Chip} {l : List Job} (k : KeptConcluding (Vacant b)) (h : Vacant b (entering c)) :
    Vacant b (jobsEnded l c) := by
  unfold jobsEnded
  exact k.raiseMedia (each_keeps (fun j _ hd => k.jobFailed j hd) l h)

theorem queuesEnded_vacant {b : Chip} (k : KeptConcluding (Vacant b)) (h : Vacant b c) : Vacant b (queuesEnded c) := by
  unfold queuesEnded
  exact k.modArb _ rfl (eachPort_keeps (fun p _ hd => k.faultQueue p hd) h)

theorem faulted_exact {l : List Job} (h : CountsExact c) (hfree : AllFree c) : TableExact (faulted l c) := by
  have k := Vacant.concluding (b := entering c) nofun
  have hself : Vacant (entering c) (entering c) := Vacant.self (h.of_same (fun _ => rfl) rfl rfl) hfree
  have hend := k.faultMap (k.faultHolds (queuesEnded_vacant k (jobsEnded_vacant (l := l) k hself)))
  unfold faulted
  generalize faultMap (faultHolds (queuesEnded (jobsEnded l c))) = d at hend
  exact {
    toBridged := bridged_of_free hend.free (fun hs => absurd (hend.units.step.trans rfl) hs) fun _ => rfl
    toCountsExact := CountsExact.modMlink hend.toCountsExact _ rfl }

theorem enterFault_exact (h : CountsExact c) (hc : c.cfg.bridge = .start ∨ AllFree c) : TableExact (enterFault c) := by
  obtain ⟨hcounts, hfree⟩ := fromStart_vacant h hc
  rw [enterFault_eq]
  exact faulted_exact hcounts hfree

end

end Sys2Proof.SlotTables
end

section
/-! SUPPORT. The slot table: link recovery, the success and the failure of a bring-up, and the load of a configuration
(R133 to R135, R174 to R177). -/

namespace Sys2Proof.SlotTables

open Sys2Proof.Machine Sys2Proof.Safety Sys2Proof.Keeping Sys2Proof.DataPath Sys2Proof.SlotOps Sys2Proof.Grants
  Sys2Proof.Aftermath Sys2Proof.Counts Sys2Proof.Pages Sys2Proof.Resets Sys2Proof.Recovery

section
variable {c : Chip}

/-! ### Link recovery (R133) -/

theorem Vacant.merged {b d e : Chip} (n : Nat) (h : Vacant b d) : Vacant b { d with sent := e.sent, free := n } :=
  h.of_counts (h.toCountsExact.of_same (fun _ => rfl) rfl rfl) ⟨rfl, rfl⟩ rfl

theorem freed_vacant (h : CountsExact c) : Vacant (Recovery.told c) (freed c) := by
  have htold : CountsExact (Recovery.told c) := by
    unfold Recovery.told
    exact CountsExact.ending.raiseMedia (h.of_same (fun _ => rfl) rfl rfl)
  unfold freed
  exact Vacant.of_freeAllSlots htold

theorem told_bridge : (Recovery.told c).cfg.bridge = .recover ∧ (Recovery.told c).cfg.step = c.cfg.step := by
  obtain ⟨-, -, -, -, -, hcfg⟩ := told_rest c
  rw [hcfg]
  exact ⟨rfl, rfl⟩

theorem concluded_vacant (h : CountsExact c) : Vacant (Recovery.told c) (concluded c) := by
  have k := Vacant.concluding (b := Recovery.told c) (by rw [told_bridge.1]; exact nofun)
  refine concluded_keeps c k (fun n hd _ => hd.merged n) ?_
  unfold recovered
  exact k.writerRecovers (freed_vacant h)

theorem startRecovery_exact (h : TableExact c) (hb : c.cfg.bridge = .service) : TableExact (startRecovery c) := by
  have hvacant := concluded_vacant h.toCountsExact
  rw [startRecovery_eq]
  generalize concluded c = d at hvacant
  split
  · exact finishReset_exact hvacant.toCountsExact
  · refine beginBringUp_exact ⟨hvacant.toCountsExact, .inr ⟨hvacant.units.bridge.trans told_bridge.1, ?_, hvacant.free⟩⟩
    rw [hvacant.units.step, told_bridge.2]
    by_contra hs
    exact BridgeState.noConfusion (hb.symm.trans (h.step hs))

theorem protocolError_exact (h : TableExact c) : TableExact (protocolError c) := by
  unfold protocolError
  split
  · rename_i hb
    exact startRecovery_exact h hb
  · exact h

/-! ### START goes on (R175 to R177) -/

/-- In START, between attempts, every slot is FREE. -/
structure Paused (c : Chip) : Prop extends CountsExact c where
  bridge : c.cfg.bridge = .start
  idle : c.mlink.bringUp = .idle
  free : AllFree c

theorem Paused.cfg (h : Paused c) (u : ConfigUnit) (hu : u.bridge = c.cfg.bridge) : Paused { c with cfg := u } :=
  ⟨h.toCountsExact.of_same (fun _ => rfl) rfl rfl, hu.trans h.bridge, h.idle, h.free⟩

theorem Paused.setMark (h : Paused c) (x : Copy) (m : Mark) : Paused (setMark x m c) := by
  cases x <;> exact h.cfg _ rfl

theorem Paused.exact (h : Paused c) : TableExact c where
  toBridged := bridged_of_free h.free (fun _ => h.bridge) fun _ => h.idle
  toCountsExact := h.toCountsExact

theorem readCopy_mlink (x : Copy) (c : Chip) : (readCopy x c).mlink =
    (setSlot 0 (some { configSlot .read (c.copyBlock x) false with phase := .issued Config.factoryResponse }) c).mlink := by
  simp [readCopy, issueSlot]

theorem readCopy_slot (x : Copy) (i : SlotNo) (c : Chip) : (readCopy x c).slot i =
    if i = 0 then some { configSlot .read (c.copyBlock x) false with phase := .issued Config.factoryResponse }
    else c.slot i :=
  slot_of_setSlot (congrArg MlinkCtl.slots (readCopy_mlink x c)) i

theorem readCopy_exact (x : Copy) (h : Paused c) : TableExact (readCopy x c) := by
  have hcfg : (readCopy x c).cfg.bridge = .start := by rw [Laws.readCopy_cfg, h.bridge]
  have hidle : (readCopy x c).mlink.bringUp = .idle := by rw [readCopy_mlink]; exact h.idle
  have hslots : ∀ i, i ≠ 0 → (readCopy x c).slot i = none := fun i hi => by rw [readCopy_slot, if_neg hi]; exact h.free i
  refine ⟨⟨fun _ => hcfg, fun hb => ?_, fun hb => ?_, fun hb => ?_, fun _ step left hu => ?_, fun _ _ => hslots⟩, ?_⟩
  · exact BridgeState.noConfusion (hcfg.symm.trans hb)
  · rcases hb with hb | hb <;> exact BridgeState.noConfusion (hcfg.symm.trans hb)
  · exact BridgeState.noConfusion (hcfg.symm.trans hb)
  · exact BringUp.noConfusion (hidle.symm.trans hu)
  · refine h.toCountsExact.of_shares (fun p => by rw [Laws.readCopy_ports]) (fun w => by rw [Laws.readCopy_map]) fun i => ?_
    rw [readCopy_slot]
    split
    · rw [h.free i]
      exact ⟨fun _ => rfl, fun _ => rfl⟩
    · exact ⟨fun _ => rfl, fun _ => rfl⟩

theorem load_exact (x : Option Copy) (r : ConfigRecord) (h : Paused c) : TableExact (load x r c) := by
  have hloaded : TableExact (restartLogTime (reloadCredits ((loadedInto x r c).modArb fun a => { a with pointer := .p0 }))) :=
    { toBridged := bridged_of_free h.free (fun hs => absurd rfl hs) fun _ => h.idle
      toCountsExact := h.toCountsExact.of_same (fun _ => rfl) rfl rfl }
  exact TableExact.inEvent.conclude_id hloaded

theorem selectCopy_exact (h : Paused c) : TableExact (selectCopy c) := by
  unfold selectCopy
  split
  · split <;> exact load_exact _ _ h
  all_goals exact load_exact _ _ h

theorem nextStartStep_exact (h : Paused c) : TableExact (nextStartStep c) := by
  unfold nextStartStep
  split
  · exact readCopy_exact _ (h.cfg _ rfl)
  · exact selectCopy_exact h
  all_goals exact h.exact

theorem bringUpAgain_exact (h : CountsExact c) (hb : c.cfg.bridge = .start) : TableExact (bringUpAgain c) := by
  refine beginBringUp_exact ⟨CountsExact.ending.readLost h, .inl ?_⟩
  unfold readLost
  split
  · rename_i x _
    split
    · cases x <;> exact hb
    · exact hb
  · exact hb

/-! ### The end of an attempt (R134, R135, R174) -/

/-- While an attempt runs, START or RECOVER is the bridge state. -/
theorem TableExact.attempting (h : TableExact c) {step : AttemptStep} {left : Nat} (hu : c.mlink.bringUp = .attempt step left) :
    MayBringUp c := by
  refine ⟨h.toCountsExact, ?_⟩
  cases hb : c.cfg.bridge with
  | start => exact .inl rfl
  | recover =>
    refine .inr ⟨rfl, ?_, h.stopped (.inl hb)⟩
    by_contra hs
    exact BridgeState.noConfusion (hb.symm.trans (h.step hs))
  | service => exact BringUp.noConfusion ((h.service hb).1.symm.trans hu)
  | fault => exact BringUp.noConfusion ((h.fault hb).symm.trans hu)

theorem MayBringUp.enterFault (h : MayBringUp c) : TableExact (enterFault c) :=
  enterFault_exact h.toCountsExact (h.bridge.imp_right fun ⟨_, _, hfree⟩ => hfree)

theorem attemptFailed_exact (h : TableExact c) {step : AttemptStep} {left : Nat} (hu : c.mlink.bringUp = .attempt step left) :
    TableExact (attemptFailed c) := by
  have hmay := (h.attempting hu).modMlink (fun m => { m with attempts := m.attempts + 1 }) rfl
  unfold attemptFailed
  dsimp only
  split
  · exact beginAttempt_exact hmay
  · exact hmay.enterFault

/-- Once LINK-RESET has been sent, every slot is FREE. -/
theorem TableExact.linkReset (h : TableExact c) {step : AttemptStep} {left : Nat} (hu : c.mlink.bringUp = .attempt step left)
    (hs : step ≠ .awaitLinkUp) : AllFree c := by
  rcases (h.attempting hu).bridge with hb | ⟨-, -, hfree⟩
  · exact h.attempt hb step left hu hs
  · exact hfree

theorem bringUpDone_exact (h : TableExact c) {left : Nat} (hu : c.mlink.bringUp = .attempt .awaitReply left) (capacity : Word)
    (slots : Nat) : TableExact (bringUpDone capacity slots c) := by
  have hfree := h.linkReset hu nofun
  have hmay := (h.attempting hu).modMlink (fun m => { m with bringUp := .idle, attempts := 0, slotCount := slots }) rfl
  have hdone : AllFree (c.modMlink fun m => { m with bringUp := .idle, attempts := 0, slotCount := slots }) := hfree
  have hidle : (c.modMlink fun m => { m with bringUp := .idle, attempts := 0, slotCount := slots }).mlink.bringUp = .idle := rfl
  unfold bringUpDone
  dsimp only
  generalize (c.modMlink fun m => { m with bringUp := .idle, attempts := 0, slotCount := slots }) = d at hmay hdone hidle
  split
  · rename_i hb
    have hpaused : Paused d := ⟨hmay.toCountsExact, hb, hidle, hdone⟩
    split
    · have hmedium : Paused (d.modMlink fun m => { m with capacity := capacity }) :=
        ⟨CountsExact.modMlink hpaused.toCountsExact _ rfl, hb, hidle, hdone⟩
      split
      · exact enterFault_exact hmedium.toCountsExact (.inr hmedium.free)
      · exact readCopy_exact _ (hmedium.cfg _ rfl)
    · split
      · exact nextStartStep_exact hpaused
      · exact hmay.enterFault
  · rename_i hb
    split
    · refine TableExact.inEvent.conclude_id ⟨bridged_of_free hdone (fun hs => ?_) fun _ => hidle,
        hmay.toCountsExact.of_same (fun _ => rfl) rfl rfl⟩
      rcases hmay.bridge with hb' | ⟨-, hstep, -⟩
      · exact BridgeState.noConfusion (hb.symm.trans hb')
      · exact absurd hstep hs
    · exact hmay.enterFault
  all_goals
    rename_i hb
    rcases hmay.bridge with hb' | ⟨hb', -, -⟩ <;> exact BridgeState.noConfusion (hb.symm.trans hb')

end

end Sys2Proof.SlotTables
end

section
/-! SUPPORT. The slot table through the frames and the timers of the M-link, and through every command (R92, R115, R118, R174). -/

namespace Sys2Proof.SlotTables

open Sys2Proof.Machine Sys2Proof.Safety Sys2Proof.Keeping Sys2Proof.Commands Sys2Proof.DataPath Sys2Proof.SlotOps
  Sys2Proof.Grants Sys2Proof.Aftermath Sys2Proof.Counts Sys2Proof.Pages Sys2Proof.Resets

section
variable {c : Chip}

/-! ### Link reports and bring-up frames (R116, R132, R134) -/

/-- Changes of the M-link controller that leave slots, slot count and bring-up. -/
theorem TableExact.modMlink (h : TableExact c) (f : MlinkCtl → MlinkCtl) (hslots : (f c.mlink).slots = c.mlink.slots)
    (hbringUp : (f c.mlink).bringUp = c.mlink.bringUp) (hcount : (f c.mlink).slotCount = c.mlink.slotCount) :
    TableExact (c.modMlink f) where
  toBridged := h.toBridged.of_units ⟨rfl, rfl, hbringUp, hcount⟩ fun i hi => .inl (by rwa [slot_congr (c := c) hslots i] at hi)
  toCountsExact := CountsExact.modMlink h.toCountsExact f hslots

theorem TableExact.setMlink (h : TableExact c) (l : LinkState) : TableExact (setMlink l c) := h.modMlink _ rfl rfl rfl

theorem mlinkUp_exact (h : TableExact c) : TableExact (mlinkUp c) := by
  have hset := h.setMlink .up
  unfold mlinkUp
  dsimp only
  split
  · rename_i left hu
    exact sendLinkReset_exact ((hset.attempting hu).modMlink _ rfl)
  all_goals exact hset

theorem mlinkDown_exact (h : TableExact c) : TableExact (mlinkDown c) := by
  have hset := h.setMlink .down
  unfold mlinkDown
  dsimp only
  split
  · rename_i hb
    exact startRecovery_exact hset hb
  · rename_i step left _ hu
    exact awaitLinkUp_exact (hset.attempting hu) left
  · rename_i step left _ hu
    exact awaitLinkUp_exact (hset.attempting hu) left
  · rename_i hb _
    exact bringUpAgain_exact hset.toCountsExact hb
  all_goals exact hset

theorem linkReadyTaken_exact (h : TableExact c) : TableExact (linkReadyTaken c) := by
  unfold linkReadyTaken
  split
  · rename_i left hu
    have hmay := (h.attempting hu).modMlink (fun m => { m with bringUp := .attempt .awaitReply left }) rfl
    refine TableExact.inEvent.sendMedia _ ⟨bridged_of_free (h.linkReset hu nofun) h.step fun hb => ?_, hmay.toCountsExact⟩
    rcases hb with hb | hb
    · exact absurd ((h.service hb).1.symm.trans hu) nofun
    · exact absurd ((h.fault hb).symm.trans hu) nofun
  all_goals exact h

theorem identifyTaken_exact (capacity : Word) (slots : Byte) (h : TableExact c) : TableExact (identifyTaken capacity slots c) := by
  unfold identifyTaken
  split
  · rename_i left hu
    split
    · exact bringUpDone_exact h hu _ _
    · exact attemptFailed_exact h hu
  all_goals exact h

theorem attemptExpiry_exact (h : TableExact c) : TableExact (attemptExpiry c) := by
  unfold attemptExpiry
  split
  · rename_i hu
    exact attemptFailed_exact h hu
  · exact h

/-! ### Frames of commands (R122 to R130) -/

theorem mediaDataTaken_exact (i : SlotNo) (n : Nat) (b : Block) (h : TableExact c) : TableExact (mediaDataTaken i n b c) := by
  unfold mediaDataTaken
  split
  · split
    · rename_i r hr
      split
      · exact protocolError_exact h
      split
      · exact h
      · exact (TableExact.inEvent.placeBlock r n b h).keptSlot i
          ((congrFun (KeptInEvent.placeBlock_slot r n b c) i).trans hr) rfl rfl
    · exact protocolError_exact h
  · exact h

/-- The slot of a read of a copy is slot 0, and its return leaves every slot FREE (R175). -/
theorem paused_of_freed (h : TableExact c) {i : SlotNo} {r : SlotRec} (hr : c.slot i = some r)
    (hidle : c.mlink.bringUp = .idle) (hstep : c.cfg.step ≠ none) : Paused (freeSlot i c) := by
  have hb := h.step hstep
  refine ⟨h.toCountsExact.freeSlot i, by rw [Laws.freeSlot_cfg, hb], by rw [freeSlot_mlink]; exact hidle, fun j => ?_⟩
  have hi : i = 0 := by
    by_contra hne
    exact absurd (hr.symm.trans (h.reading hb hidle i hne)) nofun
  rw [freeSlot_slot]
  split
  · rfl
  · rename_i hj
    exact h.reading hb hidle j (hi ▸ hj)

theorem resumed_exact (h : TableExact c) : TableExact (conclude id (resumeReset c)) :=
  TableExact.inEvent.conclude_id (resumeReset_exact h)

theorem configComplete_exact {i : SlotNo} {r : SlotRec} (hr : c.slot i = some r) (status : MediaStatus) (h : TableExact c) :
    TableExact (configComplete i status r c) := by
  have hfree := h.freeSlot i
  have hmlink : (freeSlot i c).mlink.bringUp = c.mlink.bringUp := by rw [freeSlot_mlink]
  unfold configComplete
  dsimp only
  split
  · refine resumed_exact ?_
    split
    · exact TableExact.inEvent.writeSucceeded hfree
    · exact TableExact.inEvent.writeFailed (fun _ h => by cases h) hfree
  split
  · rename_i hidle
    split
    · rename_i x hx
      have hstep : c.cfg.step ≠ none := by
        rw [Laws.freeSlot_cfg] at hx
        intro hnone
        rw [hnone] at hx
        cases hx
      have hpaused := paused_of_freed h hr (hmlink ▸ hidle) hstep
      refine nextStartStep_exact ?_
      split
      · exact hpaused.setMark _ _
      · exact hpaused.setMark _ _
    · exact hfree
  · exact hfree

theorem endTimeout_exact {i : SlotNo} {r : SlotRec} (hr : c.slot i = some r) (h : TableExact c) :
    TableExact (endTimeout i r c) := by
  have hfree := h.freeSlot i
  have hmlink : (freeSlot i c).mlink.bringUp = c.mlink.bringUp := by rw [freeSlot_mlink]
  unfold endTimeout
  dsimp only
  split
  · exact TableExact.inEvent.conclude_id hfree
  · split
    · exact resumed_exact (TableExact.inEvent.setWriter (fun _ h => by cases h) hfree)
    split
    · rename_i hidle
      by_cases hstep : c.cfg.step = none
      · have hnext : nextStartStep (freeSlot i c) = freeSlot i c := by
          unfold nextStartStep
          rw [Laws.freeSlot_cfg, hstep]
        rw [hnext]
        exact hfree
      · exact nextStartStep_exact (paused_of_freed h hr (hmlink ▸ hidle) hstep)
    · exact hfree

theorem countLate_slot (i j : SlotNo) (r : SlotRec) (c : Chip) : (countLate i r c).slot j = c.slot j := by
  unfold countLate
  split
  · split <;> rfl
  · rfl

theorem countLate_exact (i : SlotNo) (r : SlotRec) (h : TableExact c) : TableExact (countLate i r c) := by
  unfold countLate
  split
  · split
    · exact h
    · exact h.modMlink _ rfl rfl rfl
  · exact h

theorem commandComplete_exact {i : SlotNo} {r : SlotRec} (hr : c.slot i = some r) (status : MediaStatus) (h : TableExact c) :
    TableExact (commandComplete i status r c) := by
  unfold commandComplete
  split
  · exact TableExact.inEvent.portComplete _ _ _ hr h
  · exact configComplete_exact hr status h

theorem completeTaken_exact (i : SlotNo) (status : MediaStatus) (h : TableExact c) : TableExact (completeTaken i status c) := by
  unfold completeTaken
  split
  · split
    · rename_i r hr
      split
      · exact protocolError_exact h
      · exact commandComplete_exact hr status h
      · exact commandComplete_exact hr status h
      · exact endTimeout_exact ((countLate_slot i i r c).trans hr) (countLate_exact i r h)
    · exact protocolError_exact h
  · exact h

theorem abandonAckTaken_exact (i : SlotNo) (h : TableExact c) : TableExact (abandonAckTaken i c) := by
  have k := TableExact.inEvent
  unfold abandonAckTaken
  split
  · split
    · rename_i r hr
      split
      · exact protocolError_exact h
      · exact protocolError_exact h
      · exact k.concludes (fun hd => k.answerOwner _ _ _ _ _ hd) (h.freeSlot i)
      · exact endTimeout_exact hr h
    · exact protocolError_exact h
  · exact h

theorem responseExpiry_exact (i : SlotNo) (h : TableExact c) : TableExact (responseExpiry i c) := by
  have k := TableExact.inEvent
  unfold responseExpiry
  split
  · split
    · have habandoned := k.abandonSlot i .timeout (k.disown i h)
      dsimp only
      split
      · exact k.respond _ _ _ _ habandoned
      · exact habandoned
      · split
        · exact k.writeFailed (fun _ h => by cases h) habandoned
        · exact k.readLost habandoned
    all_goals exact h
  · exact h

theorem abandonExpiry_exact (i : SlotNo) (h : TableExact c) : TableExact (abandonExpiry i c) := by
  unfold abandonExpiry
  split
  · split
    · split
      · rename_i hb
        exact startRecovery_exact h hb
      split
      · rename_i hb
        exact bringUpAgain_exact h.toCountsExact hb.1
      · exact h
    all_goals exact h
  · exact h

/-! ### RESET-BRIDGE (R179, R180) -/

theorem resetBegun_exact (waiting : List Instr) (a : Asked) (h : TableExact c) : TableExact (takeResetBridge waiting a c) := by
  have k := TableExact.inEvent
  have hbegun : TableExact (if c.cfg.resetMark then joinReset a c else beginReset (a.answer .ok [] c)) := by
    split
    · unfold joinReset
      split
      · exact k.answer _ _ _ (k.takeFree h)
      · exact k.takeFree h
    · have hanswered := k.answer a .ok [] h
      exact ⟨hanswered.toBridged.of_units ⟨rfl, rfl, rfl, rfl⟩ fun _ hi => .inl hi,
        hanswered.toCountsExact.of_same (fun _ => rfl) rfl rfl⟩
  have hreturned : TableExact (returnJob (if c.cfg.resetMark then joinReset a c else beginReset (a.answer .ok [] c))) := by
    unfold returnJob
    split
    · exact k.modJobs _ ⟨rfl, rfl, rfl, fun _ hj => by cases hj⟩ hbegun
    all_goals exact hbegun
  unfold takeResetBridge
  dsimp only
  generalize returnJob (if c.cfg.resetMark then joinReset a c else beginReset (a.answer .ok [] c)) = d at hreturned
  split
  · exact finishReset_exact hreturned.toCountsExact
  · have hreached (l : List Port) := k.resetPorts (ports := l) (fun _ _ _ => trivial) (k.takeFree hreturned)
    unfold reachPorts
    dsimp only
    split
    · exact hreached _
    · exact k.resetPorts (fun _ _ _ => trivial) (hreached _)

end

/-! ### Every step -/

theorem tableExact_byMlink : KeptByMlink TableExact where
  linkUp h := mlinkUp_exact h
  linkDown h := mlinkDown_exact h
  checkFailed h := h.modMlink _ rfl rfl rfl
  linkReady h := linkReadyTaken_exact h
  identified capacity slots h := identifyTaken_exact capacity slots h
  attemptExpired h := attemptExpiry_exact h
  protocolError h := protocolError_exact h
  mediaData i n b h := mediaDataTaken_exact i n b h
  completed i status h := completeTaken_exact i status h
  abandonAcked i h := abandonAckTaken_exact i h
  responseExpired i h := responseExpiry_exact i h
  abandonExpired i h := abandonExpiry_exact i h

theorem tableExact_outside : KeptOutside TableExact where
  linked p _ h := h.modPort p rfl
  checkFailed p h := h.modPort p rfl
  opened p _ _ _ h := h.modPort p rfl

theorem tick_exact {c : Chip} (h : TableExact c) : TableExact (tickChip c) := by
  have hslot (i : SlotNo) : (tickChip c).slot i = (c.slot i).map fun r => { r with phase := r.phase.tick } :=
    PinAndTime.tickChip_slot ..
  have hfree {i : SlotNo} (hi : c.slot i = none) : (tickChip c).slot i = none := by rw [hslot, hi]; rfl
  have hused {i : SlotNo} (hi : (tickChip c).slot i ≠ none) : c.slot i ≠ none := fun hn => hi (hfree hn)
  have hidle : (tickChip c).mlink.bringUp = .idle ↔ c.mlink.bringUp = .idle := by
    change c.mlink.bringUp.tick = .idle ↔ _
    cases c.mlink.bringUp <;> simp [BringUp.tick]
  have hattempt {step : AttemptStep} {left : Nat} (hu : (tickChip c).mlink.bringUp = .attempt step left) :
      ∃ before, c.mlink.bringUp = .attempt step before := by
    change c.mlink.bringUp.tick = _ at hu
    cases hb : c.mlink.bringUp with
    | idle => rw [hb] at hu; cases hu
    | attempt step' before => rw [hb] at hu; cases hu; exact ⟨before, rfl⟩
  refine ⟨⟨h.step, fun hb => ?_, fun hb i => hfree (h.stopped hb i), fun hb => hidle.2 (h.fault hb),
    fun hb step left hu hs i => ?_, fun hb hu i hi => hfree (h.reading hb (hidle.1 hu) i hi)⟩, ?_⟩
  · obtain ⟨hu, hlt⟩ := h.service hb
    exact ⟨hidle.2 hu, fun i hi => hlt i (hused hi)⟩
  · obtain ⟨before, hu⟩ := hattempt hu
    exact hfree (h.attempt hb step before hu hs i)
  · refine h.toCountsExact.of_shares (fun p => ?_) (fun _ => rfl) fun i => ?_
    · change ((c.ports.map fun pc : PortCtl => { pc with tags := tableMap (Option.map Record.tick) pc.tags }).get p).inFlight = _
      cases p <;> rfl
    · rw [hslot]
      cases c.slot i <;> exact ⟨fun _ => rfl, fun _ => rfl⟩

/-- Every step keeps the slot table exact. -/
theorem step_keeps_slotTableExact {s t : State} (hstep : step s = .next t) (h : SlotTableExact s) : SlotTableExact t := by
  rw [slotTableExact_iff] at h ⊢
  rcases step_cases hstep with ⟨-, rfl⟩ | ⟨i, rest, -, ⟨-, rfl⟩ | ⟨-, -, rfl⟩ | ⟨-, -, -, rfl⟩ | ⟨-, rfl, -⟩⟩
  · unfold tick
    split
    · exact tick_exact h
    · exact h
  · refine coldChip_keeps (P := TableExact) (fun x n => ?_) s.chip
    exact ((slotTableExact_iff State.reset).1 resetSatisfiesTheInvariants.2.2.2.2.2.2.2.2.1).of_same (fun _ => rfl) rfl rfl rfl
  · exact enterStart_exact h.toCountsExact
  · exact TableExact.inEvent.action tableExact_outside tableExact_byMlink rest i
      (.inr fun a _ hd => resetBegun_exact rest a hd) h
  · exact h

end Sys2Proof.SlotTables
end

section
/-! SUPPORT. The ledger of the requests: which records are queued, which hold a slot, and whose answers other blocks keep (R6,
R33, R53, R88, R110, R117, R139, R148). -/

namespace Sys2Proof.Ledgers

open Sys2Proof.Machine Sys2Proof.Safety Sys2Proof.Keeping Sys2Proof.Pages

/-! ### The ledger -/

/-- What a request record says of queues and slots: the window of a queued request; the slot of a request on the media, and the
ABORT that waits for it. -/
inductive View where
  | free
  | handed
  | queued (w : WindowNo)
  | onSlot (i : SlotNo) (abort : Option Tag)
  | leaving

namespace View

def slot : View → Option SlotNo
  | .onSlot i _ => some i
  | .free | .handed | .queued _ | .leaving => none

def abort : View → Option Tag
  | .onSlot _ a => a
  | .free | .handed | .queued _ | .leaving => none

/-- Whether it is a queued request on window `w`. -/
def isOn (w : WindowNo) : View → Bool
  | .queued v => decide (v = w)
  | .free | .handed | .onSlot _ _ | .leaving => false

/-- The two differ in the waiting ABORT alone. -/
structure Like (x y : View) : Prop where
  slot : x.slot = y.slot
  queued : ∀ w, x = .queued w ↔ y = .queued w
  handed : x = .handed ↔ y = .handed

theorem Like.refl (x : View) : Like x x := ⟨rfl, fun _ => .rfl, .rfl⟩

theorem isOn_iff {w : WindowNo} {x : View} : x.isOn w = true ↔ x = .queued w := by
  cases x <;> simp [isOn]

theorem Like.isOn {x y : View} (h : Like x y) (w : WindowNo) : x.isOn w = y.isOn w :=
  Bool.eq_iff_iff.2 (isOn_iff.trans ((h.queued w).trans isOn_iff.symm))

end View

/-- What a hold keeps of its placement: the owner, and the tag whose answer is due (R33). -/
structure Ask where
  id : Nat
  owner : Port
  tag : Option Tag

/-- Whether the answer of tag `u` of port `p` is due. -/
def Ask.isDue (p : Port) (u : Tag) (a : Ask) : Bool := decide (a.owner = p) && decide (a.tag = some u)

/-- What the queues are kept exact by. -/
structure Ledger where
  view : Port → Tag → View
  isOpen : Port → Bool
  queue : Port → List Tag
  owner : SlotNo → Option (Port × Tag)
  asks : List Ask
  /-- Session and tag of the COMMIT under way. -/
  commit : Option (Option Port × Option Tag)
  /-- The owner of staging that is COMMITTING. -/
  asker : Option (Option Port)
  queued : WindowNo → Nat

namespace Ledger

/-- The ABORT of port `p` that waits for slot `i`. -/
def waiting (l : Ledger) (p : Port) (i : SlotNo) : Option Tag :=
  (l.owner i).bind fun x => if x.1 = p then (l.view x.1 x.2).abort else none

/-- How often another block keeps the answer of tag `u` of port `p`. -/
def awaits (l : Ledger) (p : Port) (u : Tag) : Nat :=
  allSlots.countP (fun i => decide (l.waiting p i = some u)) + l.asks.countP (Ask.isDue p u) +
    if l.commit = some (some p, some u) then 1 else 0

/-- The queued requests on window `w`. -/
def entries (l : Ledger) (w : WindowNo) : Nat :=
  (Port.all.map fun p => (l.queue p).countP fun u => (l.view p u).isOn w).sum

end Ledger

/-- No queue, no slot and, unless port `p` is still to be cleaned up, no other block names tag `u` of port `p`. -/
structure Loose (X : List Port) (l : Ledger) (p : Port) (u : Tag) : Prop where
  queue : u ∉ l.queue p
  owner : ∀ i, l.owner i ≠ some (p, u)
  awaits : p ∈ X ∨ l.awaits p u = 0

/-- The ledger is exact, but for the ports `X`, which have left OPEN and are still to be cleaned up, and the tags `L`, which
have left their queues and slots and are still to be answered. -/
structure Fits (X : List Port) (L : List (Port × Tag)) (l : Ledger) : Prop where
  ids : l.asks.Pairwise fun a b => a.id < b.id
  left : ∀ p ∈ X, l.isOpen p = false
  nodup : ∀ p, (l.queue p).Nodup
  listed : ∀ p, ∀ u ∈ l.queue p, ∃ w, l.view p u = .queued w
  all : ∀ p u w, l.view p u = .queued w → u ∈ l.queue p ∨ (p, u) ∈ L
  closed : ∀ p, p ∉ X → l.isOpen p = false → l.queue p = []
  owned : ∀ i p u, l.owner i = some (p, u) → (l.view p u).slot = some i
  awaited : ∀ p, p ∉ X → ∀ u, l.awaits p u = 0 ∨ (l.awaits p u = 1 ∧ l.view p u = .handed)
  counted : ∀ w, l.queued w = l.entries w
  committed : ∀ q t, l.commit = some (q, t) → l.asker = some q
  loose : ∀ x ∈ L, Loose X l x.1 x.2

namespace Fits

variable {X : List Port} {L : List (Port × Tag)} {l m : Ledger} {p : Port} {t u : Tag}

/-! ### What the ledger tells of a tag -/

theorem notQueued (h : Fits X L l) (hu : ∀ w, l.view p u ≠ .queued w) : u ∉ l.queue p := fun hm =>
  let ⟨w, hw⟩ := h.listed p u hm
  hu w hw

theorem notOwner (h : Fits X L l) (hu : (l.view p u).slot = none) (i : SlotNo) : l.owner i ≠ some (p, u) := fun hi => by
  rw [h.owned i p u hi] at hu
  cases hu

theorem notAwaited (h : Fits X L l) (hu : l.view p u ≠ .handed) : p ∈ X ∨ l.awaits p u = 0 := by
  by_cases hp : p ∈ X
  · exact .inl hp
  · exact .inr ((h.awaited p hp u).resolve_right fun ⟨_, hv⟩ => hu hv)

/-- A free tag is named nowhere. -/
theorem loose_of_free (h : Fits X L l) (hu : l.view p u = .free) : Loose X l p u :=
  ⟨h.notQueued (by simp [hu]), h.notOwner (by rw [hu]; rfl), h.notAwaited (by simp [hu])⟩

/-! ### What leaves queues and records alone -/

theorem add (h : Fits X L l) (hl : Loose X l p u) : Fits X ((p, u) :: L) l :=
  { h with
    all := fun q v w hv => (h.all q v w hv).imp_right (List.mem_cons_of_mem _)
    loose := fun x hx => by
      rcases List.mem_cons.1 hx with rfl | hx
      · exact hl
      · exact h.loose x hx }

/-- Tags that are not queued need no answer. -/
theorem drop {L' : List (Port × Tag)} (h : Fits X L l) (hsub : L' ⊆ L)
    (hno : ∀ p u w, (p, u) ∈ L → l.view p u = .queued w → (p, u) ∈ L') : Fits X L' l :=
  { h with
    all := fun q v w hv => (h.all q v w hv).imp_right fun hm => hno q v w hm hv
    loose := fun x hx => h.loose x (hsub hx) }

theorem dropHead (h : Fits X ((p, u) :: L) l) (hu : ∀ w, l.view p u ≠ .queued w) : Fits X L l :=
  h.drop (List.subset_cons_self _ _) fun q v w hm hv => (List.mem_cons.1 hm).resolve_left fun e => by
    cases e
    exact hu w hv

/-- Slots lose their owners, and of the answers kept elsewhere there are fewer, but for those of `A`. -/
theorem step {A : List (Port × Tag)} (h : Fits X L l) (hview : ∀ q v, (m.view q v).Like (l.view q v))
    (hopen : m.isOpen = l.isOpen) (hqueue : m.queue = l.queue) (hqueued : m.queued = l.queued)
    (howner : ∀ i, m.owner i = l.owner i ∨ m.owner i = none) (hids : m.asks.Pairwise fun a b => a.id < b.id)
    (hawaits : ∀ q v, m.awaits q v ≤ l.awaits q v ∨ ((q, v) ∈ A ∧ m.awaits q v ≤ l.awaits q v + 1))
    (hA : ∀ x ∈ A, x ∉ L ∧ Loose X l x.1 x.2 ∧ l.view x.1 x.2 = .handed)
    (hcommitted : ∀ q t, m.commit = some (q, t) → m.asker = some q) : Fits X L m where
  ids := hids
  left := by rw [hopen]; exact h.left
  nodup := by rw [hqueue]; exact h.nodup
  listed p u hu := by
    rw [hqueue] at hu
    obtain ⟨w, hw⟩ := h.listed p u hu
    exact ⟨w, ((hview p u).queued w).2 hw⟩
  all q v w hv := by
    rw [hqueue]
    exact h.all q v w (((hview q v).queued w).1 hv)
  closed := by rw [hopen, hqueue]; exact h.closed
  owned i q v hi := by
    rw [(hview q v).slot]
    rcases howner i with e | e
    · exact h.owned i q v (e ▸ hi)
    · rw [e] at hi; cases hi
  awaited q hq v := by
    rcases hawaits q v with hle | ⟨hm, hle⟩
    · rcases h.awaited q hq v with h0 | ⟨h1, hv⟩
      · exact .inl (by omega)
      · by_cases h0 : m.awaits q v = 0
        · exact .inl h0
        · exact .inr ⟨by omega, (hview q v).handed.2 hv⟩
    · obtain ⟨-, hloose, hv⟩ := hA _ hm
      have h0 := hloose.awaits.resolve_left hq
      dsimp only at h0 hv
      by_cases hm0 : m.awaits q v = 0
      · exact .inl hm0
      · exact .inr ⟨by omega, (hview q v).handed.2 hv⟩
  counted w := by
    have hentries : m.entries w = l.entries w := by
      unfold Ledger.entries
      rw [hqueue]
      simp only [fun q v => (hview q v).isOn w]
    rw [hqueued, h.counted w, hentries]
  committed := hcommitted
  loose x hx := by
    obtain ⟨hqu, how, haw⟩ := h.loose x hx
    refine ⟨by rw [hqueue]; exact hqu, fun i hi => ?_, haw.imp_right fun h0 => ?_⟩
    · rcases howner i with e | e
      · exact how i (e ▸ hi)
      · rw [e] at hi; cases hi
    · rcases hawaits x.1 x.2 with hle | ⟨hm, -⟩
      · omega
      · exact absurd hx (hA _ hm).1

/-- Slots lose their owners, and there are fewer answers kept elsewhere. -/
theorem shrink (h : Fits X L l) (hview : m.view = l.view) (hopen : m.isOpen = l.isOpen) (hqueue : m.queue = l.queue)
    (hqueued : m.queued = l.queued) (howner : ∀ i, m.owner i = l.owner i ∨ m.owner i = none)
    (hids : m.asks.Pairwise fun a b => a.id < b.id) (hasks : ∀ q v, m.asks.countP (Ask.isDue q v) ≤ l.asks.countP (Ask.isDue q v))
    (hcommit : ∀ q v, m.commit = some (some q, some v) → l.commit = some (some q, some v))
    (hcommitted : ∀ q t, m.commit = some (q, t) → m.asker = some q) : Fits X L m := by
  refine h.step (A := []) (fun q v => by rw [hview]; exact .refl _) hopen hqueue hqueued howner hids (fun q v => .inl ?_)
    (by simp) hcommitted
  have hslots : allSlots.countP (fun i => decide (m.waiting q i = some v)) ≤
      allSlots.countP (fun i => decide (l.waiting q i = some v)) := by
    refine List.countP_mono_left fun i _ hi => ?_
    unfold Ledger.waiting at hi ⊢
    rw [hview] at hi
    rcases howner i with e | e
    · rwa [e] at hi
    · simp [e] at hi
  have hc : (if m.commit = some (some q, some v) then 1 else 0) ≤ (if l.commit = some (some q, some v) then 1 else 0 : Nat) := by
    split
    · rename_i hm
      rw [if_pos (hcommit q v hm)]
    · exact Nat.zero_le _
  have ha := hasks q v
  unfold Ledger.awaits
  omega

/-! ### Records that change -/

theorem awaits_review {f : Port → Tag → View} (hf : ∀ q v, f q v = l.view q v ∨ ∀ i, l.owner i ≠ some (q, v)) (q : Port)
    (v : Tag) : ({ l with view := f } : Ledger).awaits q v = l.awaits q v := by
  have hwaiting (i : SlotNo) : ({ l with view := f } : Ledger).waiting q i = l.waiting q i := by
    unfold Ledger.waiting
    dsimp only
    cases hi : l.owner i with
    | none => rfl
    | some x =>
      rcases hf x.1 x.2 with e | hno
      · simp only [Option.bind_some, e]
      · exact absurd hi (hno i)
  unfold Ledger.awaits
  simp only [hwaiting]

/-- Records that nothing names change, and are not queued after that. -/
theorem review (h : Fits X L l) {f : Port → Tag → View}
    (hf : ∀ q v, f q v = l.view q v ∨ (Loose X l q v ∧ ∀ w, f q v ≠ .queued w)) : Fits X L { l with view := f } := by
  have hawaits := awaits_review (l := l) (f := f) fun q v => (hf q v).imp_right fun hl => hl.1.owner
  refine { h with listed := fun q v hv => ?_, all := fun q v w hv => ?_, owned := fun i q v hi => ?_, awaited := fun q hq v => ?_,
                  counted := fun w => ?_, loose := fun x hx => ?_ }
  · obtain ⟨w, hw⟩ := h.listed q v hv
    rcases hf q v with e | ⟨hl, -⟩
    · exact ⟨w, e.trans hw⟩
    · exact absurd hv hl.queue
  · rcases hf q v with e | ⟨-, hno⟩
    · exact h.all q v w (e.symm.trans hv)
    · exact absurd hv (hno w)
  · rcases hf q v with e | ⟨hl, -⟩
    · exact (congrArg View.slot e).trans (h.owned i q v hi)
    · exact absurd hi (hl.owner i)
  · rw [hawaits]
    rcases hf q v with e | ⟨hl, -⟩
    · dsimp only
      rw [e]
      exact h.awaited q hq v
    · exact .inl (hl.awaits.resolve_left hq)
  · rw [h.counted w]
    unfold Ledger.entries
    refine congrArg List.sum (List.map_congr_left fun q _ => List.countP_congr fun v hv => ?_)
    rcases hf q v with e | ⟨hl, -⟩
    · dsimp only
      rw [e]
    · exact absurd hv hl.queue
  · obtain ⟨hqu, how, haw⟩ := h.loose x hx
    exact ⟨hqu, how, by rw [hawaits]; exact haw⟩

end Fits

/-- The ledger with another view of one tag. -/
def Ledger.set (l : Ledger) (p : Port) (u : Tag) (x : View) : Ledger :=
  { l with view := fun q v => if q = p ∧ v = u then x else l.view q v }

namespace Fits

variable {X : List Port} {L : List (Port × Tag)} {l m : Ledger} {p : Port} {t u : Tag}

theorem set (h : Fits X L l) (hl : Loose X l p u) {x : View} (hx : ∀ w, x ≠ .queued w) : Fits X L (l.set p u x) := by
  refine h.review fun q v => ?_
  split
  · rename_i hqv
    obtain ⟨rfl, rfl⟩ := hqv
    exact .inr ⟨hl, hx⟩
  · exact .inl rfl

end Fits

/-- A value at one port replaced. -/
def onPort {α : Type} (f : Port → α) (p : Port) (x : α) : Port → α := fun q => if q = p then x else f q

/-- A count of one window replaced. -/
def onWindow (f : WindowNo → Nat) (w : WindowNo) (n : Nat) : WindowNo → Nat := fun v => if v = w then n else f v

/-- The ledger without the entry of tag `u`, which is on window `w` (R89). -/
def Ledger.dequeue (l : Ledger) (p : Port) (u : Tag) (w : WindowNo) : Ledger :=
  { l with queue := onPort l.queue p ((l.queue p).erase u), queued := onWindow l.queued w (l.queued w - 1) }

/-- The ledger with one more entry (R80). -/
def Ledger.enqueue (l : Ledger) (p : Port) (u : Tag) (w : WindowNo) : Ledger :=
  { l.set p u (.queued w) with
    queue := onPort l.queue p (l.queue p ++ [u]), queued := onWindow l.queued w (l.queued w + 1) }

/-- The ledger with an owner of a slot (R99). -/
def Ledger.own (l : Ledger) (i : SlotNo) (p : Port) (u : Tag) : Ledger :=
  { l with owner := fun j => if j = i then some (p, u) else l.owner j }

namespace Fits

variable {X : List Port} {L : List (Port × Tag)} {l m : Ledger} {p : Port} {t u : Tag}

/-- How the entries of the queues on a window change with the queue of one port. -/
theorem entries_onPort (hm : ∀ q, q ≠ p → m.queue q = l.queue q ∧ ∀ v ∈ l.queue q, m.view q v = l.view q v) (w : WindowNo) :
    m.entries w + (l.queue p).countP (fun v => (l.view p v).isOn w) =
      l.entries w + (m.queue p).countP (fun v => (m.view p v).isOn w) := by
  refine sum_map_update (f := fun q => (m.queue q).countP fun v => (m.view q v).isOn w)
    (g := fun q => (l.queue q).countP fun v => (l.view q v).isOn w) nodup_portAll (Grants.mem_portAll p) fun q hq => ?_
  obtain ⟨hqueue, hview⟩ := hm q hq
  rw [hqueue]
  exact List.countP_congr fun v hv => by rw [hview v hv]

theorem dequeue (h : Fits X L l) {w : WindowNo} (hu : u ∈ l.queue p) (hw : l.view p u = .queued w) :
    Fits X ((p, u) :: L) (l.dequeue p u w) := by
  have hsub (q : Port) : (l.dequeue p u w).queue q ⊆ l.queue q := by
    unfold Ledger.dequeue onPort
    dsimp only
    split
    · rename_i hq
      rw [hq]
      exact List.erase_subset
    · exact List.Subset.refl _
  have hother {q : Port} {v : Tag} (hv : v ∈ l.queue q) (hne : (q, v) ≠ (p, u)) : v ∈ (l.dequeue p u w).queue q := by
    unfold Ledger.dequeue onPort
    dsimp only
    split
    · rename_i hq
      subst hq
      exact (List.mem_erase_of_ne fun e => hne (by rw [e])).2 hv
    · exact hv
  refine { h with nodup := fun q => ?_, listed := fun q v hv => h.listed q v (hsub q hv), all := fun q v w' hv => ?_,
                  closed := fun q hq hc => ?_, counted := fun w' => ?_, loose := fun x hx => ?_ }
  · unfold Ledger.dequeue onPort
    dsimp only
    split
    · exact (h.nodup p).erase u
    · exact h.nodup q
  · rcases h.all q v w' hv with hm | hm
    · by_cases hne : (q, v) = (p, u)
      · exact .inr (hne ▸ List.mem_cons_self)
      · exact .inl (hother hm hne)
    · exact .inr (List.mem_cons_of_mem _ hm)
  · exact List.eq_nil_of_subset_nil (h.closed q hq hc ▸ hsub q)
  · have hentries := entries_onPort (p := p) (l := l) (m := l.dequeue p u w)
      (fun q hq => ⟨if_neg hq, fun _ _ => rfl⟩) w'
    have hcount : ((l.dequeue p u w).queue p).countP (fun v => ((l.dequeue p u w).view p v).isOn w') =
        (l.queue p).countP (fun v => (l.view p v).isOn w') - if w' = w then 1 else 0 := by
      have hqueue : (l.dequeue p u w).queue p = (l.queue p).erase u := if_pos rfl
      rw [hqueue]
      refine (List.countP_erase ..).trans ?_
      have hview : (l.dequeue p u w).view = l.view := rfl
      simp only [hu, true_and, hview, hw, View.isOn, decide_eq_true_eq, eq_comm (a := w)]
    have hpos : w' = w → 0 < (l.queue p).countP (fun v => (l.view p v).isOn w') := fun hww =>
      List.countP_pos_iff.2 ⟨u, hu, by rw [hw]; simp [View.isOn, hww]⟩
    have hqueued : (l.dequeue p u w).queued w' = l.queued w' - if w' = w then 1 else 0 := by
      unfold Ledger.dequeue onWindow
      dsimp only
      split
      · rename_i hww
        rw [hww]
      · rfl
    have hl := h.counted w'
    split at hcount
    · have := hpos ‹_›
      rw [hqueued, if_pos ‹_›]
      omega
    · rw [hqueued, if_neg ‹_›]
      omega
  · rcases List.mem_cons.1 hx with rfl | hx
    · refine ⟨?_, h.notOwner (by rw [hw]; rfl), h.notAwaited (by simp [hw])⟩
      have hqueue : (l.dequeue p u w).queue p = (l.queue p).erase u := if_pos rfl
      dsimp only
      rw [hqueue]
      exact fun hm => ((h.nodup p).mem_erase_iff.1 hm).1 rfl
    · obtain ⟨hqu, how, haw⟩ := h.loose x hx
      exact ⟨fun hm => hqu (hsub _ hm), how, haw⟩

theorem awaits_own {i : SlotNo} (hi : l.owner i = none) (hv : (l.view p u).abort = none) (q : Port) (v : Tag) :
    (l.own i p u).awaits q v = l.awaits q v := by
  have hwaiting (j : SlotNo) : (l.own i p u).waiting q j = l.waiting q j := by
    unfold Ledger.waiting Ledger.own
    dsimp only
    split
    · rename_i hj
      rw [hj, hi, Option.bind_some, hv]
      simp
    · rfl
  unfold Ledger.awaits
  simp only [hwaiting]
  rfl

/-- A record that is on a slot without an owner becomes its owner. -/
theorem own (h : Fits X L l) (hl : Loose X l p u) (hL : (p, u) ∉ L) {i : SlotNo} (hv : l.view p u = .onSlot i none)
    (hi : l.owner i = none) : Fits X L (l.own i p u) := by
  have hawaits := awaits_own hi (p := p) (u := u) (by rw [hv]; rfl)
  refine { h with owned := fun j q v hj => ?_, awaited := fun q hq v => ?_, loose := fun x hx => ?_ }
  · by_cases hji : j = i
    · have hj : (if j = i then some (p, u) else l.owner j) = some (q, v) := hj
      rw [if_pos hji] at hj
      cases hj
      rw [hji]
      exact congrArg View.slot hv
    · exact h.owned j q v ((if_neg hji).symm.trans hj)
  · rw [hawaits]
    exact h.awaited q hq v
  · obtain ⟨hqu, how, haw⟩ := h.loose x hx
    refine ⟨hqu, fun j hj => ?_, by rw [hawaits]; exact haw⟩
    by_cases hji : j = i
    · have hj : (if j = i then some (p, u) else l.owner j) = some (x.1, x.2) := hj
      rw [if_pos hji] at hj
      cases hj
      exact hL hx
    · exact how j ((if_neg hji).symm.trans hj)

/-- The grant of a queued request (R99). -/
theorem grant (h : Fits X L l) {w : WindowNo} {i : SlotNo} (hu : u ∈ l.queue p) (hw : l.view p u = .queued w)
    (hi : l.owner i = none) : Fits X L (((l.dequeue p u w).set p u (.onSlot i none)).own i p u) := by
  have hL : (p, u) ∉ L := fun hm => (h.loose _ hm).queue hu
  have hout := h.dequeue hu hw
  have hset := hout.set (hout.loose _ List.mem_cons_self) (x := .onSlot i none) (fun _ => by simp)
  have hview : ((l.dequeue p u w).set p u (.onSlot i none)).view p u = .onSlot i none := if_pos ⟨rfl, rfl⟩
  exact (hset.dropHead (by simp [hview])).own (hset.loose _ List.mem_cons_self) hL hview hi

/-- A request is queued under a free tag (R80). -/
theorem enqueue (h : Fits X L l) {w : WindowNo} (hu : l.view p u = .free) (hopen : l.isOpen p = true) (hL : (p, u) ∉ L) :
    Fits X L (l.enqueue p u w) := by
  have hloose := h.loose_of_free hu
  have hview (q : Port) (v : Tag) : (l.enqueue p u w).view q v = if q = p ∧ v = u then .queued w else l.view q v := rfl
  have hqueue (q : Port) : (l.enqueue p u w).queue q = if q = p then l.queue p ++ [u] else l.queue q := rfl
  have hsame {q : Port} {v : Tag} (hv : v ∈ l.queue q) : (l.enqueue p u w).view q v = l.view q v := by
    rw [hview, if_neg]
    rintro ⟨rfl, rfl⟩
    exact hloose.queue hv
  have hawaits : ∀ q v, (l.enqueue p u w).awaits q v = l.awaits q v :=
    awaits_review (l := l) (f := (l.enqueue p u w).view) fun q v => by
      rw [hview]
      split
      · rename_i hqv
        obtain ⟨rfl, rfl⟩ := hqv
        exact .inr hloose.owner
      · exact .inl rfl
  refine { h with nodup := fun q => ?_, listed := fun q v hv => ?_, all := fun q v w' hv => ?_, closed := fun q hq hc => ?_,
                  owned := fun i q v hi => ?_, awaited := fun q hq v => ?_, counted := fun w' => ?_, loose := fun x hx => ?_ }
  · rw [hqueue]
    split
    · exact List.nodup_append.2 ⟨h.nodup p, List.nodup_singleton u, by simpa using fun a ha (e : a = u) => hloose.queue (e ▸ ha)⟩
    · exact h.nodup q
  · by_cases hqv : q = p ∧ v = u
    · exact ⟨w, by rw [hview, if_pos hqv]⟩
    · have hm : v ∈ l.queue q := by
        rw [hqueue] at hv
        split at hv
        · rename_i hq
          subst hq
          simpa [show v ≠ u from fun e => hqv ⟨rfl, e⟩] using hv
        · exact hv
      rw [hsame hm]
      exact h.listed q v hm
  · rw [hqueue]
    by_cases hqv : q = p ∧ v = u
    · rw [if_pos hqv.1, hqv.2]
      exact .inl (by simp)
    · rw [hview, if_neg hqv] at hv
      refine (h.all q v w' hv).imp_left fun hm => ?_
      split
      · rename_i hq
        subst hq
        exact List.mem_append_left _ hm
      · exact hm
  · have hqp : q ≠ p := by
      rintro rfl
      rw [show l.isOpen q = false from hc] at hopen
      cases hopen
    rw [hqueue, if_neg hqp]
    exact h.closed q hq hc
  · have hne : ¬ (q = p ∧ v = u) := by
      rintro ⟨rfl, rfl⟩
      exact hloose.owner i hi
    rw [hview, if_neg hne]
    exact h.owned i q v hi
  · rw [hawaits, hview]
    split
    · rename_i hqv
      obtain ⟨rfl, rfl⟩ := hqv
      exact .inl (hloose.awaits.resolve_left hq)
    · exact h.awaited q hq v
  · have hentries := entries_onPort (p := p) (l := l) (m := l.enqueue p u w)
      (fun q hq => ⟨(hqueue q).trans (if_neg hq), fun v hv => hsame hv⟩) w'
    have hcount : ((l.enqueue p u w).queue p).countP (fun v => ((l.enqueue p u w).view p v).isOn w') =
        (l.queue p).countP (fun v => (l.view p v).isOn w') + if w' = w then 1 else 0 := by
      rw [hqueue, if_pos rfl, List.countP_append, List.countP_congr fun v hv => by rw [hsame hv]]
      refine congrArg _ ?_
      simp only [List.countP_singleton, hview, and_self, if_true, View.isOn, decide_eq_true_eq, eq_comm (a := w)]
    have hqueued : (l.enqueue p u w).queued w' = l.queued w' + if w' = w then 1 else 0 := by
      change (if w' = w then l.queued w + 1 else l.queued w') = _
      split
      · rename_i hww
        rw [hww]
      · rfl
    have hl := h.counted w'
    rw [hqueued, hl]
    omega
  · obtain ⟨hqu, how, haw⟩ := h.loose x hx
    refine ⟨?_, how, by rw [hawaits]; exact haw⟩
    rw [hqueue]
    split
    · rename_i hq
      have hne : x.2 ≠ u := fun e => hL (by rw [← hq, ← e]; exact hx)
      rw [List.mem_append, not_or]
      exact ⟨hq ▸ hqu, by simpa using hne⟩
    · exact hqu

/-! ### ABORT of a request on the media (R110) -/

/-- A count over the slots, when at slot `i` alone one more may hold. -/
theorem countP_slots_le {f g : SlotNo → Bool} {i : SlotNo} (h : ∀ j, f j = true → g j = true ∨ j = i) :
    allSlots.countP f ≤ allSlots.countP g + 1 := by
  have hle : ∀ l : List SlotNo, l.countP f ≤ l.countP g + l.count i := by
    intro l
    induction l with
    | nil => exact Nat.le_refl _
    | cons j l ih =>
      rw [List.countP_cons, List.countP_cons, List.count_cons]
      by_cases hf : f j = true
      · rcases h j hf with hg | rfl
        · simp only [hf, hg, if_true]
          omega
        · simp only [hf, if_true, beq_self_eq_true]
          omega
      · simp only [hf]
        simp only [Bool.false_eq_true, if_false]
        omega
  exact (hle allSlots).trans (Nat.add_le_add_left (List.nodup_iff_count_le_one.1 nodup_allSlots i) _)

/-- A count over the slots that slot `i` no longer takes part in. -/
theorem countP_slots_lt {f g : SlotNo → Bool} {i : SlotNo} (hg : g i = true) (hf : f i = false)
    (h : ∀ j, f j = true → g j = true) : allSlots.countP f < allSlots.countP g := by
  have hrest : 0 < (allSlots.filter fun j => !f j).countP g :=
    List.countP_pos_iff.2 ⟨i, List.mem_filter.2 ⟨Grants.mem_allSlots i, by simp [hf]⟩, hg⟩
  have hboth : (allSlots.filter f).countP g = allSlots.countP f := by
    rw [List.countP_filter]
    exact List.countP_congr fun j _ => by simpa using h j
  have hsplit := List.countP_eq_countP_filter_add allSlots g f
  omega

/-- With the same holds and the same commit, only the slots tell how often an answer is kept. -/
theorem awaits_slots (hasks : m.asks = l.asks) (hcommit : m.commit = l.commit) (q : Port) (v : Tag) :
    m.awaits q v + allSlots.countP (fun j => decide (l.waiting q j = some v)) =
      l.awaits q v + allSlots.countP fun j => decide (m.waiting q j = some v) := by
  unfold Ledger.awaits
  rw [hasks, hcommit]
  omega

/-- An ABORT waits for the slot of a request. -/
theorem abandon {a : Tag} {i : SlotNo} (h : Fits X L l) (ha : Loose X l p a) (hh : l.view p a = .handed) (haL : (p, a) ∉ L)
    (hv : l.view p t = .onSlot i none) : Fits X L (l.set p t (.onSlot i (some a))) := by
  have hview (q : Port) (v : Tag) :
      (l.set p t (.onSlot i (some a))).view q v = if q = p ∧ v = t then .onSlot i (some a) else l.view q v := rfl
  have hwaiting {q : Port} {j : SlotNo} {v : Tag} (hj : (l.set p t (.onSlot i (some a))).waiting q j = some v) :
      l.waiting q j = some v ∨ (q = p ∧ v = a ∧ j = i) := by
    change (l.owner j).bind (fun x => if x.1 = q then ((l.set p t (.onSlot i (some a))).view x.1 x.2).abort else none) = _ at hj
    unfold Ledger.waiting
    cases ho : l.owner j with
    | none => rw [ho] at hj; cases hj
    | some x =>
      rw [ho, Option.bind_some] at hj
      rw [Option.bind_some]
      split at hj
      · rename_i hq
        rw [hview] at hj
        split at hj
        · rename_i hx
          obtain ⟨hp, ht⟩ := hx
          cases hj
          have hown := h.owned j x.1 x.2 ho
          rw [hp, ht, hv] at hown
          exact .inr ⟨hq.symm.trans hp, rfl, (Option.some.inj hown).symm⟩
        · rw [if_pos hq]
          exact .inl hj
      · cases hj
  refine h.step (A := [(p, a)]) (fun q v => ?_) rfl rfl rfl (fun _ => .inl rfl) h.ids (fun q v => ?_) (fun x hx => ?_) h.committed
  · rw [hview]
    split
    · rename_i hqv
      obtain ⟨rfl, rfl⟩ := hqv
      rw [hv]
      exact ⟨rfl, fun _ => by simp, by simp⟩
    · exact .refl _
  · by_cases hpa : q = p ∧ v = a
    · refine .inr ⟨by rw [hpa.1, hpa.2]; exact List.mem_cons_self, ?_⟩
      have hcount := countP_slots_le (i := i) (f := fun j => decide ((l.set p t (.onSlot i (some a))).waiting q j = some v))
        (g := fun j => decide (l.waiting q j = some v)) fun j hj => by
          rcases hwaiting (of_decide_eq_true hj) with hw | ⟨-, -, hji⟩
          · exact .inl (decide_eq_true hw)
          · exact .inr hji
      have hslots := awaits_slots (l := l) (m := l.set p t (.onSlot i (some a))) rfl rfl q v
      omega
    · refine .inl ?_
      have hcount : allSlots.countP (fun j => decide ((l.set p t (.onSlot i (some a))).waiting q j = some v)) ≤
          allSlots.countP fun j => decide (l.waiting q j = some v) :=
        List.countP_mono_left fun j _ hj => by
          rcases hwaiting (of_decide_eq_true hj) with hw | ⟨hq, hva, -⟩
          · exact decide_eq_true hw
          · exact absurd ⟨hq, hva⟩ hpa
      have hslots := awaits_slots (l := l) (m := l.set p t (.onSlot i (some a))) rfl rfl q v
      omega
  · cases List.mem_singleton.1 hx
    exact ⟨haL, ha, hh⟩

/-! ### Sessions -/

/-- A port leaves OPEN, and is to be cleaned up. -/
theorem leave (h : Fits X L l) (p : Port) : Fits (p :: X) L { l with isOpen := onPort l.isOpen p false } where
  ids := h.ids
  left q hq := by
    unfold onPort
    dsimp only
    split
    · rfl
    · rename_i hne
      exact h.left q ((List.mem_cons.1 hq).resolve_left hne)
  nodup := h.nodup
  listed := h.listed
  all := h.all
  closed q hq hc := by
    rw [List.mem_cons, not_or] at hq
    exact h.closed q hq.2 ((if_neg hq.1).symm.trans hc)
  owned := h.owned
  awaited q hq := h.awaited q fun hm => hq (List.mem_cons_of_mem _ hm)
  counted := h.counted
  committed := h.committed
  loose x hx :=
    let ⟨hqu, how, haw⟩ := h.loose x hx
    ⟨hqu, how, haw.imp_left (List.mem_cons_of_mem _)⟩

/-- A session opens. -/
theorem opening (h : Fits [] L l) (p : Port) : Fits [] L { l with isOpen := onPort l.isOpen p true } :=
  { h with
    left := fun q hq => absurd hq List.not_mem_nil
    closed := fun q hq hc => by
      refine h.closed q hq ?_
      by_cases hqp : q = p
      · have hopen : true = false := (if_pos hqp).symm.trans hc
        cases hopen
      · exact (if_neg hqp).symm.trans hc
    loose := fun x hx =>
      let ⟨hqu, how, haw⟩ := h.loose x hx
      ⟨hqu, how, haw⟩ }

/-- A port has been cleaned up: its queue is empty, and no slot and no other block names a tag of it. -/
theorem cleaned (h : Fits (p :: X) L l) (hqueue : l.queue p = []) (hawaits : ∀ u, l.awaits p u = 0) : Fits X L l :=
  { h with
    left := fun q hq => h.left q (List.mem_cons_of_mem _ hq)
    closed := fun q hq hc => by
      by_cases hqp : q = p
      · rw [hqp, hqueue]
      · exact h.closed q (fun hm => hq ((List.mem_cons.1 hm).resolve_left hqp)) hc
    awaited := fun q hq u => by
      by_cases hqp : q = p
      · exact .inl (hqp ▸ hawaits u)
      · exact h.awaited q (fun hm => hq ((List.mem_cons.1 hm).resolve_left hqp)) u
    loose := fun x hx =>
      let ⟨hqu, how, haw⟩ := h.loose x hx
      ⟨hqu, how, haw.elim (fun hm => (List.mem_cons.1 hm).elim (fun e => .inr (e ▸ hawaits x.2)) .inl) .inr⟩ }

end Fits

end Sys2Proof.Ledgers
end

section
/-! SUPPORT. The ledger of the blocks, and what it says of the port queues (R6, R33, R53, R88, R110, R117, R139, R148). -/

namespace Sys2Proof.Ledgers

open Sys2Proof.Machine Sys2Proof.Safety Sys2Proof.Keeping Sys2Proof.DataPath Sys2Proof.SlotOps Sys2Proof.Grants
  Sys2Proof.Aftermath Sys2Proof.Pages

/-! ### The views of a record -/

/-- What a stage says of queues and slots, for a request on window `w`. -/
def stageView (w : WindowNo) : Stage → View
  | .admitted => .queued w
  | .granted i _ _ => .onSlot i none
  | .issued i => .onSlot i none
  | .abandoning i a => .onSlot i (some a)
  | .delivering _ => .leaving

/-- What a request record says of queues and slots. -/
def view : Option Record → View
  | none => .free
  | some (.handed _ _ _) => .handed
  | some (.data d) => stageView d.window d.stage

theorem stageView_slot (w : WindowNo) (x : Stage) : (stageView w x).slot = x.slot? := by cases x <;> rfl

theorem view_free {x : Option Record} : view x = .free ↔ x = none := by
  rcases x with _ | (d | _)
  · simp [view]
  · obtain ⟨_, _, _, _, _, _, _, _, _, _, stage⟩ := d
    cases stage <;> simp [view, stageView]
  · simp [view]

theorem view_handed {x : Option Record} : view x = .handed ↔ ∃ k ws v, x = some (.handed k ws v) := by
  rcases x with _ | (d | _)
  · simp [view]
  · obtain ⟨_, _, _, _, _, _, _, _, _, _, stage⟩ := d
    cases stage <;> simp [view, stageView]
  · simp [view]

theorem view_record {c : Chip} {p : Port} {u : Tag} {d : DataRec} (h : c.dataRecord p u = some d) :
    view (c.record p u) = stageView d.window d.stage := by
  rw [record_of_dataRecord h]
  rfl

theorem view_queued {c : Chip} {p : Port} {u : Tag} {w : WindowNo} :
    view (c.record p u) = .queued w ↔ ∃ d, c.dataRecord p u = some d ∧ d.stage = .admitted ∧ d.window = w := by
  constructor
  · intro h
    unfold Chip.dataRecord
    rcases hx : c.record p u with _ | (d | _)
    · rw [hx] at h
      cases h
    · refine ⟨d, rfl, ?_⟩
      rw [hx] at h
      obtain ⟨_, _, _, _, _, _, _, _, _, _, stage⟩ := d
      cases stage <;> cases h
      exact ⟨rfl, rfl⟩
    · rw [hx] at h
      cases h
  · rintro ⟨d, hd, hs, rfl⟩
    rw [view_record hd, hs]
    rfl

theorem admitted_iff {c : Chip} {p : Port} {u : Tag} :
    (c.dataRecord p u).map DataRec.stage = some .admitted ↔ ∃ w, view (c.record p u) = .queued w := by
  constructor
  · intro h
    obtain ⟨d, hd, hs⟩ := Option.map_eq_some_iff.1 h
    exact ⟨d.window, view_queued.2 ⟨d, hd, hs, rfl⟩⟩
  · rintro ⟨w, h⟩
    obtain ⟨d, hd, hs, -⟩ := view_queued.1 h
    rw [hd, Option.map_some, hs]

theorem view_slot (c : Chip) (p : Port) (u : Tag) :
    (view (c.record p u)).slot = ((c.dataRecord p u).map DataRec.stage).bind Stage.slot? := by
  unfold Chip.dataRecord
  rcases c.record p u with _ | (d | _)
  · rfl
  · exact stageView_slot d.window d.stage
  · rfl

theorem view_holdsSlot {x : Option Record} {i : SlotNo} : Record.holdsSlot i x = true ↔ (view x).slot = some i := by
  rcases x with _ | (d | _)
  · simp [Record.holdsSlot, view, View.slot]
  · simp [Record.holdsSlot, view, stageView_slot]
  · simp [Record.holdsSlot, view, View.slot]

/-! ### The ledger of the blocks -/

/-- Port and tag of the request that owns a slot (R117). -/
def slotOwner (r : SlotRec) : Option (Port × Tag) :=
  match r.holder with
  | .port p => r.owner.map fun u => (p, u)
  | .configuration => none

/-- Session and tag of the COMMIT under way. -/
def commitKey : Commit → Option (Option Port × Option Tag)
  | .idle => none
  | .draining info _ => some (info.session, info.tag)
  | .persisting info => some (info.session, info.tag)

/-- The owner of staging that is COMMITTING. -/
def stagingAsker : Staging → Option (Option Port)
  | .committing q _ => some q
  | .empty | .opened _ _ => none

/-- What a hold keeps of its placement. -/
def Ask.of (h : Hold) : Ask := ⟨h.id, h.owner, h.answerTo⟩

/-- The ledger of the blocks. -/
def ledger (c : Chip) : Ledger where
  view p u := view (c.record p u)
  isOpen := c.isOpen
  queue p := c.arb.queues.get p
  owner i := (c.slot i).bind slotOwner
  asks := c.hold.table.map Ask.of
  commit := commitKey c.map.commit
  asker := stagingAsker c.map.staging
  queued w := (c.map.usage.get w).queued

theorem slotOwner_iff {r : SlotRec} {p : Port} {u : Tag} : slotOwner r = some (p, u) ↔ r.holder = .port p ∧ r.owner = some u := by
  unfold slotOwner
  cases hh : r.holder with
  | configuration => simp
  | port q =>
    cases r.owner with
    | none => simp
    | some v => simp

theorem owner_iff {c : Chip} {i : SlotNo} {p : Port} {u : Tag} :
    (ledger c).owner i = some (p, u) ↔ ∃ r, c.slot i = some r ∧ r.holder = .port p ∧ r.owner = some u := by
  refine Option.bind_eq_some_iff.trans ?_
  simp only [slotOwner_iff]

theorem waitingAbort_eq {c : Chip} {r : SlotRec} {p : Port} {u : Tag} (hh : r.holder = .port p) (ho : r.owner = some u) :
    c.waitingAbort r = (view (c.record p u)).abort := by
  unfold Chip.waitingAbort
  simp only [hh, ho]
  unfold Chip.dataRecord
  rcases c.record p u with _ | (d | _)
  · rfl
  · obtain ⟨_, _, _, _, _, _, _, _, _, _, stage⟩ := d
    cases stage <;> rfl
  · rfl

theorem waitingAbort_ownerless {c : Chip} {r : SlotRec} (h : r.owner = none) : c.waitingAbort r = none := by
  unfold Chip.waitingAbort
  cases r.holder <;> simp [h]

theorem waiting_eq (c : Chip) (p : Port) (i : SlotNo) : (ledger c).waiting p i =
    (c.slot i).bind fun r => if r.holder = .port p then c.waitingAbort r else none := by
  unfold Ledger.waiting
  change ((c.slot i).bind slotOwner).bind _ = _
  cases c.slot i with
  | none => rfl
  | some r =>
    simp only [Option.bind_some]
    cases hh : r.holder with
    | configuration => simp [slotOwner, hh]
    | port q =>
      cases ho : r.owner with
      | none => simp [slotOwner, hh, ho, waitingAbort_ownerless ho]
      | some v =>
        have hown : slotOwner r = some (q, v) := slotOwner_iff.2 ⟨hh, ho⟩
        rw [hown, waitingAbort_eq hh ho, Option.bind_some]
        simp only [Holder.port.injEq]
        rfl

/-! ### The port queues by the ledger -/

/-- The tag of the COMMIT under way, when port `p` asked for it. -/
def committedTag (x : Commit) (p : Port) : List Tag :=
  match x with
  | .draining info _ | .persisting info => if info.session = some p then info.tag.toList else []
  | .idle => []

theorem awaitedTags_eq (c : Chip) (p : Port) : awaitedTags c p =
    (allSlots.filterMap fun i => (c.slot i).bind fun r => if r.holder = .port p then c.waitingAbort r else none) ++
      (c.hold.table.filterMap fun h => if h.owner = p then h.answerTo else none) ++ committedTag c.map.commit p := by
  unfold awaitedTags committedTag
  cases c.map.commit <;> rfl

theorem count_committedTag (x : Commit) (p : Port) (u : Tag) : (committedTag x p).count u =
    if commitKey x = some (some p, some u) then 1 else 0 := by
  have hinfo (info : CommitInfo) : (if info.session = some p then info.tag.toList else []).count u =
      if (some (info.session, info.tag) : Option (Option Port × Option Tag)) = some (some p, some u) then 1 else 0 := by
    by_cases hs : info.session = some p
    · cases ht : info.tag with
      | none => simp [hs]
      | some v => simp [hs, List.count_singleton]
    · simp [hs]
  cases x with
  | idle => rfl
  | draining info left => exact hinfo info
  | persisting info => exact hinfo info

theorem awaits_eq (c : Chip) (p : Port) (u : Tag) : (ledger c).awaits p u = (awaitedTags c p).count u := by
  rw [awaitedTags_eq, List.count_append, List.count_append, count_committedTag, List.count_filterMap, List.count_filterMap]
  unfold Ledger.awaits
  change _ + (c.hold.table.map Ask.of).countP _ + _ = _
  rw [List.countP_map]
  congr 1
  congr 1
  · refine List.countP_congr fun i _ => ?_
    rw [waiting_eq]
    simp
  · refine List.countP_congr fun h _ => ?_
    simp only [Function.comp_apply, Ask.isDue, Ask.of]
    by_cases ho : h.owner = p
    · simp only [ho, decide_true, Bool.true_and, if_true, beq_iff_eq]
      exact decide_eq_true_iff
    · simp [ho]

theorem isOpen_false {c : Chip} {p : Port} : c.isOpen p = false ↔ (c.ports.get p).session ≠ .opened := by
  simp [Chip.isOpen]

/-- The queued requests of a port on a window are its queue's entries on it. -/
theorem queuedTags_length {c : Chip} {p : Port} (hnodup : (c.arb.queues.get p).Nodup)
    (hlisted : ∀ u, u ∈ c.arb.queues.get p ↔ (c.dataRecord p u).map DataRec.stage = some .admitted) (w : WindowNo) :
    (queuedTags c p w).length = (c.arb.queues.get p).countP fun u => (view (c.record p u)).isOn w := by
  rw [List.countP_eq_length_filter]
  refine List.Perm.length_eq ((List.perm_ext_iff_of_nodup (nodup_allTags.filter _) (hnodup.filter _)).2 fun u => ?_)
  rw [List.mem_filter, List.mem_filter, hlisted, admitted_iff, View.isOn_iff]
  simp only [mem_allTags, true_and, Option.any_eq_true, Bool.and_eq_true, decide_eq_true_eq]
  constructor
  · rintro ⟨d, hd, hs, hw⟩
    have hv := view_queued.2 ⟨d, hd, hs, hw⟩
    exact ⟨⟨w, hv⟩, hv⟩
  · rintro ⟨-, hv⟩
    obtain ⟨d, hd, hs, hw⟩ := view_queued.1 hv
    exact ⟨d, hd, hs, hw⟩

theorem commitKey_iff {s : State} {q : Option Port} {t : Option Tag} : commitKey s.chip.map.commit = some (q, t) ↔
    ∃ info, (s.chip.map.commit = .persisting info ∨ ∃ left, s.chip.map.commit = .draining info left) ∧
      info.session = q ∧ info.tag = t := by
  cases s.chip.map.commit <;> simp [commitKey]

theorem stagingAsker_iff {x : Staging} {q : Option Port} : stagingAsker x = some q ↔ ∃ cfg, x = .committing q cfg := by
  cases x <;> simp [stagingAsker]

/-- The port queues are exact when the ledger is. -/
theorem queuesExact_iff {s : State} (hids : Ascending s.chip.hold.table) : QueuesExact s ↔ Fits [] [] (ledger s.chip) := by
  constructor
  · rintro ⟨hports, hcounted, hcommitted⟩
    refine ⟨List.pairwise_map.2 hids, nofun, fun p => ?_, fun p u hu => ?_, fun p u w hv => ?_, fun p _ hc => ?_,
      fun i p u ho => ?_, fun p _ u => ?_, fun w => ?_, fun q t hc => ?_, nofun⟩
    · exact (hports p).1
    · exact admitted_iff.1 (((hports p).2.1 u).1 hu)
    · exact .inl (((hports p).2.1 u).2 (admitted_iff.2 ⟨w, hv⟩))
    · exact (hports p).2.2.1 (isOpen_false.1 hc)
    · obtain ⟨r, hr, hh, ho⟩ := owner_iff.1 ho
      exact (view_slot s.chip p u).trans ((hports p).2.2.2.1 i r u hr hh ho)
    · obtain ⟨hnodup, hhanded⟩ := (hports p).2.2.2.2
      rw [awaits_eq]
      by_cases hu : u ∈ awaitedTags s.chip p
      · exact .inr ⟨List.count_eq_one_of_mem hnodup hu, view_handed.2 (hhanded u hu)⟩
      · exact .inl (List.count_eq_zero_of_not_mem hu)
    · change (s.chip.map.usage.get w).queued = _
      rw [hcounted w]
      exact congrArg List.sum (List.map_congr_left fun p _ => queuedTags_length (hports p).1 (hports p).2.1 w)
    · obtain ⟨info, hinfo, rfl, -⟩ := commitKey_iff.1 hc
      exact stagingAsker_iff.2 (hcommitted info hinfo)
  · intro h
    have hlisted (p : Port) (u : Tag) :
        u ∈ s.chip.arb.queues.get p ↔ (s.chip.dataRecord p u).map DataRec.stage = some .admitted := by
      rw [admitted_iff]
      exact ⟨fun hu => h.listed p u hu, fun ⟨w, hv⟩ => (h.all p u w hv).resolve_right nofun⟩
    refine ⟨fun p => ⟨h.nodup p, hlisted p, fun hc => h.closed p nofun (isOpen_false.2 hc), fun i r u hr hh ho => ?_,
      ?_, fun u hu => ?_⟩, fun w => ?_, fun info hinfo => ?_⟩
    · rw [← view_slot]
      exact h.owned i p u (owner_iff.2 ⟨r, hr, hh, ho⟩)
    · refine List.nodup_iff_count_le_one.2 fun u => ?_
      rw [← awaits_eq]
      rcases h.awaited p nofun u with h0 | ⟨h1, -⟩ <;> omega
    · have hpos := List.count_pos_iff.2 hu
      rw [← awaits_eq] at hpos
      rcases h.awaited p nofun u with h0 | ⟨-, hv⟩
      · omega
      · exact view_handed.1 hv
    · refine (h.counted w).trans (congrArg List.sum (List.map_congr_left fun p _ => ?_))
      exact (queuedTags_length (h.nodup p) (hlisted p) w).symm
    · exact stagingAsker_iff.1 (h.committed _ _ (commitKey_iff.2 ⟨info, hinfo, rfl, rfl⟩))

end Sys2Proof.Ledgers
end

section
/-! SUPPORT. The ledger through the small changes of the blocks, and through an answer (R33, R41, R59, R63, R68, R153). -/

namespace Sys2Proof.Ledgers

open Sys2Proof.Machine Sys2Proof.Safety Sys2Proof.Keeping Sys2Proof.DataPath Sys2Proof.SlotOps Sys2Proof.Grants
  Sys2Proof.Aftermath Sys2Proof.Pages

/-- The ledger of the blocks is exact, but for the ports `X` and the tags `L`. -/
abbrev Exact (X : List Port) (L : List (Port × Tag)) (c : Chip) : Prop := Fits X L (ledger c)

/-! ### What the ledger does not see -/

/-- The blocks look the same to the ledger. -/
theorem ledger_congr {c d : Chip} (hrecord : ∀ p u, view (d.record p u) = view (c.record p u))
    (hsession : ∀ p, (d.ports.get p).session = (c.ports.get p).session) (hqueues : d.arb.queues = c.arb.queues)
    (hslots : ∀ i, (d.slot i).bind slotOwner = (c.slot i).bind slotOwner)
    (hholds : d.hold.table.map Ask.of = c.hold.table.map Ask.of) (hcommit : commitKey d.map.commit = commitKey c.map.commit)
    (hstaging : stagingAsker d.map.staging = stagingAsker c.map.staging)
    (husage : ∀ w, (d.map.usage.get w).queued = (c.map.usage.get w).queued) : ledger d = ledger c := by
  unfold ledger
  simp only [hrecord, hqueues, hslots, hholds, hcommit, hstaging, husage]
  congr 1
  funext p
  unfold Chip.isOpen
  rw [hsession]

/-- Only ports change, and neither records nor sessions do. -/
theorem ledger_of_ports {c d : Chip} (hrecord : ∀ p u, d.record p u = c.record p u)
    (hsession : ∀ p, (d.ports.get p).session = (c.ports.get p).session) (harb : d.arb = c.arb) (hmlink : d.mlink = c.mlink)
    (hhold : d.hold = c.hold) (hmap : d.map = c.map) : ledger d = ledger c :=
  ledger_congr (fun p u => by rw [hrecord]) hsession (by rw [harb])
    (fun i => by rw [slot_congr (congrArg MlinkCtl.slots hmlink) i]) (by rw [hhold]) (by rw [hmap]) (by rw [hmap])
    fun _ => by rw [hmap]

theorem ledger_of_blocks {c d : Chip} (hports : d.ports = c.ports) (harb : d.arb = c.arb) (hmlink : d.mlink = c.mlink)
    (hhold : d.hold = c.hold) (hmap : d.map = c.map) : ledger d = ledger c :=
  ledger_of_ports (fun _ _ => record_congr hports ..) (fun _ => by rw [hports]) harb hmlink hhold hmap

section
variable (c : Chip)

@[simp] theorem ledger_sendPort (p : Port) (f : PFrame) : ledger (sendPort p f c) = ledger c :=
  ledger_of_blocks (by simp) (by simp) (by simp) (by simp) (by simp)

@[simp] theorem ledger_sendMedia (f : MFrame) : ledger (sendMedia f c) = ledger c :=
  ledger_of_blocks (by simp) (by simp) (by simp) (by simp) (by simp)

@[simp] theorem ledger_raiseFlag (f : Flag) (p : Port) : ledger (raiseFlag f p c) = ledger c :=
  ledger_of_ports (fun q u => raiseFlag_record f p q u c) (fun q => (PortsStay.raiseFlag f p c q).1) (by simp) (by simp)
    (by simp) (by simp)

@[simp] theorem ledger_raiseMedia : ledger (raiseMedia c) = ledger c :=
  Laws.eachPort_proj ledger _ (fun p c => ledger_raiseFlag c .media p) c

@[simp] theorem ledger_holdsNotice (r : MediaRange) : ledger (holdsNotice r c) = ledger c :=
  Laws.eachPort_proj ledger _ (fun p c => by
    unfold raiseHolds
    split
    · exact ledger_raiseFlag c .holds p
    · rfl) c

/-- A change of a port that leaves its records and its session. -/
theorem ledger_modPort (p : Port) {f : PortCtl → PortCtl} (htags : (f (c.ports.get p)).tags = (c.ports.get p).tags)
    (hsession : (f (c.ports.get p)).session = (c.ports.get p).session) : ledger (c.modPort p f) = ledger c :=
  ledger_of_ports
    (fun q u => forall_ports (R := fun a b => b.tags.get u = a.tags.get u) (Laws.modPort_ports ..) (by rw [htags])
      (fun _ => rfl) q)
    (forall_ports (R := fun a b => b.session = a.session) (Laws.modPort_ports ..) hsession fun _ => rfl) rfl rfl rfl rfl

@[simp] theorem ledger_clearFlag (f : Flag) (p : Port) : ledger (clearFlag f p c) = ledger c := ledger_modPort c p rfl rfl

@[simp] theorem ledger_compareEpoch (p : Port) : ledger (compareEpoch p c) = ledger c := by
  unfold compareEpoch
  split
  · exact ledger_clearFlag c .map p
  · exact ledger_raiseFlag c .map p

@[simp] theorem ledger_deliver (p : Port) (e : Word) : ledger (deliver p e c) = ledger c :=
  (ledger_compareEpoch _ p).trans (ledger_modPort c p rfl rfl)

@[simp] theorem ledger_deliverCommit (info : CommitInfo) : ledger (deliverCommit info c) = ledger c := by
  unfold deliverCommit
  split
  · split
    · exact ledger_deliver c _ _
    · rfl
  · rfl

@[simp] theorem ledger_swapped (cfg : Configuration) :
    ledger (swapped cfg c) = { ledger c with commit := none, asker := none } :=
  Laws.eachPort_proj ledger _ (fun p c => by
    split
    · exact ledger_compareEpoch c p
    · rfl) _

/-! ### Records -/

@[simp] theorem ledger_setRecord (p : Port) (t : Tag) (x : Option Record) :
    ledger (setRecord p t x c) = (ledger c).set p t (view x) := by
  have hview (q : Port) (u : Tag) : view ((setRecord p t x c).record q u) = ((ledger c).set p t (view x)).view q u := by
    rw [setRecord_record]
    change view _ = if q = p ∧ u = t then view x else view (c.record q u)
    split <;> rfl
  have hopen : (setRecord p t x c).isOpen = c.isOpen := funext fun q => by
    unfold Chip.isOpen
    rw [show ((setRecord p t x c).ports.get q).session = (c.ports.get q).session from Laws.withRecord_session p q t x c]
  unfold ledger
  simp only [hview, hopen]
  rfl

@[simp] theorem ledger_freeTag (p : Port) (t : Tag) : ledger (freeTag p t c) = (ledger c).set p t .free :=
  ledger_setRecord c p t none

theorem ledger_setStage {p : Port} {t : Tag} {d : DataRec} (hd : c.dataRecord p t = some d) (x : Stage) :
    ledger (setStage p t x c) = (ledger c).set p t (stageView d.window x) := by
  unfold setStage
  rw [hd]
  exact ledger_setRecord c p t _

end

/-! ### Answers (R59, R63) -/

section
variable {X : List Port} {L : List (Port × Tag)} {c d : Chip} {p : Port} {u : Tag}

/-- An answer frees a tag that nothing names. -/
theorem Exact.respond (h : Exact X L c) (hl : c.isOpen p = true → Loose X (ledger c) p u) (o : Outcome) (w : List Word) :
    Exact X L (respond p u o w c) := by
  unfold Machine.respond
  split
  · rename_i hopen
    have hreply : ledger (reply p u o w c) = ledger c := ledger_sendPort c _ _
    rw [Exact, ledger_freeTag, hreply]
    exact h.set (hl hopen) nofun
  · exact h

/-- An answer to a tag that waits for it. -/
theorem Exact.answer (h : Exact X L c) (hm : c.isOpen p = true → (p, u) ∈ L) (o : Outcome) (w : List Word) :
    Exact X L (Machine.respond p u o w c) := h.respond (fun hopen => h.loose _ (hm hopen)) o w

/-- An OPEN port is not one to be cleaned up. -/
theorem Exact.notLeft (h : Exact X L c) (hopen : c.isOpen p = true) : p ∉ X := fun hp => by
  have hleft : c.isOpen p = false := h.left p hp
  rw [hopen] at hleft
  cases hleft

/-- A tag whose answer was kept once, and is kept no longer, is named nowhere. -/
theorem Exact.loose_of_awaited (h : Exact X L c) (hd : Exact X L d) (hp : p ∉ X) (hview : (ledger d).view = (ledger c).view)
    (hless : (ledger d).awaits p u < (ledger c).awaits p u) : Loose X (ledger d) p u := by
  rcases h.awaited p hp u with h0 | ⟨h1, hv⟩
  · omega
  · have hv' : (ledger d).view p u = .handed := by rw [hview]; exact hv
    exact ⟨hd.notQueued (by simp [hv']), hd.notOwner (by rw [hv']; rfl), .inr (by omega)⟩

/-- What becomes of the queues' ledger when holds change. -/
theorem Exact.asks (h : Exact X L c) {A : List Ask} (hd : ledger d = { ledger c with asks := A })
    (hids : A.Pairwise fun a b => a.id < b.id)
    (hfewer : ∀ q v, A.countP (Ask.isDue q v) ≤ (ledger c).asks.countP (Ask.isDue q v)) : Exact X L d := by
  rw [Exact, hd]
  exact Fits.shrink h rfl rfl rfl rfl (fun _ => .inl rfl) hids hfewer (fun _ _ => id) h.committed

/-- The answer to a placement whose hold keeps it no longer (R33). -/
theorem Exact.answerPlacement (h : Exact X L c) {y : Hold} {A : List Ask} (hd : ledger d = { ledger c with asks := A })
    (hids : A.Pairwise fun a b => a.id < b.id)
    (hfewer : ∀ q v, A.countP (Ask.isDue q v) + (if (Ask.of y).isDue q v = true then 1 else 0) ≤
      (ledger c).asks.countP (Ask.isDue q v)) (o : Outcome) (w : List Word) : Exact X L (answerPlacement y o w d) := by
  have hasks := h.asks hd hids fun q v => by have := hfewer q v; omega
  unfold Machine.answerPlacement
  split
  · rename_i t ht
    refine hasks.respond (fun hopen => h.loose_of_awaited hasks ?_ (by rw [hd]) ?_) o w
    · exact hasks.notLeft hopen
    · have hdue := hfewer y.owner t
      rw [if_pos (by simp [Ask.isDue, Ask.of, ht])] at hdue
      have hslots : ∀ i, (ledger d).waiting y.owner i = (ledger c).waiting y.owner i := fun i => by rw [hd]; rfl
      have hcommit : (ledger d).commit = (ledger c).commit := by rw [hd]
      have hA : (ledger d).asks = A := by rw [hd]
      unfold Ledger.awaits
      simp only [hslots, hcommit, hA]
      omega
  · exact hasks

/-- The answer to a COMMIT that is under way no longer (R153). -/
theorem Exact.answerCommit (h : Exact X L c) {info : CommitInfo} {x : Option (Option Port)}
    (hc : (ledger c).commit = some (info.session, info.tag)) (hd : ledger d = { ledger c with commit := none, asker := x })
    (o : Outcome) (w : List Word) : Exact X L (answerCommit info o w d) := by
  have hended : Exact X L d := by
    rw [Exact, hd]
    exact Fits.shrink h rfl rfl rfl rfl (fun _ => .inl rfl) h.ids (fun _ _ => Nat.le_refl _) nofun nofun
  unfold Machine.answerCommit
  split
  · rename_i p t hp ht
    refine hended.respond (fun hopen => h.loose_of_awaited hended (hended.notLeft hopen) (by rw [hd]) ?_) o w
    have hslots : ∀ i, (ledger d).waiting p i = (ledger c).waiting p i := fun i => by rw [hd]; rfl
    have hasks : (ledger d).asks = (ledger c).asks := by rw [hd]
    have hnone : (ledger d).commit = none := by rw [hd]
    unfold Ledger.awaits
    rw [hc, hp, ht, hnone]
    simp only [hslots, hasks, if_true, reduceCtorEq, if_false]
    omega
  · exact hended

end

end Sys2Proof.Ledgers
end

section
/-! SUPPORT. The ledger through what follows fallen counts: holds, the commit, the jobs (R32 to R34, R150 to R153, R163 to
R168). -/

namespace Sys2Proof.Ledgers

open Sys2Proof.Machine Sys2Proof.Safety Sys2Proof.Keeping Sys2Proof.DataPath Sys2Proof.SlotOps Sys2Proof.Grants
  Sys2Proof.Aftermath Sys2Proof.Pages Sys2Proof.Recovery

section
variable {X : List Port} {L : List (Port × Tag)} {c d : Chip}

/-- Nothing changes that the ledger sees. -/
theorem Exact.same (h : Exact X L c) (hd : ledger d = ledger c) : Exact X L d := by
  rw [Exact, hd]
  exact h

theorem Exact.ascending (h : Exact X L c) : Ascending c.hold.table :=
  (List.pairwise_map (f := Ask.of) (R := fun a b : Ask => a.id < b.id)).1 h.ids

theorem Exact.respondIf (h : Exact X L c) {p : Port} {a : Option Tag} (hm : ∀ t, a = some t → c.isOpen p = true → (p, t) ∈ L)
    (o : Outcome) : Exact X L (answerAbort p o a c) := by
  unfold answerAbort
  split
  · rename_i t
    exact h.answer (hm t rfl) o []
  · exact h

/-! ### Holds (R33, R34) -/

/-- Without the records of one id, an answer is due less often by those of that id. -/
theorem fewer_due {l : List Hold} {y : Hold} (hy : y ∈ l) (g : Hold → Bool) :
    (l.filter fun x => x.id ≠ y.id).countP g + (if g y = true then 1 else 0) ≤ l.countP g := by
  rw [List.countP_eq_countP_filter_add l g fun x => decide (x.id ≠ y.id)]
  refine Nat.add_le_add_left ?_ _
  split
  · rename_i hg
    exact List.countP_pos_iff.2 ⟨y, List.mem_filter.2 ⟨hy, by simp⟩, hg⟩
  · exact Nat.zero_le _

/-- The records that a change leaves unanswered are due no more often than those left over. -/
theorem due_replaced {l : List Hold} {y z : Hold} (hz : z.answerTo = none) (p : Port) (u : Tag) :
    ((l.map fun x => if x.id = y.id then z else x).map Ask.of).countP (Ask.isDue p u) ≤
      (l.filter fun x => x.id ≠ y.id).countP fun x => (Ask.of x).isDue p u := by
  rw [List.countP_map, List.countP_map, List.countP_filter]
  refine List.countP_mono_left fun x _ hx => ?_
  dsimp only [Function.comp_apply] at hx
  split at hx
  · simp [Ask.isDue, Ask.of, hz] at hx
  · rename_i hne
    simp [hx, hne]

theorem Exact.dropHold (h : Exact X L c) (id : Nat) : Exact X L (dropHold id c) :=
  h.asks (A := (c.hold.table.filter fun x => x.id ≠ id).map Ask.of) rfl
    (List.pairwise_map.2 (h.ascending.filter _)) fun q v => by
      change _ ≤ (c.hold.table.map Ask.of).countP _
      rw [List.countP_map, List.countP_map]
      exact List.Sublist.countP_le List.filter_sublist

theorem Exact.removeHold (h : Exact X L c) (y : Hold) : Exact X L (removeHold y c) :=
  (h.dropHold y.id).same (ledger_holdsNotice ..)

/-- A hold is removed, and its placement answered (R34). -/
theorem Exact.answerRemoved (h : Exact X L c) {y : Hold} (hy : y ∈ c.hold.table) (o : Outcome) (w : List Word) :
    Exact X L (Machine.answerPlacement y o w (Machine.removeHold y c)) := by
  refine h.answerPlacement (A := (c.hold.table.filter fun x => x.id ≠ y.id).map Ask.of) (ledger_holdsNotice ..)
    (List.pairwise_map.2 (h.ascending.filter _)) (fun q v => ?_) o w
  change _ ≤ (c.hold.table.map Ask.of).countP _
  rw [List.countP_map, List.countP_map]
  exact fewer_due hy fun x => (Ask.of x).isDue q v

theorem Exact.activateHold (h : Exact X L c) {y : Hold} (hy : y ∈ c.hold.table) : Exact X L (activateHold y c) := by
  refine h.answerPlacement (A := (c.hold.table.map fun x => if x.id = y.id then
    { y with state := .active (y.expiry.map (· * 1000)), answerTo := none } else x).map Ask.of)
    (ledger_holdsNotice ..) (List.pairwise_map.2 ?_) (fun q v => ?_) _ _
  · refine (List.pairwise_map.2 (h.ascending.imp fun {a b} hab => ?_) : List.Pairwise (fun a b : Hold => a.id < b.id) _)
    split <;> split <;> simp_all
  · refine Nat.le_trans (Nat.add_le_add_right (due_replaced rfl q v) _) ?_
    change _ ≤ (c.hold.table.map Ask.of).countP _
    rw [List.countP_map]
    exact fewer_due hy fun x => (Ask.of x).isDue q v

/-- A new state of a hold is not in the ledger. -/
theorem ledger_setHold (h : Ascending c.hold.table) {y : Hold} (hy : y ∈ c.hold.table) (x : HoldState) :
    ledger (setHold { y with state := x } c) = ledger c := by
  refine ledger_congr (fun _ _ => rfl) (fun _ => rfl) rfl (fun _ => rfl) ?_ rfl rfl fun _ => rfl
  change (c.hold.table.map _).map Ask.of = _
  rw [List.map_map]
  refine List.map_congr_left fun z hz => ?_
  rw [Function.comp_apply]
  split
  · rename_i hid
    rw [eq_of_id_eq h hz hy hid]
    rfl
  · rfl

theorem Exact.endWait (h : Exact X L c) {y : Hold} (hy : y ∈ c.hold.table) : Exact X L (endWait y c) := by
  unfold Machine.endWait
  split
  · exact h.activateHold hy
  · exact h.activateHold hy
  · exact h.same (ledger_setHold h.ascending hy .persisting)

theorem Exact.endWaitsOf {l : List Hold} (h : Exact X L c) (hl : ∀ y ∈ l, y ∈ c.hold.table) (hids : Ascending l) :
    Exact X L (each Machine.endWait l c) := by
  induction l generalizing c with
  | nil => exact h
  | cons y l ih =>
    obtain ⟨hlt, hids⟩ := List.pairwise_cons.1 hids
    refine ih (h.endWait (hl y List.mem_cons_self)) (fun z hz => ?_) hids
    rw [Laws.endWait_table]
    refine List.mem_map.2 ⟨z, hl z (List.mem_cons_of_mem _ hz), if_neg ?_⟩
    exact Nat.ne_of_gt (hlt z hz)

theorem Exact.endWaits (h : Exact X L c) : Exact X L (endWaits c) :=
  h.endWaitsOf (fun _ hy => List.mem_of_mem_filter hy) (h.ascending.filter _)

theorem Exact.holdJobFailed (h : Exact X L c) (id : Nat) : Exact X L (holdJobFailed id c) := by
  unfold Machine.holdJobFailed
  split
  · rename_i y hy
    exact h.answerRemoved (MediaFrames.findHold_some hy).1 _ _
  · exact h

/-! ### The commit (R150 to R153) -/

/-- The COMMIT under way ends, and staging is COMMITTING no longer. -/
theorem Exact.endCommit (h : Exact X L c) (x : Staging) : Exact X L (endCommit x c) :=
  Fits.shrink h rfl rfl rfl rfl (fun _ => .inl rfl) h.ids (fun _ _ => Nat.le_refl _) nofun nofun

theorem Exact.commitEnded (h : Exact X L c) {info : CommitInfo} (hc : (ledger c).commit = some (info.session, info.tag))
    (x : Staging) (o : Outcome) (w : List Word) : Exact X L (Machine.answerCommit info o w (Machine.endCommit x c)) :=
  h.answerCommit (x := stagingAsker x) hc rfl o w

theorem Exact.swap (h : Exact X L c) {info : CommitInfo} (hc : (ledger c).commit = some (info.session, info.tag)) :
    Exact X L (swap info c) := by
  cases hs : c.map.staging with
  | committing owner cfg =>
    rw [swap_eq hs]
    exact h.answerCommit hc ((ledger_deliverCommit ..).trans (ledger_swapped ..)) _ _
  | empty => unfold Machine.swap; rw [hs]; exact h
  | opened q cfg => unfold Machine.swap; rw [hs]; exact h

theorem commit_draining {info : CommitInfo} {left : Nat} (hc : c.map.commit = .draining info left) :
    (ledger c).commit = some (info.session, info.tag) := congrArg commitKey hc

theorem commit_persisting {info : CommitInfo} (hc : c.map.commit = .persisting info) :
    (ledger c).commit = some (info.session, info.tag) := congrArg commitKey hc

theorem Exact.drainEnd (h : Exact X L c) {info : CommitInfo} {left : Nat} (hc : c.map.commit = .draining info left) :
    Exact X L (drainEnd info c) := by
  unfold Machine.drainEnd
  split
  · refine h.same ?_
    refine ledger_congr (fun _ _ => rfl) (fun _ => rfl) rfl (fun _ => rfl) rfl ?_ rfl fun _ => rfl
    exact (commit_draining hc).symm
  · exact h.swap (commit_draining hc)

theorem Exact.drainTest (h : Exact X L c) : Exact X L (drainTest c) := by
  unfold Machine.drainTest
  split
  · rename_i info left hc
    split
    · exact h.drainEnd hc
    · exact h
  all_goals exact h

/-! ### Jobs (R163 to R168) -/

theorem Exact.jobFailed (h : Exact X L c) (j : Job) : Exact X L (jobFailed j c) := by
  have hcounted : Exact X L (counted c) := h
  cases j with
  | hold id => exact hcounted.holdJobFailed id
  | commit =>
    by_cases hc : ∃ info, c.map.commit = .persisting info
    · obtain ⟨info, hc⟩ := hc
      rw [jobFailed_commit hc]
      exact hcounted.commitEnded (commit_persisting hc) _ _ _
    · rw [jobFailed_commit_none fun info hi => hc ⟨info, hi⟩]
      exact hcounted

theorem Exact.jobsFailed (h : Exact X L c) (l : List Job) : Exact X L (each Machine.jobFailed l c) :=
  each_keeps (P := Exact X L) (fun j _ hd => hd.jobFailed j) l h

theorem Exact.jobSucceeded (h : Exact X L c) (j : Job) : Exact X L (jobSucceeded j c) := by
  unfold Machine.jobSucceeded
  split
  · split
    · rename_i y hy
      exact h.activateHold (MediaFrames.findHold_some hy).1
    · exact h
  · split
    · rename_i info hc
      exact h.swap (commit_persisting hc)
    all_goals exact h

/-- The configuration unit is not in the ledger. -/
theorem Exact.modCfg (h : Exact X L c) (f : ConfigUnit → ConfigUnit) : Exact X L (c.modCfg f) := h

theorem Exact.setMark (h : Exact X L c) (x : Copy) (m : Mark) : Exact X L (setMark x m c) := by cases x <;> exact h

theorem Exact.writerTake (h : Exact X L c) : Exact X L (writerTake c) := by
  by_cases hx : c.cfg.generation = 0xFFFFFFFF#32 ∧ c.writerMayTake = true
  · rw [writerTake_exhausted hx.1 hx.2]
    exact (h.modCfg _).jobsFailed _
  · obtain ⟨v, heq, -⟩ := writerTake_takes hx
    rw [heq]
    exact h

theorem Exact.writeFailed (h : Exact X L c) (w : Writer) : Exact X L (writeFailed w c) := by
  unfold Machine.writeFailed
  split
  · exact ((h.setMark _ _).modCfg _).jobFailed _
  all_goals exact h

theorem Exact.writeSucceeded (h : Exact X L c) : Exact X L (writeSucceeded c) := by
  unfold Machine.writeSucceeded
  split
  · exact ((h.modCfg _).setMark _ _).jobSucceeded _
  all_goals exact h

theorem Exact.writerRecovers (h : Exact X L c) : Exact X L (writerRecovers c) := by
  unfold Machine.writerRecovers
  split
  · exact h.writeFailed _
  · exact h.modCfg _
  all_goals exact h

theorem Exact.readLost (h : Exact X L c) : Exact X L (readLost c) := by
  unfold Machine.readLost
  split
  · split
    · exact h.setMark _ _
    · exact h
  · exact h

theorem Exact.settle (h : Exact X L c) : Exact X L (settle c) := h.endWaits.drainTest.writerTake

/-! ### The end of all jobs and of the unfinished holds (R44, R157, R179) -/

theorem Exact.dropJob (h : Exact X L c) (j : Job) : Exact X L (dropJob j c) := by
  unfold Machine.dropJob
  split
  · split
    · exact h.removeHold _
    · exact h
  · exact h.endCommit _

theorem Exact.faultHolds (h : Exact X L c) : Exact X L (faultHolds c) := by
  have hone (l : List Hold) (hids : Ascending l) {d : Chip} (hd : Exact X L d) (hl : ∀ y ∈ l, y ∈ d.hold.table) :
      Exact X L (each (fun y d => Machine.answerPlacement y .persistFailed [item y.id] (Machine.removeHold y d)) l d) := by
    induction l generalizing d with
    | nil => exact hd
    | cons y l ih =>
      obtain ⟨hlt, hids⟩ := List.pairwise_cons.1 hids
      refine ih hids (hd.answerRemoved (hl y List.mem_cons_self) _ _) fun z hz => ?_
      rw [Laws.answerPlacement_hold, Machine.removeHold, Laws.holdsNotice_hold]
      exact List.mem_filter.2 ⟨hl z (List.mem_cons_of_mem _ hz), decide_eq_true (Nat.ne_of_gt (hlt z hz))⟩
  exact hone _ (h.ascending.filter _) h fun _ hy => List.mem_of_mem_filter hy

theorem Exact.faultMap (h : Exact X L c) : Exact X L (faultMap c) := by
  unfold Machine.faultMap
  split
  · rename_i info left hc
    exact h.commitEnded (commit_draining hc) _ _ _
  · exact h.endCommit _
  · exact h

end

end Sys2Proof.Ledgers
end

section
/-! SUPPORT. The ledger through queues, slots and grants, up to the end of an event (R53, R55, R80, R89, R99, R119). -/

namespace Sys2Proof.Ledgers

open Sys2Proof.Machine Sys2Proof.Safety Sys2Proof.Keeping Sys2Proof.DataPath Sys2Proof.SlotOps Sys2Proof.Grants
  Sys2Proof.Aftermath Sys2Proof.Pages Sys2Proof.Resets

section
variable {X : List Port} {L : List (Port × Tag)} {c d : Chip} {p : Port} {t u : Tag} {i : SlotNo}

/-! ### Queues -/

theorem ledger_dequeue {x : DataRec} (hx : c.dataRecord p t = some x) :
    ledger (dequeue p t c) = (ledger c).dequeue p t x.window := by
  have hqueue (q : Port) : (dequeue p t c).arb.queues.get q = ((ledger c).dequeue p t x.window).queue q := by
    rw [Laws.dequeue_queues, Laws.PerPort.get_set]
    rfl
  have hqueued (w : WindowNo) : ((dequeue p t c).map.usage.get w).queued = ((ledger c).dequeue p t x.window).queued w := by
    rw [SessionEnds.dequeue_usage hx]
    change _ - (if x.window = w then 1 else 0) = if w = x.window then (c.map.usage.get x.window).queued - 1 else _
    by_cases hw : w = x.window
    · rw [if_pos hw, if_pos hw.symm, hw]
    · rw [if_neg hw, if_neg (Ne.symm hw)]
      rfl
  have hrecord (q : Port) (v : Tag) : (dequeue p t c).record q v = c.record q v := record_congr (Laws.dequeue_ports ..) ..
  have hopen : (dequeue p t c).isOpen = c.isOpen := funext fun q => by simp [Chip.isOpen]
  have hslot (j : SlotNo) : (dequeue p t c).slot j = c.slot j := slot_congr (by simp) j
  obtain ⟨v, hmap⟩ := dequeue_map p t c
  have hcommit : (dequeue p t c).map.commit = c.map.commit := by rw [hmap]
  have hstaging : (dequeue p t c).map.staging = c.map.staging := by rw [hmap]
  unfold ledger
  simp only [hqueue, hqueued, hrecord, hopen, hslot, hcommit, hstaging, Laws.dequeue_hold]
  rfl

/-- A queued request leaves its queue, and is still to be answered (R89). -/
theorem Exact.dequeue (h : Exact X L c) (ht : t ∈ c.arb.queues.get p) : Exact X ((p, t) :: L) (dequeue p t c) := by
  obtain ⟨w, hw⟩ := h.listed p t ht
  obtain ⟨x, hx, hs, hxw⟩ := view_queued.1 hw
  rw [Exact, ledger_dequeue hx, hxw]
  exact Fits.dequeue h ht hw

/-! ### Slots -/

theorem ledger_setSlot (r : Option SlotRec) (hr : r.bind slotOwner = (c.slot i).bind slotOwner) :
    ledger (setSlot i r c) = ledger c :=
  ledger_congr (fun _ _ => rfl) (fun _ => rfl) rfl (fun j => by
    rw [setSlot_slot]
    split
    · rename_i hj
      rw [hr, hj]
    · rfl) rfl rfl rfl fun _ => rfl

theorem ledger_setSlot_own {r : SlotRec} (hr : slotOwner r = some (p, t)) :
    ledger (setSlot i (some r) c) = (ledger c).own i p t := by
  have howner (j : SlotNo) : ((setSlot i (some r) c).slot j).bind slotOwner = ((ledger c).own i p t).owner j := by
    rw [setSlot_slot]
    change _ = if j = i then some (p, t) else (c.slot j).bind slotOwner
    split
    · exact hr
    · rfl
  unfold ledger
  simp only [howner]
  rfl

/-- The owner of a slot is forgotten (R53, R117). -/
theorem Exact.disown (h : Exact X L c) (i : SlotNo) : Exact X L (Machine.disown i c) := by
  refine Fits.shrink h rfl rfl rfl rfl (fun j => ?_) h.ids (fun _ _ => Nat.le_refl _) (fun _ _ => id) h.committed
  change ((Machine.disown i c).slot j).bind slotOwner = (c.slot j).bind slotOwner ∨
    ((Machine.disown i c).slot j).bind slotOwner = none
  rw [SessionEnds.disown_slot]
  split
  · refine .inr ?_
    cases c.slot i with
    | none => rfl
    | some r =>
      change slotOwner { r with owner := none } = none
      unfold slotOwner
      cases r.holder <;> rfl
  · exact .inl rfl

theorem noLonger_ask (i : SlotNo) (x : Hold) : Ask.of (noLonger i x) = Ask.of x := by
  unfold noLonger
  split <;> rfl

/-- What the return of a slot to FREE leaves of the ledger. -/
theorem ledger_freeSlot (i : SlotNo) (c : Chip) : ledger (freeSlot i c) =
    { ledger c with
      view := fun q v => if keptFor i c q v then .free else (ledger c).view q v
      owner := fun j => if j = i then none else (ledger c).owner j } := by
  have hview (q : Port) (v : Tag) :
      view ((freeSlot i c).record q v) = if keptFor i c q v then .free else view (c.record q v) := by
    rw [freeSlot_record]
    split <;> rfl
  have hopen : (freeSlot i c).isOpen = c.isOpen := funext fun q => by
    unfold Chip.isOpen
    rw [freeSlot_session]
  have howner (j : SlotNo) :
      ((freeSlot i c).slot j).bind slotOwner = if j = i then none else (c.slot j).bind slotOwner := by
    rw [freeSlot_slot]
    split <;> rfl
  have hasks : (freeSlot i c).hold.table.map Ask.of = c.hold.table.map Ask.of := by
    rw [freeSlot_table]
    split
    · rfl
    · rw [List.map_map]
      exact List.map_congr_left fun x _ => noLonger_ask i x
  obtain ⟨m, hmap⟩ := freeSlot_map i c
  have hcommit : (freeSlot i c).map.commit = c.map.commit := by rw [hmap]
  have hstaging : (freeSlot i c).map.staging = c.map.staging := by rw [hmap]
  have hqueued (w : WindowNo) : ((freeSlot i c).map.usage.get w).queued = (c.map.usage.get w).queued := by
    rw [freeSlot_usage]
  unfold ledger
  simp only [hview, hopen, howner, hasks, hcommit, hstaging, hqueued, freeSlot_queues]

/-- The tags that wait for the end of a slot's request, when its session is OPEN: its owner's, and that of the ABORT (R110). -/
def slotTags (c : Chip) (i : SlotNo) : List (Port × Tag) :=
  match (ledger c).owner i with
  | some (p, u) => if c.isOpen p then (p, u) :: ((ledger c).waiting p i).toList.map fun a => (p, a) else []
  | none => []

theorem mem_slotTags {r : SlotRec} (hr : c.slot i = some r) (hh : r.holder = .port p) (ho : r.owner = some u)
    (hopen : c.isOpen p = true) :
    (p, u) ∈ slotTags c i ∧ ∀ a, c.waitingAbort r = some a → (p, a) ∈ slotTags c i := by
  have howner : (ledger c).owner i = some (p, u) := owner_iff.2 ⟨r, hr, hh, ho⟩
  have hwaiting : (ledger c).waiting p i = c.waitingAbort r := by rw [waiting_eq, hr, Option.bind_some, if_pos hh]
  unfold slotTags
  rw [howner]
  dsimp only
  rw [if_pos hopen, hwaiting]
  exact ⟨List.mem_cons_self, fun a ha => by simp [ha]⟩

/-- The ledger once a slot has lost its owner: the tags that wait for the slot are named nowhere. -/
theorem Exact.ownerGone (h : Exact X L c) (i : SlotNo) :
    Fits X (slotTags c i ++ L) { ledger c with owner := fun j => if j = i then none else (ledger c).owner j } := by
  have hgone : Fits X L { ledger c with owner := fun j => if j = i then none else (ledger c).owner j } := by
    refine Fits.shrink h rfl rfl rfl rfl (fun j => ?_) h.ids (fun _ _ => Nat.le_refl _) (fun _ _ => id) h.committed
    dsimp only
    split
    · exact .inr rfl
    · exact .inl rfl
  have hless (q : Port) (v : Tag) (hv : (ledger c).waiting q i = some v) :
      Ledger.awaits { ledger c with owner := fun j => if j = i then none else (ledger c).owner j } q v <
        (ledger c).awaits q v := by
    have hslots := Fits.awaits_slots (l := ledger c)
      (m := { ledger c with owner := fun j => if j = i then none else (ledger c).owner j }) rfl rfl q v
    have hcount := Fits.countP_slots_lt (i := i)
      (f := fun j => decide (Ledger.waiting { ledger c with owner := fun j => if j = i then none else (ledger c).owner j } q j = some v))
      (g := fun j => decide ((ledger c).waiting q j = some v)) (decide_eq_true hv) (by simp [Ledger.waiting]) fun j hj => by
        by_cases hji : j = i
        · simp [Ledger.waiting, hji] at hj
        · rw [decide_eq_true_eq] at hj ⊢
          simpa [Ledger.waiting, hji] using hj
    omega
  unfold slotTags
  split
  · rename_i p u ho
    split
    · rename_i hopen
      have hp := h.notLeft hopen
      have hslot := h.owned i p u ho
      have hu : Loose X { ledger c with owner := fun j => if j = i then none else (ledger c).owner j } p u := by
        refine ⟨h.notQueued fun w hw => (by rw [hw] at hslot; cases hslot), fun j hj => ?_, hgone.notAwaited fun hv => ?_⟩
        · dsimp only at hj
          split at hj
          · cases hj
          · rename_i hji
            have hj' := h.owned j p u hj
            rw [hslot] at hj'
            exact hji (Option.some.inj hj').symm
        · have hv' : (ledger c).view p u = .handed := hv
          rw [hv'] at hslot
          cases hslot
      cases ha : (ledger c).waiting p i with
      | none => exact hgone.add hu
      | some a =>
        have hlt := hless p a ha
        rcases h.awaited p hp a with h0 | ⟨h1, hv⟩
        · omega
        · have hloose : Loose X { ledger c with owner := fun j => if j = i then none else (ledger c).owner j } p a :=
            ⟨h.notQueued (by simp [hv]), hgone.notOwner (by rw [show Ledger.view _ p a = .handed from hv]; rfl),
              .inr (by omega)⟩
          exact (hgone.add hloose).add hu
    · exact hgone
  · exact hgone

/-- A slot returns to FREE; the tags that wait for it are still to be answered (R119). -/
theorem Exact.freedSlot (h : Exact X L c) (i : SlotNo) : Exact X (slotTags c i ++ L) (freeSlot i c) := by
  have hgone := h.ownerGone i
  rw [Exact, ledger_freeSlot]
  refine hgone.review (f := fun q v => if keptFor i c q v then .free else (ledger c).view q v) fun q v => ?_
  by_cases hkept : keptFor i c q v = true
  · refine .inr ⟨?_, fun w => by simp [hkept]⟩
    simp only [keptFor, Bool.and_eq_true, view_holdsSlot] at hkept
    obtain ⟨-, hslot⟩ := hkept
    have hslot : ((ledger c).view q v).slot = some i := hslot
    refine ⟨h.notQueued fun w hw => (by rw [hw] at hslot; cases hslot), fun j hj => ?_, hgone.notAwaited fun hv => ?_⟩
    · dsimp only at hj
      split at hj
      · cases hj
      · rename_i hji
        have hj' := h.owned j q v hj
        rw [hslot] at hj'
        exact hji (Option.some.inj hj').symm
    · have hv' : (ledger c).view q v = .handed := hv
      rw [hv'] at hslot
      cases hslot
  · exact .inl (if_neg hkept)

/-- The tags that wait for a slot are not queued. -/
theorem slotTags_notQueued (h : Exact X L c) {w : WindowNo} (hm : (p, u) ∈ slotTags c i) :
    (ledger (Machine.freeSlot i c)).view p u ≠ .queued w := by
  intro hv
  have hview : (ledger c).view p u = .queued w := by
    rw [ledger_freeSlot] at hv
    dsimp only at hv
    split at hv
    · cases hv
    · exact hv
  unfold slotTags at hm
  split at hm
  · rename_i q v ho
    split at hm
    · rename_i hopen
      rcases List.mem_cons.1 hm with e | hm
      · cases e
        have hslot := h.owned i p u ho
        rw [hview] at hslot
        cases hslot
      · obtain ⟨a, ha, e⟩ := List.mem_map.1 hm
        cases e
        rw [Option.mem_toList] at ha
        rcases h.awaited p (h.notLeft hopen) u with h0 | ⟨-, hv'⟩
        · have hpos : 0 < (ledger c).awaits p u := by
            have := List.countP_pos_iff (p := fun j => decide ((ledger c).waiting p j = some u)).2
              ⟨i, Grants.mem_allSlots i, decide_eq_true ha⟩
            unfold Ledger.awaits
            omega
          omega
        · rw [hview] at hv'
          cases hv'
    · cases hm
  · cases hm

theorem Exact.freeSlot (h : Exact X L c) (i : SlotNo) : Exact X L (freeSlot i c) :=
  (h.freedSlot i).drop (List.subset_append_right _ _) fun _ _ _ hm hv =>
    (List.mem_append.1 hm).resolve_left fun hs => slotTags_notQueued h hs hv

theorem Exact.freeAllSlots (h : Exact X L c) : Exact X L (freeAllSlots c) :=
  each_keeps (P := Exact X L) (fun i _ hd => hd.freeSlot i) allSlots h

end

end Sys2Proof.Ledgers
end

section
/-! SUPPORT. The ledger through grants and to the end of an event (R55, R93, R99, R119). -/

namespace Sys2Proof.Ledgers

open Sys2Proof.Machine Sys2Proof.Safety Sys2Proof.Keeping Sys2Proof.DataPath Sys2Proof.SlotOps Sys2Proof.Grants
  Sys2Proof.Aftermath Sys2Proof.Pages Sys2Proof.Resets

section
variable {X : List Port} {L : List (Port × Tag)} {c d : Chip} {p : Port} {t u : Tag} {i : SlotNo}

/-! ### Grants (R93, R99) -/

/-- The entry of a grant leaves the head of its queue. -/
theorem ledger_takenByGrant {x : DataRec} (reserved : Bool) (ht : (c.arb.queues.get p).head? = some t) :
    ledger (takenByGrant reserved p x c) = (ledger c).dequeue p t x.window := by
  have hqueue (q : Port) : (takenByGrant reserved p x c).arb.queues.get q = ((ledger c).dequeue p t x.window).queue q := by
    change (grantedArb reserved p x c).queues.get q = if q = p then (c.arb.queues.get p).erase t else _
    rw [grantedArb_queues, Laws.PerPort.get_modify]
    split
    · rename_i hq
      obtain ⟨rest, hrest⟩ := List.head?_eq_some_iff.1 ht
      rw [hq, hrest, List.erase_cons_head, List.tail_cons]
    · rfl
  have hqueued (w : WindowNo) :
      ((takenByGrant reserved p x c).map.usage.get w).queued = ((ledger c).dequeue p t x.window).queued w := by
    change ((c.map.usage.modify x.window _).get w).queued = if w = x.window then _ else _
    by_cases hw : w = x.window
    · rw [hw, Laws.Table.get_modify_self, if_pos rfl]
      rfl
    · rw [Laws.Table.get_modify_ne _ _ hw, if_neg hw]
      rfl
  have hports : (takenByGrant reserved p x c).ports = c.ports.modify p fun pc => { pc with inFlight := pc.inFlight + 1 } := rfl
  have hrecord (q : Port) (v : Tag) : (takenByGrant reserved p x c).record q v = c.record q v :=
    forall_ports hports (R := fun a b => b.tags.get v = a.tags.get v) rfl (fun _ => rfl) q
  have hopen : (takenByGrant reserved p x c).isOpen = c.isOpen := funext fun q =>
    forall_ports hports (R := fun a b => decide (b.session = .opened) = decide (a.session = .opened)) rfl (fun _ => rfl) q
  unfold ledger
  simp only [hqueue, hqueued, hrecord, hopen]
  rfl

theorem ledger_grantHead {x : DataRec} (reserved : Bool) (ht : (c.arb.queues.get p).head? = some t)
    (hx : c.dataRecord p t = some x) :
    ledger (grantHead reserved p t x i c) = (((ledger c).dequeue p t x.window).set p t (.onSlot i none)).own i p t := by
  have hslot (r : SlotRec) (hr : slotOwner r = some (p, t)) (y : DataRec) (hy : view (some (.data y)) = .onSlot i none) :
      ledger (setRecord p t (some (.data y)) (setSlot i (some r) (takenByGrant reserved p x c))) =
        (((ledger c).dequeue p t x.window).set p t (.onSlot i none)).own i p t := by
    rw [ledger_setRecord, ledger_setSlot_own hr, ledger_takenByGrant reserved ht, hy]
    rfl
  rw [grantHead_eq_of_record hx]
  split
  · rw [ledger_sendPort]
    exact hslot _ rfl _ rfl
  · refine ((ledger_setRecord _ p t _).trans ?_).trans (hslot
      { grantedSlot p t x c with phase := .issued c.map.active.params.response } rfl { x with stage := .issued i } rfl)
    rw [ledger_sendMedia, ledger_setRecord]

theorem ledger_grantPersist (hi : c.slot i = none) (j : Job) : ledger (grantPersist j i c) = ledger c :=
  ledger_congr (fun _ _ => by rw [record_congr (Laws.grantPersist_ports ..)]) (fun _ => by simp) (by simp) (fun n => by
    rw [grantPersist_slot]
    split
    · rename_i hn
      rw [hn, hi]
      rfl
    · rfl) (by simp) (by simp) (by simp) fun _ => by simp

theorem Exact.granted (h : Exact X L c) (hd : grantDecision c = some d) : Exact X L d := by
  obtain ⟨-, ⟨j, i, -, hi, rfl⟩ | ⟨reserved, p, t, r, i, c', hc', -, hhead, hi, rfl⟩⟩ := grantDecision_cases hd
  · exact h.same (ledger_grantPersist (Grants.freeSlot_free hi) j)
  · have hledger : ledger c' = ledger c := by rcases hc' with rfl | rfl <;> rfl
    obtain ⟨ht, hx⟩ : (c'.arb.queues.get p).head? = some t ∧ c'.dataRecord p t = some r := by
      rcases hc' with rfl | rfl <;> exact Laws.headOf_iff.1 hhead
    have hmem : t ∈ (ledger c).queue p := by
      rw [← hledger]
      exact List.mem_of_mem_head? ht
    obtain ⟨w, hw⟩ := h.listed p t hmem
    have hwindow : w = r.window := by
      rw [← hledger] at hw
      obtain ⟨x, hx', -, rfl⟩ := view_queued.1 hw
      rw [hx] at hx'
      cases hx'
      rfl
    rw [Exact, ledger_grantHead reserved ht hx, hledger]
    refine Fits.grant h hmem (hwindow ▸ hw) ?_
    change (c.slot i).bind slotOwner = none
    rw [Grants.freeSlot_free hi]
    rfl

theorem Exact.arbitrate (h : Exact X L c) : Exact X L (arbitrate c) := by
  have hall (n : Nat) {c : Chip} (h : Exact X L c) : Exact X L (decisions n c) := by
    induction n generalizing c with
    | zero => exact h
    | succ n ih =>
      unfold decisions
      split
      · rename_i hd
        exact ih (h.granted hd)
      · exact h
  exact hall 16 h

/-! ### The end of an event (R55, R119) -/

theorem ledger_closeIfIdle (p : Port) (c : Chip) : ledger (closeIfIdle p c) = ledger c := by
  unfold closeIfIdle
  dsimp only
  split
  · rename_i reason hs
    split
    · rw [ledger_sendPort]
      have hports := Laws.modPort_ports c p fun pc => { pc with session := .down }
      have hopen : (c.modPort p fun pc => { pc with session := .down }).isOpen = c.isOpen := funext fun q =>
        forall_ports hports (R := fun a b => decide (b.session = .opened) = decide (a.session = .opened))
          (by rw [hs]; rfl) (fun _ => rfl) q
      have hrecord (q : Port) (v : Tag) : (c.modPort p fun pc => { pc with session := .down }).record q v = c.record q v :=
        forall_ports hports (R := fun a b => b.tags.get v = a.tags.get v) rfl (fun _ => rfl) q
      unfold ledger
      simp only [hopen, hrecord]
      rfl
    · rfl
  all_goals rfl

theorem Exact.conclude {answers : Chip → Chip} (h : Exact X L (answers c)) : Exact X L (conclude answers c) := by
  obtain ⟨x, n, hmerged⟩ := eitherOrder_merged answers c
  unfold Machine.conclude
  rw [hmerged]
  refine Exact.arbitrate (h.settle.same ?_)
  exact Laws.eachPort_proj ledger closeIfIdle ledger_closeIfIdle { Machine.settle (answers c) with sent := x, free := n }

/-! ### The answers of a slot's request (R110, R125, R128) -/

/-- Of the tags `L` none is queued. -/
def Unqueued (L : List (Port × Tag)) (c : Chip) : Prop := ∀ x ∈ L, ∀ w, (ledger c).view x.1 x.2 ≠ .queued w

theorem Unqueued.same (h : Unqueued L c) (hd : ∀ q v, d.record q v = c.record q v) : Unqueued L d := fun x hx w => by
  change view (d.record x.1 x.2) ≠ _
  rw [hd]
  exact h x hx w

theorem Unqueued.freed (h : Unqueued L c) (p : Port) (t : Tag) : Unqueued L (freeTag p t c) := fun x hx w => by
  rw [ledger_freeTag]
  change (if x.1 = p ∧ x.2 = t then View.free else (ledger c).view x.1 x.2) ≠ _
  split
  · exact nofun
  · exact h x hx w

/-- What follows fallen counts queues no tag. -/
theorem unqueued_settling (L : List (Port × Tag)) : KeptSettling (Unqueued L) where
  responded {c} p t o w _ h := (h.same (d := reply p t o w c) fun _ _ => record_congr (Laws.reply_ports ..) ..).freed p t
  raised f p _ _ h := h.same fun q v => raiseFlag_record f p q v _
  delivered {c} p h x hx w := by
    rw [ledger_deliver]
    exact h x hx w
  commit _ _ h := h
  swapped cfg h := h.same fun q v => swapped_record cfg q v _
  holds _ _ h := h
  fewerHolds _ h := h
  oneChanged _ _ h := h
  jobs _ _ h := h
  failed h := h

/-- Tags that are not queued need no answer. -/
theorem Exact.unqueued (h : Exact X L c) (hL : Unqueued L c) : Exact X [] c :=
  h.drop nofun fun _ _ w hm hv => absurd hv (hL _ hm w)

/-- The owner of a slot and the ABORT that waits for the slot are answered. -/
theorem Exact.answerOwner (h : Exact X L c) {r : SlotRec} {a : Option Tag}
    (hm : ∀ p u, r.holder = .port p → r.owner = some u → c.isOpen p = true → (p, u) ∈ L ∧ ∀ v, a = some v → (p, v) ∈ L)
    (o o' : Outcome) (w : List Word) : Exact X L (answerOwner o w o' a r c) := by
  unfold Machine.answerOwner
  split
  · rename_i p u hh ho
    have hanswered := h.answer (fun hopen => (hm p u hh ho hopen).1) o w
    refine hanswered.respondIf (fun v hv hopen => (hm p u hh ho ?_).2 v hv) o'
    unfold Chip.isOpen at hopen ⊢
    rwa [HoldProofs.respond_session] at hopen
  · exact h

theorem freeSlot_isOpen (i : SlotNo) (c : Chip) : (freeSlot i c).isOpen = c.isOpen := funext fun q => by
  unfold Chip.isOpen
  rw [freeSlot_session]

theorem unqueued_slotTags (h : Exact X L c) (i : SlotNo) : Unqueued (slotTags c i) (freeSlot i c) :=
  fun _ hx _ => slotTags_notQueued h hx

/-- A slot has returned to FREE and its request is answered. -/
theorem Exact.freedAndAnswered (h : Exact X [] c) {r : SlotRec} (hr : c.slot i = some r) (o o' : Outcome) (w : List Word) :
    Exact X [] (Machine.conclude (Machine.answerOwner o w o' (c.waitingAbort r) r) (Machine.freeSlot i c)) := by
  have hfreed := h.freedSlot i
  rw [List.append_nil] at hfreed
  have hanswered := hfreed.answerOwner (r := r) (a := c.waitingAbort r)
    (fun p u hh ho hopen => mem_slotTags hr hh ho (by rwa [freeSlot_isOpen] at hopen)) o o' w
  exact Exact.conclude (hanswered.unqueued ((unqueued_settling _).answerOwner _ _ _ _ _ (unqueued_slotTags h i)))

end

end Sys2Proof.Ledgers
end

section
/-! SUPPORT. The ledger through the end of a session (R42, R52 to R57, R155, R179). -/

namespace Sys2Proof.Ledgers

open Sys2Proof.Machine Sys2Proof.Safety Sys2Proof.Keeping Sys2Proof.DataPath Sys2Proof.SlotOps Sys2Proof.Grants
  Sys2Proof.Aftermath Sys2Proof.Pages Sys2Proof.Resets Sys2Proof.SessionEnds

/-- Which ports are still to be cleaned up is a matter of membership. -/
theorem Fits.congr_left {X Y : List Port} {L : List (Port × Tag)} {l : Ledger} (h : Fits X L l) (hXY : ∀ q, q ∈ X ↔ q ∈ Y) :
    Fits Y L l :=
  { h with
    left := fun q hq => h.left q ((hXY q).2 hq)
    closed := fun q hq => h.closed q fun hm => hq ((hXY q).1 hm)
    awaited := fun q hq => h.awaited q fun hm => hq ((hXY q).1 hm)
    loose := fun x hx =>
      let ⟨hqu, how, haw⟩ := h.loose x hx
      ⟨hqu, how, haw.imp_left (hXY x.1).1⟩ }

section
variable {X : List Port} {L : List (Port × Tag)} {c d : Chip} {p : Port} {t u : Tag} {i : SlotNo}

/-! ### The records (R53, R54) -/

theorem Exact.freeTag (h : Exact X L c) (hl : Loose X (ledger c) p t) : Exact X L (freeTag p t c) := by
  rw [Exact, ledger_freeTag]
  exact h.set hl nofun

theorem Exact.add (h : Exact X L c) (hl : Loose X (ledger c) p t) : Exact X ((p, t) :: L) c := Fits.add h hl

/-- A record of a port to be cleaned up that is on no slot and not queued. -/
theorem Exact.loose_left (h : Exact X L c) (hp : p ∈ X) (hslot : ((ledger c).view p t).slot = none)
    (hqueued : ∀ w, (ledger c).view p t ≠ .queued w) : Loose X (ledger c) p t :=
  ⟨h.notQueued hqueued, h.notOwner hslot, .inl hp⟩

/-- The slot that a record names has lost its owner. -/
theorem Exact.loose_slot (h : Exact X L c) (hp : p ∈ X) (hslot : ((ledger c).view p t).slot = some i)
    (hqueue : (ledger d).queue = (ledger c).queue)
    (howner : ∀ j, (ledger d).owner j = if j = i then none else (ledger c).owner j) : Loose X (ledger d) p t := by
  refine ⟨?_, fun j hj => ?_, .inl hp⟩
  · rw [hqueue]
    exact h.notQueued fun w hw => by rw [hw] at hslot; cases hslot
  · rw [howner] at hj
    split at hj
    · cases hj
    · rename_i hji
      have hj' := h.owned j p t hj
      rw [hslot] at hj'
      exact hji (Option.some.inj hj').symm

theorem disown_owner (i j : SlotNo) (c : Chip) :
    (ledger (disown i c)).owner j = if j = i then none else (ledger c).owner j := by
  change ((disown i c).slot j).bind slotOwner = if j = i then none else (c.slot j).bind slotOwner
  rw [disown_slot]
  split
  · cases c.slot i with
    | none => rfl
    | some r =>
      change slotOwner { r with owner := none } = none
      unfold slotOwner
      cases r.holder <;> rfl
  · rfl

/-- One record of a session that ends: afterwards nothing names its tag (R53, R54). -/
theorem Exact.endRecord (h : Exact X L c) (hL : Unqueued L c) (hp : p ∈ X) (t : Tag) : Exact X ((p, t) :: L) (endRecord p t c) := by
  rcases hr : c.record p t with _ | (x | ⟨k, ws, v⟩)
  · rw [endRecord_none hr]
    exact h.add (h.loose_of_free (show view (c.record p t) = .free by rw [hr]; rfl))
  · have hx : c.dataRecord p t = some x := dataRecord_iff.2 hr
    have hview : (ledger c).view p t = stageView x.window x.stage := view_record hx
    cases hs : x.stage with
    | admitted =>
      rw [endRecord_admitted hr hs]
      have hqueued : (ledger c).view p t = .queued x.window := by rw [hview, hs]; rfl
      rcases h.all p t x.window hqueued with hm | hm
      · have hout := h.dequeue hm
        exact hout.freeTag (hout.loose _ List.mem_cons_self)
      · exact absurd hqueued (hL _ hm x.window)
    | granted n got timer =>
      rw [endRecord_granted hr hs]
      have hslot : ((ledger c).view p t).slot = some n := by rw [hview, hs]; rfl
      have hloose := h.loose_slot (d := Machine.freeSlot n c) hp hslot (by rw [ledger_freeSlot]) fun j => by
        rw [ledger_freeSlot]
      exact ((h.freeSlot n).add hloose).freeTag hloose
    | issued n =>
      rw [endRecord_onMedia hr (.inl hs)]
      have hslot : ((ledger c).view p t).slot = some n := by rw [hview, hs]; rfl
      exact (h.disown n).add (h.loose_slot hp hslot rfl fun j => disown_owner n j c)
    | abandoning n a =>
      rw [endRecord_onMedia hr (.inr ⟨a, hs⟩)]
      have hslot : ((ledger c).view p t).slot = some n := by rw [hview, hs]; rfl
      exact (h.disown n).add (h.loose_slot hp hslot rfl fun j => disown_owner n j c)
    | delivering pages =>
      rw [endRecord_delivering hr hs]
      have hloose := h.loose_left hp (by rw [hview, hs]; rfl) fun w => by rw [hview, hs]; exact nofun
      have hsame : ledger (returnPages pages (stopDelivery p t pages c)) = ledger c :=
        ledger_of_blocks (by simp) (by simp) (by simp) (by simp) (by simp)
      exact ((h.add hloose).same hsame).freeTag (by rw [hsame]; exact hloose)
  · rw [endRecord_handed hr]
    have hview : (ledger c).view p t = .handed := show view (c.record p t) = _ by rw [hr]; rfl
    have hloose := h.loose_left hp (by rw [hview]; rfl) fun w => by rw [hview]; exact nofun
    exact (h.add hloose).freeTag hloose

theorem Unqueued.freeSlot (h : Unqueued L c) (i : SlotNo) : Unqueued L (freeSlot i c) := fun x hx w => by
  rw [ledger_freeSlot]
  dsimp only
  split
  · exact nofun
  · exact h x hx w

theorem Unqueued.freedTag (h : Unqueued L c) : Unqueued ((p, t) :: L) (Machine.freeTag p t c) := fun x hx w => by
  rcases List.mem_cons.1 hx with rfl | hx
  · rw [ledger_freeTag]
    change (if p = p ∧ t = t then View.free else (ledger c).view p t) ≠ _
    rw [if_pos ⟨rfl, rfl⟩]
    exact nofun
  · exact h.freed p t x hx w

theorem Unqueued.add (h : Unqueued L c) (ht : ∀ w, (ledger c).view p t ≠ .queued w) : Unqueued ((p, t) :: L) c := fun x hx w => by
  rcases List.mem_cons.1 hx with rfl | hx
  · exact ht w
  · exact h x hx w

theorem Unqueued.endRecord (h : Unqueued L c) (p : Port) (t : Tag) : Unqueued ((p, t) :: L) (endRecord p t c) := by
  rcases hr : c.record p t with _ | (x | ⟨k, ws, v⟩)
  · rw [endRecord_none hr]
    refine h.add fun w => ?_
    change view (c.record p t) ≠ _
    rw [hr]
    exact nofun
  · have hmedia {n : SlotNo} (hs : OnMedia x n) : Unqueued ((p, t) :: L) (disown n c) := by
      refine Unqueued.add (h.same fun _ _ => rfl) fun w => ?_
      change view (c.record p t) ≠ _
      rw [hr]
      rcases hs with hs | ⟨a, hs⟩ <;> simp [view, hs, stageView]
    cases hs : x.stage with
    | admitted =>
      rw [endRecord_admitted hr hs]
      exact Unqueued.freedTag (h.same fun _ _ => record_congr (Laws.dequeue_ports ..) ..)
    | granted n got timer =>
      rw [endRecord_granted hr hs]
      exact (h.freeSlot n).freedTag
    | issued n =>
      rw [endRecord_onMedia hr (.inl hs)]
      exact hmedia (.inl hs)
    | abandoning n a =>
      rw [endRecord_onMedia hr (.inr ⟨a, hs⟩)]
      exact hmedia (.inr ⟨a, hs⟩)
    | delivering pages =>
      rw [endRecord_delivering hr hs]
      exact Unqueued.freedTag (h.same fun _ _ => record_congr (by simp) ..)
  · rw [endRecord_handed hr]
    exact h.freedTag

/-- After all records have ended, nothing names a tag of the port (R53, R54). -/
theorem Exact.unwound (h : Exact X [] c) (hp : p ∈ X) :
    ∃ L, Exact X L (unwound p c) ∧ Unqueued L (unwound p c) ∧ ∀ t, (p, t) ∈ L := by
  have hall (l : List Tag) {L : List (Port × Tag)} {c : Chip} (h : Exact X L c) (hL : Unqueued L c) :
      ∃ M, Exact X M (each (Machine.endRecord p) l c) ∧ Unqueued M (each (Machine.endRecord p) l c) ∧ L ⊆ M ∧
        ∀ t ∈ l, (p, t) ∈ M := by
    induction l generalizing L c with
    | nil => exact ⟨L, h, hL, List.Subset.refl _, nofun⟩
    | cons t l ih =>
      obtain ⟨M, hM, hunqueued, hsub, hmem⟩ := ih (h.endRecord hL hp t) (hL.endRecord p t)
      refine ⟨M, hM, hunqueued, fun x hx => hsub (List.mem_cons_of_mem _ hx), fun u hu => ?_⟩
      rcases List.mem_cons.1 hu with rfl | hu
      · exact hsub List.mem_cons_self
      · exact hmem u hu
  obtain ⟨M, hM, hunqueued, -, hmem⟩ := hall allTags h (c := c) nofun
  unfold SessionEnds.unwound
  exact ⟨M, hM, hunqueued, fun t => hmem t (mem_allTags t)⟩

/-! ### The holds (R42) -/

/-- No hold is to answer port `p`. -/
def Answerless (p : Port) (c : Chip) : Prop := ∀ x ∈ c.hold.table, x.owner = p → x.answerTo = none

theorem Exact.stripped (h : Exact X L (SessionEnds.unwound p c)) :
    Exact X L (stripped p c) ∧ Answerless p (stripped p c) := by
  unfold SessionEnds.stripped
  refine ⟨?_, fun x hx ho => ?_⟩
  · have hrelieved : Exact X L (relieved p c) := h.same rfl
    have hremoved : Exact X L (each Machine.removeHold
        ((relieved p c).hold.table.filter fun h => h.owner = p && h.cls = .session) (relieved p c)) :=
      each_keeps (P := Exact X L) (fun y _ hd => hd.removeHold y) _ hrelieved
    unfold endSessionHolds
    generalize each Machine.removeHold
      ((relieved p c).hold.table.filter fun h => h.owner = p && h.cls = .session) (relieved p c) = d at hremoved
    refine hremoved.asks (A := (d.hold.table.map fun h => if h.owner = p then { h with answerTo := none } else h).map Ask.of) rfl
      (List.pairwise_map.2 (List.pairwise_map.2 (hremoved.ascending.imp fun {a b} hab => ?_))) fun q v => ?_
    · simp only [Ask.of]
      split <;> split <;> exact hab
    · change _ ≤ (d.hold.table.map Ask.of).countP _
      rw [List.countP_map, List.countP_map, List.countP_map]
      refine List.countP_mono_left fun x _ hx => ?_
      simp only [Function.comp_apply, Ask.isDue, Ask.of] at hx ⊢
      split at hx
      · simp at hx
      · exact hx
  · rw [endSessionHolds_table, List.mem_map] at hx
    obtain ⟨y, -, rfl⟩ := hx
    split at ho
    · rename_i hy
      rw [if_pos hy]
    · rename_i hy
      exact absurd ho hy

theorem Answerless.endWaits (h : Answerless p c) : Answerless p (endWaits c) := by
  intro x hx ho
  rcases mem_endWaits hx with ⟨hm, -⟩ | ⟨z, hz, -, rfl⟩
  · exact h x hm ho
  · unfold Laws.endedHold at ho ⊢
    split at ho
    · rename_i hcls
      rw [if_pos hcls]
      exact h z hz ho
    · rename_i hcls
      rw [if_neg hcls]

/-! ### Staging (R155) -/

theorem Exact.drainBesideEnd (h : Exact X L c) (ha : Answerless p c) :
    Exact X L (drainBesideEnd p c) ∧ Answerless p (drainBesideEnd p c) := by
  rcases drainBesideEnd_cases p c with hd | hd | ⟨info, left, hc, -, -, hd⟩ <;> rw [hd]
  · exact ⟨h, ha⟩
  · exact ⟨h, ha⟩
  · have hwaits : Exact X L (Machine.endWaits c.takeFree) := Exact.endWaits h
    refine ⟨hwaits.drainEnd (left := left) (by rw [Laws.endWaits_map]; exact hc), ?_⟩
    have hended : Answerless p (Machine.endWaits c.takeFree) := Answerless.endWaits ha
    intro x hx
    rw [Laws.drainEnd_hold] at hx
    exact hended x hx

theorem Exact.endSessionStaging (h : Exact X L c) (p : Port) :
    Exact X L (endSessionStaging p c) ∧ ∀ t, (ledger (endSessionStaging p c)).commit ≠ some (some p, t) := by
  have hasker {t : Option Tag} (hc : (ledger c).commit = some (some p, t)) : stagingAsker c.map.staging = some (some p) :=
    h.committed _ _ hc
  by_cases how : Owns p c.map.staging
  · obtain ⟨cfg, hs | hs⟩ := how
    · rw [endSessionStaging_opened hs]
      exact ⟨h.endCommit .empty, fun _ => nofun⟩
    · cases hc : c.map.commit with
      | idle =>
        have hsame : Machine.endSessionStaging p c = c := by
          unfold Machine.endSessionStaging
          rw [hs, hc]
        rw [hsame]
        refine ⟨h, fun t ht => ?_⟩
        have hnone : commitKey c.map.commit = some (some p, t) := ht
        rw [hc] at hnone
        cases hnone
      | draining info left =>
        rw [endSessionStaging_draining hs hc]
        exact ⟨h.endCommit .empty, fun _ => nofun⟩
      | persisting info =>
        rw [endSessionStaging_persisting hs hc]
        refine ⟨Fits.shrink h rfl rfl rfl rfl (fun _ => .inl rfl) h.ids (fun _ _ => Nat.le_refl _) nofun fun q t ht => ?_,
          fun _ => nofun⟩
        have ht : some ((none : Option Port), (none : Option Tag)) = some (q, t) := ht
        cases ht
        rfl
  · rw [endSessionStaging_other how]
    refine ⟨h, fun t ht => ?_⟩
    obtain ⟨cfg, hs⟩ := stagingAsker_iff.1 (hasker ht)
    exact how ⟨cfg, .inr hs⟩

/-! ### The whole (R52, R57) -/

/-- A port has been cleaned up (R42, R53, R155). -/
theorem Exact.cleanUp (h : Exact (p :: X) [] c) : Exact X [] (cleanUp p c) := by
  obtain ⟨L, hunwound, hunqueued, hmem⟩ := h.unwound List.mem_cons_self
  obtain ⟨hstripped, hanswerless⟩ := hunwound.stripped
  obtain ⟨hdrained, hanswerless⟩ := hstripped.drainBesideEnd hanswerless
  obtain ⟨hended, hcommit⟩ := hdrained.endSessionStaging p
  have hunqueued : Unqueued L (Machine.cleanUp p c) :=
    cleanUp_keeps (unqueued_settling L) (fun h => h) (stripped_keeps (unqueued_settling L) (fun _ _ h => h) hunqueued)
  rw [cleanUp_eq] at hunqueued ⊢
  have hhold : (Machine.endSessionStaging p (Machine.drainBesideEnd p (SessionEnds.stripped p c))).hold =
      (Machine.drainBesideEnd p (SessionEnds.stripped p c)).hold := Laws.endSessionStaging_hold ..
  generalize Machine.endSessionStaging p (Machine.drainBesideEnd p (SessionEnds.stripped p c)) = d at *
  refine Exact.unqueued (Fits.cleaned hended (List.eq_nil_iff_forall_not_mem.2 fun t => (hended.loose _ (hmem t)).queue)
    fun u => ?_) hunqueued
  have hslots : allSlots.countP (fun i => decide ((ledger d).waiting p i = some u)) = 0 := by
    refine List.countP_eq_zero.2 fun i _ hi => ?_
    obtain ⟨x, hx, ha⟩ := Option.bind_eq_some_iff.1 (of_decide_eq_true hi)
    split at ha
    · rename_i hxp
      exact (hended.loose _ (hmem x.2)).owner i (by rw [← hxp]; exact hx)
    · cases ha
  have hasks : (ledger d).asks.countP (Ask.isDue p u) = 0 := by
    refine List.countP_eq_zero.2 fun a ha hdue => ?_
    obtain ⟨x, hx, rfl⟩ := List.mem_map.1 ha
    obtain ⟨howner, htag⟩ := Bool.and_eq_true_iff.1 hdue
    have htag : x.answerTo = some u := of_decide_eq_true htag
    rw [hanswerless x (hhold ▸ hx) (of_decide_eq_true howner)] at htag
    cases htag
  unfold Ledger.awaits
  rw [hslots, hasks, if_neg (hcommit (some u))]

theorem ledger_leaveOpen (reason : CloseReason) (p : Port) (c : Chip) :
    ledger (leaveOpen reason p c) = { ledger c with isOpen := onPort (ledger c).isOpen p false } := by
  have hports := Laws.modPort_ports c p fun pc => { pc with session := .closing reason, flags := Flags.clear }
  have hopen : (leaveOpen reason p c).isOpen = onPort c.isOpen p false := funext fun q => by
    unfold Chip.isOpen
    rw [leaveOpen_session]
    unfold onPort
    split <;> rfl
  have hrecord (q : Port) (v : Tag) : (leaveOpen reason p c).record q v = c.record q v :=
    forall_ports (d := leaveOpen reason p c) hports (R := fun a b => b.tags.get v = a.tags.get v) rfl (fun _ => rfl) q
  unfold ledger
  simp only [hopen, hrecord]
  rfl

theorem Exact.leaveOpen (h : Exact X L c) (reason : CloseReason) (p : Port) : Exact (p :: X) L (leaveOpen reason p c) := by
  rw [Exact, ledger_leaveOpen]
  exact Fits.leave h p

theorem Exact.closeSession (h : Exact [] [] c) (reason : CloseReason) (p : Port) : Exact [] [] (closeSession reason p c) := by
  unfold Machine.closeSession
  split
  · exact Exact.conclude (answers := id) (h.leaveOpen reason p).cleanUp
  · exact h

/-- A bridge reset reaches ports: all leave OPEN, then each is cleaned up (R57, R179). -/
theorem Exact.resetPorts (h : Exact [] [] c) (ports : List Port) : Exact [] [] (resetPorts ports c) := by
  have hleave (l : List Port) {X : List Port} {c : Chip} (h : Exact X [] c) :
      Exact (l.reverse ++ X) [] (each (Machine.leaveOpen .reset) l c) := by
    induction l generalizing X c with
    | nil => exact h
    | cons p l ih =>
      rw [List.reverse_cons, List.append_assoc]
      exact ih (h.leaveOpen .reset p)
  have hclean (l : List Port) {c : Chip} (h : Exact l [] c) : Exact [] [] (each Machine.cleanUp l c) := by
    induction l generalizing c with
    | nil => exact h
    | cons p l ih => exact ih h.cleanUp
  unfold Machine.resetPorts
  refine Exact.conclude (answers := id) (hclean _ ((hleave _ h).congr_left fun q => ?_))
  rw [List.append_nil, List.mem_reverse]

end

end Sys2Proof.Ledgers
end

section
/-! SUPPORT. The ledger through the changes of the bridge state (R112, R133 to R135, R157, R171 to R180). -/

namespace Sys2Proof.Ledgers

open Sys2Proof.Machine Sys2Proof.Safety Sys2Proof.Keeping Sys2Proof.DataPath Sys2Proof.SlotOps Sys2Proof.Grants
  Sys2Proof.Aftermath Sys2Proof.Pages Sys2Proof.Resets Sys2Proof.Recovery Sys2Proof.Faults

section
variable {X : List Port} {L : List (Port × Tag)} {c d : Chip} {p : Port} {t u : Tag} {i : SlotNo}

/-- A tag that waits for its answer gets it. -/
theorem Exact.answered (h : Exact X ((p, u) :: L) c) (hopen : c.isOpen p = true) (o : Outcome) (w : List Word) :
    Exact X L (Machine.respond p u o w c) := by
  have hfreed : Machine.respond p u o w c = Machine.freeTag p u (reply p u o w c) := if_pos hopen
  have hreply : ledger (reply p u o w c) = ledger c := ledger_sendPort c _ _
  rw [hfreed, Exact, ledger_freeTag, hreply]
  refine Fits.dropHead (h.set (h.loose _ List.mem_cons_self) nofun) fun w => ?_
  change (if p = p ∧ u = u then View.free else (ledger c).view p u) ≠ _
  rw [if_pos ⟨rfl, rfl⟩]
  exact nofun

/-! ### Bring-up attempts and the entry to START (R134, R173) -/

theorem Exact.conclude_id (h : Exact X L c) : Exact X L (Machine.conclude id c) :=
  Exact.conclude (answers := id) h

/-- Changes of the M-link controller that leave the slots are not in the ledger. -/
theorem ledger_modMlink (f : MlinkCtl → MlinkCtl) (hf : (f c.mlink).slots = c.mlink.slots) :
    ledger (c.modMlink f) = ledger c :=
  ledger_congr (fun _ _ => rfl) (fun _ => rfl) rfl (fun i => by rw [slot_congr (c := c) hf i]) rfl rfl rfl fun _ => rfl

theorem Exact.modMlink (h : Exact X L c) (f : MlinkCtl → MlinkCtl) (hf : (f c.mlink).slots = c.mlink.slots) :
    Exact X L (c.modMlink f) := h.same (ledger_modMlink f hf)

theorem Exact.sendMedia (h : Exact X L c) (f : MFrame) : Exact X L (sendMedia f c) := h.same (ledger_sendMedia c f)

theorem Exact.sendLinkReset (h : Exact X L c) : Exact X L (sendLinkReset c) := by
  unfold Machine.sendLinkReset
  dsimp only
  split
  · exact (h.sendMedia _).freeAllSlots.conclude_id
  · exact h.sendMedia _

theorem Exact.setBringUp (h : Exact X L c) (b : BringUp) : Exact X L (setBringUp b c) := h.modMlink _ rfl

theorem Exact.beginAttempt (h : Exact X L c) : Exact X L (beginAttempt c) := by
  unfold Machine.beginAttempt
  split
  · exact (h.setBringUp _).sendLinkReset
  · exact h.setBringUp _

theorem Exact.beginBringUp (h : Exact X L c) : Exact X L (beginBringUp c) := (h.modMlink _ rfl).beginAttempt

theorem Exact.enterStart (h : Exact X L c) : Exact X L (enterStart c) := by
  have hstarted : Exact X L (started c) := (h.endCommit .empty).same rfl
  exact (hstarted.modMlink (fun m => { m with capacity := 0#32, slotCount := 0, bringUp := .idle }) rfl).beginBringUp

/-! ### The end of a bridge reset (R45, R179) -/

theorem Exact.finishReset (h : Exact [] [] c) : Exact [] [] (finishReset c) := by
  unfold Machine.finishReset
  refine Exact.enterStart (each_keeps (P := Exact [] []) (fun y _ hd => hd.removeHold y) _ ?_)
  exact each_keeps (P := Exact [] []) (fun j _ hd => hd.dropJob j) _ ((h.resetPorts Port.all).modCfg _)

theorem Exact.resumeReset (h : Exact [] [] c) : Exact [] [] (resumeReset c) := by
  unfold Machine.resumeReset
  split
  · exact h.finishReset
  · exact h

/-! ### Entry to FAULT (R112, R157, R171) -/

theorem Exact.faultQueue (h : Exact [] [] c) (p : Port) : Exact [] [] (faultQueue p c) := by
  have hall (l : List Tag) {c : Chip} (h : Exact [] [] c) (hl : c.arb.queues.get p = l) :
      Exact [] [] (each (fun t c => Machine.respond p t .mediaFault [] (Machine.dequeue p t c)) l c) := by
    induction l generalizing c with
    | nil => exact h
    | cons t l ih =>
      have hopen : c.isOpen p = true := by
        by_contra hclosed
        have hempty : (ledger c).queue p = [] := h.closed p nofun (Bool.not_eq_true _ ▸ hclosed)
        rw [show (ledger c).queue p = t :: l from hl] at hempty
        cases hempty
      have hout := h.dequeue (t := t) (p := p) (by rw [hl]; exact List.mem_cons_self)
      refine ih (hout.answered (by unfold Chip.isOpen at hopen ⊢; rwa [Laws.dequeue_ports]) _ _) ?_
      rw [Laws.respond_arb, Laws.dequeue_queues, Laws.PerPort.get_set_self, hl, List.erase_cons_head]
  exact hall _ h rfl

theorem Exact.fromStart (h : Exact X L c) : Exact X L (fromStart c) := by
  have hended : Exact X L (Machine.conclude id (Machine.freeAllSlots c)) := h.freeAllSlots.conclude_id
  unfold Faults.fromStart
  split
  · generalize Machine.conclude id (Machine.freeAllSlots c) = d at hended
    exact hended
  · exact h

theorem Exact.jobsEnded (h : Exact X L c) (l : List Job) : Exact X L (jobsEnded l c) := by
  unfold Faults.jobsEnded
  exact ((h.modCfg _).jobsFailed l).same (ledger_raiseMedia _)

theorem Exact.queuesEnded (h : Exact [] [] c) : Exact [] [] (queuesEnded c) := by
  have hanswered : Exact [] [] (eachPort Machine.faultQueue c) :=
    eachPort_keeps (P := Exact [] []) (fun p _ hd => hd.faultQueue p) h
  unfold Faults.queuesEnded
  generalize eachPort Machine.faultQueue c = d at hanswered
  exact hanswered

theorem Exact.enterFault (h : Exact [] [] c) : Exact [] [] (enterFault c) := by
  rw [enterFault_eq]
  unfold faulted
  exact (h.fromStart.jobsEnded _).queuesEnded.faultHolds.faultMap.modMlink _ rfl

/-! ### START goes on (R46, R175 to R177) -/

/-- A slot is taken by the configuration unit: its owner, if it had one, is forgotten. -/
theorem Exact.setSlot_ownerless (h : Exact X L c) {r : SlotRec} (hr : slotOwner r = none) (i : SlotNo) :
    Exact X L (setSlot i (some r) c) := by
  refine Fits.shrink h rfl rfl rfl rfl (fun j => ?_) h.ids (fun _ _ => Nat.le_refl _) (fun _ _ => id) h.committed
  change ((setSlot i (some r) c).slot j).bind slotOwner = (c.slot j).bind slotOwner ∨
    ((setSlot i (some r) c).slot j).bind slotOwner = none
  rw [setSlot_slot]
  split
  · exact .inr hr
  · exact .inl rfl

theorem Exact.readCopy (h : Exact X L c) (x : Copy) : Exact X L (readCopy x c) :=
  (h.setSlot_ownerless (r := { configSlot .read (c.copyBlock x) false with phase := .issued Config.factoryResponse })
    rfl 0).sendMedia _

theorem insertHold_countP (y : Hold) (l : List Hold) (g : Hold → Bool) :
    (insertHold y l).countP g = l.countP g + if g y = true then 1 else 0 := by
  rw [(insertHold_perm y l).countP_eq, List.countP_cons]

/-- A load leaves no answer due more often than before (R46). -/
theorem loadedTable_due (limit : Nat) (stored : List StoredHold) (old : List Hold) (q : Port) (v : Tag) :
    (loadedTable limit stored old).countP (fun x => (Ask.of x).isDue q v) ≤ old.countP fun x => (Ask.of x).isDue q v := by
  have hstored : (storedTable stored).countP (fun x => (Ask.of x).isDue q v) = 0 := by
    refine List.countP_eq_zero.2 fun x hx hdue => ?_
    obtain ⟨z, -, rfl⟩ := (mem_storedTable stored x).1 hx
    obtain ⟨-, htag⟩ := Bool.and_eq_true_iff.1 hdue
    have hnone : (none : Option Tag) = some v := of_decide_eq_true htag
    cases hnone
  have hfold (ids : List Nat) (l table : List Hold) :
      (l.foldl (keepPower limit ids) table).countP (fun x => (Ask.of x).isDue q v) ≤
        table.countP (fun x => (Ask.of x).isDue q v) + l.countP fun x => (Ask.of x).isDue q v := by
    induction l generalizing table with
    | nil => exact Nat.le_refl _
    | cons y l ih =>
      have hone : (keepPower limit ids table y).countP (fun x => (Ask.of x).isDue q v) ≤
          table.countP (fun x => (Ask.of x).isDue q v) + if (Ask.of y).isDue q v = true then 1 else 0 := by
        unfold keepPower
        split
        · exact Nat.le_of_eq (insertHold_countP ..)
        · exact Nat.le_add_right _ _
      have hrest := ih (keepPower limit ids table y)
      rw [List.foldl_cons, List.countP_cons]
      omega
  have hall := hfold (stored.map StoredHold.id) (old.filter fun h => h.cls = .power) (storedTable stored)
  have hkept : (old.filter fun h => h.cls = .power).countP (fun x => (Ask.of x).isDue q v) ≤
      old.countP fun x => (Ask.of x).isDue q v := List.Sublist.countP_le List.filter_sublist
  change ((old.filter fun h => h.cls = .power).foldl (keepPower limit (stored.map StoredHold.id))
    (storedTable stored)).countP _ ≤ _
  omega

theorem Exact.load (h : Exact X L c) (x : Option Copy) {r : ConfigRecord} (hr : Loadable r) : Exact X L (load x r c) := by
  obtain ⟨hlength, hids⟩ := loadable_holds hr
  have hloaded : Exact X L (loadedInto x r c) := by
    refine h.asks (A := (loadedTable c.areaStart r.holds c.hold.table).map Ask.of) rfl
      (List.pairwise_map.2 (loadedTable_fits hlength hids h.ascending).2.2) fun q v => ?_
    change _ ≤ (c.hold.table.map Ask.of).countP _
    rw [List.countP_map, List.countP_map]
    exact loadedTable_due ..
  have hready : Exact X L (restartLogTime (reloadCredits ((loadedInto x r c).modArb fun a => { a with pointer := .p0 }))) :=
    hloaded.same rfl
  exact hready.conclude_id

theorem loadable_of_validRecord {x : Copy} {r : ConfigRecord} (hx : c.validRecord x = some r) : Loadable r := by
  unfold Chip.validRecord at hx
  split at hx
  · obtain ⟨b, -, hb⟩ := Option.bind_eq_some_iff.1 hx
    exact .inr ⟨_, b, hb⟩
  · cases hx

theorem Exact.selectCopy (h : Exact X L c) : Exact X L (selectCopy c) := by
  unfold Machine.selectCopy
  split
  · rename_i a b ha hb
    split
    · exact h.load _ (loadable_of_validRecord hb)
    · exact h.load _ (loadable_of_validRecord ha)
  · rename_i a ha _
    exact h.load _ (loadable_of_validRecord ha)
  · rename_i b _ hb
    exact h.load _ (loadable_of_validRecord hb)
  · exact h.load _ (.inl rfl)

theorem Exact.nextStartStep (h : Exact X L c) : Exact X L (nextStartStep c) := by
  unfold Machine.nextStartStep
  split
  · exact Exact.readCopy (c := setStep .readB c) h _
  · exact h.selectCopy
  all_goals exact h

theorem Exact.bringUpAgain (h : Exact X L c) : Exact X L (bringUpAgain c) := h.readLost.beginBringUp

theorem Exact.bringUpDone (h : Exact [] [] c) (capacity : Word) (slots : Nat) : Exact [] [] (bringUpDone capacity slots c) := by
  have hidle := h.modMlink (fun m => { m with bringUp := .idle, attempts := 0, slotCount := slots }) rfl
  unfold Machine.bringUpDone
  dsimp only
  generalize (c.modMlink fun m => { m with bringUp := .idle, attempts := 0, slotCount := slots }) = d at hidle
  split
  · split
    · have hcap := hidle.modMlink (fun m => { m with capacity := capacity }) rfl
      split
      · exact hcap.enterFault
      · exact Exact.readCopy (c := setStep .readA (d.modMlink fun m => { m with capacity := capacity })) hcap _
    · split
      · exact hidle.nextStartStep
      · exact hidle.enterFault
  · split
    · exact Exact.conclude_id ((hidle.modMlink _ rfl).modCfg _)
    · exact hidle.enterFault
  all_goals exact hidle

theorem Exact.attemptFailed (h : Exact [] [] c) : Exact [] [] (attemptFailed c) := by
  have hcount := h.modMlink (fun m => { m with attempts := m.attempts + 1 }) rfl
  unfold Machine.attemptFailed
  dsimp only
  split
  · exact hcount.beginAttempt
  · exact hcount.enterFault

/-! ### Link recovery (R133) -/

theorem slotTags_freeSlot {i j : SlotNo} (h : j ≠ i) (c : Chip) : slotTags (freeSlot i c) j = slotTags c j := by
  have howner : (ledger (Machine.freeSlot i c)).owner j = (ledger c).owner j := by
    rw [ledger_freeSlot]
    exact if_neg h
  unfold slotTags
  rw [howner]
  split
  · rename_i p u ho
    have hopen : (Machine.freeSlot i c).isOpen p = c.isOpen p := congrFun (freeSlot_isOpen i c) p
    rw [hopen]
    by_cases hp : c.isOpen p = true
    · have hview (v : Tag) : (ledger (Machine.freeSlot i c)).view p v = (ledger c).view p v := by
        rw [ledger_freeSlot]
        exact if_neg (by simp [keptFor, hp])
      have hwaiting : (ledger (Machine.freeSlot i c)).waiting p j = (ledger c).waiting p j := by
        unfold Ledger.waiting
        rw [howner, ho]
        simp only [Option.bind_some, if_true, hview]
      rw [if_pos hp, if_pos hp, hwaiting]
    · rw [if_neg hp, if_neg hp]
  · rfl

/-- Slots have returned to FREE; the tags that wait for one are still to be answered. -/
theorem Exact.eachFreed {l : List SlotNo} (hl : l.Nodup) (h : Exact X L c) (hL : Unqueued L c) :
    ∃ M, Exact X M (each Machine.freeSlot l c) ∧ Unqueued M (each Machine.freeSlot l c) ∧ L ⊆ M ∧
      ∀ i ∈ l, slotTags c i ⊆ M := by
  induction l generalizing L c with
  | nil => exact ⟨L, h, hL, List.Subset.refl _, nofun⟩
  | cons i l ih =>
    obtain ⟨hi, hl⟩ := List.nodup_cons.1 hl
    have hunqueued : Unqueued (slotTags c i ++ L) (Machine.freeSlot i c) := fun x hx w =>
      (List.mem_append.1 hx).elim (fun hx => unqueued_slotTags h i x hx w) fun hx => hL.freeSlot i x hx w
    obtain ⟨M, hM, hMunqueued, hsub, hmem⟩ := ih hl (h.freedSlot i) hunqueued
    refine ⟨M, hM, hMunqueued, fun x hx => hsub (List.mem_append_right _ hx), fun j hj => ?_⟩
    rcases List.mem_cons.1 hj with rfl | hj'
    · exact fun x hx => hsub (List.mem_append_left _ hx)
    · have hne : j ≠ i := fun he => hi (he ▸ hj')
      rw [← slotTags_freeSlot hne c]
      exact hmem j hj'

theorem Exact.freed (h : Exact X [] c) :
    ∃ M, Exact X M (freed c) ∧ Unqueued M (freed c) ∧ ∀ i, slotTags c i ⊆ M := by
  have htold : ledger (Recovery.told c) = ledger c := by
    unfold Recovery.told
    exact ledger_raiseMedia _
  obtain ⟨M, hM, hunqueued, -, hmem⟩ := Exact.eachFreed nodup_allSlots (h.same htold) nofun
  unfold Recovery.freed
  refine ⟨M, hM, hunqueued, fun i => ?_⟩
  have htags : slotTags (Recovery.told c) i = slotTags c i := by
    unfold slotTags
    rw [htold, show (Recovery.told c).isOpen = c.isOpen from congrArg Ledger.isOpen htold]
  rw [← htags]
  exact hmem i (Grants.mem_allSlots i)

theorem mem_owners {x : SlotRec × Option Tag} (hx : x ∈ owners c) :
    ∃ i, c.slot i = some x.1 ∧ x.2 = c.waitingAbort x.1 := by
  unfold owners at hx
  obtain ⟨r, hr, rfl⟩ := List.mem_map.1 hx
  obtain ⟨i, -, hi⟩ := List.mem_filterMap.1 hr
  exact ⟨i, hi, rfl⟩

/-- The end of the slots of a link recovery, with its answers, and what follows (R133). -/
theorem Exact.concluded (h : Exact X [] c) : Exact X [] (concluded c) := by
  obtain ⟨M, hfreed, hunqueued, hmem⟩ := Exact.freed h
  have hstart : Exact X M (recovered c) ∧ Unqueued M (recovered c) ∧ Onward (Recovery.freed c) (recovered c) := by
    refine ⟨?_, recovered_keeps (unqueued_settling M) hunqueued,
      recovered_keeps (Onward.running (Recovery.freed c)).toKeptSettling (Onward.refl _)⟩
    unfold recovered
    exact hfreed.writerRecovers
  have hopen {d : Chip} (hd : Onward (Recovery.freed c) d) {p : Port} (hp : d.isOpen p = true) : c.isOpen p = true := by
    obtain ⟨hsession, -⟩ := freed_ports c p
    unfold Chip.isOpen at hp ⊢
    rw [← hsession]
    exact decide_eq_true ((hd.opened p).1 (of_decide_eq_true hp))
  have hanswered : Exact X M (ownerAnswers c (recovered c)) ∧ Unqueued M (ownerAnswers c (recovered c)) ∧
      Onward (Recovery.freed c) (ownerAnswers c (recovered c)) := by
    unfold ownerAnswers
    refine each_keeps_mem (P := fun d => Exact X M d ∧ Unqueued M d ∧ Onward (Recovery.freed c) d)
      (fun x hx d hd => ?_) hstart
    obtain ⟨hexact, hleft, honward⟩ := hd
    obtain ⟨i, hi, habort⟩ := mem_owners hx
    refine ⟨hexact.answerOwner (fun p u hh ho hp => ?_) _ _ _, (unqueued_settling M).answerOwner _ _ _ _ _ hleft,
      honward.trans (Silent.answerOwner _ _ _ _ _ d).onward⟩
    obtain ⟨hu, ha⟩ := mem_slotTags hi hh ho (hopen honward hp)
    exact ⟨hmem i hu, fun v hv => hmem i (ha v (habort ▸ hv))⟩
  obtain ⟨hexact, hleft, -⟩ := hanswered
  unfold Recovery.concluded
  exact Exact.conclude (hexact.unqueued hleft)

theorem Exact.startRecovery (h : Exact [] [] c) : Exact [] [] (startRecovery c) := by
  rw [startRecovery_eq]
  have hended := h.concluded
  split
  · exact hended.finishReset
  · exact hended.beginBringUp

end

end Sys2Proof.Ledgers
end

section
/-! SUPPORT. The ledger through intake, data requests, ABORT, the transfer timeout and the end of a delivery (R59, R65, R66,
R71, R80, R103, R105, R106, R109, R110). -/

namespace Sys2Proof.Ledgers

open Sys2Proof.Machine Sys2Proof.Safety Sys2Proof.Keeping Sys2Proof.DataPath Sys2Proof.SlotOps Sys2Proof.Grants
  Sys2Proof.Aftermath Sys2Proof.Pages

section
variable {X : List Port} {L : List (Port × Tag)} {c d : Chip} {p : Port} {t u : Tag} {i : SlotNo}

/-! ### Intake (R59, R60) -/

/-- A request is taken at an OPEN port under a free tag. -/
theorem Exact.intake (h : Exact X L c) {r : Request} (form : Header → Bool) {take : Header → Chip → Chip}
    (ht : ∀ x, c.isOpen p = true → c.record p r.tag = none → Exact X L (take x c)) :
    Exact X L (Machine.intake p r form take c) := by
  unfold Machine.intake
  dsimp only
  split
  · exact h
  split
  · exact h.same (ledger_sendPort ..)
  rename_i hopen
  split
  · exact h.same (ledger_sendPort ..)
  rename_i hfree
  split
  · split
    · exact ht _ (decide_eq_true (not_not.1 hopen)) (Option.not_isSome_iff_eq_none.1 hfree)
    · exact h.same (ledger_sendPort ..)
  · exact h.same (ledger_sendPort ..)

/-! ### Admission (R71, R80) -/

theorem ledger_enqueued {x : DataRec} (hs : x.stage = .admitted) :
    ledger (enqueued p t x c) = (ledger c).enqueue p t x.window := by
  have hview (q : Port) (v : Tag) :
      view ((enqueued p t x c).record q v) = ((ledger c).enqueue p t x.window).view q v := by
    change view ((setRecord p t (some (.data x)) c).record q v) =
      if q = p ∧ v = t then View.queued x.window else view (c.record q v)
    rw [setRecord_record]
    split
    · change stageView x.window x.stage = _
      rw [hs]
      rfl
    · rfl
  have hopen : (enqueued p t x c).isOpen = c.isOpen := congrArg Ledger.isOpen (ledger_setRecord c p t (some (.data x)))
  have hqueue (q : Port) : (enqueued p t x c).arb.queues.get q = ((ledger c).enqueue p t x.window).queue q := by
    change (c.arb.queues.modify p (· ++ [t])).get q = if q = p then c.arb.queues.get p ++ [t] else c.arb.queues.get q
    rw [Laws.PerPort.get_modify]
    split
    · rename_i hq
      rw [hq]
    · rfl
  have hqueued (w : WindowNo) :
      ((enqueued p t x c).map.usage.get w).queued = ((ledger c).enqueue p t x.window).queued w := by
    change ((c.map.usage.set x.window { c.map.usage.get x.window with
        queued := (c.map.usage.get x.window).queued + 1 }).get w).queued =
      if w = x.window then (c.map.usage.get x.window).queued + 1 else (c.map.usage.get w).queued
    rw [Laws.Table.get_set]
    split <;> rfl
  unfold ledger
  simp only [hview, hopen, hqueue, hqueued]
  rfl

theorem Exact.enqueue (h : Exact X L c) (hfree : c.record p t = none) (hopen : c.isOpen p = true) (hL : (p, t) ∉ L)
    {x : DataRec} (hs : x.stage = .admitted) : Exact X L (Machine.enqueue p t x c) := by
  have hin : Exact X L (enqueued p t x c) := by
    rw [Exact, ledger_enqueued hs]
    exact Fits.enqueue h (view_free.2 hfree) hopen hL
  exact hin.arbitrate

theorem Exact.refused (h : Exact X L c) (k : ReqKind) (w : Option WindowNo) (o : Outcome) (b : Option Nat) :
    Exact X L (logRefusal p t k w o b c) := h

theorem Exact.reply (h : Exact X L c) (o : Outcome) (w : List Word) : Exact X L (Machine.reply p t o w c) :=
  h.same (ledger_sendPort ..)

theorem Exact.admission (h : Exact [] [] c) (hfree : c.record p t = none) (hopen : c.isOpen p = true) (k : DataKind)
    (x : Header) : Exact [] [] (admission k p t x c) := by
  unfold Machine.admission
  split
  · exact h.reply _ _
  split
  · exact h.reply _ _
  split
  · exact h.reply _ _
  split
  · exact h.reply _ _
  · exact h.reply _ _
  · split
    · exact (h.refused (p := p) (t := t) _ _ _ _).reply _ _
    · exact h.enqueue hfree hopen nofun rfl

theorem Exact.dataRequest (h : Exact [] [] c) (k : DataKind) (p : Port) (r : Request) : Exact [] [] (dataRequest k p r c) :=
  h.intake _ fun x hopen hfree => h.admission hfree hopen k x

/-! ### DATA frames (R65, R105) -/

theorem Ledger.set_self {l : Ledger} {x : View} (h : l.view p u = x) : l.set p u x = l := by
  have hview : (l.set p u x).view = l.view := by
    funext q v
    change (if q = p ∧ v = u then x else l.view q v) = l.view q v
    split
    · rename_i hqv
      obtain ⟨rfl, rfl⟩ := hqv
      exact h.symm
    · rfl
  change { l with view := (l.set p u x).view } = l
  rw [hview]

/-- A stage that says the same of queues and slots. -/
theorem Exact.setStage_like (h : Exact X L c) {x : DataRec} (hx : c.dataRecord p t = some x) {s : Stage}
    (hs : stageView x.window s = stageView x.window x.stage) : Exact X L (setStage p t s c) := by
  refine h.same ?_
  rw [ledger_setStage c hx, hs]
  exact Ledger.set_self (view_record hx)

theorem Exact.setSlot_owned (h : Exact X L c) {r r' : SlotRec} (hr : c.slot i = some r) (hh : r'.holder = r.holder)
    (ho : r'.owner = r.owner) : Exact X L (setSlot i (some r') c) := by
  refine h.same (ledger_setSlot _ ?_)
  rw [hr]
  change slotOwner r' = slotOwner r
  unfold slotOwner
  rw [hh, ho]

theorem Exact.issuePort (h : Exact X L c) {x : DataRec} (hx : c.dataRecord p t = some x)
    (hs : stageView x.window x.stage = .onSlot i none) {r : SlotRec} (hr : c.slot i = some r) :
    Exact X L (issuePort p t i r c) := by
  have hsent : Exact X L (issueSlot i r c.map.active.params.response c) :=
    (h.setSlot_owned (r' := { r with phase := .issued c.map.active.params.response }) hr rfl rfl).sendMedia _
  have hstaged : Exact X L (setStage p t (.issued i) (issueSlot i r c.map.active.params.response c)) :=
    hsent.setStage_like (x := x) (by rw [← hx]; exact dataRecord_ports (Laws.issueSlot_ports ..) ..) hs.symm
  unfold Machine.issuePort
  dsimp only
  split
  · unfold sendWriteData
    exact each_keeps (P := Exact X L) (fun y _ hd => hd.sendMedia _) _ hstaged
  · exact hstaged

theorem Exact.takeBlock (h : Exact X L c) (p : Port) (t : Tag) (n : Nat) (b : Block) : Exact X L (takeBlock p t n b c) := by
  unfold Machine.takeBlock
  split
  · rename_i x hx
    split
    · rename_i m blocks timer _ hs
      have hview : stageView x.window x.stage = .onSlot m none := by rw [hs]; rfl
      split
      · rename_i r hr
        split
        · have hrest {e : Chip} (he : e = c ∨ ∃ page, e = fillPage page b c) :
              Exact X L e ∧ e.dataRecord p t = some x ∧ e.slot m = some r := by
            rcases he with rfl | ⟨page, rfl⟩
            · exact ⟨h, hx, hr⟩
            · exact ⟨h, hx, hr⟩
          obtain ⟨hfill, hrecord, hslot⟩ :=
            hrest (e := match r.pages[n]? with | some page => fillPage page b c | none => c) (by
              split
              · exact .inr ⟨_, rfl⟩
              · exact .inl rfl)
          dsimp only
          split
          · exact hfill.issuePort hrecord hview hslot
          · exact hfill.setStage_like hrecord hview.symm
        · exact h
      · exact h
    · exact h
  · exact h

theorem Exact.takeData (h : Exact X L c) (p : Port) (x : DataFrame) : Exact X L (takeData p x c) := by
  unfold Machine.takeData
  split
  · exact h
  · split
    · exact h
    · exact h.same (ledger_sendPort ..)
  · split
    · exact h.takeBlock _ _ _ _
    · exact h.same (ledger_sendPort ..)

/-! ### ABORT (R109, R110) -/

/-- A record whose slot has no owner is named nowhere. -/
theorem Exact.loose_ownerless (h : Exact X L c) (hslot : ((ledger c).view p t).slot = some i)
    (howner : (ledger c).owner i = none) : Loose X (ledger c) p t := by
  refine ⟨h.notQueued fun w hw => ?_, fun j hj => ?_, h.notAwaited fun hv => ?_⟩
  · rw [hw] at hslot
    cases hslot
  · obtain rfl : i = j := Option.some.inj (hslot.symm.trans (h.owned j p t hj))
    rw [howner] at hj
    cases hj
  · rw [hv] at hslot
    cases hslot

/-- The record of a slot that has returned to FREE is named nowhere. -/
theorem Exact.loose_freed (h : Exact X L c) (hslot : ((ledger c).view p t).slot = some i) :
    Loose X (ledger (Machine.freeSlot i c)) p t := by
  have hfreed := h.freeSlot i
  have howner : (ledger (Machine.freeSlot i c)).owner i = none := by
    rw [ledger_freeSlot]
    exact if_pos rfl
  have hview : (ledger (Machine.freeSlot i c)).view p t = .free ∨
      (ledger (Machine.freeSlot i c)).view p t = (ledger c).view p t := by
    rw [ledger_freeSlot]
    dsimp only
    split
    · exact .inl rfl
    · exact .inr rfl
  rcases hview with hfree | hsame
  · exact hfreed.loose_of_free hfree
  · exact hfreed.loose_ownerless (hsame ▸ hslot) howner

/-- A record handed to its owner: its answer is due. -/
theorem Exact.handed (h : Exact [] [] c) (hfree : c.record p t = none) (k : ReqKind) (ws : List Word) (v : Option Privilege) :
    Exact [] [(p, t)] (setRecord p t (some (.handed k ws v)) c) ∧
      (ledger (setRecord p t (some (.handed k ws v)) c)).view p t = .handed := by
  have hset : ledger (setRecord p t (some (.handed k ws v)) c) = (ledger c).set p t .handed := ledger_setRecord ..
  rw [Exact, hset]
  refine ⟨(h.add (h.loose_of_free (view_free.2 hfree))).set (h.loose_of_free (view_free.2 hfree)) nofun, ?_⟩
  exact if_pos ⟨rfl, rfl⟩

theorem abandonSlot_ledger {a : AbandonCause} (i : SlotNo) (c : Chip) : ledger (abandonSlot i a c) = ledger c := by
  unfold abandonSlot
  rw [ledger_sendMedia]
  refine ledger_setSlot _ ?_
  cases c.slot i <;> rfl

theorem unqueued_of_handed {a : Tag} (hv : (ledger c).view p a = .handed) : Unqueued [(p, a)] c := fun x hx w => by
  rw [List.mem_singleton.1 hx]
  change (ledger c).view p a ≠ _
  rw [hv]
  exact nofun

theorem Exact.abortTarget {a : Tag} (h : Exact [] [(p, a)] c) (hv : (ledger c).view p a = .handed)
    (hopen : c.isOpen p = true) (t : Tag) : Exact [] [] (abortTarget p a t c) := by
  have hone (o : Outcome) : Exact [] [] (Machine.respond p a o [] c) := h.answered hopen o []
  have hsession {e : Chip} (o : Outcome) (he : e.isOpen p = true) : (Machine.respond p t o [] e).isOpen p = true := by
    unfold Chip.isOpen at he ⊢
    rwa [HoldProofs.respond_session]
  unfold Machine.abortTarget
  dsimp only
  rcases hx : c.dataRecord p t with _ | x
  · exact hone _
  have hview : (ledger c).view p t = stageView x.window x.stage := view_record hx
  simp only [Option.map_some]
  cases hs : x.stage with
  | admitted =>
    have hqueued : (ledger c).view p t = .queued x.window := by rw [hview, hs]; rfl
    have hm : t ∈ c.arb.queues.get p := (h.all p t x.window hqueued).resolve_right fun hm => by
      obtain rfl : t = a := (Prod.mk.inj (List.mem_singleton.1 hm)).2
      rw [hv] at hqueued
      cases hqueued
    have hout : (Machine.dequeue p t c).isOpen p = true := by
      unfold Chip.isOpen at hopen ⊢
      rwa [Laws.dequeue_ports]
    exact Exact.conclude (((h.dequeue hm).answered hout _ _).answered (hsession _ hout) _ _)
  | granted n got timer =>
    have hslot : ((ledger c).view p t).slot = some n := by rw [hview, hs]; rfl
    have hout : (Machine.freeSlot n c).isOpen p = true := by rwa [freeSlot_isOpen]
    have hfirst := (h.freeSlot n).respond (fun _ => h.loose_freed hslot) .aborted []
    exact Exact.conclude (hfirst.answered (hsession _ hout) _ _)
  | issued n =>
    have hslot : (ledger c).view p t = .onSlot n none := by rw [hview, hs]; rfl
    have hexact : Exact [] [] c := h.unqueued (unqueued_of_handed hv)
    have hrecord : (abandonSlot n .abort c).dataRecord p t = some x := by
      rw [← hx]
      exact dataRecord_ports (Laws.abandonSlot_ports ..) ..
    change Exact [] [] (setStage p t (.abandoning n a) (abandonSlot n .abort c))
    rw [Exact, ledger_setStage _ hrecord, abandonSlot_ledger]
    exact Fits.abandon hexact (h.loose (p, a) List.mem_cons_self) hv nofun hslot
  | abandoning n b => exact hone _
  | delivering pages => exact hone _

theorem Exact.takeAbort (h : Exact [] [] c) (hopen : c.isOpen p = true) (hfree : c.record p t = none) (x : Header) :
    Exact [] [] (takeAbort p t x c) := by
  obtain ⟨hset, hv⟩ := h.handed hfree .abort (items x.list) none
  have hopen' : (setRecord p t (some (.handed .abort (items x.list) none)) c).isOpen p = true := by
    rw [show (setRecord p t _ c).isOpen = c.isOpen from congrArg Ledger.isOpen (ledger_setRecord c p t _)]
    exact hopen
  unfold Machine.takeAbort
  dsimp only
  split
  · exact hset.abortTarget hv hopen' _
  · exact hset.answered hopen' _ _

/-! ### The transfer timeout and the end of a delivery (R66, R103, R106) -/

theorem Exact.transferExpiry (h : Exact X L c) (p : Port) (t : Tag) : Exact X L (transferExpiry p t c) := by
  unfold Machine.transferExpiry
  split
  · rename_i n got timer hstage
    obtain ⟨x, hx, hs⟩ := Option.map_eq_some_iff.1 hstage
    have hslot : ((ledger c).view p t).slot = some n := by
      rw [show (ledger c).view p t = _ from view_record hx, hs]
      rfl
    exact Exact.conclude ((h.freeSlot n).respond (fun _ => h.loose_freed hslot) _ _)
  · exact h

theorem Exact.deliveryDone (h : Exact [] L c) (p : Port) (t : Tag) : Exact [] L (deliveryDone p t c) := by
  unfold Machine.deliveryDone
  split
  · rename_i pages hstage
    obtain ⟨x, hx, hs⟩ := Option.map_eq_some_iff.1 hstage
    split
    · have hview : (ledger c).view p t = .leaving := by
        rw [show (ledger c).view p t = _ from view_record hx, hs]
        rfl
      have hloose : Loose [] (ledger c) p t :=
        ⟨h.notQueued (by simp [hview]), h.notOwner (by rw [hview]; rfl), h.notAwaited (by simp [hview])⟩
      have hsent : ledger (returnPages pages (emitData p t pages pages.length c)) = ledger c := by
        rw [Laws.emitData_all]
        rfl
      have hout : Exact [] L (returnPages pages (emitData p t pages pages.length c)) := h.same hsent
      exact (hout.respond (fun _ => by rw [hsent]; exact hloose) _ _).arbitrate
    · exact h
  · exact h

end

end Sys2Proof.Ledgers
end

section
/-! SUPPORT. The ledger through the management requests (R27 to R36, R140, R148, R153, R181 to R196). -/

namespace Sys2Proof.Ledgers

open Sys2Proof.Machine Sys2Proof.Safety Sys2Proof.Keeping Sys2Proof.DataPath Sys2Proof.SlotOps Sys2Proof.Grants
  Sys2Proof.Aftermath Sys2Proof.Pages Sys2Proof.HoldProofs

/-- Another block takes over one more answer: that of a request that its owner has taken. -/
theorem Fits.keeps {X : List Port} {L : List (Port × Tag)} {l : Ledger} {p : Port} {u : Tag} (h : Fits X L l)
    (hL : (p, u) ∉ L) (hl : Loose X l p u) (hv : l.view p u = .handed) {A : List Ask} {C : Option (Option Port × Option Tag)}
    {Q : Option (Option Port)} (hids : A.Pairwise fun a b => a.id < b.id)
    (hmore : ∀ q v, A.countP (Ask.isDue q v) + (if C = some (some q, some v) then 1 else 0) ≤
      l.asks.countP (Ask.isDue q v) + (if l.commit = some (some q, some v) then 1 else 0) +
        if q = p ∧ v = u then 1 else 0)
    (hcommitted : ∀ q t, C = some (q, t) → Q = some q) : Fits X L { l with asks := A, commit := C, asker := Q } := by
  refine h.step (A := [(p, u)]) (fun _ _ => .refl _) rfl rfl rfl (fun _ => .inl rfl) hids (fun q v => ?_) (fun x hx => ?_)
    hcommitted
  · have hslots (i : SlotNo) : ({ l with asks := A, commit := C, asker := Q } : Ledger).waiting q i = l.waiting q i := rfl
    have hone := hmore q v
    unfold Ledger.awaits
    simp only [hslots]
    by_cases hqv : q = p ∧ v = u
    · rw [if_pos hqv] at hone
      exact .inr ⟨by rw [hqv.1, hqv.2]; exact List.mem_cons_self, by omega⟩
    · rw [if_neg hqv] at hone
      exact .inl (by omega)
  · obtain rfl := List.mem_singleton.1 hx
    exact ⟨hL, hl, hv⟩

section
variable {X : List Port} {L : List (Port × Tag)} {c d : Chip} {p : Port} {t u : Tag} {a : Asked}

/-! ### A request that its owner has taken (R58, R181) -/

/-- The queues are exact, but for the request `a`, which is to be answered. -/
structure Asks (a : Asked) (c : Chip) : Prop where
  exact : Exact [] [(a.port, a.tag)] c
  handed : (ledger c).view a.port a.tag = .handed

namespace Asks

/-- The request may stay without its answer. -/
theorem kept (h : Asks a c) : Exact [] [] c := h.exact.unqueued (unqueued_of_handed h.handed)

theorem same (h : Asks a c) (hd : ledger d = ledger c) : Asks a d := ⟨h.exact.same hd, by rw [hd]; exact h.handed⟩

theorem answer (h : Asks a c) (o : Outcome) (w : List Word) : Exact [] [] (a.answer o w c) :=
  (h.exact.answer (fun _ => List.mem_cons_self) o w).unqueued
    ((unqueued_settling _).respond _ _ _ _ (unqueued_of_handed h.handed))

theorem notPrivileged (h : Asks a c) (w : Option WindowNo) : Exact [] [] (a.notPrivileged w c) :=
  Asks.answer (c := logRefusal a.port a.tag a.kind w .notPrivileged none c) (h.same rfl) _ _

theorem adminOnly {take : Asked → Chip → Chip} (h : Asks a c) (ht : Exact [] [] (take a c)) :
    Exact [] [] (adminOnly take a c) := by
  unfold Machine.adminOnly
  split
  · exact ht
  · exact h.notPrivileged _

theorem emptyList {take : Asked → Chip → Chip} (h : Asks a c) (ht : Exact [] [] (take a c)) :
    Exact [] [] (emptyList take a c) := by
  unfold Machine.emptyList
  split
  · exact ht
  · exact h.answer _ _

theorem unlessFault {take : Asked → Chip → Chip} (h : Asks a c) (ht : Exact [] [] (take a c)) :
    Exact [] [] (unlessFault take a c) := by
  unfold Machine.unlessFault
  split
  · exact h.answer _ _
  · exact ht

end Asks

theorem Exact.toControl (h : Exact [] [] c) (kind : ReqKind) (p : Port) (r : Request) {take : Asked → Chip → Chip}
    (ht : ∀ a d, Asks a d → d.hold = c.hold → Exact [] [] (take a d)) : Exact [] [] (toControl kind p r take c) :=
  h.intake _ fun _ _ hfree =>
    let ⟨hset, hview⟩ := h.handed hfree kind _ _
    ht _ _ ⟨hset, hview⟩ (Laws.setRecord_hold ..)

/-! ### Staging (R140 to R148) -/

namespace Asks

/-- Staging that is not COMMITTING may change. -/
theorem setStaging (h : Asks a c) (hidle : stagingAsker c.map.staging = none) {x : Staging} (hx : stagingAsker x = none) :
    Asks a (setStaging x c) := by
  refine h.same ?_
  change { ledger c with asker := stagingAsker x } = ledger c
  rw [hx, ← hidle]
  rfl

theorem edited (h : Asks a c) (hidle : stagingAsker c.map.staging = none) (cfg : Configuration) :
    Exact [] [] (edited cfg a c) :=
  (h.setStaging hidle (x := .opened a.port cfg) rfl).answer _ _

theorem editing {α : Type} (parse : List Word → Option α) {take : α → Configuration → Asked → Chip → Chip}
    (h : Asks a c) (ht : stagingAsker c.map.staging = none → ∀ x cfg, Exact [] [] (take x cfg a c)) :
    Exact [] [] (editing parse take a c) := by
  refine h.unlessFault ?_
  split
  · exact h.answer _ _
  · rename_i cfg hcfg
    split
    · exact h.answer _ _
    · refine ht ?_ _ _
      cases hs : c.map.staging with
      | empty | opened => rfl
      | committing q x =>
        rw [hs] at hcfg
        simp only [Staging.editable] at hcfg
        split at hcfg
        · exact absurd hcfg nofun
        · exact absurd hcfg nofun

theorem stageBegin (h : Asks a c) : Exact [] [] (takeStageBegin a c) := by
  refine h.unlessFault ?_
  have hboth (mayBegin : Bool) (hmay : mayBegin = true → stagingAsker c.map.staging = none) :
      Exact [] [] (if !mayBegin then a.answer .stagingBusy [] c
        else if a.list ≠ [] then a.answer .badRequest [] c else Machine.edited c.map.active a c) := by
    split
    · exact h.answer _ _
    rename_i hm
    split
    · exact h.answer _ _
    · exact h.edited (hmay (by simpa using hm)) _
  refine hboth _ fun hm => ?_
  cases hs : c.map.staging with
  | empty | opened => rfl
  | committing q x =>
    rw [hs] at hm
    cases hm

theorem stageRead (h : Asks a c) : Exact [] [] (takeStageRead a c) := by
  refine h.unlessFault ?_
  split
  · exact h.answer _ _
  · split
    · exact h.answer _ _
    · exact h.answer _ _

theorem stageAbandon (h : Asks a c) (hidle : stagingAsker c.map.staging = none) :
    Exact [] [] (a.answer .ok [] (Machine.setStaging .empty c)) := (h.setStaging hidle (x := .empty) rfl).answer _ _

/-- A COMMIT keeps its answer until the commit ends (R153). -/
theorem commit (h : Asks a c) (hidle : stagingAsker c.map.staging = none) (persist : Bool) (cfg : Configuration) :
    Exact [] [] (takeCommit persist cfg a c) := by
  have hnone : (ledger c).commit = none := by
    rcases hc : (ledger c).commit with _ | ⟨q, v⟩
    · rfl
    · have hasker : (ledger c).asker = some q := h.exact.committed q v hc
      exact absurd (hidle.symm.trans hasker) nofun
  unfold Machine.takeCommit
  split
  · exact h.answer _ _
  · refine Exact.conclude_id (Fits.keeps h.kept nofun (h.exact.loose _ List.mem_cons_self) h.handed
      (A := (ledger c).asks) h.exact.ids
      (C := some (some a.port, some a.tag)) (Q := some (some a.port)) (fun q v => ?_) fun q v hqv => ?_)
    · rw [hnone]
      by_cases hqv : q = a.port ∧ v = a.tag
      · simp [hqv]
      · have hne : some (some a.port, some a.tag) ≠ some (some q, some v) := fun he => hqv (by
          cases he
          exact ⟨rfl, rfl⟩)
        simp [hqv, hne]
    · cases hqv
      rfl

end Asks

/-- The drain limit runs out (R151). -/
theorem Exact.drainExpiry (h : Exact X L c) : Exact X L (drainExpiry c) := by
  unfold Machine.drainExpiry
  split
  · rename_i info left hc
    exact h.commitEnded (commit_draining hc) _ _ _
  all_goals exact h

/-! ### Holds (R27 to R36, R39) -/

theorem Exact.expireHold (h : Exact X L c) (id : Nat) : Exact X L (expireHold id c) := by
  unfold Machine.expireHold
  split
  · split
    · exact h.removeHold _
    all_goals exact h
  · exact h

theorem Asks.releaseHold (h : Asks a c) {y : Hold} (hy : y ∈ c.hold.table) : Exact [] [] (releaseHold a y c) := by
  have hremoved : Unqueued [(a.port, a.tag)] (Machine.removeHold y c) :=
    (unqueued_settling _).removeHold y (unqueued_of_handed h.handed)
  unfold Machine.releaseHold
  dsimp only
  split
  · have hanswered := h.exact.answerRemoved hy .released [item y.id]
    have hunqueued := (unqueued_settling _).answerPlacement y .released [item y.id] hremoved
    exact (hanswered.answer (fun _ => List.mem_cons_self) _ _).unqueued ((unqueued_settling _).respond _ _ _ _ hunqueued)
  all_goals
    exact ((h.exact.removeHold y).answer (fun _ => List.mem_cons_self) _ _).unqueued
      ((unqueued_settling _).respond _ _ _ _ hremoved)

theorem Asks.holdRelease (h : Asks a c) : Exact [] [] (takeHoldRelease a c) := by
  unfold takeHoldRelease
  split
  · exact h.answer _ _
  split
  · exact h.answer _ _
  rename_i y hy
  split
  · exact h.answer _ _
  split
  · exact h.releaseHold (MediaFrames.findHold_some hy).1
  · exact h.notPrivileged _

/-- A new hold keeps the answer of its placement (R33). -/
theorem Asks.placed (h : Asks a c) {y : Hold} (hfresh : ∀ x ∈ c.hold.table, x.id ≠ y.id) (ho : y.owner = a.port)
    (ht : y.answerTo = some a.tag) (n : Nat) :
    Exact [] [] (c.modHold fun u => { table := insertHold y u.table, nextId := n }) := by
  refine Fits.keeps h.kept nofun (h.exact.loose _ List.mem_cons_self) h.handed
    (p := a.port) (u := a.tag) (A := (insertHold y c.hold.table).map Ask.of) (C := (ledger c).commit) (Q := (ledger c).asker)
    (List.pairwise_map.2 (Laws.insertHold_ascending h.exact.ascending hfresh)) (fun q v => ?_) h.exact.committed
  have hdue : ((Ask.of y).isDue q v = true) ↔ q = a.port ∧ v = a.tag := by
    change (decide (y.owner = q) && decide (y.answerTo = some v)) = true ↔ _
    rw [ho, ht, Bool.and_eq_true, decide_eq_true_iff, decide_eq_true_iff, Option.some.injEq]
    exact and_congr eq_comm eq_comm
  have hcount : ((insertHold y c.hold.table).map Ask.of).countP (Ask.isDue q v) =
      (ledger c).asks.countP (Ask.isDue q v) + if q = a.port ∧ v = a.tag then 1 else 0 := by
    change _ = (c.hold.table.map Ask.of).countP _ + _
    rw [List.countP_map, List.countP_map, insertHold_countP]
    exact congrArg _ (if_congr hdue rfl rfl)
  rw [hcount]
  omega

/-- Queued requests leave their queues, and are still to be answered (R89). -/
theorem Exact.dequeued (h : Exact X L c) {l : List (Port × Tag)} (hl : l.Nodup)
    (hm : ∀ x ∈ l, x.2 ∈ c.arb.queues.get x.1) :
    Exact X (l ++ L) (each (fun x => Machine.dequeue x.1 x.2) l c) := by
  induction l generalizing L c with
  | nil => exact h
  | cons x l ih =>
    obtain ⟨hx, hl⟩ := List.nodup_cons.1 hl
    have hrest : ∀ y ∈ l, y.2 ∈ (Machine.dequeue x.1 x.2 c).arb.queues.get y.1 := fun y hy => by
      have hin := hm y (List.mem_cons_of_mem _ hy)
      rw [Laws.dequeue_queues, Laws.PerPort.get_set]
      split
      · rename_i hp
        rw [hp] at hin
        exact (List.mem_erase_of_ne fun ht => hx ((Prod.ext hp ht : y = x) ▸ hy)).2 hin
      · exact hin
    refine (ih (h.dequeue (hm x List.mem_cons_self)) hl hrest).drop (fun y hy => ?_) fun p u w hy _ => ?_
    · simpa [or_left_comm] using hy
    · simpa [or_left_comm] using hy

/-- Requests that are to be answered are answered. -/
theorem Exact.allAnswered {l : List (Port × Tag)} (h : Exact X (l ++ L) c) (hopen : ∀ x ∈ l, c.isOpen x.1 = true)
    (o : Outcome) (w : List Word) : Exact X L (each (fun x => Machine.respond x.1 x.2 o w) l c) := by
  induction l generalizing c with
  | nil => exact h
  | cons x l ih =>
    refine ih (Exact.answered h (hopen x List.mem_cons_self) o w) fun y hy => ?_
    have hy' := hopen y (List.mem_cons_of_mem _ hy)
    unfold Chip.isOpen at hy' ⊢
    rwa [HoldProofs.respond_session]

theorem mem_queuedConflicts {y : Hold} {x : Port × Tag} (hx : x ∈ Port.all.flatMap (c.queuedConflicts y)) :
    x.2 ∈ c.arb.queues.get x.1 := by
  obtain ⟨q, -, hx⟩ := List.mem_flatMap.1 hx
  obtain ⟨t, ht, rfl⟩ := List.mem_map.1 hx
  exact List.mem_of_mem_filter ht

theorem queuedConflicts_nodup (h : Exact X L c) (y : Hold) : (Port.all.flatMap (c.queuedConflicts y)).Nodup := by
  refine List.nodup_flatMap.2 ⟨fun q _ => ?_, ?_⟩
  · exact ((h.nodup q).filter _).map fun t u he => (Prod.mk.inj he).2
  · refine List.Nodup.pairwise_of_forall_ne (by decide) fun q _ r _ hqr x hxq hxr => hqr ?_
    obtain ⟨t, -, rfl⟩ := List.mem_map.1 hxq
    obtain ⟨u, -, he⟩ := List.mem_map.1 hxr
    exact (Prod.mk.inj he).1.symm

/-- A hold is placed, and the queued requests that it blocks are answered (R30, R31). -/
theorem Asks.holdPlaced (h : Asks a c) {y : Hold} (hfresh : ∀ x ∈ c.hold.table, x.id ≠ y.id) (ho : y.owner = a.port)
    (ht : y.answerTo = some a.tag) (n : Nat) :
    Exact [] [] (Machine.conclude (each (fun x => Machine.respond x.1 x.2 .held []) (Port.all.flatMap (c.queuedConflicts y)))
      (each (fun x => Machine.dequeue x.1 x.2) (Port.all.flatMap (c.queuedConflicts y))
        (c.modHold fun u => { table := insertHold y u.table, nextId := n }))) := by
  have hout := (h.placed hfresh ho ht n).dequeued (queuedConflicts_nodup h.exact y) fun x hx => mem_queuedConflicts hx
  refine Exact.conclude (hout.allAnswered (fun x hx => ?_) _ _)
  have hports : (each (fun (x : Port × Tag) => Machine.dequeue x.1 x.2) (Port.all.flatMap (c.queuedConflicts y))
      (c.modHold fun u => { table := insertHold y u.table, nextId := n })).ports = c.ports :=
    Laws.each_proj (fun c => c.ports) _ (fun (x : Port × Tag) c => Laws.dequeue_ports x.1 x.2 c) _ _
  have hopen : c.isOpen x.1 = true := by
    by_contra hclosed
    have hempty : (ledger c).queue x.1 = [] := h.exact.closed x.1 nofun (Bool.not_eq_true _ ▸ hclosed)
    have hin : x.2 ∈ (ledger c).queue x.1 := mem_queuedConflicts hx
    rw [hempty] at hin
    cases hin
  unfold Chip.isOpen at hopen ⊢
  rwa [hports]

theorem Asks.createHold (h : Asks a c) (hlen : c.hold.table.length ≤ 48) (q : PlaceParams) (w : Window) :
    Exact [] [] (createHold a q w c) := by
  have hfresh := freeId_fresh c.hold.nextId c.hold.table (by omega)
  unfold Machine.createHold
  exact h.holdPlaced hfresh rfl rfl _

theorem Asks.holdPlace (h : Asks a c) (hlen : c.hold.table.length ≤ 48) : Exact [] [] (takeHoldPlace a c) := by
  unfold takeHoldPlace
  cases placeParams a.list with
  | none => exact h.answer _ _
  | some q =>
    dsimp only
    split
    · exact h.notPrivileged _
    split
    · exact h.answer _ _
    · exact h.answer _ _
    · split
      · exact h.answer _ _
      · exact h.createHold hlen q _

/-! ### RESET-BRIDGE (R179, R180) -/

theorem Exact.returnJob (h : Exact X L c) : Exact X L (returnJob c) := by
  unfold Machine.returnJob
  split
  · exact h
  all_goals exact h

theorem Asks.joinReset (h : Asks a c) : Exact [] [] (joinReset a c) := by
  unfold Machine.joinReset
  split
  · exact Asks.answer (c := c.takeFree) (h.same rfl) _ _
  · exact Exact.same h.kept rfl

theorem Exact.reachPorts (h : Exact [] [] c) (waiting : List Instr) (p : Port) : Exact [] [] (reachPorts waiting p c) := by
  have hfree : Exact [] [] c.takeFree := h
  unfold Machine.reachPorts
  dsimp only
  split
  · exact hfree.resetPorts _
  · exact (hfree.resetPorts _).resetPorts _

theorem Asks.resetBridge (h : Asks a c) (waiting : List Instr) : Exact [] [] (takeResetBridge waiting a c) := by
  have hbegun : Exact [] [] (if c.cfg.resetMark then Machine.joinReset a c else beginReset (a.answer .ok [] c)) := by
    split
    · exact h.joinReset
    · exact (h.answer .ok []).same rfl
  have hreturned := hbegun.returnJob
  unfold takeResetBridge
  dsimp only
  generalize Machine.returnJob (if c.cfg.resetMark then Machine.joinReset a c else beginReset (a.answer .ok [] c)) = d
    at hreturned
  split
  · exact hreturned.finishReset
  · exact hreturned.reachPorts _ _

end

end Sys2Proof.Ledgers
end

section
/-! SUPPORT. The ledger through the P-link reports, the M-link, its timers and a millisecond (R49, R50, R123 to R136, R175). -/

namespace Sys2Proof.Ledgers

open Sys2Proof.Machine Sys2Proof.Safety Sys2Proof.Keeping Sys2Proof.DataPath Sys2Proof.SlotOps Sys2Proof.Grants
  Sys2Proof.Aftermath Sys2Proof.Pages Sys2Proof.HoldProofs

section
variable {X : List Port} {L : List (Port × Tag)} {c d : Chip} {p : Port} {t u : Tag} {i : SlotNo}

/-! ### P-link reports and session frames (R49 to R52) -/

theorem Exact.setLink (h : Exact X L c) (p : Port) (l : LinkState) : Exact X L (setLink p l c) :=
  h.same (ledger_modPort c p rfl rfl)

theorem ledger_opened (p : Port) (c : Chip) :
    ledger (c.modPort p fun pc => { pc with session := .opened, delivered := c.map.epoch, flags := Flags.clear }) =
      { ledger c with isOpen := onPort (ledger c).isOpen p true } := by
  have hports := Laws.modPort_ports c p fun pc =>
    { pc with session := .opened, delivered := c.map.epoch, flags := Flags.clear }
  set d := c.modPort p fun pc => { pc with session := .opened, delivered := c.map.epoch, flags := Flags.clear } with hd
  have hopen : d.isOpen = onPort c.isOpen p true := funext fun q => by
    unfold Chip.isOpen onPort
    rw [hd, hports, Laws.PerPort.get_modify]
    split <;> rfl
  have hrecord (q : Port) (v : Tag) : d.record q v = c.record q v :=
    forall_ports (d := d) hports (R := fun a b => b.tags.get v = a.tags.get v) rfl (fun _ => rfl) q
  unfold ledger
  simp only [hopen, hrecord]
  rfl

theorem Exact.acceptOpen (h : Exact [] L c) (p : Port) : Exact [] L (acceptOpen p c) := by
  unfold Machine.acceptOpen
  refine Exact.same ?_ (ledger_sendPort ..)
  rw [Exact, ledger_opened]
  exact Fits.opening h p

theorem Exact.answerOpen (h : Exact [] L c) (p : Port) (revision : Option Byte) : Exact [] L (answerOpen p revision c) := by
  unfold Machine.answerOpen
  split
  · split
    · exact h.same (ledger_sendPort ..)
    split
    · exact h.same (ledger_sendPort ..)
    · exact h.acceptOpen p
  · exact h.same (ledger_sendPort ..)
  · exact h.same (ledger_sendPort ..)

theorem Exact.received (h : Exact X L c) (p : Port) {take : Chip → Chip} (ht : Exact X L (take c)) :
    Exact X L (received p take c) := by
  unfold Machine.received
  split
  · exact ht
  · exact h

theorem Exact.closeFrame (h : Exact [] [] c) (p : Port) :
    Exact [] [] (if c.isOpen p then Machine.closeSession .close p c else noSession p none c) := by
  split
  · exact h.closeSession _ _
  · exact h.same (ledger_sendPort ..)

/-! ### Link reports and bring-up frames of the M-link (R132, R134) -/

theorem Exact.setMlink (h : Exact X L c) (l : LinkState) : Exact X L (setMlink l c) := h.modMlink _ rfl

theorem Exact.mlinkUp (h : Exact X L c) : Exact X L (mlinkUp c) := by
  have hset := h.setMlink .up
  unfold Machine.mlinkUp
  dsimp only
  split
  · exact (hset.setBringUp _).sendLinkReset
  all_goals exact hset

theorem Exact.mlinkDown (h : Exact [] [] c) : Exact [] [] (mlinkDown c) := by
  have hset := h.setMlink .down
  unfold Machine.mlinkDown
  dsimp only
  split
  · exact hset.startRecovery
  · exact hset.setBringUp _
  · exact hset.setBringUp _
  · exact hset.bringUpAgain
  all_goals exact hset

theorem Exact.linkReadyTaken (h : Exact X L c) : Exact X L (linkReadyTaken c) := by
  unfold Machine.linkReadyTaken
  split
  · exact (h.setBringUp _).sendMedia _
  all_goals exact h

theorem Exact.identifyTaken (h : Exact [] [] c) (capacity : Word) (slots : Byte) :
    Exact [] [] (identifyTaken capacity slots c) := by
  unfold Machine.identifyTaken
  split
  · split
    · exact h.bringUpDone _ _
    · exact h.attemptFailed
  all_goals exact h

theorem Exact.attemptExpiry (h : Exact [] [] c) : Exact [] [] (attemptExpiry c) := by
  unfold Machine.attemptExpiry
  split
  · exact h.attemptFailed
  · exact h

theorem Exact.protocolError (h : Exact [] [] c) : Exact [] [] (protocolError c) := by
  unfold Machine.protocolError
  split
  · exact h.startRecovery
  · exact h

/-! ### Media data and completion (R122 to R125, R128) -/

theorem Exact.setArea (h : Exact X L c) (x : Copy) (b : Option Block) : Exact X L (setArea x b c) := by
  cases x <;> exact h

theorem Exact.placeBlock (h : Exact X L c) (r : SlotRec) (n : Nat) (b : Block) : Exact X L (placeBlock r n b c) := by
  unfold Machine.placeBlock
  split
  · split
    · exact h
    · exact h
  · split
    · exact h.setArea _ _
    · exact h

theorem Exact.mediaDataTaken (h : Exact [] [] c) (i : SlotNo) (n : Nat) (b : Block) :
    Exact [] [] (mediaDataTaken i n b c) := by
  unfold Machine.mediaDataTaken
  split
  · split
    · rename_i r hr
      split
      · exact h.protocolError
      split
      · exact h
      · exact (h.placeBlock r n b).setSlot_owned ((congrFun (KeptInEvent.placeBlock_slot r n b c) i).trans hr) rfl rfl
    · exact h.protocolError
  · exact h

theorem setStage_view (p : Port) (t : Tag) (pages : List PageNo) (c : Chip) (q : Port) (v : Tag) :
    (ledger (setStage p t (.delivering pages) c)).view q v = (ledger c).view q v ∨
      (ledger (setStage p t (.delivering pages) c)).view q v = .leaving := by
  rcases hx : c.dataRecord p t with _ | x
  · unfold setStage
    rw [hx]
    exact .inl rfl
  · rw [ledger_setStage c hx]
    change (if q = p ∧ v = t then View.leaving else (ledger c).view q v) = (ledger c).view q v ∨
      (if q = p ∧ v = t then View.leaving else (ledger c).view q v) = .leaving
    split
    · exact .inr rfl
    · exact .inl rfl

theorem setStage_isOpen (p : Port) (t : Tag) (s : Stage) (c : Chip) : (setStage p t s c).isOpen = c.isOpen := by
  rcases hx : c.dataRecord p t with _ | x
  · unfold setStage
    rw [hx]
  · exact congrArg Ledger.isOpen (ledger_setStage c hx s)

theorem Unqueued.delivering (h : Unqueued L c) (p : Port) (t : Tag) (pages : List PageNo) :
    Unqueued L (setStage p t (.delivering pages) c) := fun x hx w => by
  rcases setStage_view p t pages c x.1 x.2 with hsame | hleaving
  · rw [hsame]
    exact h x hx w
  · rw [hleaving]
    exact nofun

theorem Exact.delivering (h : Exact X L c) (hl : Loose X (ledger c) p t) (pages : List PageNo) :
    Exact X L (setStage p t (.delivering pages) c) := by
  rcases hx : c.dataRecord p t with _ | x
  · unfold setStage
    rw [hx]
    exact h
  · rw [Exact, ledger_setStage c hx]
    exact Fits.set h hl nofun

/-- A READ completed OK: its record leaves the slot, and an ABORT that waits is answered (R66, R123, R128). -/
theorem Exact.startDelivery (h : Exact X [] c) {r : SlotRec} (hr : c.slot i = some r) (hh : r.holder = .port p)
    (ho : r.owner = some t) : Exact X [] (startDelivery p t i r c) := by
  have hemptied := h.setSlot_owned (r' := { r with pages := [] }) hr rfl rfl
  have hledger : ledger (setSlot i (some { r with pages := [] }) c) = ledger c :=
    ledger_setSlot _ (by rw [hr]; rfl)
  unfold Machine.startDelivery
  dsimp only
  generalize setSlot i (some { r with pages := [] }) c = e at hemptied hledger
  have hslot : ((ledger e).view p t).slot = some i := by
    rw [hledger]
    exact h.owned i p t (owner_iff.2 ⟨r, hr, hh, ho⟩)
  have hfreed := hemptied.freedSlot i
  rw [List.append_nil] at hfreed
  have hstaged := hfreed.delivering (hemptied.loose_freed hslot) r.pages
  have hunqueued := (unqueued_slotTags hemptied i).delivering p t r.pages
  have hopen : (setStage p t (.delivering r.pages) (Machine.freeSlot i e)).isOpen p = c.isOpen p := by
    rw [setStage_isOpen, freeSlot_isOpen]
    exact congrFun (congrArg Ledger.isOpen hledger) p
  have htags : slotTags e i = slotTags c i := by
    unfold slotTags
    rw [hledger, show e.isOpen = c.isOpen from congrArg Ledger.isOpen hledger]
  have hanswered := hstaged.respondIf (p := p) (a := c.waitingAbort r) (fun v hv hp => by
    rw [htags]
    exact (mem_slotTags hr hh ho (hopen ▸ hp)).2 v hv) .tooLate
  exact Exact.conclude (hanswered.unqueued ((unqueued_settling _).answerAbort _ _ _ hunqueued))

theorem Exact.portComplete (h : Exact X [] c) {r : SlotRec} (hr : c.slot i = some r) (hh : r.holder = .port p)
    (status : MediaStatus) : Exact X [] (portComplete i status p r c) := by
  unfold Machine.portComplete
  split
  · exact (h.freeSlot i).conclude_id
  · rename_i t ho
    split
    · exact h.startDelivery hr hh ho
    · exact h.freedAndAnswered hr _ _ _

theorem Exact.judgeCopy (h : Exact X L c) (x : Copy) : Exact X L (judgeCopy x c) := h.setMark _ _

theorem Exact.configComplete (h : Exact [] [] c) (i : SlotNo) (status : MediaStatus) (r : SlotRec) :
    Exact [] [] (configComplete i status r c) := by
  have hfree := h.freeSlot i
  unfold Machine.configComplete
  dsimp only
  split
  · refine Exact.conclude_id (Exact.resumeReset ?_)
    split
    · exact hfree.writeSucceeded
    · exact hfree.writeFailed _
  split
  · split
    · refine Exact.nextStartStep ?_
      split
      · exact hfree.judgeCopy _
      · exact hfree.setMark _ _
    · exact hfree
  · exact hfree

theorem Exact.setWriter (h : Exact X L c) (w : Writer) : Exact X L (setWriter w c) := h

theorem Exact.endTimeout (h : Exact [] [] c) (i : SlotNo) (r : SlotRec) : Exact [] [] (endTimeout i r c) := by
  have hfree := h.freeSlot i
  unfold Machine.endTimeout
  dsimp only
  split
  · exact hfree.conclude_id
  · split
    · exact Exact.conclude_id (hfree.setWriter _).resumeReset
    split
    · exact hfree.nextStartStep
    · exact hfree

theorem Exact.countLate (h : Exact X L c) (i : SlotNo) (r : SlotRec) : Exact X L (countLate i r c) := by
  unfold Machine.countLate
  split
  · split
    · exact h
    · exact h.modMlink _ rfl
  · exact h

theorem Exact.completeTaken (h : Exact [] [] c) (i : SlotNo) (status : MediaStatus) : Exact [] [] (completeTaken i status c) := by
  have hcommand {r : SlotRec} (hr : c.slot i = some r) : Exact [] [] (commandComplete i status r c) := by
    unfold commandComplete
    split
    · rename_i p hh
      exact h.portComplete hr hh status
    · exact h.configComplete i status r
  unfold Machine.completeTaken
  split
  · split
    · rename_i r hr
      split
      · exact h.protocolError
      · exact hcommand hr
      · exact hcommand hr
      · exact (h.countLate i r).endTimeout i r
    · exact h.protocolError
  · exact h

theorem Exact.abandonAckTaken (h : Exact [] [] c) (i : SlotNo) : Exact [] [] (abandonAckTaken i c) := by
  unfold Machine.abandonAckTaken
  split
  · split
    · rename_i r hr
      split
      · exact h.protocolError
      · exact h.protocolError
      · exact h.freedAndAnswered hr _ _ _
      · exact h.endTimeout i r
    · exact h.protocolError
  · exact h

/-! ### Timers of the M-link (R126, R130) -/

theorem Exact.responseExpiry (h : Exact X L c) (i : SlotNo) : Exact X L (responseExpiry i c) := by
  unfold Machine.responseExpiry
  split
  · rename_i r hr
    split
    · have hout : Exact X L (abandonSlot i .timeout (Machine.disown i c)) := (h.disown i).same (abandonSlot_ledger i _)
      dsimp only
      split
      · rename_i p t hh ho
        refine hout.respond (fun _ => ?_) _ _
        rw [abandonSlot_ledger]
        refine (h.disown i).loose_ownerless (i := i) ?_ ?_
        · exact h.owned i p t (owner_iff.2 ⟨r, hr, hh, ho⟩)
        · rw [disown_owner, if_pos rfl]
      · exact hout
      · split
        · exact hout.writeFailed _
        · exact hout.readLost
    · exact h
    · exact h
  · exact h

theorem Exact.abandonExpiry (h : Exact [] [] c) (i : SlotNo) : Exact [] [] (abandonExpiry i c) := by
  unfold Machine.abandonExpiry
  split
  · split
    · split
      · exact h.startRecovery
      split
      · exact h.bringUpAgain
      · exact h
    · exact h
    · exact h
  · exact h

/-! ### One millisecond -/

theorem view_tick (x : Option Record) : view (x.map Record.tick) = view x := by
  rcases x with _ | (d | _)
  · rfl
  · obtain ⟨_, _, _, _, _, _, _, _, _, _, stage⟩ := d
    cases stage <;> rfl
  · rfl

theorem ledger_tickChip (c : Chip) : ledger (tickChip c) = ledger c := by
  refine ledger_congr (fun q v => ?_) (fun q => ?_) rfl (fun j => ?_) ?_ ?_ rfl fun _ => rfl
  · rw [PinAndTime.tickChip_record, view_tick]
  · cases q <;> rfl
  · rw [PinAndTime.tickChip_slot]
    cases c.slot j <;> rfl
  · change (c.hold.table.map fun x => { x with state := x.state.tick }).map Ask.of = c.hold.table.map Ask.of
    rw [List.map_map]
    rfl
  · change commitKey c.map.commit.tick = commitKey c.map.commit
    cases c.map.commit <;> rfl

end

end Sys2Proof.Ledgers
end

section
/-! SUPPORT. The ledger through every command; SETTLES O10. -/

namespace Sys2Proof.Ledgers

open Sys2Proof.Machine Sys2Proof.Safety Sys2Proof.Keeping Sys2Proof.DataPath Sys2Proof.SlotOps Sys2Proof.Grants
  Sys2Proof.Aftermath Sys2Proof.Pages Sys2Proof.HoldProofs Sys2Proof.Commands

variable {c : Chip}

/-- The action of every command keeps the queues exact. -/
theorem Exact.action (h : Exact [] [] c) (hlen : c.hold.table.length ≤ 48) (waiting : List Instr) (i : Instr) :
    Exact [] [] (action waiting i c) := by
  cases i
  case plinkLinkUp p => exact h.setLink p .up
  case plinkLinkDown p => exact (h.setLink p .down).closeSession .linkDown p
  case plinkCheckFail p =>
    exact h.received p (take := fun c => c.modPort p fun pc =>
      { pc with checkFails := saturatingSucc Config.saturate16 pc.checkFails }) (h.same (ledger_modPort c p rfl rfl))
  case openFrame p revision => exact h.received p (h.answerOpen p revision)
  case closeFrame p => exact h.received p (h.closeFrame p)
  case dataFrame p x => exact h.received p (h.takeData p x)
  case read p r => exact h.dataRequest .read p r
  case write p r => exact h.dataRequest .write p r
  case discard p r => exact h.dataRequest .discard p r
  case flush p r => exact h.dataRequest .flush p r
  case abort p r => exact h.intake _ fun x hopen hfree => h.takeAbort hopen hfree x
  case mapRead p r =>
    exact h.toControl _ p r fun a d hd _ => hd.emptyList ((hd.same (ledger_deliver d a.port d.map.epoch)).answer _ _)
  case holdList p r =>
    exact h.toControl _ p r fun a d hd _ => hd.emptyList ((hd.same (ledger_clearFlag d .holds a.port)).answer _ _)
  case statusRead p r =>
    exact h.toControl _ p r fun a d hd _ => hd.emptyList ((hd.same (ledger_clearFlag d .media a.port)).answer _ _)
  case logRead p r => exact h.toControl _ p r fun a d hd _ => hd.adminOnly (hd.emptyList (hd.answer _ _))
  case logClear p r =>
    exact h.toControl _ p r fun a d hd _ => hd.adminOnly (hd.emptyList
      (Asks.answer (c := d.modCtl fun f => { f with log := [], overflow := 0 }) (hd.same rfl) _ _))
  case resetBridge p r => exact h.toControl _ p r fun a d hd _ => hd.adminOnly (hd.emptyList (hd.resetBridge waiting))
  case holdPlace p r => exact h.toControl _ p r fun a d hd hhold => hd.holdPlace (by rw [hhold]; exact hlen)
  case holdRelease p r => exact h.toControl _ p r fun a d hd _ => hd.holdRelease
  case stageBegin p r => exact h.toControl _ p r fun a d hd _ => hd.adminOnly hd.stageBegin
  case stageWindow p r | stageDrop p r | stagePort p r | stageParams p r =>
    exact h.toControl _ p r fun a d hd _ => hd.adminOnly (hd.editing _ fun hidle _ _ => hd.edited hidle _)
  case stageRead p r => exact h.toControl _ p r fun a d hd _ => hd.adminOnly hd.stageRead
  case stageAbandon p r =>
    exact h.toControl _ p r fun a d hd _ => hd.adminOnly (hd.editing _ fun hidle _ _ => hd.stageAbandon hidle)
  case commit p r =>
    exact h.toControl _ p r fun a d hd _ => hd.adminOnly (hd.editing _ fun hidle persist cfg => hd.commit hidle persist cfg)
  case transferTimeout p t => exact h.transferExpiry p t
  case lastDataFrameSent p t => exact h.deliveryDone p t
  case mlinkLinkUp => exact h.mlinkUp
  case mlinkLinkDown => exact h.mlinkDown
  case mlinkCheckFail => exact h.modMlink _ rfl
  case linkReady => exact h.linkReadyTaken
  case identifyReply capacity slots => exact h.identifyTaken capacity slots
  case mediaData i n b => exact h.mediaDataTaken i n.toNat b
  case complete i status => exact h.completeTaken i status
  case abandonAck i => exact h.abandonAckTaken i
  case responseTimerExpiry i => exact h.responseExpiry i
  case abandonTimerExpiry i => exact h.abandonExpiry i
  case attemptLimitExpiry => exact h.attemptExpiry
  case drainLimitExpiry => exact h.drainExpiry
  case holdExpiry id => exact h.expireHold id
  case unknownMediaFrameKind frame => exact h.protocolError
  case unknownRequestKind p tag kind =>
    cases tag with
    | none => exact h
    | some t => exact h.intake (r := ⟨t, none⟩) (fun _ => false) (take := fun _ c => c) fun _ _ _ => h
  case coldReset | rstnRelease | unknownKind => exact h

/-- Every step keeps the queues exact, from holds in range. -/
theorem step_keeps_exact {s t : State} (hstep : step s = .next t) (hholds : HoldTableInRange s)
    (h : Exact [] [] s.chip) : Exact [] [] t.chip := by
  rcases step_cases hstep with ⟨-, rfl⟩ | ⟨i, rest, -, ⟨-, rfl⟩ | ⟨-, -, rfl⟩ | ⟨-, -, -, rfl⟩ | ⟨-, rfl, -⟩⟩
  · unfold tick
    split
    · exact h.same (ledger_tickChip _)
    · exact h
  · refine coldChip_keeps (P := Exact [] []) (fun x n => ?_) s.chip
    exact (queuesExact_iff (s := State.reset) List.Pairwise.nil).1 resetSatisfiesTheInvariants.2.2.2.2.2.2.2.2.2.1
  · exact h.enterStart
  · exact h.action hholds.1 rest i
  · exact h

theorem step_keeps_queuesExact {s t : State} (hstep : step s = .next t) (hholds : HoldTableInRange s)
    (h : QueuesExact s) : QueuesExact t := by
  have hkept := step_keeps_exact hstep hholds
  obtain ⟨-, -, hids'⟩ := step_keeps_holdTableInRange hstep hholds
  obtain ⟨-, -, hids⟩ := hholds
  exact (queuesExact_iff hids').2 (hkept ((queuesExact_iff hids).1 h))

/-- Settles O10: the slot table by the kept shares of slots and counts, the queues by the ledger of the requests, the pages by
their counts. -/
theorem stepKeepsSlotTableAndQueuesExactAndLendsNoPageTwice :
    Obligations.StepKeepsSlotTableAndQueuesExactAndLendsNoPageTwice := by
  unfold Obligations.StepKeepsSlotTableAndQueuesExactAndLendsNoPageTwice
  intro s t hstep
  exact ⟨SlotTables.step_keeps_slotTableExact hstep, step_keeps_queuesExact hstep, step_keeps_pagesLentOnce hstep⟩

end Sys2Proof.Ledgers
end
